-- ==== Sys2Proof/Word.lean ====
section
/-! DEFINITION. The words of the KX3300 (spec 01): lanes, payloads, channel words, and a small keyed table used for
families of like things of which few differ from their reset value. -/
namespace Sys2Proof

/-- A lane is 32 bits (R14). -/
abbrev Lane := BitVec 32

/-- The payload of a word: 512 bits, lane `i` at bits 32i+31 : 32i (R18). -/
abbrev Payload := BitVec 512

/-- A byte. -/
abbrev Byte := BitVec 8

/-- Lane `i` of a payload (R18). -/
def Payload.lane (p : Payload) (i : Nat) : Lane := p.extractLsb' (32 * i) 32

/-- Byte `b` of a payload (R18). -/
def Payload.byte (p : Payload) (b : Nat) : Byte := p.extractLsb' (8 * b) 8

/-- The low `n` lanes given by `g`, the others zero. -/
def Payload.lanesBelow (g : Nat → Lane) : Nat → Payload
  | 0 => 0
  | n + 1 => Payload.lanesBelow g n ||| ((g n).setWidth 512 <<< (32 * n))

/-- The payload whose lane `i` is `g i`. -/
def Payload.ofLanes (g : Nat → Lane) : Payload := Payload.lanesBelow g 16

/-- The payload whose lanes are a list's, lane 0 first; lanes the list does not reach are zero. -/
def Payload.ofList (l : List Lane) : Payload := Payload.ofLanes (fun i => l.getD i 0)

/-- The same value in every lane. -/
def Payload.splat (x : Lane) : Payload := Payload.ofLanes (fun _ => x)

/-- A register: a payload with its PZ and TN bits (R22). -/
structure Reg where
  pay : Payload
  pz  : Bool
  tn  : Bool
  deriving DecidableEq, Repr

/-- The register of all zeros. -/
def Reg.zero : Reg := { pay := 0, pz := false, tn := false }

/-- A register of a plain payload. -/
def Reg.ofPay (p : Payload) : Reg := { pay := p, pz := false, tn := false }

/-- A word on a channel: payload and the four meta bits (R18). -/
structure CWord where
  pay : Payload
  lr  : Bool
  ls  : Bool
  pz  : Bool
  tn  : Bool
  deriving DecidableEq, Repr

/-- The all-zero data word (R72). -/
def CWord.zero : CWord := { pay := 0, lr := false, ls := false, pz := false, tn := false }

/-- A control word has LR:LS = 01 (R19). -/
def CWord.isCtl (w : CWord) : Bool := !w.lr && w.ls

/-- A data word is any other (R19). -/
def CWord.isData (w : CWord) : Bool := !w.isCtl

/-- The kind code of a control word (R20). -/
def CWord.kind (w : CWord) : Lane := w.pay.lane 0

/-- The argument of a control word (R20). -/
def CWord.arg (w : CWord) : Lane := w.pay.lane 1

/-- A control word of a kind and an argument; lanes 2 to 15 zero, PZ and TN never set (R20). -/
def CWord.ctl (kind arg : Lane) : CWord :=
  { pay := Payload.ofList [kind, arg], lr := false, ls := true, pz := false, tn := false }

/-- A word as 516 bits (R18). -/
def CWord.bits (w : CWord) : BitVec 516 :=
  BitVec.ofBool w.lr ++ BitVec.ofBool w.ls ++ BitVec.ofBool w.pz ++ BitVec.ofBool w.tn ++ w.pay

/-- A word read from 516 bits (R18). -/
def CWord.ofBits (b : BitVec 516) : CWord :=
  { pay := b.extractLsb' 0 512, lr := b.getLsbD 515, ls := b.getLsbD 514, pz := b.getLsbD 513, tn := b.getLsbD 512 }

/-- A lane mask m1-m3 with its PZ and TN (R86). -/
structure Mask where
  bits : BitVec 16
  pz   : Bool
  tn   : Bool
  deriving DecidableEq, Repr

/-- m1-m3 as an installation leaves them (R64, R86). -/
def Mask.installed : Mask := { bits := 0xFFFF, pz := false, tn := false }

/-- A scale register x0-x7 (R33) with its PZ and TN (R119). -/
structure Scale where
  ts : BitVec 16
  pz : Bool
  tn : Bool
  deriving DecidableEq, Repr

/-- x0-x7 where a configuration gives no value: 1.0 (R33). -/
def Scale.installed : Scale := { ts := 0x3F80, pz := false, tn := false }

/-- A table of values by number; a number that is not listed holds a default the reader names. -/
abbrev Tab (α : Type) := List (Nat × α)

/-- The value a table holds at `k`, `d` where none is listed. -/
def Tab.get {α : Type} (d : α) (t : Tab α) (k : Nat) : α :=
  match t with
  | [] => d
  | (i, v) :: r => if i = k then v else Tab.get d r k

/-- The listed value at `k`, if there is one. -/
def Tab.find {α : Type} (t : Tab α) (k : Nat) : Option α :=
  match t with
  | [] => none
  | (i, v) :: r => if i = k then some v else Tab.find r k

/-- The table with `v` at `k`; keys stay in rising order. -/
def Tab.set {α : Type} (t : Tab α) (k : Nat) (v : α) : Tab α :=
  match t with
  | [] => [(k, v)]
  | (i, w) :: r => if i = k then (k, v) :: r else if k < i then (k, v) :: (i, w) :: r else (i, w) :: Tab.set r k v

/-- The table without an entry at `k`. -/
def Tab.del {α : Type} (t : Tab α) (k : Nat) : Tab α := t.filter (fun p => p.1 != k)

/-- A list with the element at `i` replaced. -/
def listSet {α : Type} (l : List α) (i : Nat) (v : α) : List α := l.set i v

end Sys2Proof
end

