-- ==== Sys2Proof/Syntax.lean ====
section
/-! DEFINITION. The instructions: the operations of the internal word (spec 02) and the device's own steps (spec 95),
one constructor per row of the opcode table. -/
namespace Sys2Proof

/-- The fields of the internal word besides `op` (R43). Every field is kept as it stands: expansion checks none of them,
and an instruction reads only those its description uses (R44, R51). -/
structure Fields where
  var : BitVec 4
  ty  : BitVec 4
  d   : BitVec 10
  a   : BitVec 10
  b   : BitVec 10
  c   : BitVec 10
  wa  : BitVec 4
  wb  : BitVec 4
  wd  : BitVec 4
  ln  : BitVec 2
  pm  : BitVec 2
  imm : BitVec 24
  deriving DecidableEq, Repr

/-- The values expansion gives to fields a form does not carry (R43). -/
def Fields.initial : Fields :=
  { var := 0, ty := 0, d := 0x0FF, a := 0x0FF, b := 0x0FF, c := 0x0FF, wa := 0, wb := 0, wd := 0, ln := 0, pm := 0, imm := 0 }

/-- Who executes a step: an installed element by its place in the list of elements, or a firmware core by `coreid`. -/
inductive UnitId where
  | el (n : Nat)
  | fc (n : Nat)
  deriving DecidableEq, Repr

/-- An end of a channel: a channel of an element, or a gate of a region. -/
inductive ChanEnd where
  | el (u ch : Nat)
  | gate (rgn g : Nat)
  deriving DecidableEq, Repr

/-- The rows of the opcode table. An operation carries the fields of its internal word. A row that is a step of the
device itself carries what its rule leaves to its surroundings: which unit, which data from outside. -/
inductive Instr where
  | nop (f : Fields)  -- R90
  | endFiring (f : Fields)  -- R91
  | take (f : Fields)  -- R92
  | give (f : Fields)  -- R94
  | wait (f : Fields)  -- R95
  | sbt (f : Fields)  -- R96
  | ctlw (f : Fields)  -- R97
  | cfwd (f : Fields)  -- R98
  | cpeek (f : Fields)  -- R99
  | mskop (f : Fields)  -- R100
  | mskmv (f : Fields)  -- R101
  | bra (f : Fields)  -- R102
  | loop (f : Fields)  -- R103
  | brk (f : Fields)  -- R104
  | add (f : Fields)  -- R106
  | sub (f : Fields)  -- R106
  | mul (f : Fields)  -- R106
  | mulh (f : Fields)  -- R106
  | mad (f : Fields)  -- R106
  | div (f : Fields)  -- R107
  | rem (f : Fields)  -- R107
  | abs (f : Fields)  -- R106
  | neg (f : Fields)  -- R106
  | min (f : Fields)  -- R106
  | max (f : Fields)  -- R106
  | and (f : Fields)  -- R106
  | or (f : Fields)  -- R106
  | xor (f : Fields)  -- R106
  | andn (f : Fields)  -- R106
  | shl (f : Fields)  -- R108
  | shr (f : Fields)  -- R108
  | sar (f : Fields)  -- R108
  | rot (f : Fields)  -- R108
  | clz (f : Fields)  -- R108
  | popc (f : Fields)  -- R108
  | bfx (f : Fields)  -- R109
  | bfi (f : Fields)  -- R109
  | cmp (f : Fields)  -- R110
  | sel (f : Fields)  -- R111
  | mov (f : Fields)  -- R111
  | movi (f : Fields)  -- R112
  | pack (f : Fields)  -- R113
  | unpk (f : Fields)  -- R114
  | shuf (f : Fields)  -- R115
  | bcst (f : Fields)  -- R115
  | lred (f : Fields)  -- R116
  | fadd (f : Fields)  -- R122
  | fsub (f : Fields)  -- R122
  | fmul (f : Fields)  -- R122
  | fma (f : Fields)  -- R122
  | fmin (f : Fields)  -- R123
  | fmax (f : Fields)  -- R123
  | fabs (f : Fields)  -- R124
  | fneg (f : Fields)  -- R124
  | fcmp (f : Fields)  -- R125
  | frcp (f : Fields)  -- R126
  | frsq (f : Fields)  -- R126
  | fex2 (f : Fields)  -- R126
  | flg2 (f : Fields)  -- R126
  | fcls (f : Fields)  -- R127
  | fsts (f : Fields)  -- R128
  | frnd (f : Fields)  -- R129
  | cvt (f : Fields)  -- R131
  | dq (f : Fields)  -- R132
  | qnt (f : Fields)  -- R133
  | scl (f : Fields)  -- R134
  | lscan (f : Fields)  -- R135
  | dot (f : Fields)  -- R137
  | mma (f : Fields)  -- R139
  | mmag (f : Fields)  -- R141
  | bmm (f : Fields)  -- R142
  | tpq (f : Fields)  -- R144
  | tpqr (f : Fields)  -- R145
  | accrd (f : Fields)  -- R146
  | accz (f : Fields)  -- R146
  | wsel (f : Fields)  -- R140
  | rld (f : Fields)  -- R149
  | rst (f : Fields)  -- R149
  | sld (f : Fields)  -- R152
  | sst (f : Fields)  -- R152
  | sldv (f : Fields)  -- R152
  | sstv (f : Fields)  -- R152
  | satm (f : Fields)  -- R153
  | nest (f : Fields)  -- R162
  | nstr (f : Fields)  -- R163
  | gen (f : Fields)  -- R164
  | tld (f : Fields)  -- R167
  | tst (f : Fields)  -- R169
  | tlda (f : Fields)  -- R173
  | tsts (f : Fields)  -- R171
  | pref (f : Fields)  -- R170
  | hbind (f : Fields)  -- R165
  | pgsz (f : Fields)  -- R166
  | atom (f : Fields)  -- R175
  | cas (f : Fields)  -- R176
  | phase (f : Fields)  -- R179
  | fence (f : Fields)  -- R180
  | rcfnc (f : Fields)  -- R181
  | ldaq (f : Fields)  -- R177
  | strl (f : Fields)  -- R177
  | qpsh (f : Fields)  -- R182
  | qpop (f : Fields)  -- R182
  | qwt (f : Fields)  -- R182
  | cpy (f : Fields)  -- R187
  | gth (f : Fields)  -- R188
  | coll (f : Fields)  -- R189
  | cwt (f : Fields)  -- R190
  | ctst (f : Fields)  -- R190
  | clkr (f : Fields)  -- R194
  | stmp (f : Fields)  -- R195
  | cmtw (f : Fields)  -- R196
  | tick (f : Fields)  -- R197
  | ivlm (f : Fields)  -- R198
  | tacf (f : Fields)  -- R204
  | tafd (f : Fields)  -- R205
  | tamk (f : Fields)  -- R206
  | talv (f : Fields)  -- R207
  | tach (f : Fields)  -- R208
  | tntt (f : Fields)  -- R209
  | tntc (f : Fields)  -- R210
  | pzt (f : Fields)  -- R211
  | snap (f : Fields)  -- R212
  | conf (f : Fields)  -- R213
  | confr (f : Fields)  -- R213
  | trap (f : Fields)  -- R214
  | eret (f : Fields)  -- R218
  | sysr (f : Fields)  -- R216
  | sysw (f : Fields)  -- R216
  | icacheFlush (f : Fields)  -- R53
  | heartbeatWrite (f : Fields)  -- R408
  | idle (f : Fields)  -- R219
  | evrd (f : Fields)  -- R219
  | ldp (f : Fields)  -- R220
  | stp (f : Fields)  -- R220
  | bkpt (f : Fields)  -- R221
  | halt (f : Fields)  -- R222
  | fjmp (f : Fields)  -- R223
  | fcall (f : Fields)  -- R223
  | fret (f : Fields)  -- R223
  | xtrap (f : Fields)  -- R224
  | firingStart (u : Nat)  -- R229
  | channelWordArrive (u ch : Nat)  -- R69
  | creditReturn (src : ChanEnd)  -- R249
  | drainAction (u : Nat)  -- R235
  | switchAction (u : Nat)  -- R236
  | armAction (u : Nat)  -- R251
  | loadResponse (u p : Nat)  -- R167
  | storeAccept (a : UnitId)  -- R179
  | stampedStoreArrive (u : Nat)  -- R172
  | stampedStoreDry (die : Nat)  -- R172
  | tldaHomeServe (u p : Nat)  -- R173
  | engineOpComplete (a : UnitId) (co : Nat)  -- R185
  | engineOpStop (a : UnitId) (co : Nat)  -- R160
  | engineOpFail (a : UnitId) (co : Nat)  -- R188
  | raResultReady (u : Nat)  -- R205
  | recqBroadcast (u m : Nat)  -- R280
  | recqDeal (u : Nat)  -- R281
  | recqPublishPair (u : Nat)  -- R282
  | recqEoi (u : Nat)  -- R282
  | recqDrainFeed (u : Nat)  -- R416
  | recqDrainOut (u : Nat)  -- R416
  | seedAdmit (rgn g : Nat)  -- R341
  | outputGateWord (rgn g : Nat)  -- R343
  | bridgeFlitReceive (die br : Nat) (flit : BitVec 640)  -- R250
  | linkRetrain (die br : Nat)  -- R397
  | beaconSend (die : Nat)  -- R397
  | beaconReceive (die br : Nat)  -- R397
  | beaconHoldTimeout (die : Nat)  -- R199
  | ptpSync (now unc : Nat)  -- R396
  | ptpLockTimeout  -- R396
  | firingWatchdog (u : Nat)  -- R384
  | launchWatchdog (rgn : Nat)  -- R412
  | snapMarkerArrive (dst : ChanEnd)  -- R364
  | snapshotRecord (u : Nat)  -- R365
  | restartableStopTimeout (u : Nat)  -- R370
  | doorbellWrite (q : Nat) (data : BitVec 64)  -- R333
  | queueMap (q addr : Nat)  -- R334
  | queueUnmap (q : Nat)  -- R332
  | packetLaunch (q : Nat)  -- R338
  | packetRegister (q : Nat)  -- R338
  | packetUnregister (q : Nat)  -- R338
  | packetReleaseKept (q : Nat)  -- R335
  | regionGrant  -- R340
  | configurationCompleteWave (rgn : Nat)  -- R341
  | gatesOpen (rgn : Nat)  -- R342
  | launchComplete (rgn : Nat)  -- R344
  | hostMemoryWrite (link addr : Nat) (bytes : List Byte)  -- R268
  | hostMemoryRead (link addr size : Nat)  -- R349
  | migrationRequest (ctx addr : Nat)  -- R360
  | priResponse (src tile : Nat) (addr : Nat) (grant : Bool)  -- R353
  | regionResume (rgn : Nat)  -- R389
  | regionHaltCmd (rgn : Nat)  -- R389
  | regionReset (rgn : Nat)  -- R390
  | resetStepTimeout (rgn : Nat)  -- R390
  | regionBlot (rgn : Nat)  -- R390
  | blotComplete (rgn : Nat)  -- R390
  | regionRelease (rgn : Nat)  -- R390
  | tileInvalidate (die : Nat)  -- R358
  | tileInvalidateDone (die : Nat)  -- R358
  | registerWrite (addr size : Nat) (data : BitVec 64)  -- R379
  | heartbeatMissed (core : Nat)  -- R408
  | lockstepMismatch  -- R407
  | firmwareUpdateRequest (addr len : Nat)  -- R409
  | firmwareCommit  -- R409
  | spdmGetMeasurements (link : Nat)  -- R409
  | spdmChallenge (link : Nat) (nonce : BitVec 256)  -- R409
  | undervoltWindow (die folio errs : Nat)  -- R402
  | l2WayGating (die folio way : Nat) (fewerWays : Bool) (missesPerMi : Nat)  -- R405
  | moduleReset  -- R396
  | intervalDriftTooWide (die : Nat)  -- R193
  | rdcSectorEviction (die i : Nat)  -- R258
  | regionEviction (rgn : Nat)  -- R367
  | boostLeaseGrant (rgn lid lvl time : Nat)  -- R404
  | boostLeaseExpiry (ctx : Nat)  -- R373
  | hostLinkDown (link : Nat) (down : Bool)  -- R396
  deriving DecidableEq, Repr

end Sys2Proof
end

