-- ==== Sys2Proof/WellFormed.lean ====
section
/-! DEFINITION. The checks on a term of Instr that its type does not make: which number of `sysw` a constructor stands
for (R216), and the ranges of the numbers that a step of the device names. -/
namespace Sys2Proof

/-- A firmware core has `coreid` 0 or 2 to 15 (R216). -/
def UnitId.wf : UnitId → Bool
  | .el _ => true
  | .fc n => decide (n < 16 ∧ n ≠ 1)

/-- An element has 32 input and 16 output channels (R62); region ids run from 1 to 65,535 (R320). -/
def ChanEnd.wf : ChanEnd → Bool
  | .el _ ch => decide (ch < 32)
  | .gate rgn _ => decide (0 < rgn ∧ rgn < 65536)

/-- Every bit pattern of an operation's fields is well formed, because expansion checks none of them (R51); the three
rows of op 0xE3 divide its numbers among them. A step of the device names units the module has (R1, R2, R6, R332). -/
def Instr.wf : Instr → Bool
  | .nop _ => true
  | .endFiring _ => true
  | .take _ => true
  | .give _ => true
  | .wait _ => true
  | .sbt _ => true
  | .ctlw _ => true
  | .cfwd _ => true
  | .cpeek _ => true
  | .mskop _ => true
  | .mskmv _ => true
  | .bra _ => true
  | .loop _ => true
  | .brk _ => true
  | .add _ => true
  | .sub _ => true
  | .mul _ => true
  | .mulh _ => true
  | .mad _ => true
  | .div _ => true
  | .rem _ => true
  | .abs _ => true
  | .neg _ => true
  | .min _ => true
  | .max _ => true
  | .and _ => true
  | .or _ => true
  | .xor _ => true
  | .andn _ => true
  | .shl _ => true
  | .shr _ => true
  | .sar _ => true
  | .rot _ => true
  | .clz _ => true
  | .popc _ => true
  | .bfx _ => true
  | .bfi _ => true
  | .cmp _ => true
  | .sel _ => true
  | .mov _ => true
  | .movi _ => true
  | .pack _ => true
  | .unpk _ => true
  | .shuf _ => true
  | .bcst _ => true
  | .lred _ => true
  | .fadd _ => true
  | .fsub _ => true
  | .fmul _ => true
  | .fma _ => true
  | .fmin _ => true
  | .fmax _ => true
  | .fabs _ => true
  | .fneg _ => true
  | .fcmp _ => true
  | .frcp _ => true
  | .frsq _ => true
  | .fex2 _ => true
  | .flg2 _ => true
  | .fcls _ => true
  | .fsts _ => true
  | .frnd _ => true
  | .cvt _ => true
  | .dq _ => true
  | .qnt _ => true
  | .scl _ => true
  | .lscan _ => true
  | .dot _ => true
  | .mma _ => true
  | .mmag _ => true
  | .bmm _ => true
  | .tpq _ => true
  | .tpqr _ => true
  | .accrd _ => true
  | .accz _ => true
  | .wsel _ => true
  | .rld _ => true
  | .rst _ => true
  | .sld _ => true
  | .sst _ => true
  | .sldv _ => true
  | .sstv _ => true
  | .satm _ => true
  | .nest _ => true
  | .nstr _ => true
  | .gen _ => true
  | .tld _ => true
  | .tst _ => true
  | .tlda _ => true
  | .tsts _ => true
  | .pref _ => true
  | .hbind _ => true
  | .pgsz _ => true
  | .atom _ => true
  | .cas _ => true
  | .phase _ => true
  | .fence _ => true
  | .rcfnc _ => true
  | .ldaq _ => true
  | .strl _ => true
  | .qpsh _ => true
  | .qpop _ => true
  | .qwt _ => true
  | .cpy _ => true
  | .gth _ => true
  | .coll _ => true
  | .cwt _ => true
  | .ctst _ => true
  | .clkr _ => true
  | .stmp _ => true
  | .cmtw _ => true
  | .tick _ => true
  | .ivlm _ => true
  | .tacf _ => true
  | .tafd _ => true
  | .tamk _ => true
  | .talv _ => true
  | .tach _ => true
  | .tntt _ => true
  | .tntc _ => true
  | .pzt _ => true
  | .snap _ => true
  | .conf _ => true
  | .confr _ => true
  | .trap _ => true
  | .eret _ => true
  | .sysr _ => true
  | .sysw f => f.imm.extractLsb' 0 12 != 0x020 && f.imm.extractLsb' 0 12 != 0x021
  | .icacheFlush f => f.imm.extractLsb' 0 12 == 0x020
  | .heartbeatWrite f => f.imm.extractLsb' 0 12 == 0x021
  | .idle _ => true
  | .evrd _ => true
  | .ldp _ => true
  | .stp _ => true
  | .bkpt _ => true
  | .halt _ => true
  | .fjmp _ => true
  | .fcall _ => true
  | .fret _ => true
  | .xtrap _ => true
  | .firingStart _ => true
  | .channelWordArrive _ ch => decide (ch < 32)
  | .creditReturn src => src.wf
  | .drainAction _ => true
  | .switchAction _ => true
  | .armAction _ => true
  | .loadResponse _ p => decide (p < 4)
  | .storeAccept a => a.wf
  | .stampedStoreArrive _ => true
  | .stampedStoreDry die => decide (die < 32)
  | .tldaHomeServe _ p => decide (p < 4)
  | .engineOpComplete a co => a.wf && decide (co < 32)
  | .engineOpStop a co => a.wf && decide (co < 32)
  | .engineOpFail a co => a.wf && decide (co < 32)
  | .raResultReady _ => true
  | .recqBroadcast _ m => decide (m < 8)
  | .recqDeal _ => true
  | .recqPublishPair _ => true
  | .recqEoi _ => true
  | .recqDrainFeed _ => true
  | .recqDrainOut _ => true
  | .seedAdmit rgn _ => decide (0 < rgn ∧ rgn < 65536)
  | .outputGateWord rgn _ => decide (0 < rgn ∧ rgn < 65536)
  | .bridgeFlitReceive die br _ => decide (die < 32) && decide (br < 4)
  | .linkRetrain die br => decide (die < 32) && decide (br < 4)
  | .beaconSend die => decide (die ≤ 32)
  | .beaconReceive die br => decide (die < 32) && decide (br < 4)
  | .beaconHoldTimeout die => decide (die ≤ 32)
  | .ptpSync _ _ => true
  | .ptpLockTimeout => true
  | .firingWatchdog _ => true
  | .launchWatchdog rgn => decide (0 < rgn ∧ rgn < 65536)
  | .snapMarkerArrive dst => dst.wf
  | .snapshotRecord _ => true
  | .restartableStopTimeout _ => true
  | .doorbellWrite q _ => decide (q < 4096)
  | .queueMap q _ => decide (q < 4096)
  | .queueUnmap q => decide (q < 4096)
  | .packetLaunch q => decide (q < 4096)
  | .packetRegister q => decide (q < 4096)
  | .packetUnregister q => decide (q < 4096)
  | .packetReleaseKept q => decide (q < 4096)
  | .regionGrant => true
  | .configurationCompleteWave rgn => decide (0 < rgn ∧ rgn < 65536)
  | .gatesOpen rgn => decide (0 < rgn ∧ rgn < 65536)
  | .launchComplete rgn => decide (0 < rgn ∧ rgn < 65536)
  | .hostMemoryWrite link _ _ => decide (link < 2)
  | .hostMemoryRead link _ _ => decide (link < 2)
  | .migrationRequest ctx _ => decide (ctx < 4096)
  | .priResponse src _ _ _ => decide (src < 8192)
  | .regionResume rgn => decide (0 < rgn ∧ rgn < 65536)
  | .regionHaltCmd rgn => decide (0 < rgn ∧ rgn < 65536)
  | .regionReset rgn => decide (0 < rgn ∧ rgn < 65536)
  | .resetStepTimeout rgn => decide (0 < rgn ∧ rgn < 65536)
  | .regionBlot rgn => decide (0 < rgn ∧ rgn < 65536)
  | .blotComplete rgn => decide (0 < rgn ∧ rgn < 65536)
  | .regionRelease rgn => decide (0 < rgn ∧ rgn < 65536)
  | .tileInvalidate die => decide (die < 32)
  | .tileInvalidateDone die => decide (die < 32)
  | .registerWrite _ _ _ => true
  | .heartbeatMissed core => decide (core < 16 ∧ core ≠ 1)
  | .lockstepMismatch => true
  | .firmwareUpdateRequest _ _ => true
  | .firmwareCommit => true
  | .spdmGetMeasurements link => decide (link < 2)
  | .spdmChallenge link _ => decide (link < 2)
  | .undervoltWindow die folio _ => decide (die < 32) && decide (folio < 144)
  | .l2WayGating die folio way _ _ => decide (die < 32) && decide (folio < 144) && decide (way < 16)
  | .moduleReset => true
  | .intervalDriftTooWide die => decide (die ≤ 32)
  | .rdcSectorEviction die _ => decide (die < 32)
  | .regionEviction rgn => decide (0 < rgn ∧ rgn < 65536)
  | .boostLeaseGrant rgn _ lvl _ => decide (0 < rgn ∧ rgn < 65536) && decide (20 < lvl ∧ lvl ≤ 60)
  | .boostLeaseExpiry ctx => decide (ctx < 4096)
  | .hostLinkDown link _ => decide (link < 2)

end Sys2Proof
end

