-- ==== Sys2Proof/Decode.lean ====
section
/-! DEFINITION. The internal word, the byte stream and its expansion (spec 02, R43-R54, R59, R60), and after them the
encoder. -/
namespace Sys2Proof

/-- The fields of an internal word (R43). -/
def fieldsOf (w : BitVec 96) : Fields :=
  { var := w.extractLsb' 84 4, ty := w.extractLsb' 80 4, d := w.extractLsb' 70 10, a := w.extractLsb' 60 10,
    b := w.extractLsb' 50 10, c := w.extractLsb' 40 10, wa := w.extractLsb' 36 4, wb := w.extractLsb' 32 4,
    wd := w.extractLsb' 28 4, ln := w.extractLsb' 26 2, pm := w.extractLsb' 24 2, imm := w.extractLsb' 0 24 }

/-- The internal word of an op and its fields (R43). -/
def wordOf (op : BitVec 8) (f : Fields) : BitVec 96 :=
  op ++ f.var ++ f.ty ++ f.d ++ f.a ++ f.b ++ f.c ++ f.wa ++ f.wb ++ f.wd ++ f.ln ++ f.pm ++ f.imm

/-- The opcode map (R60). A write of a system register that is write only is told apart by its number (R216). -/
def instrOf (op : BitVec 8) (f : Fields) : Option Instr :=
  match op with
  | 0x00 => some (.nop f)
  | 0x01 => some (.endFiring f)
  | 0x02 => some (.take f)
  | 0x03 => some (.give f)
  | 0x04 => some (.wait f)
  | 0x05 => some (.sbt f)
  | 0x06 => some (.ctlw f)
  | 0x07 => some (.cfwd f)
  | 0x08 => some (.cpeek f)
  | 0x0A => some (.mskop f)
  | 0x0B => some (.mskmv f)
  | 0x10 => some (.bra f)
  | 0x11 => some (.loop f)
  | 0x12 => some (.brk f)
  | 0x20 => some (.add f)
  | 0x21 => some (.sub f)
  | 0x22 => some (.mul f)
  | 0x23 => some (.mulh f)
  | 0x24 => some (.mad f)
  | 0x25 => some (.div f)
  | 0x26 => some (.rem f)
  | 0x27 => some (.abs f)
  | 0x28 => some (.neg f)
  | 0x29 => some (.min f)
  | 0x2A => some (.max f)
  | 0x2B => some (.and f)
  | 0x2C => some (.or f)
  | 0x2D => some (.xor f)
  | 0x2E => some (.andn f)
  | 0x2F => some (.shl f)
  | 0x30 => some (.shr f)
  | 0x31 => some (.sar f)
  | 0x32 => some (.rot f)
  | 0x33 => some (.clz f)
  | 0x34 => some (.popc f)
  | 0x35 => some (.bfx f)
  | 0x36 => some (.bfi f)
  | 0x37 => some (.cmp f)
  | 0x38 => some (.sel f)
  | 0x39 => some (.mov f)
  | 0x3A => some (.movi f)
  | 0x3B => some (.pack f)
  | 0x3C => some (.unpk f)
  | 0x3D => some (.shuf f)
  | 0x3E => some (.bcst f)
  | 0x3F => some (.lred f)
  | 0x40 => some (.fadd f)
  | 0x41 => some (.fsub f)
  | 0x42 => some (.fmul f)
  | 0x43 => some (.fma f)
  | 0x44 => some (.fmin f)
  | 0x45 => some (.fmax f)
  | 0x46 => some (.fabs f)
  | 0x47 => some (.fneg f)
  | 0x48 => some (.fcmp f)
  | 0x49 => some (.frcp f)
  | 0x4A => some (.frsq f)
  | 0x4B => some (.fex2 f)
  | 0x4C => some (.flg2 f)
  | 0x4D => some (.fcls f)
  | 0x4E => some (.fsts f)
  | 0x4F => some (.frnd f)
  | 0x50 => some (.cvt f)
  | 0x51 => some (.dq f)
  | 0x52 => some (.qnt f)
  | 0x53 => some (.scl f)
  | 0x54 => some (.lscan f)
  | 0x60 => some (.dot f)
  | 0x61 => some (.mma f)
  | 0x62 => some (.mmag f)
  | 0x63 => some (.bmm f)
  | 0x64 => some (.tpq f)
  | 0x65 => some (.tpqr f)
  | 0x66 => some (.accrd f)
  | 0x67 => some (.accz f)
  | 0x68 => some (.wsel f)
  | 0x70 => some (.rld f)
  | 0x71 => some (.rst f)
  | 0x72 => some (.sld f)
  | 0x73 => some (.sst f)
  | 0x74 => some (.sldv f)
  | 0x75 => some (.sstv f)
  | 0x76 => some (.satm f)
  | 0x80 => some (.nest f)
  | 0x81 => some (.nstr f)
  | 0x82 => some (.gen f)
  | 0x83 => some (.tld f)
  | 0x84 => some (.tst f)
  | 0x85 => some (.tlda f)
  | 0x86 => some (.tsts f)
  | 0x87 => some (.pref f)
  | 0x88 => some (.hbind f)
  | 0x89 => some (.pgsz f)
  | 0x90 => some (.atom f)
  | 0x91 => some (.cas f)
  | 0x92 => some (.phase f)
  | 0x93 => some (.fence f)
  | 0x94 => some (.rcfnc f)
  | 0x95 => some (.ldaq f)
  | 0x96 => some (.strl f)
  | 0xA0 => some (.qpsh f)
  | 0xA1 => some (.qpop f)
  | 0xA2 => some (.qwt f)
  | 0xA3 => some (.cpy f)
  | 0xA4 => some (.gth f)
  | 0xA5 => some (.coll f)
  | 0xA6 => some (.cwt f)
  | 0xA7 => some (.ctst f)
  | 0xB0 => some (.clkr f)
  | 0xB1 => some (.stmp f)
  | 0xB2 => some (.cmtw f)
  | 0xB3 => some (.tick f)
  | 0xB4 => some (.ivlm f)
  | 0xC0 => some (.tacf f)
  | 0xC1 => some (.tafd f)
  | 0xC2 => some (.tamk f)
  | 0xC3 => some (.talv f)
  | 0xC4 => some (.tach f)
  | 0xD0 => some (.tntt f)
  | 0xD1 => some (.tntc f)
  | 0xD2 => some (.pzt f)
  | 0xD3 => some (.snap f)
  | 0xD4 => some (.conf f)
  | 0xD5 => some (.confr f)
  | 0xE0 => some (.trap f)
  | 0xE1 => some (.eret f)
  | 0xE2 => some (.sysr f)
  | 0xE3 => some (if f.imm.extractLsb' 0 12 = 0x020 then .icacheFlush f else if f.imm.extractLsb' 0 12 = 0x021 then .heartbeatWrite f else .sysw f)
  | 0xE4 => some (.idle f)
  | 0xE5 => some (.evrd f)
  | 0xE6 => some (.ldp f)
  | 0xE7 => some (.stp f)
  | 0xE8 => some (.bkpt f)
  | 0xE9 => some (.halt f)
  | 0xEA => some (.fjmp f)
  | 0xEB => some (.fcall f)
  | 0xEC => some (.fret f)
  | 0xFF => some (.xtrap f)
  | _ => none

/-- The instruction an internal word stands for; none where `op` is unassigned (R60). -/
def decodeWord (w : BitVec 96) : Option Instr := instrOf (w.extractLsb' 88 8) (fieldsOf w)

/-- Whether an op may come from a byte stream: assigned, and not 0xFF (R51, R60). -/
def opAssigned (op : BitVec 8) : Bool := op != 0xFF && (instrOf op Fields.initial).isSome

/-- A form of the byte stream (R50). -/
inductive Form where
  | pad | short | tri | waited | imm | quad | full
  deriving DecidableEq, Repr

/-- The form of a lead byte; none where the lead byte or the form is reserved (R50, R51). -/
def formOf (lead : Byte) : Option Form :=
  if lead = 0 then some .pad
  else match (lead.extractLsb' 4 4).toNat with
    | 1 => some .short
    | 2 => some .tri
    | 3 => some .waited
    | 4 => some .imm
    | 5 => some .quad
    | 15 => some .full
    | _ => none

/-- The bytes of a form (R50). -/
def Form.length : Form → Nat
  | .pad => 1
  | .short => 4
  | .tri => 6
  | .waited => 8
  | .imm => 7
  | .quad => 9
  | .full => 13

/-- Bytes as one number, the first byte most significant. -/
def bigEndian (l : List Byte) : Nat := l.foldl (fun n b => n * 256 + b.toNat) 0

/-- The internal word of a form's bytes, lead byte included (R43, R49, R50). -/
def unpack (fm : Form) (bytes : List Byte) : BitVec 96 :=
  let v := bigEndian bytes
  let fld (lo n : Nat) : BitVec n := BitVec.ofNat n (v / 2 ^ lo)
  let i := Fields.initial
  match fm with
  | .pad => 0
  | .short => wordOf (fld 20 8) { i with d := fld 10 10, a := fld 0 10 }
  | .tri => wordOf (fld 36 8) { i with var := fld 32 4, d := fld 22 10, a := fld 12 10, b := fld 2 10, ln := fld 0 2 }
  | .waited => wordOf (fld 52 8) { i with var := fld 48 4, ty := fld 44 4, d := fld 34 10, a := fld 24 10, b := fld 14 10,
                                          wa := fld 10 4, wb := fld 6 4, wd := fld 2 4, ln := fld 0 2 }
  | .imm => wordOf (fld 44 8) { i with var := fld 40 4, ty := fld 36 4, d := fld 26 10, imm := fld 2 24, pm := fld 0 2 }
  | .quad => wordOf (fld 60 8) { i with var := fld 56 4, ty := fld 52 4, d := fld 42 10, a := fld 32 10, b := fld 22 10,
                                        c := fld 12 10, wa := fld 8 4, wd := fld 4 4, pm := fld 2 2, ln := fld 0 2 }
  | .full => fld 0 96

/-- The xtrap word of an expansion fault (R52). -/
def xtrapWord (cause off : Nat) (dv : BitVec 10) : BitVec 96 :=
  wordOf 0xFF { Fields.initial with var := BitVec.ofNat 4 cause, d := dv, imm := BitVec.ofNat 24 off }

/-- One step of expansion at offset `off`: the word, if one is produced, and the bytes consumed (R51). -/
def expandOne (off : Nat) (bytes : List Byte) : Option (BitVec 96) × Nat :=
  match bytes with
  | [] => (none, 1)
  | lead :: _ =>
    match formOf lead with
    | none => (some (xtrapWord 1 off 0x3FF), 1)
    | some .pad => (none, 1)
    | some fm =>
      if bytes.length < fm.length then (some (xtrapWord 4 off 0x3FF), bytes.length)
      else
        let w := unpack fm (bytes.take fm.length)
        let op := w.extractLsb' 88 8
        if fm = .full ∧ lead.extractLsb' 0 4 ≠ 0 then (some (xtrapWord 3 off (op.setWidth 10)), fm.length)
        else if !opAssigned op then (some (xtrapWord 2 off (op.setWidth 10)), fm.length)
        else (some w, fm.length)

/-- Expansion with at most `fuel` steps: each word with the offset of its lead byte and its length (R51). -/
def expandFrom : Nat → Nat → List Byte → List (Nat × Nat × BitVec 96)
  | 0, _, _ => []
  | fuel + 1, off, bytes =>
    match bytes with
    | [] => []
    | _ =>
      match expandOne off bytes with
      | (none, n) => expandFrom fuel (off + n) (bytes.drop n)
      | (some w, n) => (off, n, w) :: expandFrom fuel (off + n) (bytes.drop n)

/-- The expanded words of a code segment with their lead-byte offsets and lengths (R51, R53). -/
def expandAt (bytes : List Byte) : List (Nat × Nat × BitVec 96) := expandFrom bytes.length 0 bytes

/-- The expanded words of a body (R51, R54). -/
def expand (bytes : List Byte) : List (BitVec 96) := (expandAt bytes).map (fun x => x.2.2)

/-- The first instruction a byte stream gives, and its length in bytes. -/
def decodeBytes (bytes : List Byte) : Option (Instr × Nat) :=
  match bytes with
  | [] => none
  | _ =>
    match expandOne 0 bytes with
    | (some w, n) => (decodeWord w).map (fun i => (i, n))
    | (none, _) => none

/-- `n` bytes of a number, the least significant first. -/
def littleBytes : Nat → Nat → List Byte
  | 0, _ => []
  | n + 1, w => BitVec.ofNat 8 w :: littleBytes n (w / 256)

/-- The instruction read from an instruction whose bits are `w`: its bytes lie in the byte stream with the first byte in
bits 7:0, and bits above `nbits` are 0, up to the longest form of 13 bytes (R50). -/
def decodeTableWord (nbits w : Nat) : Option Instr :=
  (decodeBytes (littleBytes 13 (w % 2 ^ nbits))).map (fun x => x.1)

/-- The op and fields of an operation; none for a step of the device, which has no encoding (R60, R216). -/
def opFields : Instr → Option (BitVec 8 × Fields)
  | .nop f => some (0x00, f)
  | .endFiring f => some (0x01, f)
  | .take f => some (0x02, f)
  | .give f => some (0x03, f)
  | .wait f => some (0x04, f)
  | .sbt f => some (0x05, f)
  | .ctlw f => some (0x06, f)
  | .cfwd f => some (0x07, f)
  | .cpeek f => some (0x08, f)
  | .mskop f => some (0x0A, f)
  | .mskmv f => some (0x0B, f)
  | .bra f => some (0x10, f)
  | .loop f => some (0x11, f)
  | .brk f => some (0x12, f)
  | .add f => some (0x20, f)
  | .sub f => some (0x21, f)
  | .mul f => some (0x22, f)
  | .mulh f => some (0x23, f)
  | .mad f => some (0x24, f)
  | .div f => some (0x25, f)
  | .rem f => some (0x26, f)
  | .abs f => some (0x27, f)
  | .neg f => some (0x28, f)
  | .min f => some (0x29, f)
  | .max f => some (0x2A, f)
  | .and f => some (0x2B, f)
  | .or f => some (0x2C, f)
  | .xor f => some (0x2D, f)
  | .andn f => some (0x2E, f)
  | .shl f => some (0x2F, f)
  | .shr f => some (0x30, f)
  | .sar f => some (0x31, f)
  | .rot f => some (0x32, f)
  | .clz f => some (0x33, f)
  | .popc f => some (0x34, f)
  | .bfx f => some (0x35, f)
  | .bfi f => some (0x36, f)
  | .cmp f => some (0x37, f)
  | .sel f => some (0x38, f)
  | .mov f => some (0x39, f)
  | .movi f => some (0x3A, f)
  | .pack f => some (0x3B, f)
  | .unpk f => some (0x3C, f)
  | .shuf f => some (0x3D, f)
  | .bcst f => some (0x3E, f)
  | .lred f => some (0x3F, f)
  | .fadd f => some (0x40, f)
  | .fsub f => some (0x41, f)
  | .fmul f => some (0x42, f)
  | .fma f => some (0x43, f)
  | .fmin f => some (0x44, f)
  | .fmax f => some (0x45, f)
  | .fabs f => some (0x46, f)
  | .fneg f => some (0x47, f)
  | .fcmp f => some (0x48, f)
  | .frcp f => some (0x49, f)
  | .frsq f => some (0x4A, f)
  | .fex2 f => some (0x4B, f)
  | .flg2 f => some (0x4C, f)
  | .fcls f => some (0x4D, f)
  | .fsts f => some (0x4E, f)
  | .frnd f => some (0x4F, f)
  | .cvt f => some (0x50, f)
  | .dq f => some (0x51, f)
  | .qnt f => some (0x52, f)
  | .scl f => some (0x53, f)
  | .lscan f => some (0x54, f)
  | .dot f => some (0x60, f)
  | .mma f => some (0x61, f)
  | .mmag f => some (0x62, f)
  | .bmm f => some (0x63, f)
  | .tpq f => some (0x64, f)
  | .tpqr f => some (0x65, f)
  | .accrd f => some (0x66, f)
  | .accz f => some (0x67, f)
  | .wsel f => some (0x68, f)
  | .rld f => some (0x70, f)
  | .rst f => some (0x71, f)
  | .sld f => some (0x72, f)
  | .sst f => some (0x73, f)
  | .sldv f => some (0x74, f)
  | .sstv f => some (0x75, f)
  | .satm f => some (0x76, f)
  | .nest f => some (0x80, f)
  | .nstr f => some (0x81, f)
  | .gen f => some (0x82, f)
  | .tld f => some (0x83, f)
  | .tst f => some (0x84, f)
  | .tlda f => some (0x85, f)
  | .tsts f => some (0x86, f)
  | .pref f => some (0x87, f)
  | .hbind f => some (0x88, f)
  | .pgsz f => some (0x89, f)
  | .atom f => some (0x90, f)
  | .cas f => some (0x91, f)
  | .phase f => some (0x92, f)
  | .fence f => some (0x93, f)
  | .rcfnc f => some (0x94, f)
  | .ldaq f => some (0x95, f)
  | .strl f => some (0x96, f)
  | .qpsh f => some (0xA0, f)
  | .qpop f => some (0xA1, f)
  | .qwt f => some (0xA2, f)
  | .cpy f => some (0xA3, f)
  | .gth f => some (0xA4, f)
  | .coll f => some (0xA5, f)
  | .cwt f => some (0xA6, f)
  | .ctst f => some (0xA7, f)
  | .clkr f => some (0xB0, f)
  | .stmp f => some (0xB1, f)
  | .cmtw f => some (0xB2, f)
  | .tick f => some (0xB3, f)
  | .ivlm f => some (0xB4, f)
  | .tacf f => some (0xC0, f)
  | .tafd f => some (0xC1, f)
  | .tamk f => some (0xC2, f)
  | .talv f => some (0xC3, f)
  | .tach f => some (0xC4, f)
  | .tntt f => some (0xD0, f)
  | .tntc f => some (0xD1, f)
  | .pzt f => some (0xD2, f)
  | .snap f => some (0xD3, f)
  | .conf f => some (0xD4, f)
  | .confr f => some (0xD5, f)
  | .trap f => some (0xE0, f)
  | .eret f => some (0xE1, f)
  | .sysr f => some (0xE2, f)
  | .sysw f => some (0xE3, f)
  | .idle f => some (0xE4, f)
  | .evrd f => some (0xE5, f)
  | .ldp f => some (0xE6, f)
  | .stp f => some (0xE7, f)
  | .bkpt f => some (0xE8, f)
  | .halt f => some (0xE9, f)
  | .fjmp f => some (0xEA, f)
  | .fcall f => some (0xEB, f)
  | .fret f => some (0xEC, f)
  | .xtrap f => some (0xFF, f)
  | .icacheFlush f => some (0xE3, f)
  | .heartbeatWrite f => some (0xE3, f)
  | .firingStart _ => none
  | .channelWordArrive _ _ => none
  | .creditReturn _ => none
  | .drainAction _ => none
  | .switchAction _ => none
  | .armAction _ => none
  | .loadResponse _ _ => none
  | .storeAccept _ => none
  | .stampedStoreArrive _ => none
  | .stampedStoreDry _ => none
  | .tldaHomeServe _ _ => none
  | .engineOpComplete _ _ => none
  | .engineOpStop _ _ => none
  | .engineOpFail _ _ => none
  | .raResultReady _ => none
  | .recqBroadcast _ _ => none
  | .recqDeal _ => none
  | .recqPublishPair _ => none
  | .recqEoi _ => none
  | .recqDrainFeed _ => none
  | .recqDrainOut _ => none
  | .seedAdmit _ _ => none
  | .outputGateWord _ _ => none
  | .bridgeFlitReceive _ _ _ => none
  | .linkRetrain _ _ => none
  | .beaconSend _ => none
  | .beaconReceive _ _ => none
  | .beaconHoldTimeout _ => none
  | .ptpSync _ _ => none
  | .ptpLockTimeout => none
  | .firingWatchdog _ => none
  | .launchWatchdog _ => none
  | .snapMarkerArrive _ => none
  | .snapshotRecord _ => none
  | .restartableStopTimeout _ => none
  | .doorbellWrite _ _ => none
  | .queueMap _ _ => none
  | .queueUnmap _ => none
  | .packetLaunch _ => none
  | .packetRegister _ => none
  | .packetUnregister _ => none
  | .packetReleaseKept _ => none
  | .regionGrant => none
  | .configurationCompleteWave _ => none
  | .gatesOpen _ => none
  | .launchComplete _ => none
  | .hostMemoryWrite _ _ _ => none
  | .hostMemoryRead _ _ _ => none
  | .migrationRequest _ _ => none
  | .priResponse _ _ _ _ => none
  | .regionResume _ => none
  | .regionHaltCmd _ => none
  | .regionReset _ => none
  | .resetStepTimeout _ => none
  | .regionBlot _ => none
  | .blotComplete _ => none
  | .regionRelease _ => none
  | .tileInvalidate _ => none
  | .tileInvalidateDone _ => none
  | .registerWrite _ _ _ => none
  | .heartbeatMissed _ => none
  | .lockstepMismatch => none
  | .firmwareUpdateRequest _ _ => none
  | .firmwareCommit => none
  | .spdmGetMeasurements _ => none
  | .spdmChallenge _ _ => none
  | .undervoltWindow _ _ _ => none
  | .l2WayGating _ _ _ _ _ => none
  | .moduleReset => none
  | .intervalDriftTooWide _ => none
  | .rdcSectorEviction _ _ => none
  | .regionEviction _ => none
  | .boostLeaseGrant _ _ _ _ => none
  | .boostLeaseExpiry _ => none
  | .hostLinkDown _ _ => none

/-- The internal word of an operation (R43). -/
def encodeWord (i : Instr) : Option (BitVec 96) := (opFields i).map (fun p => wordOf p.1 p.2)

/-- `n` bytes of a number, the most significant first. -/
def bigBytes (n v : Nat) : List Byte := (littleBytes n v).reverse

/-- The bytes of a form: lead nibble and payload (R49). -/
def formBytes (lead n payload : Nat) : List Byte := bigBytes n (lead * 2 ^ (8 * n - 4) + payload)

/-- The bytes `oluby` gives an internal word: the first form of R59 whose field list holds every field that differs
from its initial value. -/
def encodeForm (op : BitVec 8) (f : Fields) : Form × List Byte :=
  let i := Fields.initial
  if f = { i with d := f.d, a := f.a } then (.short, formBytes 1 4 (op ++ f.d ++ f.a).toNat)
  else if f = { i with var := f.var, d := f.d, a := f.a, b := f.b, ln := f.ln } then
    (.tri, formBytes 2 6 (op ++ f.var ++ f.d ++ f.a ++ f.b ++ f.ln).toNat)
  else if f = { i with var := f.var, ty := f.ty, d := f.d, imm := f.imm, pm := f.pm } then
    (.imm, formBytes 4 7 (op ++ f.var ++ f.ty ++ f.d ++ f.imm ++ f.pm).toNat)
  else if f = { i with var := f.var, ty := f.ty, d := f.d, a := f.a, b := f.b, wa := f.wa, wb := f.wb, wd := f.wd, ln := f.ln } then
    (.waited, formBytes 3 8 (op ++ f.var ++ f.ty ++ f.d ++ f.a ++ f.b ++ f.wa ++ f.wb ++ f.wd ++ f.ln).toNat)
  else if f = { i with var := f.var, ty := f.ty, d := f.d, a := f.a, b := f.b, c := f.c, wa := f.wa, wd := f.wd, pm := f.pm, ln := f.ln } then
    (.quad, formBytes 5 9 (op ++ f.var ++ f.ty ++ f.d ++ f.a ++ f.b ++ f.c ++ f.wa ++ f.wd ++ f.pm ++ f.ln).toNat)
  else (.full, 0xF0 :: bigBytes 12 (wordOf op f).toNat)

/-- The bytes `oluby` gives an operation (R59). -/
def encode (i : Instr) : Option (List Byte) := (opFields i).map (fun p => (encodeForm p.1 p.2).2)

/-- The bytes of an operation as a FULL form (R49). -/
def encodeFull (i : Instr) : Option (List Byte) := (encodeWord i).map (fun w => 0xF0 :: bigBytes 12 w.toNat)

end Sys2Proof
end

