-- ==== Sys2Proof/Config.lean ====
section
/-! DEFINITION. What the spec leaves open (log 5, log 7): uninterpreted values. No constant of this file has a body, so
no proof can see a value of it. -/
namespace Sys2Proof.Config

/-- The payload of a word whose PZ is set and whose bits the spec does not promise (R22, R148, R161). -/
opaque freePayload : Nat → BitVec 512

/-- The internal word a firmware core executes where its code bytes were changed and no flush has followed (R53). -/
opaque freeCode : Nat → BitVec 96

/-- The constants that a firmware image sets, by constant register (R65, R315): R409 gives them no place in the image. -/
opaque imageConst : List (BitVec 8) → Nat → BitVec 512

/-- The victim of a fill among the ways it may take (R363): the spec gives no replacement policy. -/
opaque freeVictim : Nat → Nat

/-- The minimum one-way delay in ns that the training of a link measures (R397). -/
opaque freeDelay : Nat → Nat

/-- The entries of the soundness map of the module at a peer link, as its coordinator gives them (R321, R350). -/
opaque peerMap : Nat → List (BitVec 64)

/-- Whether the coordinator of a peer module gives a folio of a die of its module (R340, R350). -/
opaque peerFolio : Nat → Nat → Nat → Bool

/-- Whether by a slice's estimate fewer ways would have served a window with a miss rate below 1/64 (R405). -/
opaque freeSmaller : Nat → Bool

/-- Whether a word of an overlapping copy is read before it is written (R187). -/
opaque freeOrder : Nat → Bool

/-- The cells of a granule after a store: whether they are still defective (R147). -/
opaque freeDefect : Nat → Bool

/-- ECDSA P-521 over SHA-512 (R305, R399, R409): key id, digest, r, s. The keys are not in the spec. -/
opaque sigValid : BitVec 32 → BitVec 512 → BitVec 528 → BitVec 528 → Bool

/-- The module's own ECDSA P-521 signature of a digest with its identity key (R399, R409). -/
opaque moduleSign : BitVec 512 → BitVec 1056

/-- SHA-512 of the boot ROM (R409, SPDM index 1): the ROM's content is not in the spec. -/
opaque bootRomDigest : BitVec 512

/-- Whether firmware's pattern test of a unit passes (R387): the unit's 64-bit soundness entry. -/
opaque patternTest : Nat → BitVec 64 → Bool

/-- The configuration handle of an accepted object (R338): the spec gives no numbering; one in use is not taken. -/
opaque freeHandle : Nat → Nat

/-- The handover version of the firmware that runs (R409). -/
opaque handover : Nat

/-- A granule, with its TN and PZ above it, of the scratchpad in which a record queue keeps its reorder store, by what the store holds
(R279, R375): the spec gives no layout (log 156). -/
opaque reorderGranule : List Nat → Nat → BitVec 514

/-- The ns that a placement attempt takes (R329, R330): the spec gives its bound. -/
opaque freeNs : Nat → Nat

end Sys2Proof.Config
end

