-- ==== Sys2Proof/Machine/Num.lean ====
section
/-! DEFINITION. Number formats, exact values, the one rounding of the device, dequantisation and the exact sum
(spec 01, R23-R42). -/
namespace Sys2Proof.Machine

/-- The number formats (R24, R25), in the order of their codes 1 to 12. -/
inductive Fmt where
  | i32 | u32 | i16 | i8 | fp32 | bf16 | fp16 | e4m3 | e5m2 | e2m1 | i4 | bin1
  deriving DecidableEq, Repr

/-- The format of a code (R24, R25). -/
def Fmt.ofCode : Nat → Option Fmt
  | 1 => some .i32 | 2 => some .u32 | 3 => some .i16 | 4 => some .i8 | 5 => some .fp32 | 6 => some .bf16
  | 7 => some .fp16 | 8 => some .e4m3 | 9 => some .e5m2 | 10 => some .e2m1 | 11 => some .i4 | 12 => some .bin1
  | _ => none

def Fmt.code : Fmt → Nat
  | .i32 => 1 | .u32 => 2 | .i16 => 3 | .i8 => 4 | .fp32 => 5 | .bf16 => 6 | .fp16 => 7 | .e4m3 => 8 | .e5m2 => 9
  | .e2m1 => 10 | .i4 => 11 | .bin1 => 12

/-- Bits of an element (R24, R25). -/
def Fmt.bits : Fmt → Nat
  | .i32 => 32 | .u32 => 32 | .i16 => 16 | .i8 => 8 | .fp32 => 32 | .bf16 => 16 | .fp16 => 16 | .e4m3 => 8 | .e5m2 => 8
  | .e2m1 => 4 | .i4 => 4 | .bin1 => 1

/-- Elements per lane (R23). -/
def Fmt.perLane (f : Fmt) : Nat := 32 / f.bits

def Fmt.isFloat : Fmt → Bool
  | .fp32 => true | .bf16 => true | .fp16 => true | .e4m3 => true | .e5m2 => true | .e2m1 => true
  | _ => false

def Fmt.isSigned : Fmt → Bool
  | .i32 => true | .i16 => true | .i8 => true | .i4 => true
  | _ => false

/-- The weight formats of R30. -/
def Fmt.isWeight : Fmt → Bool
  | .e4m3 => true | .e5m2 => true | .e2m1 => true | .i4 => true
  | _ => false

/-- Fraction bits of a floating-point format (R25). -/
def Fmt.frac : Fmt → Nat
  | .fp32 => 23 | .bf16 => 7 | .fp16 => 10 | .e4m3 => 3 | .e5m2 => 2 | .e2m1 => 1
  | _ => 0

/-- Exponent bias (R25). -/
def Fmt.bias : Fmt → Int
  | .fp32 => 127 | .bf16 => 127 | .fp16 => 15 | .e4m3 => 7 | .e5m2 => 15 | .e2m1 => 1
  | _ => 0

def Fmt.hasInf : Fmt → Bool
  | .fp32 => true | .bf16 => true | .fp16 => true | .e5m2 => true
  | _ => false

/-- The largest finite value as significand and exponent, and its code (R25). -/
def Fmt.largest : Fmt → Nat × Int × Nat
  | .fp32 => (2 ^ 24 - 1, 104, 0x7F7FFFFF)
  | .bf16 => (2 ^ 8 - 1, 120, 0x7F7F)
  | .fp16 => (2 ^ 11 - 1, 5, 0x7BFF)
  | .e4m3 => (14, 5, 0x7E)
  | .e5m2 => (7, 13, 0x7B)
  | .e2m1 => (3, 1, 0x7)
  | _ => (0, 0, 0)

/-- The canonical NaN (R25); code 0 in E2M1 (R35). -/
def Fmt.nan : Fmt → Nat
  | .fp32 => 0x7FC00000 | .bf16 => 0x7FC0 | .fp16 => 0x7E00 | .e4m3 => 0x7F | .e5m2 => 0x7E
  | _ => 0

/-- The code of +infinity in a format that has one. -/
def Fmt.infCode : Fmt → Nat
  | .fp32 => 0x7F800000 | .bf16 => 0x7F80 | .fp16 => 0x7C00 | .e5m2 => 0x7C
  | _ => 0

/-- The sticky flags of R38: nv dz of uf nx from bit 4 down. -/
abbrev Flags := BitVec 5

def flNX : Flags := 1
def flUF : Flags := 2
def flOF : Flags := 4
def flDZ : Flags := 8
def flNV : Flags := 16

/-- An exact value: NaN, an infinity, a signed zero, or ± m·2^e; with `st` a fraction strictly between 0 and 1 of 2^e is
added to the magnitude, so that quotients and roots need no rounding before the one of R35. -/
inductive Num where
  | nan
  | inf (neg : Bool)
  | zero (neg : Bool)
  | fin (neg : Bool) (m : Nat) (e : Int) (st : Bool)
  deriving DecidableEq, Repr

/-- A value from sign, significand and exponent. -/
def Num.mk (neg : Bool) (m : Nat) (e : Int) : Num := if m = 0 then .zero neg else .fin neg m e false

/-- The value of an integer. -/
def Num.ofInt (i : Int) : Num := Num.mk (decide (i < 0)) i.natAbs 0

/-- 1.0 -/
def Num.one : Num := .fin false 1 0 false

/-- The sign of a value, NaN counted as positive. -/
def Num.isNeg : Num → Bool
  | .nan => false
  | .inf n => n
  | .zero n => n
  | .fin n _ _ _ => n

def Num.isNaN : Num → Bool
  | .nan => true
  | _ => false

def Num.isInf : Num → Bool
  | .inf _ => true
  | _ => false

def Num.isZero : Num → Bool
  | .zero _ => true
  | _ => false

/-- A value with its sign inverted. -/
def Num.negate : Num → Num
  | .nan => .nan
  | .inf n => .inf (!n)
  | .zero n => .zero (!n)
  | .fin n m e s => .fin (!n) m e s

/-- The magnitude. -/
def Num.absVal : Num → Num
  | .nan => .nan
  | .inf _ => .inf false
  | .zero _ => .zero false
  | .fin _ m e s => .fin false m e s

/-- The signed value of the low `w` bits of `v`. -/
def signedOf (w v : Nat) : Int := if v % 2 ^ w < 2 ^ (w - 1) then (v % 2 ^ w : Nat) else (v % 2 ^ w : Nat) - (2 ^ w : Nat)

/-- The value of a code in a format (R24-R27). -/
def Fmt.decode (f : Fmt) (c : Nat) : Num :=
  if f.isFloat then
    let code := c % 2 ^ f.bits
    let neg := decide (2 ^ (f.bits - 1) ≤ code)
    let mag := code % 2 ^ (f.bits - 1)
    let ex := mag / 2 ^ f.frac
    let fr := mag % 2 ^ f.frac
    let top := 2 ^ (f.bits - 1 - f.frac) - 1
    if f = .e4m3 ∧ mag = 0x7F then .nan
    else if f.hasInf ∧ ex = top then (if fr = 0 then .inf neg else .nan)
    else if ex = 0 then Num.mk neg fr (1 - f.bias - f.frac)
    else .fin neg (2 ^ f.frac + fr) (ex - f.bias - f.frac) false
  else if f.isSigned then Num.ofInt (signedOf f.bits c)
  else Num.ofInt ((c % 2 ^ f.bits : Nat) : Int)

/-- Bits of a number. -/
def bitLen (n : Nat) : Nat := if n = 0 then 0 else n.log2 + 1

/-- The rounding modes (R34). -/
inductive Mode where
  | rne | rtz | rup | rdn | rna
  deriving DecidableEq, Repr

/-- The mode of a code; 5 to 7 are reserved (R34). -/
def Mode.ofCode : Nat → Option Mode
  | 0 => some .rne | 1 => some .rtz | 2 => some .rup | 3 => some .rdn | 4 => some .rna
  | _ => none

/-- The magnitude m·2^e (+) rounded to a multiple of 2^q: the multiple, and whether it is inexact. -/
def roundAt (mode : Mode) (neg : Bool) (m : Nat) (e : Int) (st : Bool) (q : Int) : Nat × Bool :=
  if q ≤ e then (m * 2 ^ (e - q).toNat, st)
  else
    let sh := (q - e).toNat
    let n := m / 2 ^ sh
    let r := m % 2 ^ sh
    let half := 2 ^ (sh - 1)
    let inexact := decide (r ≠ 0) || st
    let above := decide (half < r) || (decide (r = half) && st)
    let tie := decide (r = half) && !st
    let up := match mode with
      | .rne => above || (tie && decide (n % 2 = 1))
      | .rna => above || tie
      | .rtz => false
      | .rup => inexact && !neg
      | .rdn => inexact && neg
    (if up then n + 1 else n, inexact)

/-- The code of a sign in a format. -/
def Fmt.signed (f : Fmt) (neg : Bool) (mag : Nat) : Nat := if neg then 2 ^ (f.bits - 1) + mag else mag

/-- Whether n·2^q exceeds the largest finite value. -/
def Fmt.over (f : Fmt) (n : Nat) (q : Int) : Bool :=
  let (lm, le, _) := f.largest
  if le ≤ q then decide (lm < n * 2 ^ (q - le).toNat) else decide (lm * 2 ^ (le - q).toNat < n)

/-- The overflowed result (R35). -/
def Fmt.overflow (f : Fmt) (mode : Mode) (neg : Bool) : Nat :=
  let toInf := f.hasInf && (match mode with
    | .rne => true | .rna => true | .rtz => false | .rup => !neg | .rdn => neg)
  f.signed neg (if toInf then f.infCode else f.largest.2.2)

/-- `round_to` for a floating-point format and a finite value that is not zero (R35). -/
def Fmt.roundFin (f : Fmt) (mode : Mode) (neg : Bool) (m : Nat) (e : Int) (st : Bool) : Nat × Flags :=
  let p : Int := f.frac + 1
  let emin : Int := 1 - f.bias
  let ex : Int := e + bitLen m - 1
  let qn := ex - (p - 1)
  let (nu, _) := roundAt mode neg m e st qn
  if f.over nu qn then (f.overflow mode neg, flOF ||| flNX)
  else
    let q := max qn (emin - (p - 1))
    let (n, inexact) := roundAt mode neg m e st q
    -- tiny: the value rounded with an unbounded exponent lies below 2^emin
    let tiny := if qn ≤ emin then decide (nu < 2 ^ (emin - qn).toNat) else false
    let code := if n < 2 ^ f.frac then n else ((q + f.frac + f.bias).toNat) * 2 ^ f.frac + n - 2 ^ f.frac
    (f.signed neg code, if inexact then (if tiny then flUF ||| flNX else flNX) else 0)

/-- The range of an integer format (R24). -/
def Fmt.range (f : Fmt) : Int × Int :=
  if f.isSigned then (-(2 ^ (f.bits - 1) : Nat), (2 ^ (f.bits - 1) : Nat) - 1) else (0, (2 ^ f.bits : Nat) - 1)

/-- An integer as the bits of a format, wrapped (R37). -/
def Fmt.wrap (f : Fmt) (i : Int) : Nat := (i % ((2 ^ f.bits : Nat) : Int)).toNat

/-- An integer clamped to the range of a format (R37). -/
def Fmt.clamp (f : Fmt) (i : Int) : Int := max f.range.1 (min f.range.2 i)

/-- `round_to` for an integer format and a finite value (R35). -/
def Fmt.roundInt (f : Fmt) (mode : Mode) (neg : Bool) (m : Nat) (e : Int) (st : Bool) : Nat × Flags :=
  let (n, inexact) := roundAt mode neg m e st 0
  let i : Int := if neg then -(n : Int) else n
  if i < f.range.1 ∨ f.range.2 < i then (f.wrap (f.clamp i), flNV)
  else (f.wrap i, if inexact then flNX else 0)

/-- `round_to(f, x, mode)` (R35): the code and the flags raised. -/
def roundTo (f : Fmt) (x : Num) (mode : Mode) : Nat × Flags :=
  if f.isFloat then
    match x with
    | .nan => (f.nan, if f = .e2m1 then flNV else 0)
    | .inf n => if f.hasInf then (f.signed n f.infCode, 0) else (f.signed n f.largest.2.2, flOF)
    | .zero n => (f.signed n 0, 0)
    | .fin n m e st => f.roundFin mode n m e st
  else
    match x with
    | .nan => (0, flNV)
    | .inf n => (f.wrap (if n then f.range.1 else f.range.2), flNV)
    | .zero _ => (0, 0)
    | .fin n m e st => f.roundInt mode n m e st

/-- The exact product (R36): NV when 0 meets an infinity. -/
def Num.mul (x y : Num) : Num × Flags :=
  match x, y with
  | .nan, _ => (.nan, 0)
  | _, .nan => (.nan, 0)
  | .inf _, .zero _ => (.nan, flNV)
  | .zero _, .inf _ => (.nan, flNV)
  | .inf a, y => (.inf (a != y.isNeg), 0)
  | x, .inf b => (.inf (x.isNeg != b), 0)
  | .zero a, y => (.zero (a != y.isNeg), 0)
  | x, .zero b => (.zero (x.isNeg != b), 0)
  | .fin a m e _, .fin b n g _ => (.fin (a != b) (m * n) (e + g) false, 0)

/-- A finite value as an integer multiple of 2^q, q at most its exponent. -/
def Num.scaled (x : Num) (q : Int) : Int :=
  match x with
  | .fin n m e _ => let v : Int := (m * 2 ^ (e - q).toNat : Nat); if n then -v else v
  | _ => 0

/-- The exponent of the unit of a value. -/
def Num.unit (x : Num) (d : Int) : Int :=
  match x with
  | .fin _ _ e _ => e
  | _ => d

/-- The exact sum of two terms (R36, R121): an exact zero is −0 only where both terms are −0. -/
def Num.add (x y : Num) : Num × Flags :=
  match x, y with
  | .nan, _ => (.nan, 0)
  | _, .nan => (.nan, 0)
  | .inf a, .inf b => if a = b then (.inf a, 0) else (.nan, flNV)
  | .inf a, _ => (.inf a, 0)
  | _, .inf b => (.inf b, 0)
  | .zero a, .zero b => (.zero (a && b), 0)
  | .zero _, y => (y, 0)
  | x, .zero _ => (x, 0)
  | .fin a m e s, .fin b n g t =>
    let q := min e g
    let v := Num.scaled (.fin a m e s) q + Num.scaled (.fin b n g t) q
    if v = 0 then (.zero false, 0) else (.fin (decide (v < 0)) v.natAbs q false, 0)

/-- Whether x < y, neither NaN, −0 equal to +0. -/
def Num.lt (x y : Num) : Bool :=
  match x, y with
  | .nan, _ => false
  | _, .nan => false
  | .inf a, .inf b => a && !b
  | .inf a, _ => a
  | _, .inf b => !b
  | x, y => let q := min (x.unit 0) (y.unit 0); decide (x.scaled q < y.scaled q)

/-- Whether x = y as numbers; NaN equals nothing. -/
def Num.eq (x y : Num) : Bool := !x.isNaN && !y.isNaN && !x.lt y && !y.lt x

/-- The exact quotient, as R133 gives its special cases: flags DZ and NV. -/
def Num.div (x y : Num) : Num × Flags :=
  match x, y with
  | .nan, _ => (.nan, 0)
  | _, .nan => (.nan, 0)
  | .inf _, .inf _ => (.nan, flNV)
  | .zero _, .zero _ => (.nan, flNV)
  | .inf a, y => (.inf (a != y.isNeg), 0)
  | x, .inf b => (.zero (x.isNeg != b), 0)
  | .zero a, y => (.zero (a != y.isNeg), 0)
  | x, .zero b => (.inf (x.isNeg != b), flDZ)
  | .fin a m e _, .fin b n g _ =>
    let num := m * 2 ^ 160
    (.fin (a != b) (num / n) (e - g - 160) (decide (num % n ≠ 0)), 0)

/-- The largest r below 2^bits with r² ≤ n. -/
def isqrt (n : Nat) : Nat → Nat → Nat
  | 0, r => r
  | k + 1, r => isqrt n k (if (r + 2 ^ k) * (r + 2 ^ k) ≤ n then r + 2 ^ k else r)

/-- 1/√x of a positive finite value (R126). -/
def recipSqrt (m : Nat) (e : Int) : Num :=
  let (m', e') := if e % 2 = 0 then (m, e) else (2 * m, e - 1)
  let n := 2 ^ 200 / m'
  let r := isqrt n 101 0
  .fin false r (-(e' / 2) - 100) (decide (r * r * m' ≠ 2 ^ 200))

/-- ln 2 · 2^256, rounded down. -/
def ln2Scaled : Nat :=
  80260960185991308862233904206310070533990667611589946606122867505419956976171

/-- The sum of the terms y^k / k! for k from the given one on, in units of 2^-256. -/
def expSum (y : Nat) : Nat → Nat → Nat → Nat
  | 0, _, _ => 0
  | n + 1, k, t => t + expSum y n (k + 1) (t * y / (2 ^ 256 * (k + 1)))

/-- 2^x of a finite value that is not zero (R126). A result that is not a power of two is irrational, so it is never a
tie; the 256 bits kept decide every rounding of R35. -/
def exp2Fin (neg : Bool) (m : Nat) (e : Int) : Num :=
  if 0 ≤ e ∧ 0 ≤ e + bitLen m - 12 then .fin false 1 (if neg then -4000 else 4000) false
  else if e + bitLen m > 12 then .fin false 1 (if neg then -4000 else 4000) false
  else if 0 ≤ e then .fin false 1 (if neg then -(m * 2 ^ e.toNat : Nat) else (m * 2 ^ e.toNat : Nat)) false
  else
    let d := (-e).toNat
    let whole : Int := m / 2 ^ d
    let fr := m % 2 ^ d
    if fr = 0 then .fin false 1 (if neg then -whole else whole) false
    else
      let n : Int := if neg then -whole - 1 else whole
      let f := if neg then 2 ^ d - fr else fr
      let y := f * ln2Scaled / 2 ^ d
      .fin false (expSum y 70 0 (2 ^ 256)) (n - 256) true

/-- The first `n` bits after the point of log₂ of v/2^300, 1 ≤ v/2^300 < 2, below the bits found so far. -/
def logBits : Nat → Nat → Nat → Nat
  | 0, _, acc => acc
  | n + 1, v, acc =>
    let w := v * v / 2 ^ 300
    if 2 ^ 301 ≤ w then logBits n (w / 2) (2 * acc + 1) else logBits n w (2 * acc)

/-- log₂ of a positive finite value (R126). It is irrational unless the value is a power of two. -/
def log2Fin (m : Nat) (e : Int) : Num :=
  let l := bitLen m
  let ex : Int := e + l - 1
  if m = 2 ^ (l - 1) then Num.ofInt ex
  else
    let v := m * 2 ^ (301 - l)
    let t : Int := ex * (2 ^ 160 : Nat) + logBits 160 v 0
    if 0 ≤ t then .fin false t.natAbs (-160) true else .fin true (t.natAbs - 1) (-160) true

/-- A value rounded to an integer by a mode, as a value; a zero keeps the sign of the input (R129). The flag is NX. -/
def roundIntegral (x : Num) (mode : Mode) : Num × Flags :=
  match x with
  | .fin n m e st =>
    let (k, inexact) := roundAt mode n m e st 0
    (Num.mk n k 0, if inexact then flNX else 0)
  | y => (y, 0)

/-- `dequant` (R39): the weight value, the block scale and the tensor scale multiplied exactly and rounded once to BF16. -/
def dequant (f : Fmt) (code : Nat) (b t : Num) : Nat × Flags :=
  let v := f.decode code
  if v.isNaN || b.isNaN || t.isNaN then (Fmt.nan .bf16, 0)
  else if (v.isZero && (b.isInf || t.isInf)) || (b.isZero && (v.isInf || t.isInf)) || (t.isZero && (v.isInf || b.isInf)) then
    (Fmt.nan .bf16, flNV)
  else roundTo .bf16 ((v.mul b).1.mul t).1 .rne

/-- floor(log₂|t|) of a finite value that is not zero. -/
def Num.expo (x : Num) : Int :=
  match x with
  | .fin _ m e _ => e + bitLen m - 1
  | _ => 0

/-- A term of the exact sum truncated toward zero to a multiple of 2^q, and whether it changed (R40). -/
def truncTerm (x : Num) (q : Int) : Int × Bool :=
  match x with
  | .fin n m e _ =>
    if q ≤ e then (Num.scaled x q, false)
    else
      let k := m / 2 ^ (q - e).toNat
      (if n then -(k : Int) else k, decide (m % 2 ^ (q - e).toNat ≠ 0))
  | _ => (0, false)

/-- `exact_sum` (R40): the FP32 code and the flags. -/
def exactSum (terms : List Num) : Nat × Flags :=
  if terms.any Num.isNaN then (Fmt.nan .fp32, 0)
  else if terms.any (fun t => t == .inf false) && terms.any (fun t => t == .inf true) then (Fmt.nan .fp32, flNV)
  else if terms.any (fun t => t == .inf false) then (Fmt.infCode .fp32, 0)
  else if terms.any (fun t => t == .inf true) then (Fmt.signed .fp32 true (Fmt.infCode .fp32), 0)
  else
    let nz := terms.filter (fun t => !t.isZero)
    match nz with
    | [] => (if terms.all (fun t => t == .zero true) then 0x80000000 else 0, 0)
    | t0 :: rest =>
      let emax := rest.foldl (fun m t => max m t.expo) t0.expo
      let q := emax - 52
      let s := nz.foldl (fun (acc : Int × Bool) t => let (v, c) := truncTerm t q; (acc.1 + v, acc.2 || c)) (0, false)
      let fl : Flags := if s.2 then flNX else 0
      if s.1 = 0 then (0, fl)
      else
        let (c, g) := roundTo .fp32 (.fin (decide (s.1 < 0)) s.1.natAbs q false) .rne
        (c, fl ||| g)

/-- Element `j` of a lane in a format (R23). -/
def elemOf (f : Fmt) (x : Lane) (j : Nat) : Nat := x.toNat / 2 ^ (f.bits * j) % 2 ^ f.bits

/-- Element `e` of a word in a format (R23). -/
def elemAt (f : Fmt) (p : Payload) (e : Nat) : Nat := elemOf f (p.lane (e / f.perLane)) (e % f.perLane)

/-- A lane built of `n` elements of `w` bits, element 0 lowest (R23). -/
def packElems (w : Nat) (g : Nat → Nat) : Nat → Nat
  | 0 => 0
  | n + 1 => packElems w g n + (g n % 2 ^ w) * 2 ^ (w * n)

/-- A lane whose elements in a format are given (R23). -/
def laneOf (f : Fmt) (g : Nat → Nat) : Lane := BitVec.ofNat 32 (packElems f.bits g f.perLane)

/-- The flags raised by `g` at the numbers below `n`. -/
def flagsBelow (g : Nat → Flags) : Nat → Flags
  | 0 => 0
  | n + 1 => flagsBelow g n ||| g n

/-- One level of the fixed tree (R41): `w` pairs combined. -/
def treeLevel {α : Type} (add : α → α → α) : List α → List α
  | x :: y :: r => add x y :: treeLevel add r
  | r => r

/-- The fixed tree over sixteen values (R41): widths 8, 4, 2, 1. -/
def tree {α : Type} (add : α → α → α) (v : List α) : List α :=
  treeLevel add (treeLevel add (treeLevel add (treeLevel add v)))

end Sys2Proof.Machine
end

