-- ==== Sys2Proof/Machine/State.lean ====
section
/-! DEFINITION. The state of the module as plain data (INVENTORY.md, State), the reasons a step can stop, and the state
after module reset. Families of which most members stand at their reset value are keyed tables (`Tab`). -/
namespace Sys2Proof.Machine

/-- The classes of elements (R16, R62). -/
inductive Cls where
  | ve | se | ag | ra | fc
  deriving DecidableEq, Repr

/-- What an instruction holds issue on: a channel slot count, at which a snapshot may stop the firing (R89, R365); another
count that the watchdog counts (R384); or an answer of memory, an engine or time. -/
inductive Hold where
  | slots | count | free
  deriving DecidableEq, Repr

/-- One level of a loop: its first word, its last word, its remaining passes (R103). -/
structure LoopLvl where
  start : Nat
  stop  : Nat
  left  : Nat
  deriving DecidableEq, Repr

/-- A firing in progress, or on a core its flow of control: the position of the next word (on a core a byte address),
the flow bits of R87, the active loops innermost first, the staging slots written (key 4·channel + offset, R72), the
words consumed and published per channel (R381), whether an `eoi` or `halt` was moved (R46, R237), the cycles spent
holding issue on counts (R384), and what it holds issue on now (R73, R89, R193). -/
structure Run where
  clause : Nat
  pos    : Nat
  fp     : Bool
  ft     : Bool
  loops  : List LoopLvl
  stag   : Tab CWord
  cons   : Tab Nat
  pubs   : Tab Nat
  eoi    : Bool
  halt   : Bool
  held   : Nat
  wait   : Option Hold
  deriving DecidableEq, Repr

def Run.idle : Run :=
  { clause := 0, pos := 0, fp := false, ft := false, loops := [], stag := [], cons := [], pubs := [], eoi := false,
    halt := false, held := 0, wait := none }

/-- One term of a clause: a channel and its minimum (R226). -/
structure Term where
  ch  : Nat
  min : Nat
  deriving DecidableEq, Repr

/-- A rate term of a clause (R293). -/
structure Rate where
  out : Bool
  ch  : Nat
  wds : Nat
  rows : Nat
  deriving DecidableEq, Repr

/-- A clause entry (R226) with its rate terms (R381). -/
structure Clause where
  used  : Bool
  en    : Bool
  strm  : Bool
  pri   : Nat
  entry : Nat
  acc   : BitVec 7
  aof   : Bool
  ins   : List Term
  outs  : List Term
  age   : Nat
  rates : List Rate
  deriving DecidableEq, Repr

def Clause.unused : Clause :=
  { used := false, en := false, strm := false, pri := 0, entry := 0, acc := 0, aof := false, ins := [], outs := [],
    age := 0, rates := [] }

/-- What travels on a channel between its ends: a word with the bridges it has crossed, or a snapshot marker (R364). -/
inductive Flight where
  | word (w : CWord) (crossed : Nat)
  | mark (n : Nat)
  deriving DecidableEq, Repr

/-- The input end of a channel: its entry (R66), the words in its slots and buffer head first (R69, R70), how many data
words of the current weight run have been consumed (R32), the producing end, and the marker held outside the slots. -/
structure InChan where
  ent  : BitVec 32
  q    : List CWord
  wpos : Nat
  src  : ChanEnd
  mark : Option Nat
  deriving DecidableEq, Repr

def InChan.unbound : InChan := { ent := 0, q := [], wpos := 0, src := .el 0 0, mark := none }

/-- One crossing of a bridge under a stream number (R249, R327): the bridge unit by which the channel leaves a die, 0 BW,
1 BE, 2 BX, 3 BC. -/
structure Hop where
  die  : Nat
  br   : Nat
  strm : Nat
  deriving DecidableEq, Repr

/-- The output end of a channel: its entry (R67), its free count (R69), the consuming end, what is in flight oldest
first, the credits on their way back, and the bridges it crosses. -/
structure OutChan where
  ent    : BitVec 32
  free   : Nat
  dst    : ChanEnd
  flight : List Flight
  cred   : Nat
  via    : List Hop
  deriving DecidableEq, Repr

def OutChan.unbound : OutChan := { ent := 0, free := 0, dst := .el 0 0, flight := [], cred := 0, via := [] }

/-- A local store: bytes that are not zero, by address, and the PZ and TN bits of granules (R147). Sorted, no zero byte. -/
structure Store where
  bytes : List Host.Cell
  pz    : List Nat
  tn    : List Nat
  bad   : List Nat
  deriving DecidableEq, Repr

def Store.empty : Store := { bytes := [], pz := [], tn := [], bad := [] }

/-- What only a VE holds: accumulators (R138), requantiser (R143), adapter bank register (R140), quad SEs (R151). -/
structure VePart where
  acc    : Vector Reg 8
  rows   : List Payload
  wcnt   : Nat
  rcnt   : Nat
  rqPz   : Bool
  rqTn   : Bool
  abank  : BitVec 64
  abPz   : Bool
  abTn   : Bool
  quad   : List Nat
  deriving DecidableEq, Repr

def VePart.empty : VePart :=
  { acc := Vector.replicate 8 Reg.zero, rows := List.replicate 16 0, wcnt := 0, rcnt := 0, rqPz := false, rqTn := false,
    abank := 0, abPz := false, abTn := false, quad := [] }

/-- The loop nest (R157): counts, counters, strides and bases as the manual's fields. -/
structure Nest where
  cnt  : List Nat
  ctr  : List Nat
  str  : List (List Int)
  base : List Int
  pz   : Bool
  tn   : Bool
  deriving DecidableEq, Repr

def Nest.initial : Nest :=
  { cnt := List.replicate 6 1, ctr := List.replicate 6 0, str := List.replicate 6 (List.replicate 6 0),
    base := List.replicate 6 0, pz := false, tn := false }

/-- An entry of a load queue (R154, R173): the word, and for an entry marked too old the stamp and the nest counters. -/
structure LqEntry where
  word : CWord
  old  : Option (Nat × List Nat)
  deriving DecidableEq, Repr

/-- The translation that an access used (R358): context, handle slot, tile. -/
structure TileUse where
  ctx  : Nat
  slot : Nat
  tile : Nat
  deriving DecidableEq, Repr

/-- A load request sent and not answered (R167, R173): the byte address of the word, how many of its elements lie inside
the tensor, its stamp where it is a `tlda`, the meta bits it brings, whether it makes an access (R161), the number of the
first own store it may not see, the nest counters, its cache policy and tenant class, its place among the accesses of the
module, and the translation it used. -/
structure Req where
  addr   : Nat
  valid  : Nat
  stamp  : Option Nat
  pz     : Bool
  tn     : Bool
  skip   : Bool
  before : Nat
  ctr    : List Nat
  pol    : Nat
  tcl    : Nat
  home   : Bool
  ord    : Nat
  via    : Option TileUse
  deriving DecidableEq, Repr

/-- A stream port (R154, R155). `hent` is the handle-table entry read at the last binding or tile crossing (R159) and
`srec` the cached shape record (R355); `reqs` are the reserved entries of the load queue. -/
structure Port where
  bind   : BitVec 64
  hent   : BitVec 256
  srec   : BitVec 1536
  stale  : Bool
  tile   : Option Nat
  lq     : List LqEntry
  reqs   : List Req
  sq     : List CWord
  outst  : Nat
  refused : Option (Nat × List Nat)
  deriving DecidableEq, Repr

def Port.unbound : Port :=
  { bind := 0, hent := 0, srec := 0, stale := false, tile := none, lq := [], reqs := [], sq := [], outst := 0, refused := none }

/-- A store of an agent that is not published yet (R262): its place among the agent's stores, the 64-byte granule with
the bits it writes, meta bits, the port that waits for its acceptance, whether it has been accepted at its home (R179),
and whether it becomes visible on acceptance (R180). `reg` is the size of a store to a register of R379; `ord` its place
among the accesses of the module, `pol` and `tcl` the cache policy and tenant class of its handle (R257, R363). `mask` loses the bytes
that later stores have taken; `made` is what it was made with, which decides the granule's bits: `lost` says that a later store of the
whole granule lies over it, `lpz` and `ltn` are the bits that later stores of parts bring to a store of the whole granule (R161, R255). -/
structure PStore where
  seq  : Nat
  base : Nat
  data : BitVec 512
  mask : BitVec 512
  pz   : Bool
  tn   : Bool
  port : Option Nat
  acc  : Bool
  rel  : Bool
  reg  : Option (Nat × Nat × BitVec 64)
  via  : Option TileUse
  ord  : Nat
  pol  : Nat
  tcl  : Nat
  made : BitVec 512 := mask
  lost : Bool := false
  lpz  : Bool := false
  ltn  : Bool := false
  deriving DecidableEq, Repr

/-- A stamped store sent and not yet at its home (R171, R172), with the cache policy and tenant class of its handle (R257, R363). -/
structure Tsts where
  port  : Nat
  base  : Nat
  data  : BitVec 512
  mask  : BitVec 512
  pz    : Bool
  tn    : Bool
  stamp : Nat
  ctr   : List Nat
  via   : Option TileUse
  pol   : Nat
  tcl   : Nat
  deriving DecidableEq, Repr

/-- An engine operation from its fork until its join (R186): object, kind, operands, progress, fault, the first own store
of its agent that it does not see, the taint of its operands, the detail of its fault, whether it has made all its
accesses, the ports as they stood at the fork, its own writes, the tile its fault names, for a collective the words it
will write, once every member's have been read (R189), and the address in host memory to which it was to send a poisoned word, until its
agent has taken the fault (R161, R268; log 132). -/
structure EngOp where
  co     : Nat
  kind   : Nat
  var    : Nat
  args   : Payload
  argb   : Payload
  imm    : BitVec 24
  done   : Nat
  fcs    : BitVec 6
  before : Nat
  tn     : Bool
  why    : List Nat
  ran    : Bool
  ports  : List Port
  writes : List PStore
  tile   : Nat
  res    : Option (List Reg)
  spoilt : Option Nat
  deriving DecidableEq, Repr

/-- What an AG or a core holds as an agent (R259): nest, ports, completion objects (R185), engine operations, stores not
yet published, stamped stores on their way, the count of its stores, the last stamp of `stmp` (R195), adapter targets. -/
structure AgPart where
  nest    : Nest
  ports   : Vector Port 4
  cos     : Vector (BitVec 32) 32
  eng     : List EngOp
  sb      : List PStore
  tsts    : List Tsts
  seq     : Nat
  stamp   : Option Nat
  targets : List Nat
  colls   : List (Nat × List Nat)
  deriving DecidableEq, Repr

def AgPart.empty : AgPart :=
  { nest := Nest.initial, ports := Vector.replicate 4 Port.unbound, cos := Vector.replicate 32 0, eng := [], sb := [],
    tsts := [], seq := 0, stamp := none, targets := [], colls := [] }

/-- An entry of a result queue (R205): the final mask of every column, and meta bits. -/
structure RqEntry where
  m  : List (BitVec 64)
  pz : Bool
  tn : Bool
  deriving DecidableEq, Repr

/-- What an RA holds (R200): cells, descriptors and leaves that differ from their initial values, the pointer, the result
queue, the records in the array, and the cycles since the last feed (R205). -/
structure RaPart where
  cells  : Tab (BitVec 128)
  descs  : Tab (BitVec 32)
  leaves : Tab Lane
  ptr    : BitVec 14
  rq     : List RqEntry
  pipe   : List RqEntry
  since  : Nat
  deriving DecidableEq, Repr

def RaPart.empty : RaPart := { cells := [], descs := [], leaves := [], ptr := 0, rq := [], pipe := [], since := 2 }

/-- What a record queue expects next on a member's return: the pair of a record, an `eoi`, the word that is passing. -/
inductive Owed where
  | pair (k : Nat)
  | eoi
  | pass
  deriving DecidableEq, Repr

/-- A record queue (R279-R282, R416): members; the words of the present broadcast that stand on c0 until every member has
them, whether its first word is one of them, and how many of them each member has been sent; next record number, next
record to publish, last record dealt to each member, what each return owes, the pairs stored by record number, the input
words consumed, the kind and argument of the word that is passing. -/
structure RecqPart where
  members : Nat
  left    : Nat
  lead    : Bool
  sent    : List Nat
  next    : Nat
  pub     : Nat
  dealt   : List (Option Nat)
  owed    : List (List Owed)
  pairs   : Tab (CWord × CWord)
  taken   : Nat
  passing : Option Nat
  passArg : Lane
  deriving DecidableEq, Repr

def RecqPart.empty : RecqPart :=
  { members := 0, left := 0, lead := false, sent := [], next := 0, pub := 0, dealt := [], owed := [], pairs := [],
    taken := 0, passing := none, passArg := 0 }

/-- A record queue of some members at installation. -/
def RecqPart.fresh (n : Nat) : RecqPart :=
  { RecqPart.empty with members := n, sent := List.replicate n 0, dealt := List.replicate n none, owed := List.replicate n [] }

/-- A word of the instruction cache: address and length of its form, the address of its code segment and of what follows
it there, the word, the bytes it was expanded from (R53). -/
structure CacheWord where
  addr  : Nat
  len   : Nat
  seg   : Nat
  next  : Nat
  word  : BitVec 96
  bytes : List Byte
  deriving DecidableEq, Repr

/-- What only a firmware core holds (R215-R223): system registers, event queue, return stack, instruction cache and its
code segments (base, length), the stopped marks, time since its last heartbeat, and the start of an `idle`. -/
structure FcPart where
  cstat  : BitVec 32
  tvec   : BitVec 32
  epc    : BitVec 32
  ecause : BitVec 32
  eval   : BitVec 64
  estat  : BitVec 32
  cycl   : BitVec 64
  evq    : List (BitVec 256)
  rstack : List (BitVec 32)
  icache : List CacheWord
  segs   : List (Nat × Nat)
  halted : Bool
  dead   : Bool
  beat   : Option Nat
  idleAt : Option Nat
  deriving DecidableEq, Repr

def FcPart.reset : FcPart :=
  { cstat := 0, tvec := 0, epc := 0, ecause := 0, eval := 0, estat := 0, cycl := 0, evq := [], rstack := [],
    icache := [], segs := [], halted := false, dead := false, beat := none, idleAt := none }

/-- A unit stopped at a restartable fault (R160, R380): class, subcause, the position at which it resumes, the fault
record and its address, the tile it needed, and the true time at which it stopped (R370). -/
structure Stop where
  cls   : Nat
  sub   : Nat
  pos   : Nat
  frec  : BitVec 2048
  addr  : Nat
  tile  : Nat
  since : Nat
  deriving DecidableEq, Repr

/-- What an actor is, beside its class: an ordinary actor, a record queue, or a channel buffer (R291). -/
inductive Role where
  | actor | recq | buffer
  deriving DecidableEq, Repr

/-- One element with its actor, or one firmware core (R62). Parts that a class does not hold stay at their initial
value. `pipe` are the firings of a stream actor that have entered S1 behind the one at work (R78, R365; log 141); `fcnt` counts up to the
one at work. -/
structure Elem where
  cls    : Cls
  role   : Role
  act    : Nat
  rgn    : Nat
  site   : BitVec 32
  die    : Nat
  folio  : Nat
  s      : Vector Reg 64
  k      : Vector Reg 64
  m      : Vector Mask 3
  x      : Vector Scale 8
  sticky : BitVec 5
  fcnt   : BitVec 32
  invk   : BitVec 32
  phnum  : BitVec 32
  ins    : Vector InChan 32
  outs   : Vector OutChan 16
  cls4   : Vector Clause 4
  body   : List (BitVec 96)
  strm   : Bool
  merge  : Bool
  busy   : Bool
  run    : Run
  pipe   : List Run
  sect   : Bool
  armc   : Nat
  armIn  : Nat
  armOut : Option Nat
  stop   : Option Stop
  halted : Bool
  frozen : Bool
  mark   : Option Nat
  dead   : Bool
  blot   : Bool
  store  : Store
  ve     : VePart
  ag     : AgPart
  ra     : RaPart
  rq     : RecqPart
  fc     : FcPart
  deriving DecidableEq, Repr

/-- An element of a class as an installation without any value leaves it (R64), not yet placed. -/
def Elem.blank (c : Cls) : Elem :=
  { cls := c, role := .actor, act := 0, rgn := 0, site := 0, die := 0, folio := 0, s := Vector.replicate 64 Reg.zero,
    k := Vector.replicate 64 Reg.zero, m := Vector.replicate 3 Mask.installed, x := Vector.replicate 8 Scale.installed,
    sticky := 0, fcnt := 0, invk := 0, phnum := 0, ins := Vector.replicate 32 InChan.unbound,
    outs := Vector.replicate 16 OutChan.unbound, cls4 := Vector.replicate 4 Clause.unused, body := [], strm := false,
    merge := false, busy := false, run := Run.idle, pipe := [], sect := false, armc := 0, armIn := 0, armOut := none, stop := none,
    halted := false, frozen := false, mark := none, dead := false, blot := false, store := Store.empty, ve := VePart.empty,
    ag := AgPart.empty, ra := RaPart.empty, rq := RecqPart.empty, fc := FcPart.reset }

/-- A gate of a region (R303, R341, R343): an input gate holds its seeds, how many it has admitted and whether its drain
is placed; an output gate holds its buffer, capacity, and counts. `inp` and `out` are its end of the channel. -/
structure Gate where
  isOut    : Bool
  out      : OutChan
  inp      : InChan
  seeds    : List CWord
  admitted : Nat
  drained  : Bool
  held     : Bool
  buf      : Nat
  cap      : Nat
  written  : Nat
  dropped  : Nat
  closed   : Bool
  passed   : Bool
  recd     : Bool
  deriving DecidableEq, Repr

/-- A complete snapshot as a restore loads it (R368-R371): marker number, the elements and gates as recorded, the fold
choice and the folios of the region recorded, and its launch. Its bytes stand in the snapshot area. -/
structure Snap where
  mkn    : Nat
  elems  : List Elem
  gates  : List Gate
  fold   : Nat
  folios : List (Nat × Nat)
  q      : Nat
  seq    : Nat
  deriving DecidableEq, Repr

/-- The unit at which a fault of class 13, 14 or 15 arises (R387, R398): a granule of memory, a way of an L2 slice, the memory
port of a die, the local store or the port of an element, AG or RA by its place, a bridge unit or peer link. -/
inductive FaultUnit where
  | granule (base : Nat)
  | slice (die folio way : Nat)
  | port (die : Nat)
  | elem (code : Nat)
  | link (die br : Nat)
  deriving DecidableEq, Repr

/-- A fault that firmware has answered by a restore (R387): class and unit, whether that was the restore under a new map, whether
it was attributed to a supply (R403), the address of its record, and the point at which it arose. -/
structure Retry where
  cls  : Nat
  unit : FaultUnit
  anew : Bool
  blamed : Bool
  frec : Nat
  point : List (Nat × Nat × Bool)
  deriving DecidableEq, Repr

/-- How a queue releases its launches when a packet is read (R332, R342): mode (0 not tick-aligned, 1 strict, 2 catch-up), origin stamp,
period. -/
structure Clk where
  tmod : Nat
  orig : Nat
  per  : Nat
  deriving DecidableEq, Repr

def Clk.none : Clk := { tmod := 0, orig := 0, per := 0 }

/-- The start of a tick (R197). -/
def Clk.start (c : Clk) (k : Nat) : Nat := c.orig + k * c.per

/-- A region (R320, R389): state and reset step of its control register, folios as (die, folio), its
gates, its launch, how its queue releases it, and the facts of the launch that last. `snap` is the marker number of a snapshot
that is not complete, `last` the last complete one, `fault` the class and the unit of the fault that halted it and whether a supply is blamed for it, `point` how far its actors had come
then (actor, firings begun, whether one was in progress),
`haltBy` the time by which a fault of a memory or link unit halts the region, `retry` the faults
that firmware has answered by a restore (R387), `place` the site of each actor. -/
structure Region where
  stt    : Nat
  rstp   : Nat
  err    : Bool
  ctx    : Nat
  q      : Nat
  seq    : Nat
  cfg    : Nat
  fold   : Nat
  folios : List (Nat × Nat)
  gates  : List Gate
  dbg    : Bool
  keep   : Bool
  opened : Option Nat
  ostmp  : Nat
  late   : Bool
  clk    : Clk
  tick   : Nat
  acked  : Bool
  hcode  : Option Nat
  status : Nat
  wdHeld : Nat
  snap   : Option Nat
  last   : Option Snap
  retry  : List Retry
  fault  : Option (Nat × FaultUnit × Bool)
  point  : List (Nat × Nat × Bool)
  haltBy : Option Nat
  frec   : Nat
  shash  : BitVec 64
  hops   : Nat
  place  : Tab Nat
  since  : Nat
  deriving DecidableEq, Repr

/-- A launch (R335-R344): its number in the module, its queue, the mapping of the queue that it belongs to and its sequence number,
its packet, what it depends on as queue, mapping and number, its phase (0 waiting, 1 granted, 2 evicted, 3 complete, 4 removed),
how its queue releases it, the tick of a strict queue, when it became ready (0: not yet), its region id and, while it has no region, the region as it
left it, whether it must be restored on the same folios (R387), its status, whether its gates have opened, and the address
of the fault record that removed it. -/
structure Launch where
  uid    : Nat
  q      : Nat
  ep     : Nat
  seq    : Nat
  pkt    : BitVec 1536
  needs  : List (Nat × Nat × Nat)
  phase  : Nat
  clk    : Clk
  tick   : Option Nat
  order  : Nat
  rgn    : Nat
  held   : Option Region
  same   : Bool
  status : Nat
  opened : Bool
  frec   : Nat
  deriving DecidableEq, Repr

/-- A queue (R332-R334, R386): descriptor address and working copy, whether it is mapped or stopped, its control
register, launches counted, the last tick assigned, the last tick at which its gates opened, and how many contexts it has
served before this one. -/
structure Queue where
  addr   : Option Nat
  desc   : BitVec 512
  mapped : Bool
  halt   : Bool
  ctl    : BitVec 64
  seqs   : Nat
  ticked : Option Nat
  released : Nat
  ep     : Nat
  deriving DecidableEq, Repr

def Queue.initial : Queue :=
  { addr := none, desc := 0, mapped := false, halt := false, ctl := 0, seqs := 0, ticked := none, released := 0, ep := 0 }

/-- A registered object (R318, R338): its context, its bytes as accepted, its bindings, whether it is still registered, and
the queue and the unregister packet that wait until no launch uses it. -/
structure Config where
  ctx   : Nat
  obj   : List Byte
  binds : List (BitVec 128)
  live  : Bool
  drop  : Option (Nat × BitVec 1536)
  deriving DecidableEq, Repr

/-- A bridge unit of a die (R2, R249, R250, R397): the sequence number expected next of each stream that enters by it,
whether its link has retrained since its last beacon, whether the bound of a retrain stands and since when, beacons on their way with the
true time at which each was sent, flits of kind 3 discarded, the link's minimum delay in ns. -/
structure Bridge where
  seqIn   : Tab Nat
  rtr     : Bool
  wideB   : Bool
  rtAt    : Nat
  beacons : List (Nat × BitVec 512)
  dropped : Nat
  dmin    : Nat
  deriving DecidableEq, Repr

def Bridge.initial : Bridge :=
  { seqIn := [], rtr := false, wideB := false, rtAt := 0, beacons := [], dropped := 0, dmin := 0 }

/-- A die (R192-R199, R379, R397): interval in 1/20,000 ns, limit, marks, rungs, age of the last beacon or
synchronisation in ns, beacon sequence number, bridges, fault ring and the records that wait for room in it, tile
invalidation register and whether an invalidation is under way. Die 32 is the command die. -/
structure Die where
  ear  : Nat
  lat  : Nat
  lim  : Nat
  wide : Bool
  lock : Bool
  hold : Bool
  hops : Nat
  bage : Nat
  bseq : Nat
  upst : Nat
  brs  : Tab Bridge
  ringBase : Nat
  ringSize : Nat
  ringHead : Nat
  ringTail : Nat
  waiting  : List (BitVec 2048)
  inv     : BitVec 128
  invBusy : Bool
  deriving DecidableEq, Repr

/-- A die right after module reset: interval (0, 2^64 - 1) and therefore too wide (R396), limit 2,000 ns (R193), the fault
ring of R379. Dies 0-31 are the fabric dies, 32 is the command die; those of the module at peer link `p` are 64 (p + 1) and
upward (R320, R350; log 113). -/
def Die.reset (d : Nat) : Die :=
  { ear := 0, lat := (2 ^ 64 - 1) * 20000, lim := 2000, wide := true, lock := false, hold := false, hops := 0, bage := 0,
    bseq := 0, upst := 0, brs := [], ringBase := (if d % 64 < 32 then d / 64 * 2 ^ 50 + d % 64 * 2 ^ 37 + 0x400000 else 0), ringSize := 0, ringHead := 0,
    ringTail := 0, waiting := [], inv := 0, invBusy := false }

/-- A sector held by an RDC (R258): die, region tag, byte address, contents, meta bits of its two granules, whether it holds
an uncorrectable error. -/
structure RdcSec where
  die  : Nat
  rgn  : Nat
  addr : Nat
  data : BitVec 1024
  pz   : BitVec 2
  tn   : BitVec 2
  bad  : Bool
  deriving DecidableEq, Repr

/-- A sector held by its home L2 slice (R256, R362, R363): its number in the module's memory, its way, the tenant class it is
charged to, which of its two granules hold an uncorrectable error. Its bytes are those of memory. -/
structure L2Sec where
  sec : Nat
  way : Nat
  tcl : Nat
  bad : BitVec 2
  deriving DecidableEq, Repr

/-- The version of a stamped sector that is not current (R171). -/
structure OldVer where
  data  : BitVec 1024
  stamp : Nat
  pz    : BitVec 2
  tn    : BitVec 2
  deriving DecidableEq, Repr

/-- The stamps of a stamped sector (R171): the current one, whose bytes stand in memory, and the previous version. -/
structure Ver where
  stamp : Nat
  prev  : Option OldVer
  deriving DecidableEq, Repr

/-- A stamped store held wet at its home (R172). -/
structure Wet where
  die   : Nat
  base  : Nat
  data  : BitVec 512
  mask  : BitVec 512
  pz    : Bool
  tn    : Bool
  stamp : Nat
  agent : Nat
  order : Nat
  deriving DecidableEq, Repr

/-- A pinned L2 line (R168): home slice, line address, way, the AG that pinned it. -/
structure Pin where
  die   : Nat
  folio : Nat
  line  : Nat
  way   : BitVec 4
  agent : Nat
  deriving DecidableEq, Repr

/-- A tile-cache entry of a folio's memory port (R358). -/
structure TileEnt where
  die   : Nat
  folio : Nat
  ctx   : Nat
  slot  : Nat
  gen   : Nat
  tile  : Nat
  piece : Option Nat
  ent   : BitVec 64
  deriving DecidableEq, Repr

/-- The supply of a folio (R400-R403): its register, the true time of its last step down, whether R403 holds its floor,
the level a boost lease gave it. -/
structure Supply where
  reg  : BitVec 32
  down : Nat
  held : Bool
  deriving DecidableEq, Repr

/-- A supply register right after module reset: level 20, safe 20, undervolting enabled (R401). -/
def Supply.reset : Supply := { reg := 0x00141480, down := 0, held := false }

/-- An L2 slice (R362, R405): the way mask of each tenant class, the ways that are gated, the accesses of the window that runs and those of
them that missed. -/
structure Slice where
  wmsk  : Tab (BitVec 16)
  gated : BitVec 16
  accs  : Nat
  miss  : Nat
  deriving DecidableEq, Repr

def Slice.reset : Slice := { wmsk := [], gated := 0, accs := 0, miss := 0 }

/-- A migration request that is pending (R360, R361): context, record, address of a host request's record, arrival. -/
structure Migr where
  ctx   : Nat
  req   : BitVec 256
  addr  : Nat
  order : Nat
  deriving DecidableEq, Repr

/-- The firmware images (R409): the committed and the canary image, the queues the host listed for the canary core, the
canary period in s, the time the canary started, the cores still to restart on an image committed. -/
structure Firmware where
  image  : List Byte
  canary : Option (List Byte)
  moved  : List Nat
  period : Nat
  since  : Nat
  todo   : List Nat
  deriving DecidableEq, Repr

/-- What happens at a turn: a unit executes its next word; firing `k` behind the one at work of a stream actor does (R78; log 141); a
step of the device takes place; or the device reconfigures a region by a `switch` at one of its input gates (R232; log 155). -/
inductive Act where
  | unit (u : UnitId)
  | stage (u k : Nat)
  | dev (i : Instr)
  | reconf (rgn gate : Nat) (cfg : Lane)
  deriving DecidableEq, Repr

/-- An uncorrectable error that the environment brings (R161, R380; log 120): in the cells of a granule of HBM, in a granule that an
L2 slice holds, in a sector that a die's RDC holds, in a granule of the local store of an element. -/
inductive Upset where
  | hbm (gran : Nat)
  | l2 (gran : Nat)
  | rdc (die addr : Nat)
  | store (unit gran : Nat)
  deriving DecidableEq, Repr

/-- One turn of the module (log 1): the errors that arise before it, the ns of true time and the local count that pass before it, and
what happens. -/
structure Turn where
  ns  : Nat
  ups : List Upset
  act : Act
  deriving DecidableEq, Repr

/-- The state of the module. `ctxAt` is where firmware keeps the context records (R351; log 52), `ats` the translations of the
host by link, PASID and page (R353), `sound` the soundness map, which R1 keeps in flash at no address that the spec gives and the model
keeps beside the bytes of `mem` (log 148), `mapSig` the entries over which the signature behind it was made (R398; log 135), `pool` the remaining time of the boost leases that have returned (R373). -/
structure State where
  elems   : List Elem
  cores   : Vector Elem 16
  cur     : UnitId
  agenda  : List Turn
  now     : Nat
  mem     : List Host.Cell
  gpz     : List Nat
  gtn     : List Nat
  bad     : List Nat
  vers    : Tab Ver
  wet     : List Wet
  rdc     : List RdcSec
  l2      : List L2Sec
  pins    : List Pin
  slices  : Tab Slice
  tiles   : List TileEnt
  ats     : List (Nat × Nat × Nat)
  mqs     : Tab (List Reg)
  dies    : Tab Die
  regions : Tab Region
  launches : List Launch
  queues  : Tab Queue
  configs : Tab Config
  ctxAt   : Nat
  migr    : List Migr
  routes  : Tab (BitVec 64)
  evseq   : Tab Nat
  evwait  : List (Nat × BitVec 256)
  sound   : List (BitVec 64)
  mapSig  : List (BitVec 64)
  mapBad  : Bool
  supply  : Tab Supply
  leases  : Tab Nat
  pool    : Tab Nat
  hbto    : Nat
  cmis    : Nat
  misAt   : List Nat
  safe    : Bool
  fw      : Firmware
  ptpLink : Nat
  linkDown : List Nat
  work    : Tab (List Nat)
  spdm    : List (List Byte)
  reads   : List (List Byte)
  msix    : List (Nat × Nat)
  orders  : Nat
  freeCtr : Nat
  deriving DecidableEq, Repr

/-- A firmware core right after module reset: registers as an installation leaves them, at code address 0 (log 3). -/
def coreReset (n : Nat) : Elem := { Elem.blank .fc with act := n, die := 32, busy := true }

/-- The module right after reset (R379, R396, R401, R408; log 3, log 4, log 6): no region is granted, no word is in any
element, memory lists nothing, and the nib pair stands at code address 0. -/
def State.reset : State :=
  { elems := [],
    cores := #v[coreReset 0, coreReset 1, coreReset 2, coreReset 3, coreReset 4, coreReset 5, coreReset 6, coreReset 7,
                coreReset 8, coreReset 9, coreReset 10, coreReset 11, coreReset 12, coreReset 13, coreReset 14, coreReset 15],
    cur := .fc 0, agenda := [], now := 0, mem := [], gpz := [], gtn := [], bad := [], vers := [], wet := [], rdc := [], l2 := [],
    pins := [], slices := [], tiles := [], ats := [], mqs := [], dies := [], regions := [], launches := [], queues := [], configs := [],
    ctxAt := 0x200000, migr := [], routes := [], evseq := [], evwait := [], sound := [], mapSig := [], mapBad := false, supply := [], leases := [], pool := [],
    hbto := 1000, cmis := 0, misAt := [], safe := false,
    fw := { image := [], canary := none, moved := [], period := 1, since := 0, todo := [] },
    ptpLink := 0, linkDown := [], work := [], spdm := [], reads := [], msix := [], orders := 0, freeCtr := 0 }

/-- Why the machine stops with a fault. The faults of the spec do not stop the machine: each is a next state in which the
fault has been raised as R215, R380 and R382 say. -/
inductive Fault where
  /-- Raised by step and by the operations when `cur` names no installed element and no core (log 2). Safe: the module has
  no such unit. -/
  | noUnit
  deriving DecidableEq, Repr

/-- Why a step has no meaning. -/
inductive Refusal where
  /-- Raised by an arm of exec whose instruction has no meaning yet. Safe: nothing is claimed of it. -/
  | notModelled (mnemonic : String)
  deriving DecidableEq, Repr

end Sys2Proof.Machine
end

