-- ==== Sys2Proof/Machine/Ops.lean ====
section
/-! DEFINITION. The shared operations: memory as cells, units, events (R219, R392-R395), faults and their records
(R380-R383), taking a trap on a firmware core and returning from it (R215, R218), and the frame of every instruction:
its class check, its completion, its hold, its trap (R44, R63, R76, R103). -/
namespace Sys2Proof.Machine

open Host (Cell)

-- Memory -----------------------------------------------------------------------------------------------------------

/-- The canonical form of a memory: addresses strictly rising and no byte that an unlisted address reads as (log 4). -/
def memWf : List Cell → Bool
  | [] => true
  | [(_, b)] => b != 0
  | (a, b) :: (c, d) :: r => b != 0 && decide (a < c) && memWf ((c, d) :: r)

/-- The byte at an address. An unlisted address reads 0 (log 4). -/
def memGet (m : List Cell) (a : Nat) : Byte :=
  match m with
  | [] => 0
  | (i, b) :: r => if i = a then b else memGet r a

/-- A byte with nothing listed for it is put in its place; a zero byte is left out. -/
def memSet (m : List Cell) (a : Nat) (v : Byte) : List Cell :=
  match m with
  | [] => if v = 0 then [] else [(a, v)]
  | (i, b) :: r =>
    if i = a then (if v = 0 then r else (a, v) :: r)
    else if a < i then (if v = 0 then (i, b) :: r else (a, v) :: (i, b) :: r)
    else (i, b) :: memSet r a v

/-- `n` bytes from an address upward. -/
def memBytes (m : List Cell) (a : Nat) : Nat → List Byte
  | 0 => []
  | n + 1 => memGet m a :: memBytes m (a + 1) n

/-- Bytes as a number, the first least significant (R18). -/
def leNat : List Byte → Nat
  | [] => 0
  | b :: r => b.toNat + 256 * leNat r

/-- `n` bytes from an address as a number, least significant first (R18). -/
def memNat (m : List Cell) (a n : Nat) : Nat := leNat (memBytes m a n)

/-- Bytes written from an address upward. -/
def memWrite (m : List Cell) (a : Nat) : List Byte → List Cell
  | [] => m
  | b :: r => memWrite (memSet m a b) (a + 1) r

/-- A list of granules in rising order with one more. -/
def granAdd (l : List Nat) (g : Nat) : List Nat :=
  match l with
  | [] => [g]
  | i :: r => if i = g then i :: r else if g < i then g :: i :: r else i :: granAdd r g

/-- The list with a granule in it, or without it. -/
def granSet (l : List Nat) (g : Nat) (v : Bool) : List Nat := if v then granAdd l g else l.filter (fun x => x != g)

-- Records ----------------------------------------------------------------------------------------------------------

/-- A record of fields, each a value at its lowest bit. -/
def fieldsNat (l : List (Nat × Nat)) : Nat := l.foldl (fun n f => n + f.2 * 2 ^ f.1) 0

/-- Bits `lo + n - 1 : lo` of a number. -/
def bitsAt (v lo n : Nat) : Nat := v / 2 ^ lo % 2 ^ n

/-- A Boolean as a bit. -/
def bit (b : Bool) : Nat := if b then 1 else 0

-- Units ------------------------------------------------------------------------------------------------------------

/-- A unit: an installed element, or a firmware core; there is no `coreid` 1 (R216). -/
def State.unit (s : State) : UnitId → Option Elem
  | .el n => s.elems[n]?
  | .fc n => if n = 1 then none else s.cores[n]?

/-- The state with a unit replaced. -/
def State.setUnit (s : State) (u : UnitId) (e : Elem) : State :=
  match u with
  | .el n => { s with elems := s.elems.set n e }
  | .fc n => { s with cores := s.cores.setIfInBounds n e }

/-- The state with an element changed. -/
def State.updElem (s : State) (n : Nat) (g : Elem → Elem) : State :=
  { s with elems := s.elems.modify n g }

/-- The state with every element changed. -/
def State.mapElems (s : State) (g : Elem → Elem) : State := { s with elems := s.elems.map g }

/-- A die; 32 is the command die. -/
def State.die (s : State) (d : Nat) : Die := Tab.get (Die.reset d) s.dies d

def State.setDie (s : State) (d : Nat) (x : Die) : State := { s with dies := Tab.set s.dies d x }

/-- The earliest of a die as a stamp (R192), rounded down. -/
def Die.early (d : Die) : Nat := d.ear / 20000

/-- The latest of a die as a stamp (R192), rounded up. -/
def Die.late (d : Die) : Nat := (d.lat + 19999) / 20000

/-- A region as it stands before a grant. -/
def Region.blank : Region :=
  { stt := 0, rstp := 0, err := false, ctx := 0, q := 0, seq := 0, cfg := 0, fold := 0, folios := [], gates := [],
    dbg := false, keep := false, opened := none, ostmp := 0, late := false, clk := Clk.none, tick := 0, acked := false,
    hcode := none, status := 0, wdHeld := 0, snap := none, last := none, retry := [], fault := none, point := [], haltBy := none, frec := 0, shash := 0,
    hops := 0, place := [], since := 0 }

def State.region (s : State) (r : Nat) : Region := Tab.get Region.blank s.regions r

def State.setRegion (s : State) (r : Nat) (x : Region) : State := { s with regions := Tab.set s.regions r x }

-- Events -----------------------------------------------------------------------------------------------------------

/-- The place of a source (R392): a die of this module by its number, what a peer module holds by its link. -/
def sourcePlace (d : Nat) : Nat := if d < 64 then d else 32 + d / 64

/-- A source number (R392): place, unit, index. -/
def srcNum (d unit index : Nat) : Nat := sourcePlace d * 2 ^ 26 + unit * 2 ^ 22 + index % 2 ^ 22

/-- The source number of an element, AG, RA or firmware core. -/
def Elem.src (e : Elem) : Nat :=
  match e.cls with
  | .fc => srcNum 32 8 e.act
  | .ag => srcNum e.die 1 (e.site.toNat % 1024)
  | .ra => srcNum e.die 2 (e.site.toNat % 1024 - 576)
  | _ => srcNum e.die 0 (e.site.toNat % 65536)

/-- The source number of a region. -/
def regionSrc (r : Nat) : Nat := srcNum 32 10 r

/-- The default route of an event kind (R394, R395). -/
def defaultRoute (kind : Nat) : Nat := if kind = 5 ∨ kind = 10 ∨ kind = 11 then 16 else 0

/-- The scribe whose inbox holds the work entry of a queue; where none holds one, its home scribe (R406). -/
def State.scribeOf (s : State) (q : Nat) : Nat :=
  match s.work.find? (fun w => w.2.contains q) with
  | some w => w.1
  | none => 2 + q % 12

/-- The queue an event names (R394). -/
def eventQueue (arg : Nat) : Nat := arg % 4096

/-- An event in the record of R219. -/
def eventRec (est seq arg kind src : Nat) : BitVec 256 :=
  BitVec.ofNat 256 (fieldsNat [(192, est % 2 ^ 64), (160, seq % 2 ^ 32), (96, arg % 2 ^ 64), (32, kind % 2 ^ 16), (0, src % 2 ^ 32)])

/-- An event enters a core's queue; where the queue is full it waits at its source (R219). -/
def deliverEvent (s : State) (core : Nat) (ev : BitVec 256) : State :=
  match s.cores[core]? with
  | none => s
  | some e =>
    if e.fc.evq.length < 256 ∧ s.evwait.all (fun w => w.1 != core) then
      { s with cores := s.cores.setIfInBounds core { e with fc := { e.fc with evq := e.fc.evq ++ [ev] } } }
    else { s with evwait := s.evwait ++ [(core, ev)] }

/-- An event is posted (R219, R392, R394, R395). -/
def postEvent (s : State) (kind arg src : Nat) : State :=
  let place := src / 2 ^ 26
  let est := (s.die (if place ≤ 32 then place else 32)).early
  let seq := Tab.get 0 s.evseq src
  let ev := eventRec est seq arg kind src
  let s := { s with evseq := Tab.set s.evseq src ((seq + 1) % 2 ^ 32) }
  let r := (Tab.get (BitVec.ofNat 64 (defaultRoute kind)) s.routes kind).toNat % 32
  deliverEvent s (if r = 16 then s.scribeOf (eventQueue arg) else r) ev

/-- A change of a region's state, which posts event 16 (R394, R412). -/
def setStt (s : State) (r stt : Nat) : State :=
  let g := s.region r
  if g.stt = stt then s
  else postEvent (s.setRegion r { g with stt := stt, since := s.now }) 16 (r + stt * 65536) (regionSrc r)

-- Traps ------------------------------------------------------------------------------------------------------------

/-- What an instruction can trap with (R217, R380). -/
inductive Trap where
  | instr
  | operand (d : Nat)
  | type (t : Nat)
  | xtrap (cause d off : Nat)
  | soft (code : Nat)
  | brk
  | align (c1 : Nat) (c2 : Option Nat) (kind : Nat)
  | unbal (c1 c2 l1 l2 kind : Nat)
  | poison (which d addr : Nat)
  | rate (ch dir decl found : Nat)
  | transl (sub port hdl tile addr : Nat)
  | handle (port hdl tile : Nat)
  | bounds (port hdl tile addr : Nat)
  | tooOld (stamp port : Nat) (ctr : Option (List Nat))
  | widen (width limit : Nat)
  | watchdog (sub limit : Nat)
  | engine (co fcs : Nat) (stp : Bool) (tile : Nat) (why : List Nat)
  | phys (addr : Nat)
  | flits (strm die link : Nat)
  | ecc (sub addr : Nat) (attr : Option Nat)
  | snapStop
  deriving DecidableEq, Repr

/-- The class and subcause of R380. -/
def Trap.cls : Trap → Nat × Nat
  | .instr => (6, 0)
  | .operand _ => (7, 0)
  | .type _ => (8, 0)
  | .xtrap c _ _ => (9, c)
  | .soft _ => (17, 0)
  | .brk => (18, 0)
  | .align _ _ _ => (11, 0)
  | .unbal _ _ _ _ _ => (12, 0)
  | .poison _ _ _ => (13, 0)
  | .rate _ _ _ _ => (10, 0)
  | .transl b _ _ _ _ => (1, b)
  | .handle _ _ _ => (2, 0)
  | .bounds _ _ _ _ => (3, 0)
  | .tooOld _ _ _ => (4, 0)
  | .widen _ _ => (5, 0)
  | .watchdog b _ => (16, b)
  | .engine _ fcs _ _ _ => (fcs / 8, fcs % 8)
  | .phys _ => (3, 0)
  | .flits _ _ _ => (15, 0)
  | .ecc b _ _ => (14, b)
  | .snapStop => (19, 0)

/-- Whether the fault is restartable (R160, R190, R380). -/
def Trap.restartable : Trap → Bool
  | .brk => true
  | .snapStop => true
  | .transl b _ _ _ _ => b == 1 || b == 3
  | .widen _ _ => true
  | .engine _ _ stp _ _ => stp
  | _ => false

/-- The tile of a translation fault (R383). -/
def Trap.tile : Trap → Nat
  | .transl _ _ _ tl _ => tl
  | .engine _ _ _ tl _ => tl
  | _ => 0

/-- `ecause` of R217. -/
def Trap.ecause : Trap → Nat
  | .instr => 1
  | .operand _ => 2
  | .type _ => 3
  | .xtrap _ _ _ => 4
  | .soft _ => 5
  | .brk => 6
  | .poison _ _ _ => 8
  | .tooOld _ _ _ => 9
  | .widen _ _ => 10
  | .engine _ _ _ _ _ => 11
  | _ => 7

/-- `eval` of R217, from the trapping word. -/
def Trap.eval (t : Trap) (w : BitVec 96) : Nat :=
  match t with
  | .instr => bitsAt w.toNat 88 8 + bitsAt w.toNat 84 4 * 256
  | .operand d => d
  | .type x => x
  | .xtrap c d off => off % 2 ^ 24 + c % 16 * 2 ^ 24 + d % 1024 * 2 ^ 28
  | .soft c => c
  | .poison _ _ a => a
  | .tooOld st _ _ => st
  | .widen wd _ => wd
  | .engine co fcs stp _ _ => fcs % 64 + co % 32 * 64 + bit stp * 2048
  | .phys a => a
  | _ => 0

/-- The lanes of `det` (R383), from the trapping word. -/
def Trap.det (t : Trap) (w : BitVec 96) : List Nat :=
  let wl := [bitsAt w.toNat 0 32, bitsAt w.toNat 32 32, bitsAt w.toNat 64 32]
  let two (x : Nat) := [x % 2 ^ 32, x / 2 ^ 32 % 2 ^ 32]
  match t with
  | .instr => wl
  | .operand d => wl ++ [d]
  | .type x => wl ++ [x]
  | .xtrap c d off => [c, d, off]
  | .soft c => [c]
  | .align a b k => [a, b.getD 0xFFFFFFFF, 0, 0, k]
  | .unbal a b l m k => [a, b, l, m, k]
  | .poison k d a => [k, d] ++ two a
  | .rate ch dir x y => [ch + 32 * dir, x, y]
  | .transl _ p h tl a => [p, h, tl] ++ two a
  | .handle p h tl => [p, h, tl]
  | .bounds p h tl a => [p, h, tl] ++ two a
  | .tooOld st p r => two st ++ [p, bit r.isSome]
  | .widen wd l => [wd, l]
  | .watchdog _ l => [l]
  | .engine _ _ _ _ l => l
  | .phys a => two a
  | .flits st d l => [d, if d = 32 ∧ l < 2 then 3 else l, st]
  | .ecc _ a v => two a ++ (match v with | some f => [1, f] | none => [])
  | _ => []

-- Fault records and rings ------------------------------------------------------------------------------------------

/-- The fields of a fault record that name a firing (R382); loop 0 is the outermost. -/
def firingFields (e : Elem) : List (Nat × Nat) :=
  if e.busy then
    let lv := e.run.loops.reverse
    (lv.mapIdx fun i l => (48 * i + 1200, l.start % 65536 + l.stop % 65536 * 65536 + l.left % 65536 * 2 ^ 32))
      ++ [(1192, e.run.loops.length), (1191, bit e.run.fp), (1190, bit e.run.ft), (1176, e.run.clause), (1160, e.run.pos)]
  else [(1176, 0xFF), (1160, 0xFFFF)]

/-- The unit kind of R369 and R382. -/
def Elem.ek (e : Elem) : Nat :=
  match e.role, e.cls with
  | .recq, _ => 4
  | .buffer, _ => 5
  | _, .ve => 0
  | _, .se => 1
  | _, .ag => 2
  | _, .ra => 3
  | _, .fc => 11

/-- The fields of a fault record that name a region's launch (R382). -/
def launchFields (s : State) (r : Nat) : List (Nat × Nat) :=
  let g := s.region r
  [(960, r), (944, g.q), (912, g.seq), (896, g.ctx)]

/-- The fault record of a trap of an element (R382, R383). -/
def elemRecord (s : State) (e : Elem) (t : Trap) (w : BitVec 96) (disp : Nat) : BitVec 2048 :=
  let ctr := match t with
    | .tooOld _ _ (some c) => c
    | _ => e.ag.nest.ctr
  BitVec.ofNat 2048 (fieldsNat (
    ((t.det w).mapIdx fun i x => (1536 + 32 * i, x % 2 ^ 32))
    ++ (if e.cls = .ag then ctr.mapIdx (fun i x => (1392 + 24 * i, x % 2 ^ 24)) else [])
    ++ firingFields e
    ++ [(1152, e.ek), (1088, (s.die e.die).early), (992, e.site.toNat), (976, e.act)]
    ++ launchFields s e.rgn
    ++ [(32, disp), (24, t.cls.1), (16, t.cls.2)]))

/-- The source of a bridge unit from the number at its site (R392; log 153). -/
def bridgeSrc (d no : Nat) : Nat :=
  if no < 4 then srcNum d 3 no else if no < 12 then srcNum (64 * (no - 3)) 3 0 else srcNum (d / 64 * 64 + 32) 3 (no - 12)

/-- The source of the event that follows a fault record, from its unit kind and site (R382, R392). -/
def recordSrc (d : Nat) (r : BitVec 2048) : Nat :=
  let n := r.toNat
  let ek := bitsAt n 1152 8
  let site := bitsAt n 992 32
  if ek = 11 then regionSrc (bitsAt n 960 16)
  else if ek = 2 then srcNum d 1 (site % 1024)
  else if ek = 3 then srcNum d 2 (site % 1024 - 576)
  else if ek = 8 then srcNum d 5 (site % 65536)
  else if ek = 9 then srcNum d 4 (site % 65536)
  else if ek = 10 then bridgeSrc d (site % 65536)
  else srcNum d 0 (site % 65536)

/-- The die whose ring takes the faults of a die: a command die's go to die 0 of its module (R382). -/
def ringDie (d : Nat) : Nat := if d % 64 < 32 then d else d / 64 * 64

/-- The events that follow a record (R382, R412): a fault, and for a launch watchdog its own behind it. -/
def recordEvents (d addr : Nat) (r : BitVec 2048) (s : State) : State :=
  let s := postEvent s 1 addr (recordSrc d r)
  if bitsAt r.toNat 1152 8 = 11 ∧ bitsAt r.toNat 24 8 = 16 then postEvent s 14 (bitsAt r.toNat 960 16) (recordSrc d r) else s

/-- Waiting records enter the ring while it has room; each is published before its events are posted (R382, R393, R412). -/
def flushRing : Nat → Nat → State → State
  | 0, _, s => s
  | n + 1, d, s =>
    let x := s.die d
    match x.waiting with
    | [] => s
    | r :: rest =>
      if (x.ringTail + 2 ^ 32 - x.ringHead) % 2 ^ 32 < 2 ^ (x.ringSize + 4) then
        let addr := x.ringBase + 256 * (x.ringTail % 2 ^ (x.ringSize + 4))
        let s := s.setDie d { x with waiting := rest, ringTail := (x.ringTail + 1) % 2 ^ 32 }
        let s := { s with mem := memWrite s.mem addr (littleBytes 256 r.toNat) }
        flushRing n d (recordEvents d addr r s)
      else s

/-- A fault record is written into its die's ring, or waits for room there (R382). -/
def putRecord (s : State) (d : Nat) (r : BitVec 2048) : State :=
  let d := ringDie d
  let x := s.die d
  let s := s.setDie d { x with waiting := x.waiting ++ [r] }
  flushRing (x.waiting.length + 1) d s

/-- Where the next record of a die will stand. -/
def nextRecordAddr (s : State) (d : Nat) : Nat :=
  let x := s.die (ringDie d)
  x.ringBase + 256 * ((x.ringTail + x.waiting.length) % 2 ^ (x.ringSize + 4))

/-- A region halts: every element of it stops issuing (R380). A region under removal stays as it is. -/
def haltRegion (s : State) (r : Nat) : State :=
  let s := s.mapElems (fun e => if e.rgn = r then { e with halted := true } else e)
  if r = 0 ∨ 5 ≤ (s.region r).stt then s else setStt s r 4

/-- A region whose traffic met a fault of a memory or link unit halts within 2 us (R380); until then its elements go on (R147). -/
def haltSoon (s : State) (r : Nat) : State :=
  let g := s.region r
  if r = 0 ∨ g.stt = 0 ∨ 4 ≤ g.stt then s else s.setRegion r { g with haltBy := some (g.haltBy.getD (s.now + 2000)) }

/-- The regions whose halt is due. -/
def haltDue (s : State) : State :=
  (s.regions.filter (fun p => p.2.haltBy.any (fun t => decide (t ≤ s.now)))).foldl (fun s p =>
    let s := haltRegion s p.1
    s.setRegion p.1 { s.region p.1 with haltBy := none }) s

/-- The place of an element, AG or RA in the fabric (R5, R213), with the number of its die in the bits from 16 up. -/
def Elem.code (e : Elem) : Nat := e.site.toNat / 2 ^ 31 * 2 ^ 31 + e.die * 65536 + e.site.toNat % 65536

/-- The unit of an element's fault (R387): the granule that a poisoned word came from where that is known, else the element. -/
def Trap.unitOf (t : Trap) (e : Elem) : FaultUnit :=
  match t with
  | .poison _ _ a => if a = 0 then .elem e.code else .granule (a / 64 * 64)
  | _ => .elem e.code

/-- Whether an error is attributed to a supply (R403). -/
def Trap.blamed : Trap → Bool
  | .ecc _ _ v => v.isSome
  | _ => false

/-- The halting fault of a region noted: class and unit, where its record will stand, and the status of a removal (R387, R388,
R344). A later fault of a region that has halted changes none of them. -/
def noteFault (s : State) (r d : Nat) (u : FaultUnit) (t : Trap) : State :=
  if r = 0 ∨ (s.region r).fault.isSome then s
  else s.setRegion r { s.region r with fault := some (t.cls.1, u, t.blamed),
                                       point := (s.elems.filter (fun e => e.rgn == r && !e.dead)).map (fun e => (e.act, e.fcnt.toNat, e.busy)),
                                       frec := nextRecordAddr s d,
                                       status := if t.cls.1 = 16 then 5 else 3 }

/-- An element raises a fault (R76, R160, R380-R382). Nothing of the trapping instruction takes effect. -/
def raiseFault (s : State) (n : Nat) (e : Elem) (t : Trap) (w : BitVec 96) : State :=
  if t.restartable then
    let r := elemRecord s e t w 1
    let x : Stop := { cls := t.cls.1, sub := t.cls.2, pos := e.run.pos, frec := r, addr := nextRecordAddr s e.die, tile := t.tile,
                      since := s.now }
    let e := { e with stop := some x }
    putRecord (s.setUnit (.el n) e) e.die r
  else
    let r := elemRecord s e t w 2
    let s := haltRegion (s.setUnit (.el n) e) e.rgn
    putRecord (noteFault s e.rgn e.die (t.unitOf e) t) e.die r

-- Traps of a firmware core -----------------------------------------------------------------------------------------

/-- `cstat.inh` (R216). -/
def FcPart.inh (c : FcPart) : Bool := c.cstat.getLsbD 0

/-- `cstat.dbg` (R216). -/
def FcPart.dbg (c : FcPart) : Bool := c.cstat.getLsbD 1

/-- The segments of a firmware image (R409): load address, length, offset. -/
def imageSegs (img : List Byte) : Nat → List (Nat × Nat × Nat)
  | 0 => []
  | n + 1 =>
    let k := imageSegs img n
    let e := leNat ((img.drop (64 + 16 * n)).take 16)
    k ++ [(bitsAt e 0 32, bitsAt e 32 32, bitsAt e 64 32)]

/-- A core starts on an image: its segments are loaded, its constants are the image's, its other registers are as an
installation leaves them, it continues at the entry address (R65, R216, R315, R409; log 3, log 6, log 128). -/
def startImage (s : State) (core : Nat) (img : List Byte) : State :=
  let h := leNat (img.take 64)
  let segs := imageSegs img (bitsAt h 96 32)
  let mem := segs.foldl (fun m g => memWrite m g.1 ((img.drop g.2.2).take g.2.1)) s.mem
  let e := { coreReset core with k := Vector.ofFn (fun i => Reg.ofPay (Config.imageConst img i.val)) }
  let old := s.cores[core]?.getD e
  let e := { e with run := { e.run with pos := bitsAt h 128 32 },
                    fc := { e.fc with segs := segs.map (fun g => (g.1, g.2.1)), evq := old.fc.evq, cycl := old.fc.cycl, beat := old.fc.beat } }
  { s with mem := mem, cores := s.cores.setIfInBounds core e }

/-- A core starts again on the image that it runs (R407): what lives until the image changes stays, its objects and engine operations,
its last stamp, its system registers and its return stack (R185, R195, R216, R223; log 147). -/
def restartImage (s : State) (core : Nat) (img : List Byte) : State :=
  let t := startImage s core img
  match s.cores[core]?, t.cores[core]? with
  | some old, some e =>
    let fc := { old.fc with segs := e.fc.segs, icache := [], halted := false, dead := false, idleAt := none }
    { t with cores := t.cores.setIfInBounds core { e with ag := old.ag, fc := fc } }
  | _, _ => t

/-- The nib pair is stopped and restarted from the current image (R407): the mismatch is counted, and three within 1 s
put the module into its safe state and raise MSI-X vector 0 of both functions. -/
def nibRestart (s : State) : State :=
  let at' := (s.misAt ++ [s.now]).filter (fun t => decide (s.now < t + 1000000000))
  let s := restartImage s 0 s.fw.image
  let s := { s with cmis := (s.cmis + 1) % 65536, misAt := at' }
  if 3 ≤ at'.length then { s with safe := true, msix := s.msix ++ [(0, 0), (1, 0)] } else s

/-- A queue whose work entry stands in the inbox of a core. -/
def addWork (s : State) (core q : Nat) : State :=
  { s with work := Tab.set s.work core (Tab.get [] s.work core ++ [q]) }

/-- An update reverted (R409): core 14 stops, its queues return to the scribes. -/
def revertCanary (s : State) : State :=
  if s.fw.canary.isNone then s
  else
    let back := Tab.get [] s.work 14
    let s := { s with fw := { s.fw with canary := none, moved := [] }, work := Tab.del s.work 14 }
    let s := back.foldl (fun s q => addWork s (2 + q % 12) q) s
    match s.cores[14]? with
    | some e => s.setUnit (.fc 14) { e with fc := { e.fc with halted := true } }
    | none => s

/-- A firmware core takes a trap (R215). -/
def coreTrap (s : State) (n : Nat) (e : Elem) (epc : Nat) (t : Trap) (w : BitVec 96) : State :=
  if e.fc.inh then
    let s := s.setUnit (.fc n) { e with fc := { e.fc with halted := true } }
    let s := postEvent s 4 n (srcNum 32 8 n)
    if n = 0 then nibRestart s else if n = 14 then revertCanary s else s
  else
    let c := { e.fc with epc := BitVec.ofNat 32 epc, ecause := BitVec.ofNat 32 t.ecause, eval := BitVec.ofNat 64 (t.eval w),
                         estat := e.fc.cstat, cstat := e.fc.cstat ||| 1 }
    s.setUnit (.fc n) { e with fc := c, run := { e.run with pos := c.tvec.toNat } }

/-- The return from a trap (R218): `cstat` := `estat`, continue at `epc`. -/
def coreReturn (e : Elem) : Elem :=
  { e with fc := { e.fc with cstat := e.fc.estat }, run := { e.run with pos := e.fc.epc.toNat } }

-- The frame of every instruction -------------------------------------------------------------------------------------

/-- Why an instruction does not complete: it holds issue, or it traps. -/
inductive Halt where
  | hold (h : Hold)
  | trap (t : Trap)
  deriving DecidableEq, Repr

/-- The work of an instruction up to its effect. -/
abbrev Res (α : Type) := Except Halt α

/-- Where a unit goes after an instruction: to the next word, closing the loops that end here (R103); to a position;
where the instruction has put it; or into a fault that follows the completed instruction (R136). -/
inductive Flow where
  | seq | goto (p : Nat) | stay | fault (t : Trap)
  deriving DecidableEq, Repr

/-- An instruction that has completed: its unit, the rest of the state, where its unit goes. -/
structure Done where
  elem : Elem
  st   : State
  flow : Flow

/-- A hold on a requantiser or queue count, which the watchdog counts (R384). -/
def holdCount {α : Type} : Res α := .error (.hold .count)

/-- A hold that it does not count (R384). -/
def holdFree {α : Type} : Res α := .error (.hold .free)

def trap {α : Type} (t : Trap) : Res α := .error (.trap t)

/-- A check that traps. -/
def need (ok : Bool) (t : Trap) : Res Unit := if ok then .ok () else trap t

/-- A check that holds issue on a channel slot count. -/
def await (ok : Bool) : Res Unit := if ok then .ok () else .error (.hold .slots)

/-- A check that holds issue on a requantiser or queue count. -/
def awaitCount (ok : Bool) : Res Unit := if ok then .ok () else holdCount

/-- A check that holds issue on an answer of memory, an engine or time. -/
def awaitFree (ok : Bool) : Res Unit := if ok then .ok () else holdFree

/-- Loops that end at a word that has completed, innermost first, until one has iterations left (R103). -/
def closeLoops (loops : List LoopLvl) (pos next : Nat) : List LoopLvl × Nat :=
  match loops with
  | [] => ([], next)
  | l :: r =>
    if l.stop = pos then
      (if 1 < l.left then ({ l with left := l.left - 1 } :: r, l.start) else closeLoops r pos next)
    else (l :: r, next)

/-- The word of a core's expanded code at an address. -/
def wordAt (c : List CacheWord) (pos : Nat) : Option CacheWord := c.find? (fun w => w.addr == pos)

/-- The address of what follows the word at an address in its code segment: the next word's lead byte, and after the last
word the end of the segment (R53, R223; log 122). -/
def codeAfter (c : List CacheWord) (pos : Nat) : Nat :=
  match wordAt c pos with
  | some w => w.next
  | none => pos + 13

/-- The position of the word that follows the current one. -/
def Elem.nextPos (e : Elem) : Nat :=
  if e.cls = .fc then codeAfter e.fc.icache e.run.pos else e.run.pos + 1

/-- What the cycle of an instruction adds: a core's cycles (R216), the cycles since an array's last feed (R205). -/
def Elem.cycle (e : Elem) : Elem :=
  match e.cls with
  | .fc => { e with fc := { e.fc with cycl := e.fc.cycl + 1 } }
  | .ra => { e with ra := { e.ra with since := min 2 (e.ra.since + 1) } }
  | _ => e

/-- The unit after an instruction: its place, where `next` is what followed it when it was issued, and the watchdog count
that every issue resets (R384). -/
def Elem.advance (e : Elem) (next : Nat) (fl : Flow) : Elem :=
  let e := e.cycle
  let r := { e.run with held := 0, wait := none }
  match fl with
  | .seq =>
    let (l, p) := closeLoops r.loops r.pos next
    { e with run := { r with loops := l, pos := p } }
  | .goto p => { e with run := { r with pos := p } }
  | .stay => { e with run := r }
  | .fault _ => { e with run := r }

/-- The unit after a cycle in which it held issue: nothing changes but the watchdog count and what it holds on (R73, R384). -/
def Elem.hold (e : Elem) (h : Hold) : Elem :=
  let e := e.cycle
  { e with run := { e.run with held := (if h = .free then e.run.held else e.run.held + 1), wait := some h } }

/-- Whether an element has come to its first stop point behind a marker: it goes no further before it has recorded (R365). A stream actor
stands at one in every cycle in which S1 starts no firing. -/
def Elem.parked (e : Elem) : Bool :=
  e.mark.isSome && (if e.role = .recq then e.rq.left == 0 && e.rq.sent.all (fun n => n == 0) else !e.busy || e.strm || e.run.wait == some .slots)

/-- A unit traps at a word: an element raises a fault, a core enters its handler, with `epc` after the word for `trap`
and `bkpt` (R76, R215). -/
def takeTrap (s : State) (u : UnitId) (e : Elem) (t : Trap) (w : BitVec 96) : State :=
  match u with
  | .el n => raiseFault s n e t w
  | .fc n =>
    let after := match t with
      | .soft _ => true
      | .brk => true
      | _ => false
    coreTrap s n e (if after then e.nextPos else e.run.pos) t w

/-- The effect of an instruction on a unit. -/
abbrev Body := State → Fields → Elem → Res Done

/-- A unit after its instruction, with what the instruction's effects on the rest of the module brought to it: the
events that reached its queue, and the halt of its region. -/
def rejoin (st : State) (u : UnitId) (old e : Elem) : Elem :=
  match st.unit u with
  | none => e
  | some c => { e with halted := e.halted || c.halted, fc := { e.fc with evq := e.fc.evq ++ c.fc.evq.drop old.fc.evq.length } }

/-- The result of an instruction's work, put into the state. -/
def settle (s : State) (u : UnitId) (e : Elem) (w : BitVec 96) (r : Res Done) : State :=
  match r with
  | .ok d =>
    match d.flow with
    | .fault t => takeTrap d.st u ((rejoin d.st u e d.elem).advance e.nextPos d.flow) t w
    | fl => d.st.setUnit u ((rejoin d.st u e d.elem).advance e.nextPos fl)
  | .error (.hold h) => s.setUnit u (e.hold h)
  | .error (.trap t) => takeTrap s u e t w

/-- The classes that may execute an op (R63). -/
def classesOf (op : BitVec 8) : List Cls :=
  let n := op.toNat
  if n = 0 ∨ n = 0x0A ∨ n = 0x0B ∨ (0x10 ≤ n ∧ n ≤ 0x12) ∨ n = 0xFF then [.ve, .se, .ag, .ra, .fc]
  else if n ≤ 0x08 then [.ve, .se, .ag, .ra]
  else if 0x20 ≤ n ∧ n ≤ 0x3F then [.ve, .se, .ag, .fc]
  else if 0x40 ≤ n ∧ n ≤ 0x54 then [.ve, .fc]
  else if (0x60 ≤ n ∧ n ≤ 0x68) ∨ n = 0x70 ∨ n = 0x71 then [.ve]
  else if 0x72 ≤ n ∧ n ≤ 0x76 then [.ve, .se]
  else if 0x80 ≤ n ∧ n ≤ 0x89 then [.ag]
  else if (0x90 ≤ n ∧ n ≤ 0x96) ∨ (0xA0 ≤ n ∧ n ≤ 0xA7) ∨ (0xB0 ≤ n ∧ n ≤ 0xB4) then [.ag, .fc]
  else if 0xC0 ≤ n ∧ n ≤ 0xC4 then [.ra]
  else if (0xD0 ≤ n ∧ n ≤ 0xD2) ∨ n = 0xE0 ∨ n = 0xE8 ∨ n = 0xE9 then [.ve, .se, .ag, .fc]
  else if (0xD3 ≤ n ∧ n ≤ 0xD5) ∨ (0xE1 ≤ n ∧ n ≤ 0xEC) then [.fc]
  else []

/-- An instruction: the class check of R63 (R16, R44), then its work. -/
def issue (op : BitVec 8) (body : Body) (f : Fields) (s : State) : Host.Outcome State Fault Refusal :=
  match s.unit s.cur with
  | none => .fault .noUnit
  | some e =>
    .next (settle s s.cur e (wordOf op f) (if (classesOf op).contains e.cls then body s f e else trap .instr))

/-- A step of the device on an element; where the element is missing, nothing happens (log 2). -/
def onElem (s : State) (n : Nat) (g : Elem → State) : State :=
  match s.elems[n]? with
  | none => s
  | some e => g e

end Sys2Proof.Machine
end

