-- ==== Sys2Proof/Machine/Flags.lean ====
section
/-! DEFINITION. The flags an instruction computes: the sticky flags of the active lanes (R38, R42) and the PZ and TN
bits of a destination with the flow bits (R22, R86, R87). -/
namespace Sys2Proof.Machine

/-- The mask registers m0-m3: bits, PZ, TN (R46, R86). -/
def Elem.mask (e : Elem) (k : Nat) : Mask :=
  if k = 0 then { bits := 0xFFFF, pz := false, tn := false } else e.m.toList.getD (k - 1) Mask.installed

/-- Whether a lane is active (R42): its bit of the mask named by `pm`, and lane 0 only where `ln` = 1. -/
def laneActive (e : Elem) (f : Fields) (i : Nat) : Bool :=
  (e.mask f.pm.toNat).bits.getLsbD i && (f.ln != 1 || i == 0)

/-- Whether every lane is active. -/
def allActive (e : Elem) (f : Fields) : Bool := (e.mask f.pm.toNat).bits == 0xFFFF && f.ln != 1

/-- Whether some lane is active. -/
def someActive (e : Elem) (f : Fields) : Bool :=
  if f.ln = 1 then (e.mask f.pm.toNat).bits.getLsbD 0 else (e.mask f.pm.toNat).bits != 0

/-- Flags ORed into the sticky register (R38). -/
def Elem.raise (e : Elem) (g : Flags) : Elem := { e with sticky := e.sticky ||| g }

/-- The flags that active lanes raise (R38, R42). -/
def laneFlags (act : Nat → Bool) (g : Nat → Flags) : Flags := flagsBelow (fun i => if act i then g i else 0) 16

/-- FP of the firing; a firmware core has none (R87). -/
def Elem.flowP (e : Elem) : Bool := e.cls != .fc && e.run.fp

/-- FT of the firing; a firmware core has none (R87). -/
def Elem.flowT (e : Elem) : Bool := e.cls != .fc && e.run.ft

/-- A source's PZ and TN ORed into the flow bits (R87). -/
def Elem.addFlow (e : Elem) (pz tn : Bool) : Elem :=
  if e.cls = .fc then e else { e with run := { e.run with fp := e.run.fp || pz, ft := e.run.ft || tn } }

/-- PZ of a destination (R22, R86, R87): the sources, the mask named by `pm`, the previous bit where a lane keeps its
value, FP. -/
def destPz (e : Elem) (f : Fields) (srcs : List Reg) (prev : Reg) (whole : Bool) : Bool :=
  srcs.any Reg.pz || (e.mask f.pm.toNat).pz || (!whole && prev.pz) || e.flowP

/-- TN of a destination, formed the same way (R22, R86, R87). -/
def destTn (e : Elem) (f : Fields) (srcs : List Reg) (prev : Reg) (whole : Bool) : Bool :=
  srcs.any Reg.tn || (e.mask f.pm.toNat).tn || (!whole && prev.tn) || e.flowT

end Sys2Proof.Machine
end

