-- ==== Sys2Proof/Machine/Operands.lean ====
section
/-! DEFINITION. Operand forms: designators and their checks (R44-R48), waits (R71-R73), type resolution (R28-R30), lane
forms (R42), companion words (R31, R32), publication and consumption of slots (R69, R72). -/
namespace Sys2Proof.Machine

-- Channels -----------------------------------------------------------------------------------------------------------

/-- `en`, capacity in slots, format, scale register and companion of a channel-table entry (R66, R67). -/
def entEn (x : BitVec 32) : Bool := x.getLsbD 31
def entCap (x : BitVec 32) : Nat := bitsAt x.toNat 18 12 + 1
def entPre (x : BitVec 32) : Nat := bitsAt x.toNat 13 5
def entFmt (x : BitVec 32) : Nat := bitsAt x.toNat 8 5
def entXs (x : BitVec 32) : Nat := bitsAt x.toNat 5 3
def entCmp (x : BitVec 32) : Nat := bitsAt x.toNat 0 5

def Elem.inch (e : Elem) (c : Nat) : InChan := e.ins.toList.getD c InChan.unbound
def Elem.outch (e : Elem) (c : Nat) : OutChan := e.outs.toList.getD c OutChan.unbound
def Elem.setIn (e : Elem) (c : Nat) (x : InChan) : Elem := { e with ins := e.ins.setIfInBounds c x }
def Elem.setOut (e : Elem) (c : Nat) (x : OutChan) : Elem := { e with outs := e.outs.setIfInBounds c x }

/-- The word `j` places behind the head (R71). -/
def Elem.slot (e : Elem) (c j : Nat) : CWord := (e.inch c).q.getD j CWord.zero

/-- The staging slot `j` places past the tail (R72): all zero until it is written in the firing. -/
def Elem.staging (e : Elem) (c j : Nat) : CWord := Tab.get CWord.zero e.run.stag (4 * c + j)

-- Designators --------------------------------------------------------------------------------------------------------

/-- The op of a word. -/
def opNo (w : BitVec 96) : Nat := (w.extractLsb' 88 8).toNat

/-- State registers a class holds (R62). -/
def Cls.nState : Cls → Nat
  | .ve => 64 | .se => 32 | .ag => 16 | .ra => 8 | .fc => 64

/-- Constant registers a class holds (R62). -/
def Cls.nConst : Cls → Nat
  | .ve => 64 | .se => 16 | .ag => 16 | .ra => 8 | .fc => 64

/-- Scale registers and sticky flags: every class but RA (R62). -/
def Cls.hasScale : Cls → Bool
  | .ra => false
  | _ => true

/-- A designator taken apart (R45). -/
inductive Des where
  | state (n : Nat)
  | special (n : Nat)
  | const (n : Nat)
  | slot (c j : Nat)
  | out (c j : Nat)
  | reserved
  deriving DecidableEq, Repr

def desOf (d : BitVec 10) : Des :=
  let n := d.toNat % 256
  match d.toNat / 256 with
  | 0 => if n < 64 then .state n else if n < 0xC0 then .reserved else .special n
  | 1 => if n < 64 then .const n else .reserved
  | 2 => .slot (n / 8) (n % 8)
  | _ => .out (n / 8) (n % 8)

def isSlot (d : BitVec 10) : Bool := d.toNat / 256 == 2
def isOut (d : BitVec 10) : Bool := d.toNat / 256 == 3
def desChan (d : BitVec 10) : Nat := d.toNat % 256 / 8
def desOfs (d : BitVec 10) : Nat := d.toNat % 8

/-- An input slot that exists (R47, R70, R85). -/
def slotOk (e : Elem) (c j : Nat) : Bool := e.cls != .fc && decide (j < 4) && entEn (e.inch c).ent

/-- An output slot that exists (R47, R70, R85). -/
def outOk (e : Elem) (c j : Nat) : Bool := e.cls != .fc && decide (j < 4) && decide (c < 16) && entEn (e.outch c).ent

/-- A special that can be read (R46, R62). -/
def specialOk (c : Cls) (n : Nat) : Bool :=
  decide (0xF8 ≤ n ∧ n ≤ 0xFF) || decide (0xF0 ≤ n ∧ n ≤ 0xF3) || (decide (0xE8 ≤ n ∧ n ≤ 0xEF) && c.hasScale)

/-- A designator that can be a source (R45-R48). -/
def srcOk (e : Elem) (d : BitVec 10) : Bool :=
  match desOf d with
  | .state n => decide (n < e.cls.nState)
  | .const n => decide (n < e.cls.nConst)
  | .special n => specialOk e.cls n
  | .slot c j => slotOk e c j
  | _ => false

/-- A state register the class holds. -/
def isState (e : Elem) (d : BitVec 10) : Bool := decide (d.toNat < e.cls.nState)

/-- A designator that can be a destination (R45-R48): a state register or an output slot. -/
def regOrOut (e : Elem) (d : BitVec 10) : Bool := isState e d || (isOut d && outOk e (desChan d) (desOfs d))

/-- A destination that may also be `zero`, which discards (R46). -/
def dstOk (e : Elem) (d : BitVec 10) : Bool := regOrOut e d || d == 0x0FF

/-- m1-m3 (R46). -/
def isMask (d : BitVec 10) : Bool := d == 0x0F1 || d == 0x0F2 || d == 0x0F3

/-- m0-m3 (R46). -/
def isMaskSrc (d : BitVec 10) : Bool := d == 0x0F0 || isMask d

/-- The number of a mask designator. -/
def maskNo (d : BitVec 10) : Nat := d.toNat % 4

/-- A mask read as a source: its bits in bits 15:0 of each lane (R46). -/
def maskReg (m : Mask) : Reg := { pay := Payload.splat (m.bits.setWidth 32), pz := m.pz, tn := m.tn }

/-- The value of a special (R46, R33, R22); on a firmware core `site`, `rgn` and `tkix` read 0 (log 126). -/
def special (s : State) (e : Elem) (n : Nat) : Reg :=
  let g := s.region e.rgn
  match n with
  | 0xFE => .ofPay (Payload.ofLanes (fun i => BitVec.ofNat 32 i))
  | 0xFD => .ofPay (Payload.splat e.site)
  | 0xFC => .ofPay (Payload.splat e.fcnt)
  | 0xFB => .ofPay (Payload.splat (BitVec.ofNat 32 e.rgn))
  | 0xFA => .ofPay (Payload.splat e.invk)
  | 0xF9 => .ofPay (Payload.splat e.phnum)
  | 0xF8 => { pay := Payload.splat (if g.clk.tmod = 0 then 0 else BitVec.ofNat 32 g.tick), pz := false, tn := g.clk.tmod == 2 }
  | _ =>
    if 0xF0 ≤ n ∧ n ≤ 0xF3 then maskReg (e.mask (n - 0xF0))
    else if 0xE8 ≤ n ∧ n ≤ 0xEF then
      let x := e.x.toList.getD (n - 0xE8) Scale.installed
      { pay := Payload.splat (x.ts.setWidth 32), pz := x.pz, tn := x.tn }
    else Reg.zero

/-- A channel word as an operand: a control word brings neither PZ nor TN (R20, R71). -/
def wordReg (w : CWord) : Reg := { pay := w.pay, pz := w.isData && w.pz, tn := w.isData && w.tn }

/-- The value of an operand (R45-R47, R71). Reading an output slot gives its staging slot. -/
def readDes (s : State) (e : Elem) (d : BitVec 10) : Reg :=
  match desOf d with
  | .state n => e.s.toList.getD n Reg.zero
  | .const n => e.k.toList.getD n Reg.zero
  | .special n => special s e n
  | .slot c j => wordReg (e.slot c j)
  | .out c j => wordReg (e.staging c j)
  | .reserved => Reg.zero

/-- A register or a staging slot written; `zero` discards (R46, R72). -/
def writeDes (e : Elem) (d : BitVec 10) (v : Reg) : Elem :=
  match desOf d with
  | .state n => { e with s := e.s.setIfInBounds n v }
  | .out c j =>
    { e with run := { e.run with stag := Tab.set e.run.stag (4 * c + j) { pay := v.pay, lr := false, ls := false, pz := v.pz, tn := v.tn } } }
  | _ => e

/-- The lanes of a destination: new where active, kept elsewhere (R42, R84). -/
def mergeLanes (act : Nat → Bool) (g : Nat → Lane) (old : Payload) : Payload :=
  Payload.ofLanes (fun i => if act i then g i else old.lane i)

/-- A destination written lane by lane, with PZ and TN of R22. Where PZ is set its payload is the ordinary result of the
sources, which the spec does not promise (log 121). -/
def put (s : State) (e : Elem) (f : Fields) (g : Nat → Lane) (srcs : List Reg) : Elem :=
  let prev := readDes s e f.d
  let whole := allActive e f
  writeDes e f.d { pay := mergeLanes (laneActive e f) g prev.pay, pz := destPz e f srcs prev whole, tn := destTn e f srcs prev whole }

/-- A destination written whole, whatever `pm` says; the flow bits are ORed in (R87). -/
def putWhole (e : Elem) (d : BitVec 10) (p : Payload) (pz tn : Bool) : Elem :=
  writeDes e d { pay := p, pz := pz || e.flowP, tn := tn || e.flowT }

/-- A mask with some bits replaced. -/
def maskBits (act : Nat → Bool) (g : Nat → Bool) (old : BitVec 16) : Nat → BitVec 16
  | 0 => 0
  | n + 1 => maskBits act g old n ||| ((BitVec.ofBool (if act n then g n else old.getLsbD n)).setWidth 16 <<< n)

/-- m1-m3 set. -/
def Elem.setMask (e : Elem) (k : Nat) (m : Mask) : Elem := { e with m := e.m.setIfInBounds (k - 1) m }

/-- The bits of a mask written (R86, R96, R100): PZ and TN by R22. -/
def putMask (e : Elem) (f : Fields) (g : Nat → Bool) (srcs : List Reg) : Elem :=
  let old := e.mask (maskNo f.d)
  let prev : Reg := { pay := 0, pz := old.pz, tn := old.tn }
  let whole := allActive e f
  e.setMask (maskNo f.d)
    { bits := maskBits (laneActive e f) g old.bits 16, pz := destPz e f srcs prev whole, tn := destTn e f srcs prev whole }

/-- Operand a after the lane form: with `ln` = 2 every lane receives lane 0 (R42). -/
def srcA (s : State) (e : Elem) (f : Fields) : Reg :=
  let r := readDes s e f.a
  if f.ln = 2 then { r with pay := Payload.splat (r.pay.lane 0) } else r

def srcB (s : State) (e : Elem) (f : Fields) : Reg := readDes s e f.b
def srcC (s : State) (e : Elem) (f : Fields) : Reg := readDes s e f.c

-- Type resolution ----------------------------------------------------------------------------------------------------

/-- The type of a channel's format for `ty` = 0 (R28). -/
def typeOfFmt (k : Nat) : Nat :=
  if 1 ≤ k ∧ k ≤ 12 then k else if k = 16 then 10 else if k = 17 then 11 else if k = 19 then 6 else 1

/-- The type a designator's channel gives, if it names a channel (R29); on a core, which has none, that of an unbound entry
(log 127). -/
def chanType (e : Elem) (d : BitVec 10) : Option Nat :=
  if isSlot d then some (typeOfFmt (entFmt (e.inch (desChan d)).ent))
  else if isOut d then some (typeOfFmt (entFmt (e.outch (desChan d)).ent))
  else none

/-- The resolved type (R29), from the operands an instruction uses, in the order a, b, c, d. -/
def resolve (e : Elem) (ty : BitVec 4) (used : List (BitVec 10)) : Nat :=
  if ty ≠ 0 then ty.toNat else (used.findSome? (chanType e)).getD 1

-- Checks and waits of an instruction ---------------------------------------------------------------------------------

/-- Free slots that a destination needs (R72). -/
def outWait (e : Elem) (d : BitVec 10) (w : BitVec 4) : Bool :=
  !isOut d || decide (max (desOfs d + 1) w.toNat ≤ (e.outch (desChan d)).free)

/-- Filled slots that a source needs (R71). -/
def inWait (e : Elem) (d : BitVec 10) (w : BitVec 4) : Bool :=
  !isSlot d || decide (max (desOfs d + 1) w.toNat ≤ (e.inch (desChan d)).q.length)

/-- Which operands an instruction uses: sources a, b, c, and the destination. -/
structure Uses where
  a : Bool
  b : Bool
  c : Bool
  d : Bool
  deriving DecidableEq, Repr

def usesA : Uses := { a := true, b := false, c := false, d := true }
def usesAB : Uses := { a := true, b := true, c := false, d := true }
def usesABC : Uses := { a := true, b := true, c := true, d := true }

/-- The waits that name no channel of the right kind trap (R44). -/
def waitsOk (u : Uses) (f : Fields) : Bool :=
  (!u.a || f.wa == 0 || isSlot f.a) && (!u.b || f.wb == 0 || isSlot f.b) && (!u.d || f.wd == 0 || isOut f.d)

/-- The used operands in the order of R29. -/
def usedDes (u : Uses) (f : Fields) : List (BitVec 10) :=
  (if u.a then [f.a] else []) ++ (if u.b then [f.b] else []) ++ (if u.c then [f.c] else []) ++ (if u.d then [f.d] else [])

/-- The first used source that may not be one (R45-R48). -/
def badSrc (u : Uses) (e : Elem) (f : Fields) : Option (BitVec 10) :=
  if u.a && !srcOk e f.a then some f.a
  else if u.b && !srcOk e f.b then some f.b
  else if u.c && !srcOk e f.c then some f.c
  else none

/-- Whether the waits of the used operands are met (R71-R73). -/
def ready (u : Uses) (e : Elem) (f : Fields) : Bool :=
  (!u.a || inWait e f.a f.wa) && (!u.b || inWait e f.b f.wb) && (!u.c || inWait e f.c 0) && (!u.d || outWait e f.d f.wd)

/-- A check on an operand. -/
def needDes (ok : Bool) (d : BitVec 10) : Res Unit := need ok (.operand d.toNat)

/-- The destination, if it may not be one (R45-R48). -/
def badDst (e : Elem) (f : Fields) : Option (BitVec 10) := if dstOk e f.d then none else some f.d

/-- The mask written, if it is not m1-m3 (R46). -/
def badMask (f : Fields) : Option (BitVec 10) := if isMask f.d then none else some f.d

/-- Traps on an operand that was found illegal. -/
def noBad (d : Option (BitVec 10)) : Res Unit :=
  match d with
  | some d => trap (.operand d.toNat)
  | none => .ok ()

/-- The checks of R44 in their order, and the waits: `instrOk` is what else keeps it from being an illegal instruction,
`bad` an illegal operand beside the sources used. The result is the resolved type. -/
def check (e : Elem) (f : Fields) (u : Uses) (instrOk : Bool) (types : Nat → Bool) (bad : Option (BitVec 10)) : Res Nat := do
  need (instrOk && f.ln != 3 && waitsOk u f) .instr
  need (types (resolve e f.ty (usedDes u f))) (.type (resolve e f.ty (usedDes u f)))
  noBad (badSrc u e f)
  noBad bad
  await (ready u e f)
  return resolve e f.ty (usedDes u f)

/-- The checks of an instruction that has neither a type nor a lane form. -/
def checkRaw (e : Elem) (f : Fields) (u : Uses) (instrOk : Bool) (bad : Option (BitVec 10)) : Res Unit := do
  need (instrOk && waitsOk u f) .instr
  noBad (badSrc u e f)
  noBad bad
  await (ready u e f)

-- Publication and consumption ----------------------------------------------------------------------------------------

/-- A word sent on an output; the free count drops (R69, R72). -/
def Elem.send (e : Elem) (c : Nat) (w : CWord) : Elem :=
  let o := e.outch c
  let e := e.setOut c { o with flight := o.flight ++ [.word w 0], free := o.free - 1 }
  { e with run := { e.run with pubs := Tab.set e.run.pubs c (Tab.get 0 e.run.pubs c + 1),
                               eoi := e.run.eoi || (w.isCtl && w.kind == 3) } }

/-- The outputs that are bound (R98). -/
def Elem.boundOuts (e : Elem) : List Nat := (List.range 16).filter (fun c => entEn (e.outch c).ent)

/-- The inputs that are bound. -/
def Elem.boundIns (e : Elem) : List Nat := (List.range 32).filter (fun c => entEn (e.inch c).ent)

/-- A malformed control word (R21). -/
def malformed (w : CWord) : Bool :=
  w.isCtl && (decide (w.kind.toNat = 0 ∨ 9 < w.kind.toNat)
    || (w.kind == 2 && !decide (2 ≤ w.arg.toNat ∧ w.arg.toNat ≤ 15)) || (w.kind == 7 && w.arg == 0))

/-- The place in its run after a word: a control word, or a word with LS = 1, ends the run (R32). -/
def wposAfter (p : Nat) (w : CWord) : Nat := if w.ls then 0 else p + 1

/-- The index and the head position of the companion data word that a weight word at queue position `j` needs, walking
the weight channel from its head (R32): how many companion words stand ahead of it. -/
def companionAt (q : List CWord) (wpos : Nat) : Nat → Nat × Nat
  | 0 => (wpos, 0)
  | j + 1 =>
    let (p, k) := companionAt q wpos j
    match q[j]? with
    | none => (p, k)
    | some w =>
      if w.isCtl then (0, k + (if p % 4 = 0 then 1 else 2))
      else if w.ls then (0, k + 1)
      else (p + 1, k + (if p % 4 = 3 then 1 else 0))

/-- Whether an input is bound with a companion (R28). -/
def Elem.hasCmp (e : Elem) (c : Nat) : Bool := entFmt (e.inch c).ent == 16 || entFmt (e.inch c).ent == 17

/-- The companion words that go with the consumption of the first `n` words of a weight channel (R32). -/
def Elem.cmpCount (e : Elem) (c n : Nat) : Nat :=
  if e.hasCmp c then (companionAt (e.inch c).q (e.inch c).wpos n).2 else 0

/-- The companion words that a weight channel's first `n` words need to stand there (R32). -/
def Elem.cmpNeed (e : Elem) (c n : Nat) : Nat :=
  if e.hasCmp c then
    let (p, k) := companionAt (e.inch c).q (e.inch c).wpos n
    if p % 4 = 0 then k else k + 1
  else 0

/-- Whether the companion word at a place is what R32 asks for the weight word at queue position `j`. -/
def Elem.cmpFits (e : Elem) (c j : Nat) : Bool :=
  let i := e.inch c
  let m := (e.inch (entCmp i.ent)).q
  match i.q[j]? with
  | none => true
  | some w =>
    let (p, k) := companionAt i.q i.wpos j
    if w.isCtl then
      let k' := if p % 4 = 0 then k else k + 1
      (p % 4 == 0 || (match m[k]? with | some x => x.isData | none => false))
        && (match m[k']? with | some x => x.isCtl && x.kind == w.kind && x.arg == w.arg | none => false)
    else match m[k]? with
      | some x => x.isData
      | none => false

/-- The E5M2 block scale of a lane of the weight word at queue position `j`: byte t of the companion word that covers it
scales lane t mod 16 (R32). -/
def Elem.blockScale (e : Elem) (c j lane : Nat) : Nat :=
  let i := e.inch c
  let (p, k) := companionAt i.q i.wpos j
  match (e.inch (entCmp i.ent)).q[k]? with
  | some x => (Payload.byte x.pay (16 * (p % 4) + lane)).toNat
  | none => 0

/-- Words removed from the head of a channel; their slots are freed and counted on the way back (R69, R92). -/
def Elem.eat (e : Elem) (c n : Nat) : Elem :=
  let i := e.inch c
  let gone := i.q.take n
  let e := e.setIn c { i with q := i.q.drop n, wpos := gone.foldl wposAfter i.wpos }
  let ph := gone.foldl (fun p w => if w.isCtl && w.kind == 8 then w.arg else p) e.phnum
  { e with phnum := ph,
           run := { e.run with cons := Tab.set e.run.cons c (Tab.get 0 e.run.cons c + n),
                               eoi := e.run.eoi || gone.any (fun w => w.isCtl && w.kind == 3),
                               halt := e.run.halt || gone.any (fun w => w.isCtl && w.kind == 9) } }

/-- Credits returned to the producing end of a channel (R69, R249): they are on their way until CREDIT_RETURN. -/
def giveCredit (s : State) (src : ChanEnd) (n : Nat) : State :=
  match src with
  | .el u ch => s.updElem u (fun e => let o := e.outch ch; e.setOut ch { o with cred := o.cred + n })
  | .gate r g =>
    let x := s.region r
    s.setRegion r { x with gates := x.gates.modify g (fun y => { y with out := { y.out with cred := y.out.cred + n } }) }

/-- The unit that executes, where it is an element. -/
def selfIs (s : State) (u : Nat) : Bool := s.cur == .el u

/-- Words consumed by the executing element: the element, and the producers' credits. Where the element feeds itself the
credit goes to the element that is carried along (R69). -/
def consume (s : State) (e : Elem) (c n : Nat) : State × Elem :=
  let src := (e.inch c).src
  let e := e.eat c n
  match src with
  | .el u ch =>
    if selfIs s u then (s, let o := e.outch ch; e.setOut ch { o with cred := o.cred + n })
    else (giveCredit s src n, e)
  | _ => (giveCredit s src n, e)

/-- A channel's words and the companion words that go with them consumed (R32, R92). -/
def consumeWith (s : State) (e : Elem) (c n : Nat) : State × Elem :=
  let k := e.cmpCount c n
  let m := entCmp (e.inch c).ent
  let (s, e) := consume s e c n
  if k = 0 then (s, e) else consume s e m k

end Sys2Proof.Machine
end

