-- ==== Sys2Proof/Machine/Flow.lean ====
section
/-! DEFINITION. Ops 0x00-0x12: channel and control words, masks, branches and loops within a firing (spec 04, R90-R105). -/
namespace Sys2Proof.Machine

/-- A completed instruction that goes on to the next word. -/
def done (s : State) (e : Elem) : Res Done := .ok { elem := e, st := s, flow := .seq }

/-- A completed instruction that goes to a place of its own. -/
def doneAt (s : State) (e : Elem) (fl : Flow) : Res Done := .ok { elem := e, st := s, flow := fl }

-- Slots and control words --------------------------------------------------------------------------------------------

def bodyNop : Body := fun s _ e => done s e

/-- `nop` (R90). -/
def execNop (f : Fields) (s : State) : Host.Outcome State Fault Refusal := issue 0x00 bodyNop f s

/-- The first rate term of the firing's clause that the firing has not met, of those on a channel the clause names
(R381): channel, direction, declared, found. -/
def rateMiss (e : Elem) : Option (Nat × Nat × Nat × Nat) :=
  let c := e.cls4.toList.getD e.run.clause Clause.unused
  (c.rates.find? (fun r =>
      (if r.out then c.outs.any (fun t => t.ch == r.ch) else c.ins.any (fun t => t.ch == r.ch))
      && decide (Tab.get 0 (if r.out then e.run.pubs else e.run.cons) r.ch ≠ r.wds))).map
    (fun r => (r.ch, bit r.out, r.wds, Tab.get 0 (if r.out then e.run.pubs else e.run.cons) r.ch))

/-- What the end of a firing counts: an invocation; an actor that consumed a `halt` retires (R46, R237). -/
def Elem.counted (e : Elem) : Elem :=
  { e with invk := if e.run.eoi then e.invk + 1 else e.invk,
           cls4 := if e.run.halt then e.cls4.map (fun c => { c with en := false }) else e.cls4 }

/-- The element after its firing (R91): staging slots, loops and flow bits are gone. -/
def Elem.ended (e : Elem) : Elem :=
  let e := e.counted
  match e.pipe with
  | [] => { e with busy := false, run := Run.idle }
  | r :: rest => { e with run := r, pipe := rest, fcnt := e.fcnt + 1 }

def bodyEnd : Body := fun s f e => do
  need (f.var == 0) .instr
  match rateMiss e with
  | some (c, d, x, y) => trap (.rate c d x y)
  | none => doneAt s e.ended .stay

/-- `end` (R91, R381). -/
def execEndFiring (f : Fields) (s : State) : Host.Outcome State Fault Refusal := issue 0x01 bodyEnd f s

/-- A count in `imm` bits 2:0, 0 read as 1 (R92, R94). -/
def slotCount (f : Fields) : Nat := if f.imm.toNat % 8 = 0 then 1 else f.imm.toNat % 8

/-- The operands of `take` in order, each with its wait. -/
def takeOperands (f : Fields) : List (BitVec 10 × Nat) := [(f.a, f.wa.toNat), (f.b, f.wb.toNat), (f.c, 0)]

/-- The channels of `take`, each with the words it needs there. -/
def takeChans (f : Fields) (n : Nat) : List (Nat × Nat) :=
  (takeOperands f).filterMap (fun p => if p.1 = 0x0FF then none else some (desChan p.1, max n p.2))

/-- The first operand of `take` that is no input slot at offset 0, or that names a channel again (R92). -/
def takeBad (e : Elem) (f : Fields) : Option (BitVec 10) :=
  let ok (d : BitVec 10) := d == 0x0FF || (isSlot d && desOfs d == 0 && slotOk e (desChan d) 0)
  if !ok f.a then some f.a
  else if !ok f.b || (f.b != 0x0FF && f.b == f.a) then some f.b
  else if !ok f.c || (f.c != 0x0FF && (f.c == f.a || f.c == f.b)) then some f.c
  else if f.a == 0x0FF && f.b == 0x0FF && f.c == 0x0FF then some 0x0FF
  else none

/-- The kind of the word at the head of a channel, 0 for data (R383). -/
def headKind (e : Elem) (c : Nat) : Nat := if (e.slot c 0).isCtl then (e.slot c 0).kind.toNat else 0

/-- The check of one position across the channels named (R93). -/
def alignAt (e : Elem) (chans : List Nat) (k : Nat) : Option Trap :=
  let w (c : Nat) := e.slot c k
  let kind (c : Nat) : Nat := if (w c).isCtl then (w c).kind.toNat else 0
  match chans.find? (fun c => malformed (w c)) with
  | some c => some (.align c none (headKind e c))
  | none =>
    match chans with
    | [] => none
    | c0 :: rest =>
      match rest.find? (fun c => kind c != kind c0) with
      | none => none
      | some c1 =>
        match chans.find? (fun c => kind c == 6) with
        | some sw =>
          let o := (chans.find? (fun c => kind c != 6)).getD c1
          some (.unbal sw o (e.inch sw).q.length (e.inch o).q.length 6)
        | none => some (.align c0 (some c1) (headKind e c0))

/-- The first position that fails (R93). -/
def alignCheck (e : Elem) (chans : List Nat) (n : Nat) : Option Trap := (List.range n).findSome? (alignAt e chans)

/-- Whether the companion words that go with a consumption stand in their channel (R32). -/
def cmpHere (e : Elem) (c n : Nat) : Bool :=
  decide (e.cmpCount c n ≤ (e.inch (entCmp (e.inch c).ent)).q.length)

/-- Whether they are the words R32 asks for. -/
def cmpRight (e : Elem) (c n : Nat) : Bool := !e.hasCmp c || (List.range n).all (fun j =>
  decide ((e.inch (entCmp (e.inch c).ent)).q.length < (companionAt (e.inch c).q (e.inch c).wpos j).2 + 1) || e.cmpFits c j)

/-- Words consumed on each of some channels, with their companion words (R32, R92). -/
def consumeAll (n : Nat) : List Nat → State × Elem → State × Elem
  | [], x => x
  | c :: r, (s, e) => consumeAll n r (consumeWith s e c n)

/-- The kind of a word, 0 for data. -/
def kindOf (w : CWord) : Nat := if w.isCtl then w.kind.toNat else 0

/-- The kind of the word at the head of an input, where one stands there. -/
def Elem.headOf (e : Elem) (c : Nat) : Option Nat := (e.inch c).q.head?.map kindOf

/-- The bit of `acc` for a kind (R226). -/
def accBit (kind : Nat) : Option Nat :=
  match kind with
  | 0 => some 0 | 1 => some 1 | 2 => some 2 | 3 => some 3 | 7 => some 4 | 8 => some 5 | 9 => some 6
  | _ => none

def Clause.accepts (c : Clause) (kind : Nat) : Bool :=
  match accBit kind with
  | some i => c.acc.getLsbD i
  | none => false

/-- The used clauses. -/
def Elem.clauses (e : Elem) : List Clause := e.cls4.toList.filter Clause.used

/-- Whether some clause names a channel and accepts a kind there (R231); the arm input of a section takes `arm` (R251), and with
it its companion (R32). -/
def someAccepts (e : Elem) (c kind : Nat) : Bool :=
  e.clauses.any (fun x => x.ins.any (fun t => t.ch == c) && x.accepts kind)
    || (e.sect && kind == 7 && (c == e.armIn || (e.hasCmp e.armIn && c == entCmp (e.inch e.armIn).ent)))

/-- An input whose head is a control word that no clause accepts, or a malformed one, accepted or not (R231, R21; log 161). -/
def strayHead (e : Elem) : Option Trap :=
  e.boundIns.findSome? (fun c =>
    match (e.inch c).q.head? with
    | some w =>
      let k := kindOf w
      if w.isCtl && (malformed w || (!(k == 4 || k == 5 || k == 6) && !someAccepts e c k)) then some (.align c none k) else none
    | none => none)

def bodyTake : Body := fun s f e => do
  let n := slotCount f
  need (f.var == 0 && decide (n ≤ 4) && (f.wa == 0 || isSlot f.a) && (f.wb == 0 || isSlot f.b)) .instr
  noBad (takeBad e f)
  let chans := (takeChans f n).map Prod.fst
  await ((takeChans f n).all (fun p => decide (p.2 ≤ (e.inch p.1).q.length)))
  match alignCheck e chans n with
  | some t => trap t
  | none => .ok ()
  await (chans.all (fun c => cmpHere e c n))
  match chans.find? (fun c => !cmpRight e c n) with
  | some c => trap (.align c (some (entCmp (e.inch c).ent)) (headKind e c))
  | none => .ok ()
  let (s', e') := consumeAll n chans (s, e)
  -- a word that reaches a head raises its fault in that cycle (R231)
  match strayHead e' with
  | some t => doneAt s' e' (.fault t)
  | none => done s' e'

/-- `take` (R92, R93, R32, R231). -/
def execTake (f : Fields) (s : State) : Host.Outcome State Fault Refusal := issue 0x02 bodyTake f s

/-- Staging slots after the lowest `n` of a channel have been published (R94). -/
def shiftStaging (t : Tab CWord) (c n : Nat) : Tab CWord :=
  t.filterMap (fun p => if p.1 / 4 = c then (if n ≤ p.1 % 4 then some (p.1 - n, p.2) else none) else some p)

/-- A staging slot as it is published: sideband given, flow bits ORed in (R87, R94). -/
def staged (e : Elem) (c j : Nat) (lr ls : Bool) : CWord :=
  let w := e.staging c j
  { w with lr := lr, ls := ls, pz := w.pz || e.flowP, tn := w.tn || e.flowT }

/-- Staging slots published in order; the last carries the sideband (R94). -/
def publishSlots (e : Elem) (c n : Nat) (lr ls : Bool) : Elem :=
  let e' := (List.range n).foldl (fun (x : Elem) j => x.send c (staged e c j (lr && j + 1 == n) (ls && j + 1 == n))) e
  { e' with run := { e'.run with stag := shiftStaging e.run.stag c n } }

def bodyGive : Body := fun s f e => do
  let n := slotCount f
  let cp := f.var == 3
  need (decide (f.var.toNat ≤ 3) && decide (n ≤ 4) && (f.wd == 0 || isOut f.d) && (!cp || f.wa == 0 || isSlot f.a)) .instr
  needDes (isOut f.d && desOfs f.d == 0 && outOk e (desChan f.d) 0) f.d
  needDes (!cp || (isSlot f.a && slotOk e (desChan f.a) (desOfs f.a))) f.a
  let c := desChan f.d
  await (decide (max n f.wd.toNat ≤ (e.outch c).free))
  await (!cp || inWait e f.a f.wa)
  let w := e.slot (desChan f.a) (desOfs f.a)
  need (!cp || w.isData) (.align (desChan f.a) none (headKind e (desChan f.a)))
  let lr := if cp then w.lr else f.var != 0
  let ls := if cp then w.ls else f.var == 2
  done s (publishSlots e c n lr ls)

/-- `give` (R94). -/
def execGive (f : Fields) (s : State) : Host.Outcome State Fault Refusal := issue 0x03 bodyGive f s

def bodyWait : Body := fun s f e => do
  need (f.var == 0 && (f.wa == 0 || isSlot f.a) && (f.wb == 0 || isSlot f.b) && (f.wd == 0 || isOut f.d)) .instr
  let inOk (d : BitVec 10) := d == 0x0FF || (isSlot d && slotOk e (desChan d) (desOfs d))
  needDes (inOk f.a) f.a
  needDes (inOk f.b) f.b
  needDes (f.d == 0x0FF || (isOut f.d && outOk e (desChan f.d) (desOfs f.d))) f.d
  await (inWait e f.a f.wa && inWait e f.b f.wb && outWait e f.d f.wd)
  done s e

/-- `wait` (R95). -/
def execWait (f : Fields) (s : State) : Host.Outcome State Fault Refusal := issue 0x04 bodyWait f s

/-- The test of `sbt` (R96). -/
def sideTest (v : Nat) (w : CWord) (imm : Nat) : Bool :=
  match v with
  | 0 => w.isData && w.lr
  | 1 => w.isData && w.ls
  | 2 => w.isCtl
  | 3 => w.isData
  | _ => w.isCtl && w.kind.toNat == imm

def bodySbt : Body := fun s f e => do
  need (decide (f.var.toNat ≤ 4) && (f.wa == 0 || isSlot f.a)) .instr
  needDes (isSlot f.a && slotOk e (desChan f.a) (desOfs f.a)) f.a
  needDes (isMask f.d) f.d
  await (inWait e f.a f.wa)
  let w := e.slot (desChan f.a) (desOfs f.a)
  done s (putMask e { f with ln := 0 } (fun _ => sideTest f.var.toNat w f.imm.toNat) [wordReg w])

/-- `sbt` (R96). -/
def execSbt (f : Fields) (s : State) : Host.Outcome State Fault Refusal := issue 0x05 bodySbt f s

/-- An AG's pins are released when it publishes an `eoi` (R168). -/
def dropPins (s : State) (u : UnitId) : State :=
  match u with
  | .el n => { s with pins := s.pins.filter (fun p => p.agent != n) }
  | .fc _ => s

/-- A refusal of a stamped store that an AG's ports record, lowest port first (R172): port and nest counters. -/
def refusal (e : Elem) : Option (Nat × Nat × List Nat) :=
  (List.range 4).findSome? (fun p => match (e.ag.ports.toList.getD p Port.unbound).refused with
    | some (st, c) => some (p, st, c)
    | none => none)

/-- The refusal recorded is reported, once, by the instructions of R172. -/
def needNoRefusal (e : Elem) : Res Unit :=
  match refusal e with
  | some (p, st, c) => trap (.tooOld st p (some c))
  | none => .ok ()

/-- What the publication of a control word of a kind does beside (R168, R172). -/
def eoiSide (s : State) (e : Elem) (kind : Nat) : State :=
  if kind = 3 ∧ e.cls = .ag then dropPins s s.cur else s

/-- The argument of `ctlw` (R97). -/
def ctlArg (s : State) (e : Elem) (f : Fields) : Nat :=
  if f.a = 0x0FF then f.imm.toNat else ((readDes s e f.a).pay.lane 0).toNat

/-- An argument that would make a malformed word (R21, R97). -/
def ctlArgBad (v arg : Nat) : Bool := (v == 2 && !decide (2 ≤ arg ∧ arg ≤ 15)) || (v == 7 && arg == 0)

/-- The kinds a body may emit (R97). -/
def ctlKinds : List Nat := [1, 2, 3, 7, 8, 9]

def bodyCtlw : Body := fun s f e => do
  let v := f.var.toNat
  let aOk := f.a == 0x0FF || srcOk e f.a
  need (ctlKinds.contains v && (f.wa == 0 || isSlot f.a) && (f.wd == 0 || isOut f.d)
        && !(aOk && inWait e f.a f.wa && ctlArgBad v (ctlArg s e f))) .instr
  needDes aOk f.a
  needDes (isOut f.d && desOfs f.d == 0 && outOk e (desChan f.d) 0) f.d
  await (inWait e f.a f.wa && outWait e f.d f.wd)
  if v = 3 then needNoRefusal e
  done (eoiSide s e v) (e.send (desChan f.d) (CWord.ctl (BitVec.ofNat 32 v) (BitVec.ofNat 32 (ctlArg s e f))))

/-- `ctlw` (R97). -/
def execCtlw (f : Fields) (s : State) : Host.Outcome State Fault Refusal := issue 0x06 bodyCtlw f s

def bodyCfwd : Body := fun s f e => do
  let one := f.var == 0
  need (decide (f.var.toNat ≤ 1) && (f.wa == 0 || isSlot f.a) && (!one || f.wd == 0 || isOut f.d)) .instr
  needDes (isSlot f.a && slotOk e (desChan f.a) (desOfs f.a)) f.a
  needDes (!one || (isOut f.d && desOfs f.d == 0 && outOk e (desChan f.d) 0)) f.d
  let outs := if one then [desChan f.d] else e.boundOuts
  await (inWait e f.a f.wa && (if one then outWait e f.d f.wd else outs.all (fun c => decide (1 ≤ (e.outch c).free))))
  let w := e.slot (desChan f.a) (desOfs f.a)
  need w.isCtl (.align (desChan f.a) none (headKind e (desChan f.a)))
  if w.kind.toNat = 3 ∧ outs ≠ [] then needNoRefusal e
  done (if outs = [] then s else eoiSide s e w.kind.toNat)
    (outs.foldl (fun (x : Elem) c => x.send c (CWord.ctl w.kind w.arg)) e)

/-- `cfwd` (R98). -/
def execCfwd (f : Fields) (s : State) : Host.Outcome State Fault Refusal := issue 0x07 bodyCfwd f s

/-- The lanes `cpeek` writes (R99). -/
def peekLane (w : CWord) (i : Nat) : Lane :=
  if i = 0 then (if w.isCtl then w.kind else 0)
  else if i = 1 then (if w.isCtl then w.arg else 0)
  else if i = 2 then BitVec.ofNat 32 (2 * bit w.lr + bit w.ls)
  else 0

def bodyCpeek : Body := fun s f e => do
  let t := resolve e f.ty [f.a, f.d]
  need (f.var == 0 && f.ln != 3 && waitsOk usesA f) .instr
  need (decide (t ≤ 12)) (.type t)
  needDes (isSlot f.a && slotOk e (desChan f.a) (desOfs f.a)) f.a
  needDes (regOrOut e f.d) f.d
  await (ready usesA e f)
  let w := e.slot (desChan f.a) (desOfs f.a)
  done s (put s e f (peekLane w) [wordReg w])

/-- `cpeek` (R99). -/
def execCpeek (f : Fields) (s : State) : Host.Outcome State Fault Refusal := issue 0x08 bodyCpeek f s

-- Masks ----------------------------------------------------------------------------------------------------------------

/-- Bit i of the result of `mskop` (R100). -/
def maskOp (v : Nat) (x y : BitVec 16) : BitVec 16 :=
  match v with
  | 0 => x &&& y
  | 1 => x ||| y
  | 2 => x ^^^ y
  | 3 => x &&& ~~~y
  | _ => ~~~x

def bodyMskop : Body := fun s f e => do
  let v := f.var.toNat
  need (decide (v ≤ 4) && f.ln != 3) .instr
  needDes (isMaskSrc f.a) f.a
  needDes (v == 4 || isMaskSrc f.b) f.b
  needDes (isMask f.d) f.d
  let x := e.mask (maskNo f.a)
  let y := e.mask (maskNo f.b)
  let r := maskOp v x.bits y.bits
  done s (putMask e f (fun i => r.getLsbD i) (if v = 4 then [maskReg x] else [maskReg x, maskReg y]))

/-- `mskop` (R100). -/
def execMskop (f : Fields) (s : State) : Host.Outcome State Fault Refusal := issue 0x0A bodyMskop f s

def bodyMskmv : Body := fun s f e => do
  let v := f.var.toNat
  need (decide (v ≤ 2) && f.ln != 3 && (v != 0 || f.wa == 0 || isSlot f.a) && (v != 1 || f.wd == 0 || isOut f.d)) .instr
  match v with
  | 0 =>
    needDes (srcOk e f.a) f.a
    needDes (isMask f.d) f.d
    await (inWait e f.a f.wa)
    let x := srcA s e f
    done s (putMask e f (fun i => x.pay.lane i != 0) [x])
  | 1 =>
    needDes (isMaskSrc f.a) f.a
    needDes (regOrOut e f.d) f.d
    await (outWait e f.d f.wd)
    let m := e.mask (maskNo f.a)
    done s (put s e f (fun i => if m.bits.getLsbD i then 1 else 0) [maskReg m])
  | _ =>
    needDes (isMask f.d) f.d
    done s (putMask e f (fun i => f.imm.getLsbD i) [])

/-- `mskmv` (R101). -/
def execMskmv (f : Fields) (s : State) : Host.Outcome State Fault Refusal := issue 0x0B bodyMskmv f s

-- Branches and loops ---------------------------------------------------------------------------------------------------

/-- The test of `bra` and `brk` on all 16 bits of a mask (R102). -/
def branchTest (v : Nat) (m : BitVec 16) : Bool :=
  match v with
  | 0 => true
  | 1 => m != 0
  | 2 => m == 0xFFFF
  | _ => m == 0

/-- The flow bits after a decision taken from a mask; `.al` takes none (R87, R102). -/
def branchFlow (e : Elem) (f : Fields) : Elem :=
  let m := e.mask f.pm.toNat
  if f.var = 0 then e else e.addFlow m.pz m.tn

/-- Whether a loop's body holds a position. -/
def LoopLvl.holds (l : LoopLvl) (p : Nat) : Bool := decide (l.start ≤ p) && decide (p ≤ l.stop)

/-- The loops that remain after a branch: each whose body does not hold the target is popped, with every loop inside it
(R105). -/
def loopsAt : List LoopLvl → Nat → List LoopLvl
  | [], _ => []
  | l :: r, p => if (l :: r).all (fun x => x.holds p) then l :: r else loopsAt r p

/-- Whether an address is a lead byte of the expansion of the code segment that holds the current word (R53). -/
def sameSegment (e : Elem) (p : Nat) : Bool :=
  match wordAt e.fc.icache e.run.pos, wordAt e.fc.icache p with
  | some w, some x => w.seg == x.seg
  | _, _ => false

/-- Whether a branch may be taken to a position (R102): a core's only to a word of its own code segment. -/
def branchOk (e : Elem) (p : Nat) : Bool := if e.cls = .fc then sameSegment e p else decide (p < e.body.length)

/-- The target of a branch (R102): a position; on a core a displacement from the lead byte, modulo 2^32. -/
def branchTarget (e : Elem) (f : Fields) : Nat :=
  if e.cls = .fc then (((e.run.pos : Int) + signedOf 24 f.imm.toNat) % 2 ^ 32).toNat else f.imm.toNat

def bodyBra : Body := fun s f e => do
  let taken := branchTest f.var.toNat (e.mask f.pm.toNat).bits
  let t := branchTarget e f
  need (decide (f.var.toNat ≤ 3) && (!taken || branchOk e t)) .instr
  let e' := branchFlow e f
  if taken then doneAt s { e' with run := { e'.run with loops := loopsAt e.run.loops t } } (.goto t)
  else done s e'

/-- `bra` (R102, R105, R87). -/
def execBra (f : Fields) (s : State) : Host.Outcome State Fault Refusal := issue 0x10 bodyBra f s

/-- The address of the word `n` places after an address of a core's code, if its segment holds it (R103). -/
def codeNth (c : List CacheWord) (pos : Nat) : Nat → Option Nat
  | 0 => (wordAt c pos).map CacheWord.addr
  | n + 1 =>
    match (codeNth c pos n).bind (wordAt c) with
    | none => none
    | some w => ((wordAt c w.next).filter (fun x => x.seg == w.seg)).map CacheWord.addr

/-- The position `n` words after the current one, if the body or the code holds it. -/
def posAfter (e : Elem) (n : Nat) : Option Nat :=
  if e.cls = .fc then codeNth e.fc.icache e.run.pos n
  else if e.run.pos + n < e.body.length then some (e.run.pos + n) else none

def bodyLoop : Body := fun s f e => do
  let len := f.imm.toNat % 256
  let fits := match posAfter e len with
    | none => false
    | some q => decide (0 < len ∧ e.run.loops.length < 4) && (match e.run.loops with | l :: _ => decide (q ≤ l.stop) | [] => true)
  need (f.var == 0 && (f.wa == 0 || isSlot f.a) && fits) .instr
  needDes (f.a == 0x0FF || srcOk e f.a) f.a
  await (inWait e f.a f.wa)
  let q := (posAfter e len).getD 0
  let x := readDes s e f.a
  let cnt := if f.a = 0x0FF then f.imm.toNat / 256 else (x.pay.lane 0).toNat % 65536
  let e' := if f.a = 0x0FF then e else e.addFlow x.pz x.tn
  if cnt = 0 then doneAt s e' (.goto (if e.cls = .fc then codeAfter e.fc.icache q else q + 1))
  else
    doneAt s { e' with run := { e'.run with loops := { start := e.nextPos, stop := q, left := cnt } :: e.run.loops } } (.goto e.nextPos)

/-- `loop` (R103, R87). -/
def execLoop (f : Fields) (s : State) : Host.Outcome State Fault Refusal := issue 0x11 bodyLoop f s

def bodyBrk : Body := fun s f e => do
  need (decide (f.var.toNat ≤ 3) && !e.run.loops.isEmpty) .instr
  let e' := branchFlow e f
  if branchTest f.var.toNat (e.mask f.pm.toNat).bits then
    match e.run.loops with
    | [] => done s e'
    | l :: r =>
      let (lv, p) := closeLoops r l.stop (if e.cls = .fc then codeAfter e.fc.icache l.stop else l.stop + 1)
      doneAt s { e' with run := { e'.run with loops := lv } } (.goto p)
  else done s e'

/-- `brk` (R104, R87). -/
def execBrk (f : Fields) (s : State) : Host.Outcome State Fault Refusal := issue 0x12 bodyBrk f s

end Sys2Proof.Machine
end

