-- ==== Sys2Proof/Machine/Integer.lean ====
section
/-! DEFINITION. Ops 0x20-0x3E: integer arithmetic, masks by comparison, moves and lane operations (spec 04, R106-R115). -/
namespace Sys2Proof.Machine

/-- An element as an integer (R88): signed by its type unless the variant is `.u`. -/
def elemInt (t : Fmt) (uns : Bool) (c : Nat) : Int :=
  if t.isSigned && !uns then signedOf t.bits c else ((c % 2 ^ t.bits : Nat) : Int)

/-- A lane computed element by element; results wrap, or are clamped (R37, R88). -/
def intLane (t : Fmt) (uns sat : Bool) (g : Int → Int → Int → Int) (x y z : Lane) : Lane :=
  laneOf t (fun j =>
    let v := g (elemInt t uns (elemOf t x j)) (elemInt t uns (elemOf t y j)) (elemInt t uns (elemOf t z j))
    t.wrap (if sat then t.clamp v else v))

/-- The integer types 1 to 4 (R88). -/
def intTypes (t : Nat) : Bool := decide (1 ≤ t ∧ t ≤ 4)

/-- Every type (R30). -/
def allTypes (t : Nat) : Bool := decide (1 ≤ t ∧ t ≤ 12)

/-- INT32 and UINT32. -/
def laneTypes (t : Nat) : Bool := t == 1 || t == 2

/-- The format of a resolved type. -/
def fmtOf (t : Nat) : Fmt := (Fmt.ofCode t).getD .i32

/-- The sources an instruction reads. -/
def sources (s : State) (e : Elem) (f : Fields) (u : Uses) : List Reg :=
  (if u.a then [srcA s e f] else []) ++ (if u.b then [srcB s e f] else []) ++ (if u.c then [srcC s e f] else [])

/-- An operation on each active lane of its sources, written to `d`. -/
def lanewise (s : State) (e : Elem) (f : Fields) (u : Uses) (g : Lane → Lane → Lane → Lane) : Elem :=
  let a := (srcA s e f).pay
  let b := (srcB s e f).pay
  let c := (srcC s e f).pay
  put s e f (fun i => g (a.lane i) (b.lane i) (c.lane i)) (sources s e f u)

/-- An integer instruction whose variant 1 clamps (R106). -/
def satBody (u : Uses) (g : Int → Int → Int → Int) : Body := fun s f e => do
  let t ← check e f u (decide (f.var.toNat ≤ 1)) intTypes (badDst e f)
  done s (lanewise s e f u (intLane (fmtOf t) false (f.var == 1) g))

/-- An integer instruction whose variant 1 reads its elements as unsigned; `w` is the element width (R106). -/
def unsBody (u : Uses) (g : Nat → Int → Int → Int) : Body := fun s f e => do
  let t ← check e f u (decide (f.var.toNat ≤ 1)) intTypes (badDst e f)
  done s (lanewise s e f u (intLane (fmtOf t) (f.var == 1) false (fun x y _ => g (fmtOf t).bits x y)))

/-- A bitwise instruction on whole lanes (R106). -/
def bitBody (g : Lane → Lane → Lane) : Body := fun s f e => do
  let _ ← check e f usesAB (f.var == 0) allTypes (badDst e f)
  done s (lanewise s e f usesAB (fun x y _ => g x y))

/-- `add` (R106). -/
def execAdd (f : Fields) (s : State) : Host.Outcome State Fault Refusal :=
  issue 0x20 (satBody usesAB (fun x y _ => x + y)) f s

/-- `sub` (R106). -/
def execSub (f : Fields) (s : State) : Host.Outcome State Fault Refusal :=
  issue 0x21 (satBody usesAB (fun x y _ => x - y)) f s

/-- `mul` (R106). -/
def execMul (f : Fields) (s : State) : Host.Outcome State Fault Refusal :=
  issue 0x22 (satBody usesAB (fun x y _ => x * y)) f s

/-- `mulh` (R106): bits 2w - 1 : w of the exact product. -/
def execMulh (f : Fields) (s : State) : Host.Outcome State Fault Refusal :=
  issue 0x23 (unsBody usesAB (fun w x y => x * y / 2 ^ w)) f s

/-- `mad` (R106). -/
def execMad (f : Fields) (s : State) : Host.Outcome State Fault Refusal :=
  issue 0x24 (satBody usesABC (fun x y z => x * y + z)) f s

/-- The quotient truncated toward zero, all ones for a zero divisor (R107). -/
def quot (x y : Int) : Int := if y = 0 then -1 else x.tdiv y

/-- `div` (R106, R107). -/
def execDiv (f : Fields) (s : State) : Host.Outcome State Fault Refusal :=
  issue 0x25 (unsBody usesAB (fun _ x y => quot x y)) f s

/-- `rem` (R106, R107). -/
def execRem (f : Fields) (s : State) : Host.Outcome State Fault Refusal :=
  issue 0x26 (unsBody usesAB (fun _ x y => if y = 0 then x else x - y * quot x y)) f s

/-- `abs` (R106). -/
def execAbs (f : Fields) (s : State) : Host.Outcome State Fault Refusal :=
  issue 0x27 (satBody usesA (fun x _ _ => (x.natAbs : Int))) f s

/-- `neg` (R106). -/
def execNeg (f : Fields) (s : State) : Host.Outcome State Fault Refusal :=
  issue 0x28 (satBody usesA (fun x _ _ => -x)) f s

/-- `min` (R106). -/
def execMin (f : Fields) (s : State) : Host.Outcome State Fault Refusal :=
  issue 0x29 (unsBody usesAB (fun _ x y => if y < x then y else x)) f s

/-- `max` (R106). -/
def execMax (f : Fields) (s : State) : Host.Outcome State Fault Refusal :=
  issue 0x2A (unsBody usesAB (fun _ x y => if x < y then y else x)) f s

/-- `and` (R106). -/
def execAnd (f : Fields) (s : State) : Host.Outcome State Fault Refusal := issue 0x2B (bitBody (fun x y => x &&& y)) f s

/-- `or` (R106). -/
def execOr (f : Fields) (s : State) : Host.Outcome State Fault Refusal := issue 0x2C (bitBody (fun x y => x ||| y)) f s

/-- `xor` (R106). -/
def execXor (f : Fields) (s : State) : Host.Outcome State Fault Refusal := issue 0x2D (bitBody (fun x y => x ^^^ y)) f s

/-- `andn` (R106). -/
def execAndn (f : Fields) (s : State) : Host.Outcome State Fault Refusal := issue 0x2E (bitBody (fun x y => x &&& ~~~y)) f s

/-- A shift of one element of `w` bits by an amount (R108). -/
def shlElem (w x n : Nat) : Nat := if w ≤ n then 0 else x * 2 ^ n % 2 ^ w
def shrElem (w x n : Nat) : Nat := if w ≤ n then 0 else x / 2 ^ n
def sarElem (w x n : Nat) : Nat :=
  let i := signedOf w x / 2 ^ (min n w)
  (i % ((2 ^ w : Nat) : Int)).toNat
def rotElem (w x n : Nat) : Nat := x * 2 ^ (n % w) % 2 ^ w + x / 2 ^ (w - n % w)

/-- A lane whose elements are computed as bits. -/
def bitsLane (t : Fmt) (g : Nat → Nat → Nat) (x y : Lane) : Lane := laneOf t (fun j => g (elemOf t x j) (elemOf t y j))

/-- A shift (R108): the amount comes from b, or from `imm` bits 5:0 in variant 1. -/
def shiftBody (g : Nat → Nat → Nat → Nat) : Body := fun s f e => do
  let u := if f.var = 1 then usesA else usesAB
  let t ← check e f u (decide (f.var.toNat ≤ 1)) intTypes (badDst e f)
  let w := (fmtOf t).bits
  let amt := f.imm.toNat % 64
  done s (lanewise s e f u (fun x y _ => bitsLane (fmtOf t) (fun p q => g w p (if f.var = 1 then amt else q)) x y))

/-- `shl` (R108). -/
def execShl (f : Fields) (s : State) : Host.Outcome State Fault Refusal := issue 0x2F (shiftBody shlElem) f s

/-- `shr` (R108). -/
def execShr (f : Fields) (s : State) : Host.Outcome State Fault Refusal := issue 0x30 (shiftBody shrElem) f s

/-- `sar` (R108). -/
def execSar (f : Fields) (s : State) : Host.Outcome State Fault Refusal := issue 0x31 (shiftBody sarElem) f s

/-- `rot` (R108). -/
def execRot (f : Fields) (s : State) : Host.Outcome State Fault Refusal := issue 0x32 (shiftBody rotElem) f s

/-- The one bits among the low `n` bits of a number. -/
def onesBelow (x : Nat) : Nat → Nat
  | 0 => 0
  | n + 1 => onesBelow x n + x / 2 ^ n % 2

/-- A count over one element (R108). -/
def countBody (g : Nat → Nat → Nat) : Body := fun s f e => do
  let t ← check e f usesA (f.var == 0) intTypes (badDst e f)
  done s (lanewise s e f usesA (fun x _ _ => bitsLane (fmtOf t) (fun p _ => g (fmtOf t).bits p) x 0))

/-- `clz` (R108). -/
def execClz (f : Fields) (s : State) : Host.Outcome State Fault Refusal := issue 0x33 (countBody (fun w x => w - bitLen x)) f s

/-- `popc` (R108). -/
def execPopc (f : Fields) (s : State) : Host.Outcome State Fault Refusal := issue 0x34 (countBody (fun w x => onesBelow x w)) f s

/-- Position and width of a bit field (R109), and whether the field is one. -/
def fieldPos (f : Fields) : Nat := f.imm.toNat % 32
def fieldWidth (f : Fields) : Nat := f.imm.toNat / 32 % 64
def fieldOk (f : Fields) : Bool := fieldWidth f != 0 && decide (fieldPos f + fieldWidth f ≤ 32)

/-- Bits p + q - 1 : p of a lane, extended (R109). -/
def extractField (p q : Nat) (sx : Bool) (x : Lane) : Lane :=
  let v := x.toNat / 2 ^ p % 2 ^ q
  if sx then BitVec.ofInt 32 (signedOf q v) else BitVec.ofNat 32 v

/-- A lane with bits p + q - 1 : p replaced (R109). -/
def insertField (p q : Nat) (x y : Lane) : Lane :=
  let m : Lane := BitVec.ofNat 32 ((2 ^ q - 1) * 2 ^ p)
  (y &&& ~~~m) ||| ((x <<< p) &&& m)

def bodyBfx : Body := fun s f e => do
  let _ ← check e f usesA (decide (f.var.toNat ≤ 1) && fieldOk f) laneTypes (badDst e f)
  done s (lanewise s e f usesA (fun x _ _ => extractField (fieldPos f) (fieldWidth f) (f.var == 1) x))

/-- `bfx` (R109). -/
def execBfx (f : Fields) (s : State) : Host.Outcome State Fault Refusal := issue 0x35 bodyBfx f s

def bodyBfi : Body := fun s f e => do
  let _ ← check e f usesAB (f.var == 0 && fieldOk f) laneTypes (badDst e f)
  done s (lanewise s e f usesAB (fun x y _ => insertField (fieldPos f) (fieldWidth f) x y))

/-- `bfi` (R109). -/
def execBfi (f : Fields) (s : State) : Host.Outcome State Fault Refusal := issue 0x36 bodyBfi f s

/-- The conditions of `cmp` (R110). -/
def cmpTest (v : Nat) (x y : Lane) : Bool :=
  match v with
  | 0 => x == y
  | 1 => x != y
  | 2 => x.slt y
  | 3 => x.sle y
  | 4 => y.slt x
  | 5 => y.sle x
  | 6 => x.ult y
  | 7 => x.ule y
  | 8 => y.ult x
  | _ => y.ule x

def bodyCmp : Body := fun s f e => do
  let _ ← check e { f with wd := 0 } usesAB (decide (f.var.toNat ≤ 9)) laneTypes (badMask f)
  let a := srcA s e f
  let b := srcB s e f
  done s (putMask e f (fun i => cmpTest f.var.toNat (a.pay.lane i) (b.pay.lane i)) [a, b])

/-- `cmp` (R110). -/
def execCmp (f : Fields) (s : State) : Host.Outcome State Fault Refusal := issue 0x37 bodyCmp f s

def bodySel : Body := fun s f e => do
  let _ ← check e f usesAB (f.var == 0) allTypes (if isMaskSrc f.c then badDst e f else some f.c)
  let a := srcA s e f
  let b := srcB s e f
  let m := e.mask (maskNo f.c)
  done s (put s e f (fun i => if m.bits.getLsbD i then a.pay.lane i else b.pay.lane i) [a, b, maskReg m])

/-- `sel` (R111). -/
def execSel (f : Fields) (s : State) : Host.Outcome State Fault Refusal := issue 0x38 bodySel f s

def bodyMov : Body := fun s f e => do
  let _ ← check e f usesA (f.var == 0) allTypes (badDst e f)
  done s (lanewise s e f usesA (fun x _ _ => x))

/-- `mov` (R111). -/
def execMov (f : Fields) (s : State) : Host.Outcome State Fault Refusal := issue 0x39 bodyMov f s

/-- A destination alone. -/
def usesD : Uses := { a := false, b := false, c := false, d := true }

/-- The lane `movi` writes over an old one (R112). -/
def moviLane (v : Nat) (imm : BitVec 24) (old : Lane) : Lane :=
  match v with
  | 0 => (imm.setWidth 16).setWidth 32
  | 1 => ((imm.setWidth 16).setWidth 32 <<< 16) ||| (old &&& 0xFFFF)
  | _ => imm.signExtend 32

def bodyMovi : Body := fun s f e => do
  let _ ← check e f usesD (decide (f.var.toNat ≤ 2)) allTypes (badDst e f)
  let old := readDes s e f.d
  done s (put s e f (fun i => moviLane f.var.toNat f.imm (old.pay.lane i)) (if f.var = 1 then [old] else []))

/-- `movi` (R112). -/
def execMovi (f : Fields) (s : State) : Host.Outcome State Fault Refusal := issue 0x3A bodyMovi f s

/-- Element `n` of the result of `pack` (R113). -/
def packElem (v : Nat) (a b : Payload) (n : Nat) : Nat :=
  let wide := decide (v < 3)
  let half := if wide then 16 else 32
  let src := if n < half then a else b
  let x : Int := if wide then signedOf 32 (elemAt .i32 src (n % half)) else signedOf 16 (elemAt .i16 src (n % half))
  let lim (lo hi : Int) := max lo (min hi x)
  let r := match v with
    | 0 => x
    | 1 => lim (-32768) 32767
    | 2 => lim 0 65535
    | 3 => x
    | 4 => lim (-128) 127
    | _ => lim 0 255
  (r % 65536).toNat

def bodyPack : Body := fun s f e => do
  let _ ← check e f usesAB (decide (f.var.toNat ≤ 5)) allTypes (badDst e f)
  let a := srcA s e f
  let b := srcB s e f
  let v := f.var.toNat
  let t : Fmt := if v < 3 then .i16 else .i8
  done s (put s e f (fun i => laneOf t (fun j => packElem v a.pay b.pay (t.perLane * i + j))) [a, b])

/-- `pack` (R113). -/
def execPack (f : Fields) (s : State) : Host.Outcome State Fault Refusal := issue 0x3B bodyPack f s

/-- Lane `i` of the result of `unpk` (R114). -/
def unpkLane (v imm : Nat) (a : Payload) (i : Nat) : Lane :=
  let t : Fmt := if v < 2 then .i16 else .i8
  let q := imm % (t.perLane)
  let x := elemAt t a (16 * q + i)
  if v % 2 = 0 then BitVec.ofInt 32 (signedOf t.bits x) else BitVec.ofNat 32 x

def bodyUnpk : Body := fun s f e => do
  let _ ← check e f usesA (decide (f.var.toNat ≤ 3)) allTypes (badDst e f)
  let a := srcA s e f
  done s (put s e f (unpkLane f.var.toNat f.imm.toNat a.pay) [a])

/-- `unpk` (R114). -/
def execUnpk (f : Fields) (s : State) : Host.Outcome State Fault Refusal := issue 0x3C bodyUnpk f s

def bodyShuf : Body := fun s f e => do
  let u := if f.var = 0 then usesAB else usesA
  let _ ← check e f u (decide (f.var.toNat ≤ 2)) allTypes (badDst e f)
  let a := (srcA s e f).pay
  let b := (srcB s e f).pay
  let k := f.imm.toNat % 16
  done s (put s e f (fun i => match f.var.toNat with
    | 0 => a.lane ((b.lane i).toNat % 16)
    | 1 => a.lane ((i + k) % 16)
    | _ => a.lane (i ^^^ k)) (sources s e f u))

/-- `shuf` (R115). -/
def execShuf (f : Fields) (s : State) : Host.Outcome State Fault Refusal := issue 0x3D bodyShuf f s

def bodyBcst : Body := fun s f e => do
  let _ ← check e f usesA (f.var == 0) allTypes (badDst e f)
  let a := srcA s e f
  done s (put s e f (fun _ => a.pay.lane (f.imm.toNat % 16)) [a])

/-- `bcst` (R115). -/
def execBcst (f : Fields) (s : State) : Host.Outcome State Fault Refusal := issue 0x3E bodyBcst f s

end Sys2Proof.Machine
end

