-- ==== Sys2Proof/Machine/Float.lean ====
section
/-! DEFINITION. Ops 0x3F and 0x40-0x54: reductions, float arithmetic, conversion and scaling (spec 04, R116; spec 05,
R117-R135). -/
namespace Sys2Proof.Machine

/-- A state register or an output slot, the destinations of spec 05 to 07 (R117). -/
def badReg (e : Elem) (f : Fields) : Option (BitVec 10) := if regOrOut e f.d then none else some f.d

/-- The types of R120. -/
def floatTypes (t : Nat) : Bool := t == 5 || t == 6 || t == 7

/-- A lane computed element by element, with the flags its elements raise. -/
def flagLane (t : Fmt) (g : Nat → Nat × Flags) : Lane × Flags :=
  (laneOf t (fun j => (g j).1), flagsBelow (fun j => (g j).2) t.perLane)

/-- A destination written lane by lane; the flags of active lanes are ORed into the sticky register (R38). -/
def putFlags (s : State) (e : Elem) (f : Fields) (g : Nat → Lane × Flags) (srcs : List Reg) : Elem :=
  put s (e.raise (laneFlags (laneActive e f) (fun i => (g i).2))) f (fun i => (g i).1) srcs

/-- The mould of R122: F on exact values, one rounding. -/
def mould (t : Fmt) (fn : Num → Num → Num → Num × Flags) (x y z : Lane) : Lane × Flags :=
  flagLane t (fun j =>
    let (v, a) := fn (t.decode (elemOf t x j)) (t.decode (elemOf t y j)) (t.decode (elemOf t z j))
    let (c, b) := roundTo t v .rne
    (c, a ||| b))

/-- A float instruction of the mould of R122. -/
def floatBody (u : Uses) (vars : Nat) (fn : Nat → Num → Num → Num → Num × Flags) : Body := fun s f e => do
  let t ← check e f u (decide (f.var.toNat < vars)) floatTypes (badReg e f)
  let a := (srcA s e f).pay
  let b := (srcB s e f).pay
  let c := (srcC s e f).pay
  done s (putFlags s e f (fun i => mould (fmtOf t) (fn f.var.toNat) (a.lane i) (b.lane i) (c.lane i)) (sources s e f u))

/-- `fadd` (R122). -/
def execFadd (f : Fields) (s : State) : Host.Outcome State Fault Refusal :=
  issue 0x40 (floatBody usesAB 1 (fun _ x y _ => x.add y)) f s

/-- `fsub` (R121, R122). -/
def execFsub (f : Fields) (s : State) : Host.Outcome State Fault Refusal :=
  issue 0x41 (floatBody usesAB 1 (fun _ x y _ => x.add y.negate)) f s

/-- `fmul` (R122). -/
def execFmul (f : Fields) (s : State) : Host.Outcome State Fault Refusal :=
  issue 0x42 (floatBody usesAB 1 (fun _ x y _ => x.mul y)) f s

/-- x × y + z, or z - x × y in variant 1, exact (R121, R122). -/
def fusedNum (v : Nat) (x y z : Num) : Num × Flags :=
  let (p, a) := x.mul y
  let (r, b) := (if v = 1 then p.negate else p).add z
  (r, a ||| b)

/-- `fma` (R122); it has no `wb`. -/
def execFma (f : Fields) (s : State) : Host.Outcome State Fault Refusal :=
  issue 0x43 (fun s f e => floatBody usesABC 2 fusedNum s { f with wb := 0 } e) f s

/-- The smaller or the larger of two codes (R123): −0 below +0; with `num`, a NaN gives way to the other input. -/
def pickCode (t : Fmt) (larger num : Bool) (c d : Nat) : Nat :=
  let x := t.decode c
  let y := t.decode d
  if x.isNaN && y.isNaN then t.nan
  else if x.isNaN then (if num then d else t.nan)
  else if y.isNaN then (if num then c else t.nan)
  else
    let below := x.lt y || (x.eq y && x.isNeg && !y.isNeg)
    if below == larger then d else c

/-- `fmin` and `fmax` (R123). -/
def pickBody (larger : Bool) : Body := fun s f e => do
  let t ← check e f usesAB (decide (f.var.toNat ≤ 1)) floatTypes (badReg e f)
  done s (lanewise s e f usesAB (fun x y _ => bitsLane (fmtOf t) (pickCode (fmtOf t) larger (f.var == 1)) x y))

/-- `fmin` (R123). -/
def execFmin (f : Fields) (s : State) : Host.Outcome State Fault Refusal := issue 0x44 (pickBody false) f s

/-- `fmax` (R123). -/
def execFmax (f : Fields) (s : State) : Host.Outcome State Fault Refusal := issue 0x45 (pickBody true) f s

/-- An instruction on the bits of each element (R124, R127). -/
def elemBody (g : Fmt → Nat → Nat) : Body := fun s f e => do
  let t ← check e f usesA (f.var == 0) floatTypes (badReg e f)
  done s (lanewise s e f usesA (fun x _ _ => bitsLane (fmtOf t) (fun p _ => g (fmtOf t) p) x 0))

/-- `fabs` (R124). -/
def execFabs (f : Fields) (s : State) : Host.Outcome State Fault Refusal :=
  issue 0x46 (elemBody (fun t x => x % 2 ^ (t.bits - 1))) f s

/-- `fneg` (R124). -/
def execFneg (f : Fields) (s : State) : Host.Outcome State Fault Refusal :=
  issue 0x47 (elemBody (fun t x => (x + 2 ^ (t.bits - 1)) % 2 ^ t.bits)) f s

/-- The condition of `fcmp`, and its flag (R125). -/
def fcmpTest (v : Nat) (x y : Num) : Bool × Flags :=
  let un := x.isNaN || y.isNaN
  let inv : Flags := if un then flNV else 0
  match v with
  | 0 => (x.eq y, 0)
  | 1 => (!x.eq y, 0)
  | 2 => (x.lt y, inv)
  | 3 => (x.lt y || x.eq y, inv)
  | 4 => (y.lt x, inv)
  | 5 => (y.lt x || x.eq y, inv)
  | 6 => (un, 0)
  | _ => (!un, 0)

def bodyFcmp : Body := fun s f0 e => do
  let f := { f0 with ln := 0 }
  let t ← check e { f with wd := 0 } usesAB (decide (f.var.toNat ≤ 7)) floatTypes (badMask f)
  let fm := fmtOf t
  let j := f.imm.toNat % fm.perLane
  let a := srcA s e f
  let b := srcB s e f
  let r (i : Nat) := fcmpTest f.var.toNat (fm.decode (elemOf fm (a.pay.lane i) j)) (fm.decode (elemOf fm (b.pay.lane i) j))
  done s (putMask (e.raise (laneFlags (laneActive e f) (fun i => (r i).2))) f (fun i => (r i).1) [a, b])

/-- `fcmp` (R125). -/
def execFcmp (f : Fields) (s : State) : Host.Outcome State Fault Refusal := issue 0x48 bodyFcmp f s

/-- 1 / √x with its special inputs (R126). -/
def frsqNum (x : Num) : Num × Flags :=
  match x with
  | .nan => (.nan, 0)
  | .zero n => (.inf n, flDZ)
  | .inf n => if n then (.nan, flNV) else (.zero false, 0)
  | .fin n m e _ => if n then (.nan, flNV) else (recipSqrt m e, 0)

/-- 2^x with its special inputs (R126). -/
def fex2Num (x : Num) : Num × Flags :=
  match x with
  | .nan => (.nan, 0)
  | .zero _ => (.one, 0)
  | .inf n => (if n then .zero false else .inf false, 0)
  | .fin n m e _ => (exp2Fin n m e, 0)

/-- log₂ x with its special inputs (R126). -/
def flg2Num (x : Num) : Num × Flags :=
  match x with
  | .nan => (.nan, 0)
  | .zero _ => (.inf true, flDZ)
  | .inf n => if n then (.nan, flNV) else (.inf false, 0)
  | .fin n m e _ => if n then (.nan, flNV) else (log2Fin m e, 0)

/-- `frcp` (R126). -/
def execFrcp (f : Fields) (s : State) : Host.Outcome State Fault Refusal :=
  issue 0x49 (floatBody usesA 1 (fun _ x _ _ => Num.one.div x)) f s

/-- `frsq` (R126). -/
def execFrsq (f : Fields) (s : State) : Host.Outcome State Fault Refusal :=
  issue 0x4A (floatBody usesA 1 (fun _ x _ _ => frsqNum x)) f s

/-- `fex2` (R126). -/
def execFex2 (f : Fields) (s : State) : Host.Outcome State Fault Refusal :=
  issue 0x4B (floatBody usesA 1 (fun _ x _ _ => fex2Num x)) f s

/-- `flg2` (R126). -/
def execFlg2 (f : Fields) (s : State) : Host.Outcome State Fault Refusal :=
  issue 0x4C (floatBody usesA 1 (fun _ x _ _ => flg2Num x)) f s

/-- The class mask of a code (R127). -/
def classBits (t : Fmt) (c : Nat) : Nat :=
  let normal := decide (2 ^ t.frac ≤ c % 2 ^ (t.bits - 1))
  match t.decode c with
  | .nan => 256
  | .inf n => if n then 1 else 128
  | .zero n => if n then 8 else 16
  | .fin n _ _ _ => if normal then (if n then 2 else 64) else (if n then 4 else 32)

/-- `fcls` (R127). -/
def execFcls (f : Fields) (s : State) : Host.Outcome State Fault Refusal := issue 0x4D (elemBody classBits) f s

def bodyFsts : Body := fun s f0 e => do
  let f := { f0 with ln := 0, wd := 0 }
  let v := f.var.toNat
  need (decide (v ≤ 2)) .instr
  if v = 2 then done s { e with sticky := e.sticky &&& ~~~(f.imm.setWidth 5) }
  else
    noBad (badReg e f)
    await (outWait e f.d 0)
    let e' := put s e f (fun _ => e.sticky.setWidth 32) []
    done s (if v = 1 then { e' with sticky := 0 } else e')

/-- `fsts` (R128; log 124). -/
def execFsts (f : Fields) (s : State) : Host.Outcome State Fault Refusal := issue 0x4E bodyFsts f s

/-- `rmode`, `part` and `xsel` of R118. -/
def rmode (f : Fields) : Option Mode := Mode.ofCode (f.imm.toNat % 8)
def partNo (f : Fields) : Nat := f.imm.toNat / 8 % 8
def xsel (f : Fields) : Nat := f.imm.toNat / 64 % 8

def bodyFrnd : Body := fun s f e => do
  let t ← check e f usesA (f.var == 0 && (rmode f).isSome) floatTypes (badReg e f)
  let fm := fmtOf t
  let m := (rmode f).getD .rne
  let a := srcA s e f
  done s (putFlags s e f (fun i => flagLane fm (fun j =>
    let (v, g) := roundIntegral (fm.decode (elemOf fm (a.pay.lane i) j)) m
    ((roundTo fm v .rne).1, g))) [a])

/-- `frnd` (R129). -/
def execFrnd (f : Fields) (s : State) : Host.Outcome State Fault Refusal := issue 0x4F bodyFrnd f s

-- Reductions -----------------------------------------------------------------------------------------------------------

/-- One combine of a reduction on element codes (R116): the variants `.add`, `.min`, `.max`. -/
def reduceElem (t : Fmt) (v : Nat) (x y : Nat × Flags) : Nat × Flags :=
  let g := x.2 ||| y.2
  if t.isFloat then
    match v with
    | 0 =>
      let (r, a) := (t.decode x.1).add (t.decode y.1)
      let (c, b) := roundTo t r .rne
      (c, g ||| a ||| b)
    | 1 => (pickCode t false false x.1 y.1, g)
    | _ => (pickCode t true false x.1 y.1, g)
  else
    let a := elemInt t false x.1
    let b := elemInt t false y.1
    match v with
    | 0 => (t.wrap (a + b), g)
    | 1 => (t.wrap (if b < a then b else a), g)
    | _ => (t.wrap (if a < b then b else a), g)

/-- One combine on whole lanes (R116): `.and`, `.or`, `.xor`. -/
def reduceLane (v : Nat) (x y : Nat × Flags) : Nat × Flags :=
  match v with
  | 3 => (x.1 &&& y.1, 0)
  | 4 => (x.1 ||| y.1, 0)
  | _ => (x.1 ^^^ y.1, 0)

/-- The sixteen values that enter a tree: an inactive lane enters as zero (R42, R116). -/
def treeInputs (act : Nat → Bool) (g : Nat → Nat) : List (Nat × Flags) :=
  (List.range 16).map (fun i => (if act i then g i else 0, 0))

/-- A reduction of element `j` of every lane (R41, R116). -/
def reduceAt (t : Fmt) (v : Nat) (act : Nat → Bool) (p : Payload) (j : Nat) : Nat × Flags :=
  (tree (reduceElem t v) (treeInputs act (fun i => elemOf t (p.lane i) j))).headD (0, 0)

/-- The types of a reduction (R116, R135): the float types that an SE or AG lacks are 5 to 7 (log 159). -/
def reduceTypes (c : Cls) (v t : Nat) : Bool :=
  (if v < 3 then intTypes t || floatTypes t else allTypes t) && !(floatTypes t && !(c == .ve || c == .fc))

def bodyLred : Body := fun s f e => do
  let v := f.var.toNat
  let t ← check e f usesA (decide (v ≤ 5)) (reduceTypes e.cls v) (badDst e f)
  let a := srcA s e f
  let act := laneActive e f
  if v < 3 then
    let fm := fmtOf t
    let r := flagLane fm (reduceAt fm v act a.pay)
    done s (putFlags s e f (fun _ => r) [a])
  else
    let r := (tree (reduceLane v) (treeInputs act (fun i => (a.pay.lane i).toNat))).headD (0, 0)
    done s (put s e f (fun _ => BitVec.ofNat 32 r.1) [a])

/-- `lred` (R116, R41). -/
def execLred (f : Fields) (s : State) : Host.Outcome State Fault Refusal := issue 0x3F bodyLred f s

/-- A combine in which an absent operand passes the other (R41). -/
def absent (g : Nat × Flags → Nat × Flags → Nat × Flags) (x y : Option (Nat × Flags)) : Option (Nat × Flags) :=
  match x, y with
  | none, y => y
  | x, none => x
  | some a, some b => some (g a b)

/-- The tree over lanes 0 to `i` (R41). -/
def scanAt (t : Fmt) (v : Nat) (act : Nat → Bool) (p : Payload) (i j : Nat) : Nat × Flags :=
  let ins := (treeInputs act (fun l => elemOf t (p.lane l) j)).mapIdx (fun l x => if l ≤ i then some x else none)
  ((tree (absent (reduceElem t v)) ins).headD none).getD (0, 0)

def bodyLscan : Body := fun s f0 e => do
  let f := { f0 with ln := 0 }
  let v := f.var.toNat
  let t ← check e f usesA (decide (v ≤ 2)) (reduceTypes e.cls v) (badReg e f)
  let a := srcA s e f
  let fm := fmtOf t
  done s (putFlags s e f (fun i => flagLane fm (scanAt fm v (laneActive e f) a.pay i)) [a])

/-- `lscan` (R135, R41). -/
def execLscan (f : Fields) (s : State) : Host.Outcome State Fault Refusal := issue 0x54 bodyLscan f s

-- Conversion -----------------------------------------------------------------------------------------------------------

/-- Whether `part` is below its limit (R130), for `n` source and `m` result elements per lane. -/
def partOk (n m part : Nat) : Bool := if n ≤ m then decide (part < m / n) else decide (part < n / m)

/-- Whether a result lane lies in the part that is written (R130). -/
def inPart (n m part i : Nat) : Bool := if n ≤ m then i / (16 * n / m) == part else true

/-- The source element of element `j` of result lane `i` (R130). -/
def partElem (n m part i j : Nat) : Nat :=
  if n ≤ m then m * i + j - part * 16 * n else part * 16 * m + m * i + j

/-- A destination of which only one part is written (R130). -/
def putPart (s : State) (e : Elem) (f : Fields) (n m part : Nat) (g : Nat → Lane × Flags) (srcs : List Reg) : Elem :=
  let act := fun i => laneActive e f i && inPart n m part i
  let prev := readDes s e f.d
  let whole := allActive e f && decide (m ≤ n)
  let e' := e.raise (laneFlags act (fun i => (g i).2))
  writeDes e' f.d { pay := mergeLanes act (fun i => (g i).1) prev.pay, pz := destPz e f srcs prev whole, tn := destTn e f srcs prev whole }

def bodyCvt : Body := fun s f e => do
  let r := fmtOf f.var.toNat
  let t0 := fmtOf (resolve e f.ty (usedDes usesA f))
  let okPart := decide (12 < resolve e f.ty (usedDes usesA f)) || partOk t0.perLane r.perLane (partNo f)
  let t ← check e f usesA (decide (1 ≤ f.var.toNat ∧ f.var.toNat ≤ 11) && (rmode f).isSome && okPart)
    (fun t => decide (1 ≤ t ∧ t ≤ 7)) (badReg e f)
  let src := fmtOf t
  let m := (rmode f).getD .rne
  let a := srcA s e f
  let p := partNo f
  done s (putPart s e f src.perLane r.perLane p (fun i => flagLane r (fun j =>
    roundTo r (src.decode (elemAt src a.pay (partElem src.perLane r.perLane p i j))) m)) [a])

/-- `cvt` (R131). -/
def execCvt (f : Fields) (s : State) : Host.Outcome State Fault Refusal := issue 0x50 bodyCvt f s

/-- A scale register as a source (R33, R119). -/
def scaleReg (e : Elem) (k : Nat) : Reg :=
  let x := e.x.toList.getD k Scale.installed
  { pay := Payload.splat (x.ts.setWidth 32), pz := x.pz, tn := x.tn }

/-- The value of a scale register (R33). -/
def scaleNum (e : Elem) (k : Nat) : Num := Fmt.decode .bf16 (e.x.toList.getD k Scale.installed).ts.toNat

/-- How a weight operand is decoded (R31, R132): by its channel's companion and scale register, by its channel's scale
register alone, or by named registers. -/
inductive Scaling where
  | companion (c j xs : Nat) | channel (xs : Nat) | named
  deriving DecidableEq, Repr

/-- The scaling of an operand read in a resolved type (R132): a channel's own where its type is not overridden. -/
def scalingOf (e : Elem) (d : BitVec 10) (t : Nat) : Scaling :=
  let x := (e.inch (desChan d)).ent
  let k := entFmt x
  if isSlot d && typeOfFmt k == t && (k == 16 || k == 17) then .companion (desChan d) (desOfs d) (entXs x)
  else if isSlot d && typeOfFmt k == t && decide (8 ≤ k ∧ k ≤ 11) then .channel (entXs x)
  else .named

/-- The companion word of a weight word at a queue position, if it has arrived (R32). -/
def companionWord (e : Elem) (c j : Nat) : Option CWord :=
  (e.inch (entCmp (e.inch c).ent)).q[(companionAt (e.inch c).q (e.inch c).wpos j).2]?

/-- The wait for a companion word, and its check (R32). -/
def awaitCompanion (e : Elem) (sc : Scaling) : Res Unit :=
  match sc with
  | .companion c j _ =>
    if (e.slot c j).isCtl then .ok ()
    else match companionWord e c j with
      | none => .error (.hold .slots)
      | some w => need w.isData (.align c (some (entCmp (e.inch c).ent)) (headKind e c))
  | _ => .ok ()

/-- The sources that a scaling adds (R119, R132). -/
def scalingSrcs (e : Elem) (sc : Scaling) (named : List Reg) : List Reg :=
  match sc with
  | .companion c j xs => (match companionWord e c j with | some w => [wordReg w] | none => []) ++ [scaleReg e xs]
  | .channel xs => [scaleReg e xs]
  | .named => named

/-- The 1.0 of R31 as a block scale. -/
def unitScale : Num := Num.one

/-- A weight element decoded in line or by `dq` (R31, R39): lane is the lane of the source element. -/
def weightElem (e : Elem) (t : Fmt) (p : Payload) (sc : Scaling) (bs : Nat → Num) (ts : Num) (el : Nat) : Nat × Flags :=
  let lane := el / t.perLane
  let code := elemAt t p el
  match sc with
  | .companion c j xs => dequant t code (Fmt.decode .e5m2 (e.blockScale c j lane)) (scaleNum e xs)
  | .channel xs => dequant t code unitScale (scaleNum e xs)
  | .named => dequant t code (bs lane) ts

/-- Weight types (R30). -/
def weightTypes (t : Nat) : Bool := decide (8 ≤ t ∧ t ≤ 11)

def bodyDq : Body := fun s f e => do
  let u := if f.b = 0x0FF then usesA else usesAB
  let t0 := resolve e f.ty (usedDes usesAB f)
  let sc := scalingOf e f.a t0
  let okPart := decide (12 < t0) || partOk (fmtOf t0).perLane 2 (partNo f)
  let bound := isSlot f.a && e.hasCmp (desChan f.a)
  need ((f.wb == 0 || isSlot f.b)) .instr
  let t ← check e f u (f.var == 0 && okPart) weightTypes
    (if f.b != 0x0FF && (decide (t0 < 10) || bound) then some f.b else badReg e f)
  awaitCompanion e sc
  let fm := fmtOf t
  let a := srcA s e f
  let b := srcB s e f
  let bs (l : Nat) : Num := if f.b = 0x0FF then unitScale else Fmt.decode .e5m2 ((b.pay.lane l).toNat % 256)
  let p := partNo f
  done s (putPart s e f fm.perLane 2 p (fun i => flagLane .bf16 (fun j =>
      weightElem e fm a.pay sc bs (scaleNum e (xsel f)) (partElem fm.perLane 2 p i j)))
    ([a] ++ scalingSrcs e sc [scaleReg e (xsel f)] ++ (if f.b = 0x0FF then [] else [b])))

/-- `dq` (R132). -/
def execDq (f : Fields) (s : State) : Host.Outcome State Fault Refusal := issue 0x51 bodyDq f s

/-- The divisor b·t of R133 and its flag: NaN where one factor is zero and the other infinite. -/
def divisor (b t : Num) : Num × Flags := b.mul t

/-- x over a divisor, in a format (R133). -/
def quantElem (r : Fmt) (m : Mode) (x b t : Num) : Nat × Flags :=
  let (d, g) := divisor b t
  let (q, h) := x.div d
  let (c, k) := roundTo r q m
  (c, g ||| h ||| k)

def bodyQnt : Body := fun s f e => do
  let u := if f.b = 0x0FF then usesA else usesAB
  let v := f.var.toNat
  let r := fmtOf v
  let t0 := resolve e f.ty (usedDes usesAB f)
  let okT (t : Nat) := t == 5 || t == 6
  let okPart := decide (12 < t0) || partOk (fmtOf t0).perLane r.perLane (partNo f)
  need ((f.wb == 0 || isSlot f.b)) .instr
  let t ← check e f u ([3, 4, 8, 9, 10, 11].contains v && (rmode f).isSome && okPart) okT
    (if f.b != 0x0FF && decide (v < 10) then some f.b else badReg e f)
  let fm := fmtOf t
  let m := (rmode f).getD .rne
  let a := srcA s e f
  let b := srcB s e f
  let bs (l : Nat) : Num := if f.b = 0x0FF then unitScale else Fmt.decode .e5m2 ((b.pay.lane l).toNat % 256)
  let p := partNo f
  done s (putPart s e f fm.perLane r.perLane p (fun i => flagLane r (fun j =>
      quantElem r m (fm.decode (elemAt fm a.pay (partElem fm.perLane r.perLane p i j))) (bs i) (scaleNum e (xsel f))))
    ([a, scaleReg e (xsel f)] ++ (if f.b = 0x0FF then [] else [b])))

/-- `qnt` (R133). -/
def execQnt (f : Fields) (s : State) : Host.Outcome State Fault Refusal := issue 0x52 bodyQnt f s

/-- x0-x7 as designators (R46). -/
def isScale (d : BitVec 10) : Bool := decide (0x0E8 ≤ d.toNat ∧ d.toNat ≤ 0x0EF)

def bodyScl : Body := fun s f e => do
  need (decide (f.var.toNat ≤ 1)) .instr
  needDes (f.var == 0 || srcOk e f.a) f.a
  needDes (isScale f.d) f.d
  await (f.var == 0 || inWait e f.a 0)
  let a := readDes s e f.a
  let v : Scale := if f.var = 0 then { ts := f.imm.setWidth 16, pz := e.flowP, tn := e.flowT }
    else { ts := (a.pay.lane 0).setWidth 16, pz := a.pz || e.flowP, tn := a.tn || e.flowT }
  done s { e with x := e.x.setIfInBounds (f.d.toNat % 8) v }

/-- `scl` (R134; log 124). -/
def execScl (f : Fields) (s : State) : Host.Outcome State Fault Refusal := issue 0x53 bodyScl f s

end Sys2Proof.Machine
end

