-- ==== Sys2Proof/Machine/Clock.lean ====
section
/-! DEFINITION. The passing of time between turns: the interval of every die (R192, R193, R397). -/
namespace Sys2Proof.Machine

/-- The width of a die's interval in ns (R192). -/
def Die.width (d : Die) : Nat := d.late - d.early

/-- Whether a die is too wide (R193): it became so and has not fallen below half the limit, or its width exceeds it. -/
def Die.tooWide (d : Die) : Bool := d.wide || decide (d.lim < d.width)

/-- A die after `ns` of the local count (R397): earliest advances at 1 - 50 ppm, latest at 1 + 50 ppm; the beacon ages.
An interval that no synchronisation has reached stays (0, 2^64 - 1) (R396). -/
def Die.pass (d : Die) (ns : Nat) : Die :=
  { d with ear := (if d.upst = 0 then d.ear else d.ear + ns * 19999),
           lat := (if d.upst = 0 then d.lat else min (d.lat + ns * 20001) ((2 ^ 64 - 1) * 20000)),
           bage := d.bage + ns }

/-- The dies whose clocks the module follows: its own, and those of peer modules of which it has heard (R350). -/
def State.clockDies (s : State) : List Nat := List.range 33 ++ (s.dies.map Prod.fst).filter (fun d => decide (64 ≤ d))

/-- The clocks of the module pass `ns`. -/
def passDies (s : State) (ns : Nat) : State := { s with dies := s.clockDies.map (fun d => (d, (s.die d).pass ns)) }

/-- Every core's heartbeat ages (R408). -/
def passCores (s : State) (ns : Nat) : State :=
  { s with cores := s.cores.map (fun e => { e with fc := { e.fc with beat := e.fc.beat.map (fun t => t + ns) } }) }

/-- Whether a die has had no beacon for more than 100 us (R199); the command die has none to wait for. -/
def Die.holding (d : Die) (n : Nat) : Bool := n != 32 && (d.hold || decide (100000 < d.bage))

/-- Whether a die is disciplined to the reference (R199): a fabric die while it applies beacons (log 14), the command die
while a synchronisation has arrived within 2 s (R396). -/
def Die.locked (d : Die) (n : Nat) : Bool := d.lock && decide (d.bage ≤ if n = 32 then 2000000000 else 100000)

/-- The interval status (R199), lanes 0 to 4. -/
def Die.status (d : Die) (n : Nat) : Payload :=
  let sat (x : Nat) : Lane := BitVec.ofNat 32 (min x (2 ^ 32 - 1))
  Payload.ofList [sat d.width, sat d.lim, BitVec.ofNat 32 (bit d.tooWide + 2 * bit (d.locked n) + 4 * bit (d.holding n)),
                  sat d.hops, sat d.bage]

/-- The width judged against the limit (R193): too wide above it, no longer below half of it. -/
def Die.judged (d : Die) : Die :=
  { d with wide := if d.lim < d.width then true else if 2 * d.width < d.lim then false else d.wide }

/-- The bits of R199 as they were last posted. -/
def Die.posted (d : Die) : Nat := bit d.wide + 2 * bit d.lock + 4 * bit d.hold

/-- The number of the die whose interval a unit reads: the command die's on a core (R194). -/
def Elem.clockDie (e : Elem) : Nat := if e.cls = .fc then 32 else e.die

/-- The word at which a unit stands. -/
def Elem.atWord (e : Elem) : BitVec 96 :=
  if e.cls = .fc then ((wordAt e.fc.icache e.run.pos).map CacheWord.word).getD 0 else e.body.getD e.run.pos 0

/-- Whether a unit on a die is holding issue at a `cmtw` or a `tlda`, for whatever it waits (R193). -/
def Elem.stampHold (e : Elem) (n : Nat) : Bool :=
  e.run.wait.isSome && e.busy && e.clockDie == n && !(e.halted || e.frozen || e.blot || e.dead || e.stop.isSome || e.fc.halted || e.fc.dead)
    && (e.atWord.extractLsb' 88 8 == 0xB2 || e.atWord.extractLsb' 88 8 == 0x85)

/-- A unit that holds issue so traps at the instant at which its die becomes too wide (R193). -/
def widenUnit (n : Nat) (s : State) (u : UnitId) : State :=
  match s.unit u with
  | none => s
  | some e => if e.stampHold n then takeTrap s u e (.widen (s.die n).width (s.die n).lim) e.atWord else s

/-- Every unit of the module. -/
def State.units (s : State) : List UnitId := (List.range s.elems.length).map .el ++ (List.range 16).map .fc

/-- A die's clock changed: it is judged, units that hold issue on a stamp trap where it has become too wide (R193), and a change
of its bits posts event 8 (R394). -/
def changeDie (s : State) (n : Nat) (d : Die) : State :=
  let was := s.die n
  let d := d.judged
  let s := s.setDie n d
  let s := if d.wide && !was.wide then s.units.foldl (widenUnit n) s else s
  if d.posted = was.posted then s else postEvent s 8 (n % 64 + 256 * d.posted) (srcNum n 7 0)

/-- Every die judged as its width stands. -/
def judgeDies (s : State) : State := s.clockDies.foldl (fun s n => changeDie s n (s.die n)) s

end Sys2Proof.Machine
end

