-- ==== Sys2Proof/Machine/Memory.lean ====
section
/-! DEFINITION. Memory as agents reach it: the address map (R220), homes (R256), the remote-data caches (R258), granule
bits (R161, R255), supplies and the attribution of errors (R403), stores that land (R262), stamped sectors (R171-R173). -/
namespace Sys2Proof.Machine

-- The address map (R220; log 8) -------------------------------------------------------------------------------------

/-- An address of this module's HBM. -/
def isOwn (a : Nat) : Bool := decide (a < 2 ^ 42 ∧ a % 2 ^ 37 < 72 * 2 ^ 30)

/-- A place of HBM, of this module or of a peer (R269). -/
def isHbm (a : Nat) : Bool := decide (a < 9 * 2 ^ 50 ∧ a % 2 ^ 50 < 2 ^ 42 ∧ a % 2 ^ 37 < 72 * 2 ^ 30)

/-- An address of the register range. -/
def isRegAddr (a : Nat) : Bool := a / 2 ^ 32 == 0x800

/-- An address of the command die's flash. -/
def isFlash (a : Nat) : Bool := a / 2 ^ 28 == 0x9000

/-- An address of host memory through the host links. -/
def isHost (a : Nat) : Bool := a / 2 ^ 44 == 1

/-- Where memory keeps a byte that the host addresses as `a` (log 8). -/
def hostKey (a : Nat) : Nat := 2 ^ 44 + a % 2 ^ 44

/-- Where memory keeps a byte of the peer module at link `p` (log 8). -/
def peerKey (p a : Nat) : Nat := (p + 1) * 2 ^ 50 + a % 2 ^ 50

/-- The die an address of HBM is homed on (R8, R269). -/
def homeDie (a : Nat) : Nat := a / 2 ^ 50 * 64 + a % 2 ^ 50 / 2 ^ 37

/-- Whether an address is served without the RDC of a die: it is homed there, or it is host memory, which no cache of
the module holds (R257, R268). -/
def isLocal (die a : Nat) : Bool := isHost a || (isHbm a && homeDie a == die)

/-- The folio whose slice is the home of an address of HBM (R256). -/
def homeFolio (a : Nat) : Nat :=
  let o := a % 2 ^ 37
  let k := o % (36 * 2 ^ 30) / 1024 % 72
  12 * (k / 6) + k % 6 + (if o < 36 * 2 ^ 30 then 0 else 6)

-- Granules ----------------------------------------------------------------------------------------------------------

/-- The 64-byte granule of an address, as its first address. -/
def granBase (a : Nat) : Nat := a / 64 * 64

/-- The bytes of a granule. -/
def memPay (m : List Host.Cell) (base : Nat) : Payload := BitVec.ofNat 512 (memNat m base 64)

/-- New bits where the mask is set. -/
def mix (old new mask : BitVec 512) : BitVec 512 := (old &&& ~~~mask) ||| (new &&& mask)

/-- Every bit of a granule. -/
def wholeMask : BitVec 512 := BitVec.allOnes 512

/-- The bits of `n` bytes from byte `o`. -/
def byteMask (o n : Nat) : BitVec 512 := BitVec.ofNat 512 ((2 ^ (8 * n) - 1) * 2 ^ (8 * o))

/-- The lowest `n` bits. -/
def lowMask (n : Nat) : BitVec 512 := BitVec.ofNat 512 (2 ^ min n 512 - 1)

/-- The sector of an address in its home L2 slice (R256). -/
def l2Find (s : State) (a : Nat) : Option L2Sec := s.l2.find? (fun x => x.sec == a / 128)

/-- Whether it holds an uncorrectable error in the granule of an address. -/
def l2Bad (s : State) (a : Nat) : Bool := (l2Find s a).any (fun x => x.bad.getLsbD (a / 64 % 2))

/-- A granule at its home with its PZ and TN; host memory keeps none (R255, R268). -/
def homeGran (s : State) (base : Nat) : Reg :=
  { pay := memPay s.mem base,
    pz := !isHost base && (s.gpz.contains (base / 64) || s.bad.contains (base / 64) || l2Bad s base),
    tn := !isHost base && s.gtn.contains (base / 64) }

-- Supplies and errors -------------------------------------------------------------------------------------------------

/-- The supply of a folio. -/
def State.supplyOf (s : State) (die folio : Nat) : Supply := Tab.get Supply.reset s.supply (die * 144 + folio)

/-- The level of a supply (R401). -/
def Supply.lvl (x : Supply) : Nat := bitsAt x.reg.toNat 16 8

/-- Its last safe level. -/
def Supply.safe (x : Supply) : Nat := bitsAt x.reg.toNat 8 8

/-- A supply register of its fields (R401). -/
def supplyReg (lvl safe uv bst flr : Nat) : BitVec 32 :=
  BitVec.ofNat 32 (fieldsNat [(16, lvl % 256), (8, safe % 256), (7, uv % 2), (6, bst % 2), (0, flr % 64)])

/-- A folio's supply changed; a change of its level posts event 15 (R394). -/
def setSupply (s : State) (die folio : Nat) (x : Supply) : State :=
  let old := s.supplyOf die folio
  let s := { s with supply := Tab.set s.supply (die * 144 + folio) x }
  if x.lvl = old.lvl then s
  else postEvent s 15 (die * 256 + folio + x.lvl * 65536) (srcNum die 6 folio)

/-- An uncorrectable error in a folio: where its level was lowered within 20 ms it is attributed to the voltage domain,
whose level and floor rise to `safe` + 2 and stay (R403). -/
def blameSupply (s : State) (die folio : Nat) : State × Option Nat :=
  let x := s.supplyOf die folio
  if x.lvl < 20 ∧ s.now ≤ x.down + 20000000 then
    let v := x.safe + 2
    (setSupply s die folio { reg := supplyReg v x.safe (bitsAt x.reg.toNat 7 1) (bitsAt x.reg.toNat 6 1) v,
                             down := x.down, held := true }, some folio)
  else (s, none)

/-- The number of a bridge unit at its site: the four of a fabric die 0-3, those of the command die, which take the site of its
module's die 0, behind the eight peer links (R382; log 153). -/
def bridgeNo (die br : Nat) : Nat := if die % 64 = 32 ∧ br < 2 then 12 + br else br

/-- The fault record of a unit that is no element (R382, R383): unit kind, site, region. -/
def unitRecord (s : State) (d ek site rgn : Nat) (t : Trap) (disp : Nat) : BitVec 2048 :=
  BitVec.ofNat 2048 (fieldsNat (
    ((t.det 0).mapIdx fun i x => (1536 + 32 * i, x % 2 ^ 32))
    ++ [(1176, 0xFF), (1160, 0xFFFF), (1152, ek), (1088, (s.die d).early), (992, site), (976, 0xFFFF)]
    ++ (if rgn = 0 then [] else launchFields s rgn)
    ++ [(32, disp), (24, t.cls.1), (16, t.cls.2)]))

/-- A unit that is no element raises a fault: the region whose traffic met it halts within 2 us (R380, R382). Its site names its die
and its number there. -/
def raiseUnitFault (s : State) (d ek no rgn : Nat) (u : FaultUnit) (t : Trap) : State :=
  let r := unitRecord s d ek (d % 32 * 65536 + no) rgn t (if rgn = 0 then 0 else 2)
  let s := if rgn = 0 then s else noteFault (haltSoon s rgn) rgn d u t
  putRecord s d r

/-- A read of a granule with an uncorrectable error of its stack or of its L2 sector: its meta bits take PZ, the home slice
records the error and posts it (R147, R161, R380, R383, R394; log 9). -/
def eccNote (s : State) (base rgn : Nat) : State :=
  if (s.bad.contains (base / 64) || l2Bad s base) && isHbm base then
    let die := homeDie base
    let folio := homeFolio base
    let (sub, unit) : Nat × FaultUnit := match l2Find s base with
      | some x => if s.bad.contains (base / 64) then (1, .granule base) else (2, .slice die folio x.way)
      | none => (1, .granule base)
    let s := { s with gpz := granSet s.gpz (base / 64) true }
    let (s, att) := if sub = 2 then blameSupply s die folio else (s, none)
    postEvent (raiseUnitFault s die 9 folio rgn unit (.ecc sub base att)) 7 base (srcNum die 4 folio)
  else s

/-- Whether a unit that is no element stands stopped: its record waits for room in its die's ring (R382; what it
holds meanwhile is log 145). -/
def unitHeld (s : State) (d ek no : Nat) : Bool :=
  (s.die (ringDie d)).waiting.any (fun r => bitsAt r.toNat 1152 8 == ek && bitsAt r.toNat 992 32 == d % 32 * 65536 + no)

/-- Whether the slice of an address, or the memory port by which a die reaches it, stands stopped (log 145). -/
def homeHeld (s : State) (die a : Nat) : Bool :=
  isHbm a && (unitHeld s (homeDie a) 9 (homeFolio a) || (!isLocal die a && unitHeld s die 8 0))

-- L2 slices -------------------------------------------------------------------------------------------------------------

/-- The way masks and gates of a slice. -/
def State.slice (s : State) (die folio : Nat) : Slice := Tab.get Slice.reset s.slices (die * 144 + folio)

/-- The ways a class may fill (R362, R363). -/
def Slice.ways (x : Slice) (tcl : Nat) : BitVec 16 := Tab.get 0xFFFF x.wmsk tcl &&& ~~~x.gated

/-- The set of a line in a slice of 16 ways (log 10). -/
def lineSet (a : Nat) : Nat := a % 2 ^ 37 % (36 * 2 ^ 30) / 1024 / 72 % 64

/-- Whether two addresses of HBM share a set of one slice. -/
def sameSet (a b : Nat) : Bool := homeDie a == homeDie b && homeFolio a == homeFolio b && lineSet a == lineSet b

/-- The pins of the set of an address (R168). -/
def setPins (s : State) (a : Nat) : List Pin := s.pins.filter (fun p => sameSet (p.line * 1024) a)

/-- The way in which the line of an address stands in its slice. -/
def lineWay (s : State) (a : Nat) : Option Nat :=
  match (setPins s a).find? (fun p => p.line == a / 1024) with
  | some p => some p.way.toNat
  | none => (s.l2.find? (fun x => x.sec / 8 == a / 1024)).map L2Sec.way

/-- The ways that a fill for a class may take: open to it, not gated, and without a pinned line (R168, R363). -/
def fillWays (s : State) (a tcl : Nat) : List Nat :=
  (List.range 16).filter (fun w => ((s.slice (homeDie a) (homeFolio a)).ways tcl).getLsbD w && (setPins s a).all (fun p => p.way.toNat != w))

/-- A sector put into a way of its slice, charged to a class. -/
def l2Put (s : State) (a w tcl : Nat) : State := { s with l2 := s.l2 ++ [{ sec := a / 128, way := w, tcl := tcl, bad := 0 }] }

/-- A line's sectors evicted from a way of the set of an address; their charges go (R363). -/
def l2Evict (s : State) (a w : Nat) : State := { s with l2 := s.l2.filter (fun x => !(sameSet (x.sec * 128) a && x.way == w)) }

/-- An access counted at its home slice, in windows of 2^20 (R405). -/
def l2Count (s : State) (a : Nat) : State :=
  if !isHbm a then s
  else
    let x := s.slice (homeDie a) (homeFolio a)
    let m := bit (l2Find s a).isNone
    let x := if x.accs < 2 ^ 20 then { x with accs := x.accs + 1, miss := x.miss + m } else { x with accs := 1, miss := m }
    { s with slices := Tab.set s.slices (homeDie a * 144 + homeFolio a) x }

/-- A fill of a sector in its home slice, charged to a class (R257, R363): a hit charges nothing; the way of its line is taken where it is
open to the class, for a new line an empty way, else a victim that the spec leaves open (log 129); where no way may be taken nothing is
allocated. -/
def l2Alloc (s : State) (a tcl : Nat) : State :=
  if !isHbm a || (l2Find s a).isSome then s
  else
    match lineWay s a with
    | some w => if ((s.slice (homeDie a) (homeFolio a)).ways tcl).getLsbD w then l2Put s a w tcl else s
    | none =>
      match fillWays s a tcl with
      | [] => s
      | v :: r =>
        match (v :: r).find? (fun w => s.l2.all (fun x => !(sameSet (x.sec * 128) a && x.way == w))) with
        | some w => l2Put s a w tcl
        | none =>
          let w := (v :: r).getD (Config.freeVictim s.freeCtr % (r.length + 1)) v
          l2Put (l2Evict { s with freeCtr := s.freeCtr + 1 } a w) a w tcl

/-- An access that fills its sector where it misses. -/
def l2Fill (s : State) (a tcl : Nat) : State := l2Alloc (l2Count s a) a tcl

/-- An access under a cache policy: stream-no-allocate allocates nothing (R257). -/
def l2Serve (s : State) (a pol tcl : Nat) : State := if pol = 1 then l2Count s a else l2Fill s a tcl

/-- The sectors of a slice charged to a class (R362). -/
def l2Occ (s : State) (die folio tcl : Nat) : Nat :=
  (s.l2.filter (fun x => homeDie (x.sec * 128) == die && homeFolio (x.sec * 128) == folio && x.tcl == tcl)).length

/-- A fill that pins its line (R168): made as a normal fill where 8 ways of the set hold pinned lines of others, or where no
way is open to the class. -/
def pinLine (s0 : State) (a tcl agent : Nat) : State :=
  let s := l2Alloc s0 a tcl
  let set := setPins s a
  let mine := set.filter (fun p => p.line == a / 1024)
  if mine.any (fun p => p.agent == agent) then s
  else
    match lineWay s a with
    | none => s
    | some w =>
      if mine = [] ∧ 8 ≤ ((set.map Pin.way).eraseDups).length then s
      else { s with pins := s.pins ++ [{ die := homeDie a, folio := homeFolio a, line := a / 1024, way := BitVec.ofNat 4 w, agent := agent }] }

-- The remote-data caches ----------------------------------------------------------------------------------------------

/-- A granule of a cached sector. -/
def RdcSec.gran (x : RdcSec) (base : Nat) : Reg :=
  let h := base / 64 % 2
  { pay := x.data.extractLsb' (512 * h) 512, pz := x.pz.getLsbD h, tn := x.tn.getLsbD h }

/-- The sector of an address as a die's RDC holds it for a region (R258). -/
def rdcFind (s : State) (die rgn a : Nat) : Option RdcSec :=
  s.rdc.find? (fun x => x.die == die && x.rgn == rgn && x.addr == a / 128 * 128)

/-- Sectors dropped. -/
def rdcDrop (s : State) (p : RdcSec → Bool) : State := { s with rdc := s.rdc.filter (fun x => !p x) }

/-- The sectors of a region dropped from a die's RDC (R258). -/
def rdcAcquire (s : State) (die rgn : Nat) : State := rdcDrop s (fun x => x.die == die && x.rgn == rgn)

/-- The sectors of a region dropped everywhere (R258). -/
def rdcRegion (s : State) (rgn : Nat) : State := rdcDrop s (fun x => x.rgn == rgn)

/-- The sectors an RDC holds: 32 MiB (R7). -/
def rdcCap : Nat := 262144

/-- A sector of a die evicted where its RDC is full, the oldest (R7, R258; log 130). -/
def rdcRoom (s : State) (die : Nat) : State :=
  if (s.rdc.filter (fun x => x.die == die)).length < rdcCap then s
  else
    match s.rdc.find? (fun x => x.die == die) with
    | some x => { s with rdc := s.rdc.erase x }
    | none => s

/-- A sector filled from its home (R258). -/
def rdcFill (s : State) (die rgn a : Nat) : State :=
  let b := a / 128 * 128
  let g0 := homeGran s b
  let g1 := homeGran s (b + 64)
  let s := rdcRoom s die
  { s with rdc := s.rdc ++ [{ die := die, rgn := rgn, addr := b, data := g1.pay ++ g0.pay,
                              pz := BitVec.ofBool g1.pz ++ BitVec.ofBool g0.pz,
                              tn := BitVec.ofBool g1.tn ++ BitVec.ofBool g0.tn, bad := false }] }

/-- A hit on a sector of a die's RDC: an uncorrectable error in it is recorded, and the word carries PZ (R161, R380). -/
def rdcHit (s : State) (die rgn base : Nat) (x : RdcSec) : State × Reg :=
  let g := x.gran base
  if x.bad then
    (postEvent (raiseUnitFault s die 8 0 rgn (.port die) (.ecc 3 base none)) 7 base (srcNum die 5 0), { g with pz := true })
  else (s, g)

/-- A granule as a load of a die finds it under a cache policy and for a tenant class (R257, R258, R363): through the RDC,
or at its home, where a copy in the RDC is dropped so that no later load goes back behind this one (R263). An access of stamped or host
space or of a core never uses the RDC (`skip`). -/
def readGran (s : State) (die rgn base pol tcl : Nat) (skip : Bool) : State × Reg :=
  let home (s : State) : State × Reg := let s := l2Serve s base pol tcl; (eccNote s base rgn, homeGran s base)
  if isLocal die base then home s
  else
    match rdcFind s die rgn base with
    | some x =>
      if pol = 3 ∨ skip then home (rdcDrop s (fun y => y.die == die && y.rgn == rgn && y.addr == base / 128 * 128))
      else rdcHit s die rgn base x
    | none => home (if (pol = 0 ∨ pol = 2) ∧ !skip then rdcFill s die rgn base else s)

/-- Under the pin policy the line of a word homed on the agent's die is pinned for the AG (R168, R257). -/
def pinFor (s : State) (u : UnitId) (die base pol tcl : Nat) : State :=
  match u with
  | .el n => if pol = 2 && isHbm base && isLocal die base then pinLine s base tcl n else s
  | .fc _ => s

/-- A granule as an agent's read finds it: a fill under the pin policy pins its line for the AG (R168, R257). -/
def agentGran (s : State) (u : UnitId) (die rgn base pol tcl : Nat) (skip : Bool) : State × Reg :=
  let (s, g) := readGran s die rgn base pol tcl skip
  (pinFor s u die base pol tcl, g)

/-- A synchronising or stamped access fills its sector in the home slice under the policy and class of its handle (R257, R363). -/
def agentFill (s : State) (u : UnitId) (die base pol tcl : Nat) : State := pinFor (l2Serve s base pol tcl) u die base pol tcl

-- Stores ------------------------------------------------------------------------------------------------------------

/-- New data and new check bits for a whole granule: its error goes from the cells of its stack and of its L2 sector, each unless they
are defective, which the spec leaves open (R147, R161; log 5). -/
def cureGran (s : State) (g : Nat) : State :=
  { s with bad := if Config.freeDefect s.freeCtr then s.bad else s.bad.filter (fun x => x != g),
           l2 := if Config.freeDefect (s.freeCtr + 1) then s.l2
                 else s.l2.map (fun x => if x.sec = g / 2 then { x with bad := x.bad &&& ~~~BitVec.ofNat 2 (2 ^ (g % 2)) } else x),
           freeCtr := s.freeCtr + 2 }

/-- The bits of a granule after a store to the whole of it, which sets them anew, or to a part, which ORs its own in (R147, R161). -/
def granBits (s : State) (base : Nat) (whole : Bool) (pz tn : Bool) : State :=
  let g := base / 64
  if isHost base then s
  else if whole then
    let s := { s with gpz := granSet s.gpz g pz, gtn := granSet s.gtn g tn }
    if s.bad.contains g || l2Bad s base then cureGran s g else s
  else { s with gpz := granSet s.gpz g (s.gpz.contains g || pz), gtn := granSet s.gtn g (s.gtn.contains g || tn) }

/-- The copies of a sector in the writer's die's RDC are dropped (R258). -/
def dropCopies (s : State) (die : Option Nat) (base : Nat) : State :=
  match die with
  | some d => rdcDrop s (fun x => x.die == d && x.addr == base / 128 * 128)
  | none => s

/-- Bytes of a granule written. -/
def landBytes (s : State) (base : Nat) (data mask : BitVec 512) : State :=
  { s with mem := memWrite s.mem base (littleBytes 64 (mix (memPay s.mem base) data mask).toNat) }

/-- A store lands at its home, where every later access finds it; copies of its sector in the writer's die's RDC are
dropped (R258, R262). -/
def landGran (s : State) (die : Option Nat) (base : Nat) (data mask : BitVec 512) (whole pz tn : Bool) : State :=
  dropCopies (granBits (landBytes s base data mask) base whole pz tn) die base

/-- Whether a store was made of the whole granule. -/
def PStore.whole (p : PStore) : Bool := p.made == wholeMask

/-- Whether a store does something to the granule's bits: it was made of some byte, and no later store of the whole granule lies over
it. -/
def PStore.marks (p : PStore) : Bool := p.made != 0 && !p.lost

/-- The bits that a granule takes from a store over what it held (R161, R255). -/
def PStore.bit (p : PStore) (old own late : Bool) : Bool := own || (if p.whole then late else old)

/-- A pending store whose bytes a later store of the coherence order has overwritten at the home (R263; log 131): what it does to the
granule's bits stands before what the later one does. -/
def PStore.under (p q : PStore) : PStore :=
  if q.base = p.base ∧ q.ord < p.ord ∧ q.reg = none then
    { q with mask := q.mask &&& ~~~p.mask, lost := q.lost || p.whole, lpz := q.lpz || (p.marks && p.pz), ltn := q.ltn || (p.marks && p.tn) }
  else q

/-- Whether a unit has a pending store that another one overwrites. -/
def PStore.over (p : PStore) (l : List PStore) : Bool := l.any (fun q => p.under q != q)

/-- A unit's pending stores after a later store of another agent to some of their bytes has become visible (R262, R263). -/
def Elem.overwritten (e : Elem) (p : PStore) : Elem := { e with ag := { e.ag with sb := e.ag.sb.map p.under } }

/-- Pending stores that come before a store in the coherence order of their bytes give way to it: their agents, too, now see
it, and no stale copy of the sector stays in the RDC of such an agent's die (R262, R263). -/
def supersede (s : State) (p : PStore) : State :=
  let hit := s.elems.filter (fun e => p.over e.ag.sb)
  let s := { s with elems := s.elems.map (fun e => e.overwritten p), cores := s.cores.map (fun e => e.overwritten p) }
  if hit = [] then s else rdcDrop s (fun x => hit.any (fun e => e.die == x.die) && x.addr == p.base / 128 * 128)

/-- An agent's store of memory lands: the bytes that no later store has taken, and its part in the granule's bits. -/
def landStore (s : State) (die : Option Nat) (p : PStore) : State :=
  let s := landBytes (supersede s p) p.base p.data p.mask
  dropCopies (if p.marks then granBits s p.base p.whole (p.bit false p.pz p.lpz) (p.bit false p.tn p.ltn) else s) die p.base

/-- Stores land in their order. -/
def landAll (s : State) (die : Option Nat) (l : List PStore) : State := l.foldl (fun s p => landStore s die p) s

/-- A granule as its agent sees it: its own stores that stand before a place in its order lie over what memory answers
(R169, R262). -/
def ownView (sb : List PStore) (before base : Nat) (r : Reg) : Reg :=
  sb.foldl (fun r p =>
    if p.base = base ∧ p.seq < before ∧ p.reg = none then
      let bit (old own late : Bool) : Bool := if p.marks then !isHost base && p.bit old own late else old
      { pay := mix r.pay p.data p.mask, pz := bit r.pz p.pz p.lpz, tn := bit r.tn p.tn p.ltn }
    else r) r

-- Errors of the environment -----------------------------------------------------------------------------------------

/-- An error arises in what holds a granule or a sector (R161, R380; log 120). -/
def upset (s : State) (x : Upset) : State :=
  match x with
  | .hbm g => if isHbm (64 * g) then { s with bad := granSet s.bad g true } else s
  | .l2 g => { s with l2 := s.l2.map (fun x => if x.sec = g / 2 then { x with bad := x.bad ||| BitVec.ofNat 2 (2 ^ (g % 2)) } else x) }
  | .rdc d a => { s with rdc := s.rdc.map (fun x => if x.die = d ∧ x.addr = a / 128 * 128 then { x with bad := true } else x) }
  | .store n g => s.updElem n (fun e =>
      if (e.cls = .ve ∨ e.cls = .se) ∧ g < 2048 then { e with store := { e.store with bad := granSet e.store.bad g true } } else e)

/-- The errors that arise before a turn. -/
def upsetAll (s : State) (l : List Upset) : State := l.foldl upset s

-- Stamped sectors -----------------------------------------------------------------------------------------------------

/-- The stamps of a sector: freshly allocated it has one version with stamp 0 (R171). -/
def State.verOf (s : State) (a : Nat) : Ver := Tab.get { stamp := 0, prev := none } s.vers (a / 128)

/-- A wet store dries (R172): the current version becomes the previous one. -/
def dryOne (s : State) (w : Wet) : State :=
  let b := w.base / 128 * 128
  let g0 := homeGran s b
  let g1 := homeGran s (b + 64)
  let v := s.verOf w.base
  let old : OldVer := { data := g1.pay ++ g0.pay, stamp := v.stamp, pz := BitVec.ofBool g1.pz ++ BitVec.ofBool g0.pz,
                        tn := BitVec.ofBool g1.tn ++ BitVec.ofBool g0.tn }
  let s := { s with vers := Tab.set s.vers (w.base / 128) { stamp := w.stamp, prev := some old } }
  let s := landGran s none w.base w.data w.mask (w.mask == wholeMask) w.pz w.tn
  -- stores of equal stamp to one sector: the order was an arrival order (R172)
  if v.stamp = w.stamp then
    { s with gtn := granSet (granSet s.gtn (b / 64) true) (b / 64 + 1) true }
  else s

/-- A wet store in its place: by stamp, then by arrival (R172). -/
def wetInsert (l : List Wet) (w : Wet) : List Wet :=
  match l with
  | [] => [w]
  | x :: r => if w.stamp < x.stamp then w :: x :: r else x :: wetInsert r w

/-- Every wet store of a die whose stamp the die's earliest exceeds dries (R172). -/
def dryDie (s : State) (d : Nat) : State :=
  let due (w : Wet) : Bool := w.die == d && decide (w.stamp < (s.die d).early)
  (s.wet.filter due).foldl dryOne { s with wet := s.wet.filter (fun w => !due w) }

/-- Every wet store whose home die's earliest exceeds its stamp dries. -/
def dryDue (s : State) : State :=
  ((s.wet.map Wet.die).eraseDups).foldl dryDie s

/-- A die's clock changed: its bits are judged, and stamped stores whose stamp its earliest now exceeds dry at once (R172,
R193). -/
def setClock (s : State) (n : Nat) (d : Die) : State := dryDie (changeDie s n d) n

/-- The version of greatest stamp not above a stamp (R173), as the granule of an address. -/
def verAt (s : State) (base stamp : Nat) : Option Reg :=
  let v := s.verOf base
  if v.stamp ≤ stamp then some (homeGran s base)
  else match v.prev with
    | some o =>
      let h := base / 64 % 2
      if o.stamp ≤ stamp then
        some { pay := o.data.extractLsb' (512 * h) 512, pz := o.pz.getLsbD h, tn := o.tn.getLsbD h }
      else none
    | none => none

end Sys2Proof.Machine
end

