-- ==== Sys2Proof/Machine/Local.lean ====
section
/-! DEFINITION. Local stores and ops 0x70-0x76 (spec 05, R147-R153; spec 03, R81-R83). -/
namespace Sys2Proof.Machine

/-- The size of a local store (R81, R149). -/
def storeSize : Nat := 2 ^ 17

/-- The bits of the granules a load reads, the granules whose cells are defective among them (R147). -/
def Store.bits (st : Store) (grans : List Nat) : Bool × Bool :=
  (grans.any (fun g => st.pz.contains g || st.bad.contains g), grans.any (fun g => st.tn.contains g))

/-- A load marks the defective granules it reads (R147). -/
def Store.marked (st : Store) (grans : List Nat) : Store :=
  { st with pz := (grans.filter (fun g => st.bad.contains g)).foldl (fun l g => granSet l g true) st.pz }

/-- The meta bits of a granule ORed with those of a store that writes part of it (R147). -/
def Store.orBits (st : Store) (g : Nat) (pz tn : Bool) : Store :=
  { st with pz := if pz then granSet st.pz g true else st.pz, tn := if tn then granSet st.tn g true else st.tn }

/-- The meta bits of a granule set by a store that writes all of it (R147); `defect` says whether defective cells stay so. -/
def Store.setBits (st : Store) (g : Nat) (pz tn defect : Bool) : Store :=
  { st with pz := granSet st.pz g pz, tn := granSet st.tn g tn, bad := if defect then st.bad else st.bad.filter (fun x => x != g) }

/-- `n` bytes of a store at an address, little-endian; addresses wrap (R81, R149). -/
def Store.num (st : Store) (a n : Nat) : Nat := memNat st.bytes (a % storeSize) n

/-- `n` bytes written at an address. -/
def Store.write (st : Store) (a n v : Nat) : Store := { st with bytes := memWrite st.bytes (a % storeSize) (littleBytes n v) }

/-- The granule of an address. -/
def granule (a : Nat) : Nat := a % storeSize / 64

/-- An uncorrectable error in a granule of a local store: the element that holds it records it and posts it; its region halts
within 2 us, and no trap is raised (R147, R380, R394, R403). -/
def badEvent (owner : Elem) (s : State) (g : Nat) : State :=
  let (s, att) := blameSupply s owner.die owner.folio
  let t : Trap := .ecc 4 (64 * g) att
  let r := elemRecord s owner t 0 2
  let s := noteFault (haltSoon s owner.rgn) owner.rgn owner.die (.elem owner.code) t
  postEvent (putRecord s owner.die r) 7 (64 * g) owner.src

/-- Errors of the defective granules that a load met. -/
def badEvents (s : State) (owner : Elem) (st : Store) (grans : List Nat) : State :=
  ((grans.filter (fun g => st.bad.contains g)).eraseDups).foldl (badEvent owner) s

/-- The active lanes, ascending. -/
def activeLanes (e : Elem) (f : Fields) : List Nat := (List.range 16).filter (laneActive e f)

/-- A store that an instruction reaches: its own, or that of an SE of its quad group (R151). -/
inductive Reach where
  | own | other (n : Nat)
  deriving DecidableEq, Repr

/-- The scratchpad an instruction reaches (R151): on a VE `imm` bit 23 selects the SE of its quad group. -/
def reachOf (s : State) (e : Elem) (f : Fields) : Option Reach :=
  match e.cls with
  | .se => some .own
  | .ve =>
    match e.ve.quad[f.imm.toNat / 2 ^ 23]? with
    | some n => (s.elems[n]?).map (fun _ => .other n)
    | none => none
  | _ => none

def reachElem (s : State) (e : Elem) : Reach → Elem
  | .own => e
  | .other n => s.elems[n]?.getD e

/-- A store put back where it was reached. -/
def putStore (s : State) (e : Elem) (r : Reach) (st : Store) : State × Elem :=
  match r with
  | .own => (s, { e with store := st })
  | .other n => (s.updElem n (fun x => { x with store := st }), e)

/-- The lanes of a poisoned destination whose address operand was poisoned: the payload is a free value (R148). -/
def freeLanes (s : State) (i : Nat) : Lane := Payload.lane (Config.freePayload s.freeCtr) i

/-- A fresh free value for what follows. -/
def State.spend (s : State) : State := { s with freeCtr := s.freeCtr + 1 }

/-- An access of lanes to a local store: addresses by lane, bytes per lane, and what is made of the bytes read. -/
def loadLanes (s : State) (e : Elem) (f : Fields) (r : Reach) (a : Reg) (addr : Nat → Nat) (n : Nat)
    (ext : Nat → Lane) (lanes : List Nat) : Res Done :=
  if a.pz then done s.spend (put s e f (freeLanes s) [a])
  else
    let own := reachElem s e r
    let st := own.store
    let grans := lanes.map (fun i => granule (addr i))
    let (pz, tn) := st.bits grans
    let g : Reg := { pay := 0, pz := pz, tn := tn }
    let s' := badEvents s own st grans
    let (s2, e2) := putStore s' e r (st.marked grans)
    done s2 (put s2 e2 f (fun i => ext (st.num (addr i) n)) [a, g])

/-- One lane of a store that writes part of a granule (R147). -/
def storePart (st : Store) (a n v : Nat) (pz tn : Bool) : Store := (st.write a n v).orBits (granule a) pz tn

/-- Stores of lanes in ascending order (R83, R149). -/
def storeLanes (e : Elem) (addr : Nat → Nat) (n : Nat) (a b : Reg) (lanes : List Nat) (st : Store) : Store :=
  lanes.foldl (fun st i => storePart st (addr i) n (b.pay.lane i).toNat (a.pz || b.pz || e.flowP) (a.tn || b.tn || e.flowT)) st

/-- A store through a poisoned address, or under FP, stores nothing and raises poison consumption (R148). Where no lane is
active there is no access (R42). -/
def needSound (e : Elem) (des : BitVec 10) (lanes : List Nat) (a : Reg) (addr : Nat) : Res Unit :=
  need (lanes == [] || (!a.pz && !e.flowP)) (.poison 0 des.toNat (if a.pz then 0 else addr))

/-- The granules of a store that covers whole granules: their bits are set (R147); whether a defect stays is a free value. -/
def wholeBits (s : State) (st : Store) (g : Nat) (pz tn : Bool) : State × Store :=
  if st.bad.contains g then (s.spend, st.setBits g pz tn (Config.freeDefect s.freeCtr)) else (s, st.setBits g pz tn true)

/-- Whether the lanes given write every byte of a granule. -/
def coversGranule (addr : Nat → Nat) (n : Nat) (lanes : List Nat) (g : Nat) : Bool :=
  (List.range 64).all (fun b => lanes.any (fun i =>
    decide (addr i % storeSize ≤ 64 * g + b ∧ 64 * g + b < addr i % storeSize + n)))

/-- The granules that a store writes whole have their bits set afterwards instead of ORed (R147). -/
def coverBits (s : State) (addr : Nat → Nat) (n : Nat) (lanes : List Nat) (pz tn : Bool) (st : Store) : State × Store :=
  ((lanes.map (fun i => granule (addr i))).eraseDups).foldl
    (fun x g => if coversGranule addr n lanes g then wholeBits x.1 x.2 g pz tn else x) (s, st)

/-- Stores of lanes, put back. -/
def storeAccess (s : State) (e : Elem) (f : Fields) (r : Reach) (a b : Reg) (addr : Nat → Nat) (n : Nat) : Res Done := do
  let lanes := activeLanes e f
  needSound e f.d lanes a (addr (lanes.headD 0) % storeSize)
  let own := reachElem s e r
  let (s1, st) := coverBits s addr n lanes b.pz (a.tn || b.tn || e.flowT) (storeLanes e addr n a b lanes own.store)
  let (s2, e2) := putStore s1 e r st
  done s2 e2

/-- An address operand with the offset of `imm` bits 16:0 added, rounded down (R149, R151). -/
def localAddr (a : Reg) (f : Fields) (n i : Nat) : Nat :=
  let x := ((a.pay.lane i).toNat + f.imm.toNat % storeSize) % storeSize
  x / n * n

/-- The address of lane `i` of a whole-row access: from A[0], rounded down to 64 (R149, R152). -/
def rowAddr (a : Reg) (f : Fields) (i : Nat) : Nat := localAddr a f 64 0 + 4 * i

/-- Sources a and b and no destination. -/
def usesStore : Uses := { a := true, b := true, c := false, d := false }

def bodyRld : Body := fun s f e => do
  checkRaw e f usesA (decide (f.var.toNat ≤ 1) && f.ln != 3) (badReg e f)
  let a := srcA s e f
  let lanes := activeLanes e f
  loadLanes s e f .own a (if f.var = 0 then rowAddr a f else localAddr a f 4) 4 (fun v => BitVec.ofNat 32 v) lanes

/-- `rld` (R149; log 124). -/
def execRld (f : Fields) (s : State) : Host.Outcome State Fault Refusal := issue 0x70 bodyRld f s

def bodyRst : Body := fun s f0 e => do
  let f := { f0 with ln := 0 }
  checkRaw e f usesStore (decide (f.var.toNat ≤ 1)) none
  let a := srcA s e f
  storeAccess s e f .own a (srcB s e f) (if f.var = 0 then rowAddr a f else localAddr a f 4) 4

/-- `rst` (R149; log 124). -/
def execRst (f : Fields) (s : State) : Host.Outcome State Fault Refusal := issue 0x71 bodyRst f s

/-- Bytes and extension of the variants of `sld` (R152). -/
def sldSize (v : Nat) : Nat := if v = 0 then 4 else if v ≤ 2 then 2 else 1
def sldExt (v x : Nat) : Lane :=
  match v with
  | 2 => BitVec.ofInt 32 (signedOf 16 x)
  | 4 => BitVec.ofInt 32 (signedOf 8 x)
  | _ => BitVec.ofNat 32 x

/-- The scratchpad reached, or an illegal operand (R151). -/
def needReach (s : State) (e : Elem) (f : Fields) : Res Reach :=
  match reachOf s e f with
  | some r => .ok r
  | none => trap (.operand f.a.toNat)

/-- Whether `imm` names a scratchpad the element may reach (R151). -/
def badReach (s : State) (e : Elem) (f : Fields) (bad : Option (BitVec 10)) : Option (BitVec 10) :=
  match reachOf s e f with
  | some _ => bad
  | none => some f.a

def bodySld : Body := fun s f e => do
  let v := f.var.toNat
  checkRaw e f usesA (decide (v ≤ 4) && f.ln != 3) (badReach s e f (badReg e f))
  let r ← needReach s e f
  let a := srcA s e f
  loadLanes s e f r a (localAddr a f (sldSize v)) (sldSize v) (sldExt v) (activeLanes e f)

/-- `sld` (R152). -/
def execSld (f : Fields) (s : State) : Host.Outcome State Fault Refusal := issue 0x72 bodySld f s

/-- Bytes of the variants of `sst` (R152). -/
def sstSize (v : Nat) : Nat := if v = 0 then 4 else if v = 1 then 2 else 1

def bodySst : Body := fun s f0 e => do
  let f := { f0 with ln := 0 }
  let v := f.var.toNat
  checkRaw e f usesStore (decide (v ≤ 2)) (badReach s e f none)
  let r ← needReach s e f
  let a := srcA s e f
  storeAccess s e f r a (srcB s e f) (localAddr a f (sstSize v)) (sstSize v)

/-- `sst` (R152). -/
def execSst (f : Fields) (s : State) : Host.Outcome State Fault Refusal := issue 0x73 bodySst f s

def bodySldv : Body := fun s f e => do
  checkRaw e f usesA (f.var == 0 && f.ln != 3) (badReach s e f (badReg e f))
  let r ← needReach s e f
  let a := srcA s e f
  loadLanes s e f r a (rowAddr a f) 4 (fun v => BitVec.ofNat 32 v) (activeLanes e f)

/-- `sldv` (R152; log 124). -/
def execSldv (f : Fields) (s : State) : Host.Outcome State Fault Refusal := issue 0x74 bodySldv f s

def bodySstv : Body := fun s f0 e => do
  let f := { f0 with ln := 0 }
  checkRaw e f usesStore (f.var == 0) (badReach s e f none)
  let r ← needReach s e f
  let a := srcA s e f
  storeAccess s e f r a (srcB s e f) (rowAddr a f) 4

/-- `sstv` (R152). -/
def execSstv (f : Fields) (s : State) : Host.Outcome State Fault Refusal := issue 0x75 bodySstv f s

/-- The update of `satm` on 4-byte values (R153). -/
def satmFn (v : Nat) (old b c : Lane) : Lane :=
  match v with
  | 0 => old + b
  | 1 => if b.slt old then b else old
  | 2 => if old.slt b then b else old
  | 3 => if b.ult old then b else old
  | 4 => if old.ult b then b else old
  | 5 => old &&& b
  | 6 => old ||| b
  | 7 => old ^^^ b
  | 8 => b
  | _ => if old = c then b else old

/-- The lanes of `satm` in ascending order: the store after them and the values they read (R153). -/
def satmLanes (v : Nat) (addr : Nat → Nat) (b c : Payload) (pz tn : Bool) : List Nat → Store → Store × List (Nat × Lane)
  | [], st => (st, [])
  | i :: r, st =>
    let old : Lane := BitVec.ofNat 32 (st.num (addr i) 4)
    let st1 := storePart st (addr i) 4 (satmFn v old (b.lane i) (c.lane i)).toNat pz tn
    let (st2, l) := satmLanes v addr b c pz tn r st1
    (st2, (i, old) :: l)

def bodySatm : Body := fun s f0 e => do
  let f := { f0 with ln := 0 }
  let v := f.var.toNat
  checkRaw e f usesABC (decide (v ≤ 9)) (badReach s e f (if dstOk e f.d then none else some f.d))
  let r ← needReach s e f
  let a := srcA s e f
  let b := srcB s e f
  let c := srcC s e f
  let lanes := activeLanes e f
  let addr := localAddr a f 4
  needSound e f.d lanes a (addr (lanes.headD 0))
  let own := reachElem s e r
  let m := e.mask f.pm.toNat
  let pz := b.pz || c.pz || m.pz
  let tn := decide (8 ≤ v) || a.tn || b.tn || c.tn || m.tn || e.flowT
  let grans := lanes.map (fun i => granule (addr i))
  let (gpz, _) := own.store.bits grans
  let s1 := badEvents s own own.store grans
  let (st, olds) := satmLanes v addr b.pay c.pay pz tn lanes (own.store.marked grans)
  let (s3, e3) := putStore s1 e r st
  done s3 (put s3 e3 f (fun i => (Tab.get 0 olds i)) [a, b, c, { pay := 0, pz := gpz, tn := true }])

/-- `satm` (R153). -/
def execSatm (f : Fields) (s : State) : Host.Outcome State Fault Refusal := issue 0x76 bodySatm f s

end Sys2Proof.Machine
end

