-- ==== Sys2Proof/Machine/Xlate.lean ====
section
/-! DEFINITION. From a port and coordinates to an address: contexts, handles, shape records, tiles and frames
(R155-R160, R351-R358). -/
namespace Sys2Proof.Machine

-- Records -----------------------------------------------------------------------------------------------------------

/-- Where a context's record stands (R351; log 52). -/
def State.ctxAddr (s : State) (c : Nat) : Nat := s.ctxAt + 64 * c

/-- The context record of R351, as it stands in device memory. -/
def State.ctx (s : State) (c : Nat) : BitVec 512 := BitVec.ofNat 512 (memNat s.mem (s.ctxAddr c) 64)

/-- A context record written. -/
def State.setCtx (s : State) (c : Nat) (v : BitVec 512) : State := { s with mem := memWrite s.mem (s.ctxAddr c) (littleBytes 64 v.toNat) }

/-- The contexts whose record is not zero, ascending. -/
def State.ctxList (s : State) : List Nat :=
  ((s.mem.filter (fun x => decide (s.ctxAt ≤ x.1 ∧ x.1 < s.ctxAt + 64 * 4096))).map (fun x => (x.1 - s.ctxAt) / 64)).eraseDups

def ctxHtab (c : BitVec 512) : Nat := bitsAt c.toNat 448 64
def ctxSarea (c : BitVec 512) : Nat := bitsAt c.toNat 384 64
def ctxSalen (c : BitVec 512) : Nat := bitsAt c.toNat 352 32
def ctxHcnt (c : BitVec 512) : Nat := bitsAt c.toNat 330 22
def ctxPasid (c : BitVec 512) : Nat := bitsAt c.toNat 310 20
def ctxTcl (c : BitVec 512) : Nat := bitsAt c.toNat 305 5

/-- Fields of a handle-table entry (R352). -/
def heSrec (h : BitVec 256) : Nat := bitsAt h.toNat 192 64 / 64 * 64
def heLim (h : BitVec 256) : Nat := bitsAt h.toNat 160 32
def heGen (h : BitVec 256) : Nat := bitsAt h.toNat 150 10
def heVal (h : BitVec 256) : Bool := h.getLsbD 149
def heRo (h : BitVec 256) : Bool := h.getLsbD 148
def heSpc (h : BitVec 256) : Nat := bitsAt h.toNat 145 3
def hePol (h : BitVec 256) : Nat := bitsAt h.toNat 143 2
def heTcl (h : BitVec 256) : Nat := bitsAt h.toNat 138 5
def hePlk (h : BitVec 256) : Nat := bitsAt h.toNat 135 3

/-- Slot and generation of a handle (R155). -/
def hdlSlot (h : Nat) : Nat := h / 1024 % 2 ^ 22
def hdlGen (h : Nat) : Nat := h % 1024

/-- The entry of a handle in a context's table, read at its home. -/
def heAt (s : State) (ctx slot : Nat) : BitVec 256 := BitVec.ofNat 256 (memNat s.mem (ctxHtab (s.ctx ctx) + 32 * slot) 32)

/-- Whether a handle names an entry that may be used (R352). -/
def handleOk (s : State) (ctx hdl : Nat) : Bool :=
  let h := heAt s ctx (hdlSlot hdl)
  decide (hdlSlot hdl ≤ ctxHcnt (s.ctx ctx)) && heVal h && heGen h == hdlGen hdl && decide (heSpc h ≤ 3)

/-- Fields of a shape record (R354). -/
def srTtab (r : BitVec 1536) : Nat := bitsAt r.toNat 1216 64
def srTstr (r : BitVec 1536) (k : Nat) : Nat := bitsAt r.toNat (32 * k + 1024) 32
def srTshp (r : BitVec 1536) (k : Nat) : Nat := bitsAt r.toNat (16 * k + 928) 16
def srDim (r : BitVec 1536) (k : Nat) : Nat := bitsAt r.toNat (32 * k + 736) 32
def srTsz (r : BitVec 1536) : Nat := bitsAt r.toNat 8 2
def srRank (r : BitVec 1536) : Nat := bitsAt r.toNat 5 3
def srCode (r : BitVec 1536) : Nat := bitsAt r.toNat 0 5

/-- A shape record at an address, read at its home. -/
def srAt (s : State) (a : Nat) : BitVec 1536 := BitVec.ofNat 1536 (memNat s.mem a 192)

/-- The format of a tensor's elements (R28). -/
def tensorFmt (code : Nat) : Option Fmt := if code = 16 then some .e2m1 else if code = 17 then some .i4 else Fmt.ofCode code

/-- The bytes of a tile size code (R155); code 3 has no size. -/
def tileBytes (z : Nat) : Nat := if z = 0 then 2 ^ 16 else if z = 1 then 2 ^ 21 else if z = 2 then 2 ^ 28 else 0

/-- The product of some numbers of dimensions below `n`. -/
def prodTo (g : Nat → Nat) : Nat → Nat
  | 0 => 1
  | n + 1 => prodTo g n * g n

/-- A sum over dimensions below `n`. -/
def sumTo (g : Nat → Nat) : Nat → Nat
  | 0 => 0
  | n + 1 => sumTo g n + g n

/-- Whether a shape record is well formed (R354). -/
def shapeOk (r : BitVec 1536) : Bool :=
  match tensorFmt (srCode r) with
  | none => false
  | some t =>
    let n := srRank r
    decide (1 ≤ n ∧ n ≤ 6) && (List.range n).all (fun k => decide (srTshp r k ≠ 0)) && srTshp r 0 % (16 * t.perLane) == 0
      && decide (prodTo (srTshp r) n * t.bits / 8 ≤ tileBytes (srTsz r))

/-- The words of a row of a tensor, and of all of it, in canonical order (R159). -/
def rowWords (r : BitVec 1536) (t : Fmt) : Nat := (srDim r 0 + 16 * t.perLane - 1) / (16 * t.perLane)
def tensorWords (r : BitVec 1536) (t : Fmt) : Nat := rowWords r t * prodTo (fun k => srDim r (k + 1)) (srRank r - 1)

/-- The coordinates of a word in canonical order (R159): c0/16n varies fastest. -/
def wordCoords (r : BitVec 1536) (t : Fmt) (w : Nat) : List Int :=
  let row := rowWords r t
  let rest (k : Nat) := w / row / prodTo (fun j => srDim r (j + 1)) k
  Int.ofNat (w % row * (16 * t.perLane)) ::
    (List.range 5).map (fun k => if k + 1 < srRank r then Int.ofNat (rest k % srDim r (k + 1)) else 0)

-- Ports -------------------------------------------------------------------------------------------------------------

def Port.hdl (p : Port) : Nat := bitsAt p.bind.toNat 0 32
def Port.bnd (p : Port) : Bool := p.bind.getLsbD 32
def Port.tsz (p : Port) : Nat := bitsAt p.bind.toNat 33 2

/-- A binding register of its fields (R155). -/
def bindReg (hdl tsz : Nat) (bnd : Bool) : BitVec 64 := BitVec.ofNat 64 (fieldsNat [(33, tsz % 4), (32, bit bnd), (0, hdl % 2 ^ 32)])

def Elem.port (e : Elem) (p : Nat) : Port := e.ag.ports.toList.getD p Port.unbound
def Elem.setPort (e : Elem) (p : Nat) (x : Port) : Elem := { e with ag := { e.ag with ports := e.ag.ports.setIfInBounds p x } }

/-- The unit number of an AG or RA (R213). -/
def Elem.unitNo (e : Elem) : Nat := e.site.toNat % 1024

/-- The folio of an AG (R6). -/
def Elem.agFolio (e : Elem) : Nat := e.unitNo / 4

/-- The port with its shape record read afresh where it was discarded (R181, R355). -/
def freshPort (s : State) (p : Port) (ctx : Nat) : Port :=
  if p.stale then
    let h := heAt s ctx (hdlSlot p.hdl)
    { p with hent := h, srec := srAt s (heSrec h), stale := false }
  else p

-- Access checks -------------------------------------------------------------------------------------------------------

/-- What an access is, for the checks of R159 and R352. -/
inductive Kind where
  | load | store | tsts | tlda | ldaq | strl | atomic | engRead | engWrite
  deriving DecidableEq, Repr

/-- An access that writes (R352). -/
def Kind.writes : Kind → Bool
  | .store | .tsts | .strl | .atomic | .engWrite => true
  | _ => false

/-- A synchronising access (R174). -/
def Kind.sync : Kind → Bool
  | .ldaq | .strl | .atomic => true
  | _ => false

/-- The subcause with which a space refuses an access (R160). -/
def Kind.refused (k : Kind) (spc : Nat) : Option Nat :=
  match k with
  | .tsts | .tlda => if spc = 1 then none else some 6
  | .store | .engWrite => if spc = 1 then some 4 else none
  | .atomic | .strl => if spc = 1 then some 4 else if 2 ≤ spc then some 5 else none
  | .ldaq => if 2 ≤ spc then some 5 else none
  | _ => none

/-- The tile number of coordinates (R356), where they have one. -/
def tileOf (r : BitVec 1536) (c : List Int) : Option Nat :=
  let n := srRank r
  if (List.range n).all (fun k => decide (srTshp r k ≠ 0 ∧ 0 ≤ c.getD k 0)) then
    some (sumTo (fun k => (c.getD k 0).toNat / srTshp r k * srTstr r k) n)
  else none

/-- The element number of coordinates in their tile (R356). -/
def inTile (r : BitVec 1536) (c : List Int) : Nat :=
  sumTo (fun k => (c.getD k 0).toNat % srTshp r k * prodTo (srTshp r) k) (srRank r)

/-- Whether coordinates lie inside a tensor (R159). -/
def insideTensor (r : BitVec 1536) (c : List Int) : Bool :=
  (List.range 6).all (fun k => if k < srRank r then decide (0 ≤ c.getD k 0 ∧ c.getD k 0 < (srDim r k : Int)) else c.getD k 0 == 0)

/-- A checked access: the address of its element, the elements of the word inside the tensor, the format, the handle
entry, the translation used. -/
structure Access where
  addr  : Nat
  valid : Nat
  fmt   : Fmt
  hent  : BitVec 256
  via   : TileUse
  deriving DecidableEq, Repr

/-- Whether it is served without the RDC: stamped and host space are (R171, R258, R268). -/
def Access.homed (a : Access) : Bool := heSpc a.hent == 1 || heSpc a.hent == 2

/-- The bits of a word that lie inside the tensor. -/
def Access.mask (a : Access) : BitVec 512 := lowMask (a.valid * a.fmt.bits)

/-- The entries a folio's tile cache holds for a tile (R358). -/
def tileFind (s : State) (die folio : Nat) (u : TileUse) (gen : Nat) (piece : Option Nat) : Option (BitVec 64) :=
  (s.tiles.find? (fun t => t.die == die && t.folio == folio && t.ctx == u.ctx && t.slot == u.slot && t.gen == gen
    && t.tile == u.tile && t.piece == piece)).map TileEnt.ent

/-- An entry cached; a folio's 256 entries make room by dropping the oldest (log 11). -/
def tileFill (s : State) (die folio : Nat) (u : TileUse) (gen : Nat) (piece : Option Nat) (ent : BitVec 64) : State :=
  let mine := s.tiles.filter (fun t => t.die == die && t.folio == folio)
  let rest := if mine.length < 256 then s.tiles else
    match mine with
    | [] => s.tiles
    | t :: _ => s.tiles.erase t
  { s with tiles := rest ++ [{ die := die, folio := folio, ctx := u.ctx, slot := u.slot, gen := gen, tile := u.tile,
                               piece := piece, ent := ent }] }

/-- A table entry at its home (R357). -/
def tabEntry (s : State) (a : Nat) : BitVec 64 := BitVec.ofNat 64 (memNat s.mem a 8)

/-- The frame an entry names, for frames of a size, and an offset into it (R356, R357). -/
def frameAddr (ent : BitVec 64) (size off : Nat) : Nat := ent.toNat / 65536 * 65536 / size * size + off % size

/-- Where the layout unit finds a tile's bytes (R357, R358): the address in the tensor's space, or no subcause for a
bounds fault, or a translation subcause. -/
def findFrame (s : State) (die folio : Nat) (u : TileUse) (gen tsz ttab off : Nat) : Except (Option Nat) (State × Nat) :=
  match tileFind s die folio u gen none with
  | some ent => .ok (s, frameAddr ent (tileBytes tsz) off)
  | none =>
    match tileFind s die folio u gen (some (off / 65536)) with
    | some ent => .ok (s, frameAddr ent 65536 off)
    | none =>
      let ent := tabEntry s (ttab + 8 * u.tile)
      if ent.getLsbD 0 = false then .error (some 1)
      else if ent.getLsbD 1 then
        if tsz = 0 then .error none
        else
          let sub := tabEntry s (ent.toNat / 65536 * 65536 + 8 * (off / 65536))
          if sub.getLsbD 0 then .ok (tileFill s die folio u gen (some (off / 65536)) sub, frameAddr sub 65536 off)
          else .error (some 1)
      else .ok (tileFill s die folio u gen none ent, frameAddr ent (tileBytes tsz) off)

/-- The place in memory of an address of a space (R353, R357; log 8): none where host space has no ATS translation on the link
that the access travels, under its context's PASID. -/
def spaceKey (s : State) (link ctx spc plk a : Nat) : Option Nat :=
  if spc = 2 then (if s.ats.contains (link, ctxPasid (s.ctx ctx), a / 65536) then some (hostKey a) else none)
  else if spc = 3 then some (peerKey plk a)
  else some a

/-- Whether a place lies outside the memory of its space. -/
def offSpace (spc key : Nat) : Bool := if spc ≤ 1 then !isOwn key else spc == 3 && !isHbm key

/-- The host link of the queue that launched a region (R353). -/
def State.linkOf (s : State) (r : Nat) : Nat := (s.region r).q / 2048

/-- An access through a port (R159): the first check that fails decides. -/
def checkAccess (s : State) (die folio link ctx pno : Nat) (p0 : Port) (c : List Int) (k : Kind) :
    Except Trap (State × Port × Access) :=
  let p := freshPort s p0 ctx
  let tile := tileOf p.srec c
  let crossing := tile.isNone || tile != p.tile
  if crossing && !handleOk s ctx p.hdl then .error (.handle pno p.hdl (tile.getD 0))
  else
    let h := if crossing then heAt s ctx (hdlSlot p.hdl) else p.hent
    let t := tile.getD 0
    let bounds : Trap := .bounds pno p.hdl t 0
    match tensorFmt (srCode p.srec) with
    | none => .error bounds
    | some f =>
      if !shapeOk p.srec || !insideTensor p.srec c then .error bounds
      else if !k.sync && (c.getD 0 0).toNat % (16 * f.perLane) ≠ 0 then .error bounds
      else if heLim h ≤ t ∨ 2 ^ 32 ≤ t then .error bounds
      else if k.writes && heRo h then .error bounds
      else
        match k.refused (heSpc h) with
        | some b => .error (.transl b pno p.hdl t 0)
        | none =>
          if p.tsz ≠ srTsz p.srec then .error (.transl 2 pno p.hdl t 0)
          else
            let u : TileUse := { ctx := ctx, slot := hdlSlot p.hdl, tile := t }
            let off := inTile p.srec c * f.bits / 8
            match findFrame s die folio u (hdlGen p.hdl) p.tsz (srTtab p.srec) off with
            | .error none => .error bounds
            | .error (some b) => .error (.transl b pno p.hdl t 0)
            | .ok (s', a) =>
              match spaceKey s' link ctx (heSpc h) (hePlk h) a with
              | none => .error (.transl 3 pno p.hdl t a)
              | some key =>
                if offSpace (heSpc h) key then .error (.bounds pno p.hdl t a)
                else .ok (s', { p with hent := h, tile := some t },
                          { addr := key, valid := min (16 * f.perLane) (srDim p.srec 0 - (c.getD 0 0).toNat), fmt := f,
                            hent := h, via := u })

/-- An access of an AG through one of its ports; an unbound port is an illegal operand (R154). -/
def portAccess (s : State) (e : Elem) (d : BitVec 10) (pno : Nat) (c : List Int) (k : Kind) : Res (State × Port × Access) :=
  if !(e.port pno).bnd then trap (.operand d.toNat)
  else
    match checkAccess s e.die e.agFolio (s.linkOf e.rgn) (s.region e.rgn).ctx pno (e.port pno) c k with
    | .ok x => .ok x
    | .error t => trap t

-- Migration (R360, R361) -----------------------------------------------------------------------------------------------

/-- Fields of a migration record (R360). -/
def mgLat (r : BitVec 256) : Nat := bitsAt r.toNat 192 64
def mgEar (r : BitVec 256) : Nat := bitsAt r.toNat 128 64
def mgHdl (r : BitVec 256) : Nat := bitsAt r.toNat 96 32
def mgTile (r : BitVec 256) : Nat := bitsAt r.toNat 64 32
def mgDst (r : BitVec 256) : Nat := bitsAt r.toNat 16 48 * 65536
def mgHost (r : BitVec 256) : Bool := r.getLsbD 1

/-- The status of a host's request is written behind its record. -/
def mgStatus (s : State) (m : Migr) (v : Nat) : State :=
  if mgHost m.req then { s with mem := memWrite s.mem (hostKey (m.addr + 32)) (littleBytes 8 v) } else s

/-- Whether a pending request stands applied: its tile's entry names its destination (R359; log 18). -/
def mgApplied (s : State) (m : Migr) : Bool :=
  let h := heAt s m.ctx (hdlSlot (mgHdl m.req))
  let ent := tabEntry s (srTtab (srAt s (heSrec h)) + 8 * mgTile m.req)
  ent.getLsbD 0 && ent.toNat / 65536 * 65536 == mgDst m.req

/-- Requests that stand applied complete (R360). -/
def settleMigr (s : State) : State :=
  (s.migr.filter (mgApplied s)).foldl (fun s m => mgStatus { s with migr := s.migr.erase m } m 0) s

-- The nest ----------------------------------------------------------------------------------------------------------

/-- The nest's current coordinate in a dimension (R158). -/
def Nest.coord (n : Nest) (k : Nat) : Int :=
  n.base.getD k 0 + (List.range 6).foldl (fun a l => a + (n.ctr.getD l 0 : Int) * (n.str.getD l []).getD k 0) 0

def Nest.coords (n : Nest) : List Int := (List.range 6).map n.coord

/-- Counters advanced from level `w` upward (R158): the counters, and the number of levels that wrapped. -/
def advanceFrom (cnt : List Nat) : List Nat → Nat → List Nat × Nat
  | [], w => ([], w)
  | c :: r, w =>
    if c + 1 < cnt.getD w 1 then ((c + 1) :: r, w)
    else ((0 :: (advanceFrom cnt r (w + 1)).1), (advanceFrom cnt r (w + 1)).2)

/-- The nest advanced, and how many levels wrapped (R158). -/
def Nest.advance (n : Nest) : Nest × Nat := ({ n with ctr := (advanceFrom n.cnt n.ctr 0).1 }, (advanceFrom n.cnt n.ctr 0).2)

/-- Coordinates in lanes 0 to 5 of an operand, signed. -/
def laneCoords (p : Payload) : List Int := (List.range 6).map (fun k => (p.lane k).toInt)

end Sys2Proof.Machine
end

