-- ==== Sys2Proof/Machine/Region.lean ====
section
/-! DEFINITION. Regions as firmware commands them: resume, halt, reset, blot, release, and the counts of the region
control register (R367, R389-R391), with the end of a boost lease (R373). -/
namespace Sys2Proof.Machine

/-- The elements of a region. -/
def State.elemsOf (s : State) (r : Nat) : List Elem := s.elems.filter (fun e => e.rgn == r && !e.dead)

/-- The state with every element of a region changed. -/
def State.mapRegion (s : State) (r : Nat) (g : Elem → Elem) : State :=
  s.mapElems (fun e => if e.rgn = r && !e.dead then g e else e)

/-- The words in flight on an output, control words and snapshot markers among them (R391). -/
def OutChan.words (o : OutChan) : Nat := o.flight.length

/-- A sum over a list. -/
def sumOf {α : Type} (g : α → Nat) (l : List α) : Nat := l.foldl (fun n x => n + g x) 0

/-- The tokens of a region (R391): words in input slots and buffers, in flight, and at output gates. -/
def regionOcc (s : State) (r : Nat) : Nat :=
  sumOf (fun e => sumOf (fun i => i.q.length) e.ins.toList + sumOf OutChan.words e.outs.toList) (s.elemsOf r)
    + sumOf (fun g => g.inp.q.length + g.out.words) (s.region r).gates

/-- Whether a completion object's operation is under way and not stopped on a fault (R185). -/
def coRunning (c : BitVec 32) : Bool := c.toNat / 2 ^ 30 == 1 && !c.getLsbD 29

/-- What carries the region's tag and keeps a reset step waiting (R390). -/
def regionIfl (s : State) (r step : Nat) : Nat :=
  let es := s.elemsOf r
  if step = 2 then sumOf (fun e => (e.ag.cos.toList.filter coRunning).length) es
  else if step = 3 then
    sumOf (fun e => sumOf (fun p => p.reqs.length) e.ag.ports.toList + (e.ag.sb.filter (fun p => !p.acc)).length + e.ag.tsts.length) es
  else if step = 4 then
    sumOf (fun e => sumOf (fun o => if o.via = [] then 0 else o.words) e.outs.toList) es
      + sumOf (fun g => if g.out.via = [] then 0 else g.out.words) (s.region r).gates
  else 0

/-- A join takes a place of its own among the accesses of the module (R263). -/
def State.joined (s : State) : State := { s with orders := s.orders + 1 }

/-- Stores that join an agent's own (R186): accepted at their home, in the agent's order after what it has stored, in the
coherence order as of their join (R263; log 131). -/
def joinStores (a : AgPart) (ord : Nat) (l : List PStore) : AgPart :=
  { a with sb := a.sb ++ l.mapIdx (fun i p => { p with seq := a.seq + i, acc := true, ord := ord }), seq := a.seq + l.length }

/-- A store in its place among stores with the dies of their agents: after those of its own and of earlier places. -/
def ordInsert (x : Nat × PStore) : List (Nat × PStore) → List (Nat × PStore)
  | [] => [x]
  | y :: r => if x.2.ord < y.2.ord then x :: y :: r else y :: ordInsert x r

/-- Stores of a region land in their coherence order (R263). -/
def landRegion (s : State) (r : Nat) (pick : Elem → List PStore) : State :=
  (((s.elemsOf r).flatMap (fun e => (pick e).map (fun p => (e.die, p)))).foldl (fun l x => ordInsert x l) []).foldl
    (fun s x => landStore s (some x.1) x.2) s

/-- The units of a reset step at its end (R390). -/
def resetUnits (s : State) (r step : Nat) : State :=
  if step = 1 then
    let gone := (List.range s.elems.length).filter (fun n => (s.elems[n]?.map Elem.rgn) == some r)
    let s := s.mapRegion r (fun e => { e with ag := { e.ag with ports := e.ag.ports.map (fun p => { p with lq := [], sq := [] }) } })
    { s with pins := s.pins.filter (fun p => !gone.contains p.agent) }
  else if step = 2 then
    s.joined.mapRegion r (fun e =>
      { e with ag := { joinStores e.ag s.orders (e.ag.eng.flatMap EngOp.writes) with eng := [], cos := Vector.replicate 32 0 } })
  else if step = 3 then
    { s with tiles := s.tiles.filter (fun t => t.ctx != (s.region r).ctx) }
  else if step = 4 then
    let s := landRegion s r (fun e => e.ag.sb.filter PStore.acc)
    let s := s.mapRegion r (fun e =>
      { e with ag := { e.ag with sb := e.ag.sb.filter (fun p => !p.acc) }, outs := e.outs.map (fun o => { o with via := [] }) })
    s.setRegion r { s.region r with gates := (s.region r).gates.map (fun x => { x with out := { x.out with via := [] } }) }
  else s

/-- A region that is resetting passes every step whose count is 0 (R390). -/
def resetPass : Nat → State → Nat → State
  | 0, s, _ => s
  | n + 1, s, r =>
    let g := s.region r
    if g.stt = 5 ∧ 1 ≤ g.rstp ∧ g.rstp ≤ 4 ∧ regionIfl s r g.rstp = 0 then
      let s := resetUnits s r g.rstp
      resetPass n (s.setRegion r { s.region r with rstp := g.rstp + 1, since := s.now }) r
    else s

/-- Every region that is resetting passes what it can. -/
def resetAll (s : State) : State :=
  (s.regions.filter (fun p => p.2.stt == 5)).foldl (fun s p => resetPass 5 s p.1) s

-- The soundness map (R398) ------------------------------------------------------------------------------------------------

def smDie (x : BitVec 64) : Nat := bitsAt x.toNat 59 5
def smKind (x : BitVec 64) : Nat := bitsAt x.toNat 55 4
def smA (x : BitVec 64) : Nat := bitsAt x.toNat 47 8
def smB (x : BitVec 64) : Nat := bitsAt x.toNat 39 8
def smC (x : BitVec 64) : Nat := bitsAt x.toNat 35 4

/-- An entry of its fields. -/
def smEntry (die kind a b c st : Nat) : BitVec 64 :=
  BitVec.ofNat 64 (fieldsNat [(59, die % 32), (55, kind % 16), (47, a % 256), (39, b % 256), (35, c % 16), (32, st % 8)])

/-- The entries of the map that name resources of a die: this module's map, or what a peer's coordinator gives (R350). -/
def mapOf (s : State) (die : Nat) : List (BitVec 64) :=
  (if die < 64 then s.sound else Config.peerMap (die / 64 - 1)).filter (fun x => smDie x == die % 64)

/-- Whether the map marks a unit of a kind unsound. -/
def unsound (s : State) (die kind a b : Nat) : Bool :=
  (mapOf s die).any (fun x => smKind x == kind && smA x == a && smB x == b)

/-- An entry in its place: ascending by value (R398). -/
def smInsert (l : List (BitVec 64)) (x : BitVec 64) : List (BitVec 64) :=
  match l with
  | [] => [x]
  | y :: r => if x = y then l else if x.toNat < y.toNat then x :: l else y :: smInsert r x

/-- A unit marked unsound, lasting (R398), and the changed map signed (R399). A peer's map is its own firmware's. -/
def markUnsound (s : State) (die kind a b : Nat) : State :=
  if 32 ≤ die || unsound s die kind a b then s
  else
    let l := smInsert s.sound (smEntry die kind a b 0 1)
    { s with sound := l, mapSig := l }

/-- Whether the map fails its verification: the signature behind it was made over other entries (R399; log 135). -/
def mapFails (s : State) : Bool := s.mapSig != s.sound

-- Leases ------------------------------------------------------------------------------------------------------------

/-- The lease fields of a context record (R351): suspended, region, lease id, remaining time. -/
def ctxLsus (c : BitVec 512) : Bool := c.getLsbD 304
def ctxLrgn (c : BitVec 512) : Nat := bitsAt c.toNat 288 16
def ctxLid (c : BitVec 512) : Nat := bitsAt c.toNat 272 16
def ctxLrem (c : BitVec 512) : Nat := bitsAt c.toNat 208 64

/-- A context record with other lease fields. -/
def setLease (c : BitVec 512) (sus : Bool) (rgn lid rem : Nat) : BitVec 512 :=
  let keep := c.toNat / 2 ^ 305 * 2 ^ 305 + bitsAt c.toNat 0 208
  BitVec.ofNat 512 (keep + bit sus * 2 ^ 304 + rgn % 2 ^ 16 * 2 ^ 288 + lid % 2 ^ 16 * 2 ^ 272 + rem % 2 ^ 64 * 2 ^ 208)

/-- Folios released from their lease: the level goes back to the last safe one (log 12). -/
def unboostAt (s : State) (folios : List (Nat × Nat)) : State :=
  folios.foldl (fun s f =>
    let x := s.supplyOf f.1 f.2
    let n := x.reg.toNat
    if bitsAt n 6 1 = 0 then s
    else setSupply s f.1 f.2 { x with reg := supplyReg x.safe x.safe (bitsAt n 7 1) 0 (bitsAt n 0 6) }) s

/-- The folios of a region released from their lease. -/
def unboost (s : State) (r : Nat) : State := unboostAt s (s.region r).folios

/-- The lease of a context ends: its region's folios are released and its fields cleared (R373). -/
def endLease (s : State) (ctx : Nat) : State :=
  let c := s.ctx ctx
  if ctxLid c = 0 then s
  else { (unboost s (ctxLrgn c)).setCtx ctx (setLease c false 0 0 0) with leases := Tab.del s.leases ctx }

/-- The time that the lease of a context has left (R373). -/
def leaseLeft (s : State) (ctx : Nat) : Nat :=
  if ctxLsus (s.ctx ctx) then ctxLrem (s.ctx ctx) else Tab.get s.now s.leases ctx - s.now

/-- The lease of a region under removal goes back to the pool with the time it has left (R373, R390). -/
def returnLease (s : State) (r : Nat) : State :=
  let ctx := (s.region r).ctx
  let c := s.ctx ctx
  if ctxLid c ≠ 0 ∧ ctxLrgn c = r then endLease { s with pool := Tab.set s.pool (ctxLid c) (leaseLeft s ctx) } ctx else s

-- Commands ----------------------------------------------------------------------------------------------------------

/-- A command that does not apply in the state it meets (R389); the register lives only while its id is granted. -/
def refuseCmd (s : State) (r : Nat) : State := if (s.region r).stt = 0 then s else s.setRegion r { s.region r with err := true }

/-- A command that does. -/
def acceptCmd (s : State) (r : Nat) : State := s.setRegion r { s.region r with err := false }

/-- A unit resumed from a restartable stop (R160): at the instruction that trapped, after a `bkpt` at the next word. -/
def Elem.resumed (e : Elem) : Elem :=
  match e.stop with
  | none => e
  | some x => if x.cls = 18 then ({ e with stop := none } : Elem).advance e.nextPos .seq else { e with stop := none }

/-- Engine operations that stopped on a fault go on (R160, R371). -/
def Elem.enginesOn (e : Elem) : Elem :=
  { e with ag := { e.ag with cos := e.ag.cos.map (fun c => if c.getLsbD 29 then c &&& ~~~(0x23F00000 : BitVec 32) else c) } }

/-- Whether a unit's fault record still waits for room in its die's ring, which holds the unit stopped (R382). -/
def recordWaits (s : State) (e : Elem) : Bool := e.stop.any (fun x => (s.die (ringDie e.die)).waiting.contains x.frec)

/-- Whether a restartable stop stands in a region: a unit's, or an engine operation's. -/
def anyStop (s : State) (r : Nat) : Bool :=
  (s.elemsOf r).any (fun e => e.stop.isSome || e.ag.cos.toList.any (fun c => c.getLsbD 29))

/-- Flights without their markers (R367). -/
def OutChan.unmarked (o : OutChan) : OutChan :=
  { o with flight := o.flight.filter (fun x => match x with | .word _ _ => true | .mark _ => false) }

/-- A frozen region goes on where it stands (R367): its markers are discarded, an AG stopped by the snapshot goes on, a suspended lease continues (R373), and
the time it stood is not counted by the launch watchdog (R385). -/
def unfreeze (s : State) (r : Nat) : State :=
  let g := s.region r
  let s := s.mapRegion r (fun e =>
    { e with frozen := false, mark := none, stop := if recordWaits s e then e.stop else e.stop.filter (fun x => x.cls != 19), ins := e.ins.map (fun i => { i with mark := none }), outs := e.outs.map OutChan.unmarked })
  let c := s.ctx g.ctx
  let s := if ctxLsus c ∧ ctxLrgn c = r then
      { s.setCtx g.ctx (setLease c false r (ctxLid c) (ctxLrem c)) with leases := Tab.set s.leases g.ctx (s.now + ctxLrem c) }
    else s
  let s := s.setRegion r { g with wdHeld := g.wdHeld + (s.now - g.since),
                                  gates := g.gates.map (fun x => { x with held := false, recd := false, out := x.out.unmarked, inp := { x.inp with mark := none } }) }
  setStt s r 2

/-- Command 1 (R389). -/
def cmdResume (s : State) (r : Nat) : State :=
  let g := s.region r
  if g.stt = 3 then acceptCmd (unfreeze s r) r
  else if g.stt = 2 ∧ anyStop s r then acceptCmd (s.mapRegion r (fun e => if recordWaits s e then e else e.resumed.enginesOn)) r
  else refuseCmd s r

/-- Command 2 (R389). -/
def cmdHalt (s : State) (r : Nat) : State :=
  if (s.region r).stt = 2 then acceptCmd (haltRegion s r) r else refuseCmd s r

/-- Command 3 (R389, R390): the gates close, and the steps of the reset begin. -/
def cmdReset (s : State) (r : Nat) : State :=
  let g := s.region r
  if g.stt = 4 then
    let s := acceptCmd (setStt s r 5) r
    let s := s.setRegion r { s.region r with rstp := 1, since := s.now, gates := g.gates.map (fun x => { x with closed := true }) }
    resetPass 5 s r
  else refuseCmd s r

/-- Command 4 (R389, R390): every element takes the blot configuration, firings in progress are abandoned. -/
def cmdBlot (s : State) (r : Nat) : State :=
  let g := s.region r
  if g.stt = 5 ∧ g.rstp = 5 then
    let s := s.mapRegion r (fun e => { e with blot := true, busy := false, run := Run.idle, pipe := [], stop := none, frozen := false, mark := none })
    acceptCmd (setStt (returnLease s r) r 6) r
  else refuseCmd s r

/-- The elements of a region are gone from the fabric. -/
def clearElems (s : State) (r : Nat) : State :=
  let gone := (List.range s.elems.length).filter (fun n => (s.elems[n]?.map Elem.rgn) == some r)
  { (s.mapRegion r (fun e => { Elem.blank e.cls with dead := true })) with pins := s.pins.filter (fun p => !gone.contains p.agent) }

/-- A region given back (R258, R389, R390): its RDC sectors are invalidated, its elements are gone, its id is free and its register
no longer lives. -/
def freeRegion (s : State) (r : Nat) : State := (setStt (rdcRegion (clearElems s r) r) r 0).setRegion r Region.blank

-- Removal and retry (R387, R388, R390) ---------------------------------------------------------------------------------

/-- A queue's state. -/
def State.queue (s : State) (q : Nat) : Queue := Tab.get Queue.initial s.queues q
def State.setQueue (s : State) (q : Nat) (x : Queue) : State := { s with queues := Tab.set s.queues q x }

/-- Whether two units are the same for R387: the same granule, slice, port or link, whatever the way of the slice. -/
def FaultUnit.same (x y : FaultUnit) : Bool :=
  match x, y with
  | .slice d f _, .slice e g _ => d == e && f == g
  | _, _ => x == y

/-- Whether an actor has gone past the point at which it stood at a fault: the firing then begun has ended, or later ones have begun. -/
def Elem.passed (e : Elem) (p : Nat × Nat × Bool) : Bool :=
  decide (p.2.1 < e.fcnt.toNat) || (e.fcnt.toNat == p.2.1 && !(p.2.2 && e.busy))

/-- Whether a retried launch has passed the point of the first fault: each of its actors has (R387; log 140). -/
def pastPoint (s : State) (r : Nat) (x : Retry) : Bool :=
  x.point.all (fun p => (s.elemsOf r).all (fun e => e.act != p.1 || e.passed p))

/-- Where the `i`-th record that waits for room in a die's ring will stand (R382). -/
def Die.slot (x : Die) (i : Nat) : Nat := x.ringBase + 256 * ((x.ringTail + i) % 2 ^ (x.ringSize + 4))

/-- A record with another disposition. -/
def withDisp (r : BitVec 2048) (v : Nat) : BitVec 2048 :=
  BitVec.ofNat 2048 (r.toNat - bitsAt r.toNat 32 8 * 2 ^ 32 + v % 256 * 2 ^ 32)

/-- Whether a record that waits is the one of a region whose place is at an address. -/
def Die.waitsAt (x : Die) (rgn addr : Nat) (r : BitVec 2048) (i : Nat) : Bool :=
  x.slot i == addr && bitsAt r.toNat 960 15 == rgn % 2 ^ 15

/-- `disp` of a region's fault record, whose place is at an address, while it waits for room in its ring too (R382). -/
def setDisp (s : State) (rgn addr v : Nat) : State :=
  if addr = 0 then s
  else match s.dies.find? (fun d => (d.2.waiting.zipIdx).any (fun p => d.2.waitsAt rgn addr p.1 p.2)) with
    | some (n, x) => s.setDie n { x with waiting := x.waiting.mapIdx (fun i r => if x.waitsAt rgn addr r i then withDisp r v else r) }
    | none => { s with mem := memSet s.mem (addr + 4) (BitVec.ofNat 8 v) }

/-- A retried launch that has passed the point of a fault shows it to have been transient: `disp` becomes 3 (R387). -/
def settleRetries (s : State) (r : Nat) : State :=
  let g := s.region r
  let past := g.retry.filter (fun x => !x.anew && pastPoint s r x)
  if past = [] then s
  else past.foldl (fun s x => setDisp s r x.frec 3) (s.setRegion r { g with retry := g.retry.filter (fun x => !past.contains x) })

/-- Every region's retries settled. -/
def settleAll (s : State) : State := (s.regions.filter (fun p => p.2.retry != [] && p.2.fault.isNone)).foldl (fun s p => settleRetries s p.1) s

/-- The entry of the map that names the unit of a fault (R387, R398): a granule's row range, a way, an element, AG or RA, a bridge
unit as its fabric die has it. A memory port and a peer link have none. -/
def unitEntry (u : FaultUnit) : Option (Nat × Nat × Nat × Nat) :=
  match u with
  | .granule a => if isOwn a then some (homeDie a, 6, a / 2 ^ 30 % 256, a / 2 ^ 38 % 256) else none
  | .slice d f w => some (d, 5, f, w)
  | .port _ => none
  | .elem c =>
    let n := c % 1024
    let d := c % 2 ^ 31 / 65536
    if c < 2 ^ 31 then some (d, 0, c % 256, c / 256 % 256) else if n < 576 then some (d, 2, n / 4, n % 4) else some (d, 3, n - 576, 0)
  | .link d b => if d = 32 then (if b < 2 then some (16 * b, 4, 3, 0) else none) else if b < 4 then some (d, 4, b, 0) else none

/-- The unit of a fault marked unsound. -/
def markUnit (s : State) (unit : FaultUnit) : State :=
  match unitEntry unit with
  | some (d, k, a, b) => markUnsound s d k a b
  | none => s

/-- The header of the snapshot in a context's area. -/
def areaHead (s : State) (ctx : Nat) : Nat := memNat s.mem (ctxSarea (s.ctx ctx)) 128

/-- Whether the area of a context still holds a snapshot, and not that of another region or a later one (R368). -/
def areaHolds (s : State) (ctx rgn : Nat) (sn : Snap) : Bool :=
  let h := areaHead s ctx
  bitsAt h 0 32 == 0x50414E53 && bitsAt h 656 16 == rgn && bitsAt h 736 32 == sn.mkn % 2 ^ 32 && bitsAt h 704 32 == sn.seq % 2 ^ 32
    && bitsAt h 644 12 == sn.q % 4096

/-- What firmware does with a fault of class 13, 14 or 15 (R387). -/
inductive Remedy where
  | restore
  | mark (first : Retry)
  | test
  | remove
  deriving DecidableEq, Repr

/-- The step of R387 that a fault is at: a first restore, a restore under a new map, a pattern test where nothing can be restored,
or none left; `has` says that a complete snapshot stands in the area. What an attributed error left behind is not counted: a
recurrence is judged afresh (R403). -/
def remedyOf (g : Region) (has rtry : Bool) (cls : Nat) (unit : FaultUnit) (blamed : Bool) : Remedy :=
  if !rtry || !has then .test
  else match g.retry.find? (fun x => x.cls == cls && x.unit.same unit && !x.blamed) with
    | none => .restore
    | some x => if x.anew then .remove else if blamed then .restore else .mark x

/-- A region that has been removed and its launch: it waits for its completion record (R388, R413). -/
def dropLaunch (s : State) (r : Nat) (g : Region) : State :=
  setDisp { s with launches := s.launches.map (fun l =>
      if l.rgn = r ∧ l.phase = 1 then
        { l with phase := 4, held := some g, status := if g.hcode.isSome then 4 else if g.status = 0 then 5 else g.status, frec := g.frec }
      else l) } r g.frec 5

/-- A launch that keeps its region id and waits for a restore: on the `same` folios or on any, ready at `once` or, evicted, when its
causes are gone (R370, R387). -/
def holdLaunch (s : State) (r : Nat) (g : Region) (same once : Bool) : State :=
  { s with orders := s.orders + 1,
           launches := s.launches.map (fun l =>
             if l.rgn = r ∧ l.phase = 1 then { l with phase := 2, held := some g, same := same, order := if once then s.orders + 1 else 0 }
             else l) }

/-- Firmware's pattern test of the unit of a fault: a failure marks it unsound, but never for an attributed error (R387, R403). -/
def patternTested (s : State) (unit : FaultUnit) (blamed : Bool) : State :=
  match unitEntry unit with
  | none => s
  | some (d, k, a, b) =>
    let ok := Config.patternTest s.freeCtr (smEntry d k a b 0 1)
    let s := { s with freeCtr := s.freeCtr + 1 }
    if ok || blamed then s else markUnsound s d k a b

/-- The launch of a region at its release (R387, R388). -/
def removeLaunch (s : State) (r : Nat) : State :=
  let g := s.region r
  match g.fault with
  | none => dropLaunch s r g
  | some (cls, unit, blamed) =>
    if g.hcode.isSome ∨ cls < 13 ∨ 15 < cls then dropLaunch s r g
    else match remedyOf g (g.last.any (areaHolds s g.ctx r)) ((s.queue g.q).ctl.getLsbD 32) cls unit blamed with
      | .restore =>
        holdLaunch s r { g with retry := g.retry ++ [{ cls := cls, unit := unit, anew := false, blamed := blamed, frec := g.frec, point := g.point }] } true true
      | .mark x =>
        holdLaunch (setDisp (setDisp (markUnit s unit) r x.frec 4) r g.frec 4) r
          { g with retry := g.retry.erase x ++ [{ x with anew := true }] } false true
      | .test => dropLaunch (patternTested s unit blamed) r g
      | .remove => dropLaunch s r g

/-- Command 5 (R389). -/
def cmdRelease (s : State) (r : Nat) : State :=
  if (s.region r).stt = 7 then acceptCmd (freeRegion (removeLaunch s r) r) r else refuseCmd s r

/-- The commands of the region control register (R389); 0 and 6-15 name no command and change nothing (log 13). -/
def regionCmd (s : State) (r cmd : Nat) : State :=
  if cmd = 1 then cmdResume s r
  else if cmd = 2 then cmdHalt s r
  else if cmd = 3 then cmdReset s r
  else if cmd = 4 then cmdBlot s r
  else if cmd = 5 then cmdRelease s r
  else s

/-- The region control register as it reads (R389). -/
def regionReg (s : State) (r : Nat) : BitVec 128 :=
  let g := s.region r
  BitVec.ofNat 128 (fieldsNat [(96, regionOcc s r % 2 ^ 32),
    (64, (if g.stt = 5 ∧ g.rstp ≤ 4 then regionIfl s r g.rstp else 0) % 2 ^ 32), (48, g.stt % 256), (45, g.rstp % 8), (40, bit g.err)])

end Sys2Proof.Machine
end

