-- ==== Sys2Proof/Machine/Regs.lean ====
section
/-! DEFINITION. The register map (R379, R411): which register an address names, what it reads, what a store to it does. -/
namespace Sys2Proof.Machine

/-- A register of the map; a 16-byte register is two halves (R411). -/
inductive RegName where
  | tenant (die folio cls : Nat)
  | tileInv (die : Nat) (high : Bool)
  | interval (die : Nat)
  | supply (die folio : Nat)
  | ringBase (die : Nat)
  | ringHead (die : Nat)
  | ringTail (die : Nat)
  | region (r : Nat) (high : Bool)
  | route (k : Nat)
  | health
  | queue (q : Nat)
  deriving DecidableEq, Repr

/-- A register of a fabric die's block, by offset and size. -/
def fabricReg (die o size : Nat) : Option RegName :=
  if o < 128 * 144 then (if size = 4 ∧ o % 4 = 0 then some (.tenant die (o / 128) (o % 128 / 4)) else none)
  else if o = 0x10000 ∧ size = 8 then some (.tileInv die false)
  else if o = 0x10008 ∧ size = 8 then some (.tileInv die true)
  else if o = 0x10100 ∧ size = 64 then some (.interval die)
  else if 0x20000 ≤ o ∧ o < 0x20000 + 16 * 144 ∧ o % 16 = 0 ∧ size = 4 then some (.supply die ((o - 0x20000) / 16))
  else if o = 0x30000 ∧ size = 8 then some (.ringBase die)
  else if o = 0x30008 ∧ size = 8 then some (.ringHead die)
  else if o = 0x30010 ∧ size = 8 then some (.ringTail die)
  else none

/-- A register of the command die's block. -/
def commandReg (o size : Nat) : Option RegName :=
  if size ≠ 8 then none
  else if o < 0x100000 then (if o % 8 = 0 then some (.region (o / 16) (o % 16 == 8)) else none)
  else if 0x100008 ≤ o ∧ o ≤ 0x100080 ∧ o % 8 = 0 then some (.route ((o - 0x100000) / 8))
  else if o = 0x110000 then some .health
  else if 0x120000 ≤ o ∧ o < 0x120000 + 8 * 4096 ∧ o % 8 = 0 then some (.queue ((o - 0x120000) / 8))
  else none

/-- The register of an address and a size (R379); any other offset or size is none. -/
def regAt (a size : Nat) : Option RegName :=
  if !isRegAddr a then none
  else
    let o := a % 2 ^ 32
    if o < 2 ^ 31 then fabricReg (o / 2 ^ 26) (o % 2 ^ 26) size
    else if o < 2 ^ 31 + 2 ^ 26 then commandReg (o - 2 ^ 31) size
    else none

/-- The live bits of the health monitor (R408): cores whose last heartbeat is within the timeout. -/
def liveBits (s : State) : Nat :=
  fieldsNat ((List.range 16).map (fun c => (c, bit (match (s.cores[c]?.map (fun e => e.fc.beat)).join with
    | some t => decide (t ≤ s.hbto * 1000)
    | none => false))))

/-- What a register reads; `occ` of a tenant class counts the sectors charged to it (R363). -/
def regRead (s : State) (r : RegName) : Nat :=
  match r with
  | .tenant d f c =>
    min (l2Occ s d f c) 8192 * 2 ^ 16 + (Tab.get 0xFFFF (s.slice d f).wmsk c).toNat
  | .tileInv d h => bitsAt (s.die d).inv.toNat (if h then 64 else 0) 64
  | .interval d => ((s.die d).status d).toNat
  | .supply d f => (s.supplyOf d f).reg.toNat
  | .ringBase d => (s.die d).ringBase
  | .ringHead d => (s.die d).ringHead * 2 ^ 32 + (s.die d).ringSize
  | .ringTail d => (s.die d).ringTail
  | .region r h => bitsAt (regionReg s r).toNat (if h then 64 else 0) 64
  | .route k => (Tab.get (BitVec.ofNat 64 (defaultRoute k)) s.routes k).toNat
  | .health => s.cmis * 2 ^ 32 + s.hbto * 2 ^ 16 + liveBits s
  | .queue q => (s.queue q).ctl.toNat

/-- A store to a register takes effect (R379): fields marked read only keep their value. -/
def regWrite (s : State) (r : RegName) (v : Nat) : State :=
  match r with
  | .tenant d f c =>
    let x := s.slice d f
    { s with slices := Tab.set s.slices (d * 144 + f) { x with wmsk := Tab.set x.wmsk c (BitVec.ofNat 16 v) } }
  | .tileInv d h =>
    let x := s.die d
    if h then s.setDie d { x with inv := BitVec.ofNat 128 (v % 2 ^ 64 * 2 ^ 64 + x.inv.toNat % 2 ^ 64) }
    else s.setDie d { x with inv := BitVec.ofNat 128 (x.inv.toNat / 2 ^ 64 * 2 ^ 64 + bitsAt v 30 34 * 2 ^ 30), invBusy := true }
  | .interval _ => s
  | .supply d f =>
    let x := s.supplyOf d f
    let n := x.reg.toNat
    setSupply s d f { x with reg := supplyReg (bitsAt n 16 8) (bitsAt v 8 8) (bitsAt v 7 1) (bitsAt n 6 1) (bitsAt v 0 6) }
  | .ringBase d => s.setDie d { s.die d with ringBase := v / 256 * 256 % 2 ^ 64 }
  | .ringHead d =>
    let x := s.die d
    flushRing (x.waiting.length + 1) d (s.setDie d { x with ringHead := bitsAt v 32 32, ringSize := v % 16 })
  | .ringTail _ => s
  | .region r h => if h ∨ r = 0 then s else regionCmd s r (v % 16)
  | .route k =>
    let t := v % 32
    if t = 1 ∨ 17 ≤ t then s else { s with routes := Tab.set s.routes k (BitVec.ofNat 64 t) }
  | .health => { s with hbto := bitsAt v 16 16 }
  | .queue q => s.setQueue q { s.queue q with ctl := BitVec.ofNat 64 (v % 2 ^ 34) }

/-- A store that lands, at memory or at a register. -/
def landAny (s : State) (die : Option Nat) (p : PStore) : State :=
  match p.reg with
  | none => landStore s die p
  | some (a, size, v) =>
    match regAt a size with
    | some r => regWrite s r v.toNat
    | none => s

/-- Stores of an agent land in their order. -/
def landEach (s : State) (die : Option Nat) (l : List PStore) : State := l.foldl (fun s p => landAny s die p) s

end Sys2Proof.Machine
end

