-- ==== Sys2Proof/Machine/Stream.lean ====
section
/-! DEFINITION. Ops 0x80-0x89: the loop nest, the ports, loads, stores, prefetch and stamped accesses of an AG (spec 06,
R154-R173). These instructions ignore `ty`, `ln` and, where not said otherwise, `pm`. -/
namespace Sys2Proof.Machine

/-- Fields of `imm` (R156). -/
def imSp (f : Fields) : Nat := f.imm.toNat % 4
def imP2 (f : Fields) : Nat := f.imm.toNat / 4 % 4
def imP3 (f : Fields) : Nat := f.imm.toNat / 16 % 4
def imCo (f : Fields) : Nat := f.imm.toNat / 64 % 8
def imSz8 (f : Fields) : Bool := f.imm.getLsbD 9
def imOfs (f : Fields) : Nat := f.imm.toNat / 1024 % 64

/-- An instruction that uses operand a alone. -/
def onlyA : Uses := { a := true, b := false, c := false, d := false }
def onlyB : Uses := { a := false, b := true, c := false, d := false }
def onlyAB : Uses := { a := true, b := true, c := false, d := false }
def onlyD : Uses := { a := false, b := false, c := false, d := true }
def noUses : Uses := { a := false, b := false, c := false, d := false }

-- The nest ------------------------------------------------------------------------------------------------------------

/-- The nest with its counters at 0. -/
def Nest.rewound (n : Nest) : Nest := { n with ctr := List.replicate 6 0 }

/-- The bits of a register written into the nest, and the flow bits (R157, R87; log 15). -/
def Nest.taint (n : Nest) (e : Elem) (r : Reg) : Nest := { n with pz := n.pz || r.pz || e.flowP, tn := n.tn || r.tn || e.flowT }

/-- The element with another nest. -/
def Elem.setNest (e : Elem) (n : Nest) : Elem := { e with ag := { e.ag with nest := n } }

def bodyNest : Body := fun s f e => do
  let v := f.var.toNat
  let n := e.ag.nest
  let u := if v = 6 then onlyA else noUses
  checkRaw e f u (decide (v ≤ 7) && !(decide (v ≤ 5) && f.imm == 0)) none
  if v ≤ 5 then done s (e.setNest ({ n with cnt := n.cnt.set v f.imm.toNat }.rewound.taint e Reg.zero))
  else if v = 6 then
    let r := readDes s e f.a
    done s (e.setNest ({ n with base := laneCoords r.pay }.rewound.taint e r))
  else done s (e.setNest Nest.initial)

/-- `nest` (R162). -/
def execNest (f : Fields) (s : State) : Host.Outcome State Fault Refusal := issue 0x80 bodyNest f s

def bodyNstr : Body := fun s f e => do
  let v := f.var.toNat
  checkRaw e f onlyA (decide (v ≤ 5)) none
  let r := readDes s e f.a
  let n := e.ag.nest
  done s (e.setNest ({ n with str := n.str.set v (laneCoords r.pay) }.rewound.taint e r))

/-- `nstr` (R163). -/
def execNstr (f : Fields) (s : State) : Host.Outcome State Fault Refusal := issue 0x81 bodyNstr f s

/-- The nest's bits as a source. -/
def Nest.bits (n : Nest) : Reg := { pay := 0, pz := n.pz, tn := n.tn }

def bodyGen : Body := fun s f0 e => do
  let f := { f0 with ln := 0 }
  checkRaw e f onlyD (decide (f.var.toNat ≤ 1)) (badReg e f)
  let n := e.ag.nest
  let wraps := if f.var = 0 then n.advance.2 else 0
  let e := put s e f (fun i => if i ≤ 5 then BitVec.ofInt 32 (n.coord i) else if i = 6 then BitVec.ofNat 32 wraps else 0) [n.bits]
  done s (if f.var = 0 then e.setNest n.advance.1 else e)

/-- `gen` (R164). -/
def execGen (f : Fields) (s : State) : Host.Outcome State Fault Refusal := issue 0x82 bodyGen f s

-- Binding -------------------------------------------------------------------------------------------------------------

def bodyHbind : Body := fun s f e => do
  checkRaw e f onlyA (f.var == 0) none
  let p := e.port (imSp f)
  awaitFree (p.outst == 0)
  let r := readDes s e f.a
  let hdl := (r.pay.lane 0).toNat
  let ctx := (s.region e.rgn).ctx
  need (!r.pz) (.poison 0 f.d.toNat 0)
  need (handleOk s ctx hdl) (.handle (imSp f) hdl 0)
  let h := heAt s ctx (hdlSlot hdl)
  let e := e.setPort (imSp f) { p with bind := bindReg hdl p.tsz true, hent := h, srec := srAt s (heSrec h), stale := false, tile := none }
  done s (e.setNest (e.ag.nest.taint e { r with pz := false }))

/-- `hbind` (R165). -/
def execHbind (f : Fields) (s : State) : Host.Outcome State Fault Refusal := issue 0x88 bodyHbind f s

def bodyPgsz : Body := fun s f e => do
  need (f.var == 0 && imP2 f != 3) .instr
  let p := e.port (imSp f)
  awaitFree (p.outst == 0)
  done s (e.setPort (imSp f) { p with bind := bindReg p.hdl (imP2 f) p.bnd })

/-- `pgsz` (R166). -/
def execPgsz (f : Fields) (s : State) : Host.Outcome State Fault Refusal := issue 0x89 bodyPgsz f s

-- Loads and stores ------------------------------------------------------------------------------------------------------

/-- Whether a load queue has room (R167, R183). -/
def lqRoom (p : Port) : Bool := decide (p.lq.length + p.reqs.length < 32)

/-- The coordinates of an access: the nest's, or operand a's; with their bits (R161, R167). -/
def coordsOf (s : State) (e : Elem) (f : Fields) (nest : Bool) : List Int × Reg :=
  if nest then (e.ag.nest.coords, e.ag.nest.bits) else (laneCoords (readDes s e f.a).pay, readDes s e f.a)

/-- A wait on a names an input slot, in the forms driven by the nest too, whose field lists hold `wa` (R44, R167, R169). -/
def coordWait (f : Fields) : Bool := f.wa == 0 || isSlot f.a

/-- The nest advanced where the access is driven by it. -/
def stepNest (e : Elem) (nest : Bool) : Elem := if nest then e.setNest e.ag.nest.advance.1 else e

/-- A request that makes no access, because its address is poisoned (R161). -/
def deadReq (s : State) (e : Elem) (c : Reg) (stamp : Option Nat) : Req :=
  { addr := 0, valid := 0, stamp := stamp, pz := true, tn := c.tn || e.flowT, skip := true, before := e.ag.seq, ctr := e.ag.nest.ctr,
    pol := 0, tcl := 0, home := true, ord := s.orders, via := none }

/-- A request of an access (R161, R167): the meta bits its word will carry beside the granule's. A tensor of
stamped or host space is served at its home. -/
def liveReq (s : State) (e : Elem) (a : Access) (c : Reg) (pol : Nat) (stamp : Option Nat) : Req :=
  { addr := a.addr, valid := a.valid * a.fmt.bits, stamp := stamp, pz := c.pz || e.flowP, tn := c.tn || e.flowT, skip := false,
    before := e.ag.seq, ctr := e.ag.nest.ctr, pol := pol, tcl := heTcl a.hent,
    home := a.homed, ord := s.orders, via := some a.via }

/-- A request sent: it reserves the next entry of the load queue. -/
def sendReq (s : State) (e : Elem) (pno : Nat) (p : Port) (r : Req) : State × Elem :=
  ({ s with orders := s.orders + 1 }, e.setPort pno { p with reqs := p.reqs ++ [r], outst := p.outst + 1 })

def bodyTld : Body := fun s f e => do
  let v := f.var.toNat
  let nest := v == 0 || v == 2
  checkRaw e f (if nest then noUses else onlyA) (decide (v ≤ 3) && coordWait f) none
  let pno := imSp f
  awaitCount (lqRoom (e.port pno))
  let (c, r) := coordsOf s e f nest
  if r.pz then
    needDes (e.port pno).bnd f.a
    let (s, e) := sendReq s e pno (e.port pno) (deadReq s e r none)
    done s (stepNest e nest)
  else
    let (s', p, a) ← portAccess s e f.a pno c .load
    let (s', e') := sendReq s' e pno p (liveReq s e a r (if 2 ≤ v then 2 else hePol a.hent) none)
    done s' (stepNest e' nest)

/-- `tld` (R159, R161, R167, R168). -/
def execTld (f : Fields) (s : State) : Host.Outcome State Fault Refusal := issue 0x83 bodyTld f s

/-- The address a refused store reports (R383): the access's, or 0. -/
def accessAddr (r : Res (State × Port × Access)) : Nat :=
  match r with
  | .ok x => x.2.2.addr
  | .error _ => 0

/-- The store of an access, as it stands in its agent (R161, R169). -/
def storeOf (e : Elem) (ord pno : Nat) (a : Access) (w : CWord) (tn : Bool) : PStore :=
  { seq := e.ag.seq, base := a.addr, data := w.pay, mask := a.mask, pz := false, tn := tn, port := some pno, acc := false, rel := false,
    reg := none, via := some a.via, ord := ord, pol := hePol a.hent, tcl := heTcl a.hent }

def bodyTst : Body := fun s f e => do
  let nest := f.var == 0
  checkRaw e f (if nest then noUses else onlyA) (decide (f.var.toNat ≤ 1) && coordWait f) none
  let pno := imSp f
  let q := e.port pno
  awaitCount (q.sq != [])
  let w := q.sq.headD CWord.zero
  let (c, r) := coordsOf s e f nest
  let acc := portAccess s e f.a pno c .store
  need (!(r.pz || w.pz || e.flowP)) (.poison 0 f.d.toNat (accessAddr acc))
  let (s', p, a) ← acc
  let st := storeOf e s'.orders pno a w (r.tn || w.tn || e.flowT)
  let e' := e.setPort pno { p with sq := p.sq.drop 1, outst := p.outst + 1 }
  done { s' with orders := s'.orders + 1 } (stepNest { e' with ag := { e'.ag with sb := e'.ag.sb ++ [st], seq := e'.ag.seq + 1 } } nest)

/-- `tst` (R159, R161, R169). -/
def execTst (f : Fields) (s : State) : Host.Outcome State Fault Refusal := issue 0x84 bodyTst f s

-- Stamped accesses ------------------------------------------------------------------------------------------------------

/-- A die that is too wide traps (R193). -/
def needNarrow (d : Die) : Res Unit := need (!d.tooWide) (.widen d.width d.lim)

/-- The stamp in lanes 0 and 1 of an operand. -/
def stampOf (p : Payload) : Nat := (p.lane 0).toNat + (p.lane 1).toNat * 2 ^ 32

def bodyTsts : Body := fun s f e => do
  let nest := f.var == 0
  checkRaw e f (if nest then onlyB else onlyAB) (decide (f.var.toNat ≤ 1) && coordWait f) none
  let pno := imSp f
  let q := e.port pno
  awaitCount (q.sq != [])
  let d := s.die e.die
  needNarrow d
  let b := readDes s e f.b
  let st := stampOf b.pay
  let w := q.sq.headD CWord.zero
  let (c, r) := coordsOf s e f nest
  let acc := portAccess s e f.a pno c .tsts
  need (!(r.pz || w.pz || b.pz || e.flowP)) (.poison 0 f.d.toNat (accessAddr acc))
  need (decide (d.early < st)) (.tooOld st pno none)
  need (decide (st ≤ d.late + 2 ^ 30)) (.operand f.b.toNat)
  let (s', p, a) ← acc
  let t : Tsts := { port := pno, base := a.addr, data := w.pay, mask := a.mask, pz := false, tn := r.tn || w.tn || b.tn || e.flowT,
                    stamp := st, ctr := e.ag.nest.ctr, via := some a.via, pol := hePol a.hent, tcl := heTcl a.hent }
  let e' := e.setPort pno { p with sq := p.sq.drop 1, outst := p.outst + 1 }
  done s' (stepNest { e' with ag := { e'.ag with tsts := e'.ag.tsts ++ [t] } } nest)

/-- `tsts` (R161, R171, R193). -/
def execTsts (f : Fields) (s : State) : Host.Outcome State Fault Refusal := issue 0x86 bodyTsts f s

def bodyTlda : Body := fun s f e => do
  let nest := f.var == 0
  checkRaw e f (if nest then onlyB else onlyAB) (decide (f.var.toNat ≤ 1) && coordWait f) none
  let pno := imSp f
  let d := s.die e.die
  needNarrow d
  awaitCount (lqRoom (e.port pno))
  let b := readDes s e f.b
  let st := stampOf b.pay
  let (c, r0) := coordsOf s e f nest
  let r : Reg := { r0 with pz := r0.pz || b.pz, tn := r0.tn || b.tn }
  awaitFree (b.pz || decide (st < d.early))
  if r.pz then
    needDes (e.port pno).bnd f.a
    let (s, e) := sendReq s e pno (e.port pno) (deadReq s e r none)
    done s (stepNest e nest)
  else
    let (s', p, a) ← portAccess s e f.a pno c .tlda
    let (s', e') := sendReq s' e pno p (liveReq s e a r (hePol a.hent) (some st))
    done s' (stepNest e' nest)

/-- `tlda` (R161, R173, R193). -/
def execTlda (f : Fields) (s : State) : Host.Outcome State Fault Refusal := issue 0x85 bodyTlda f s

-- Engine operations -------------------------------------------------------------------------------------------------------

/-- The completion object of an instruction: eight on an AG, 32 on a core, which names them by `imm` 10:6 (R185). -/
def coNo (e : Elem) (f : Fields) : Nat := if e.cls = .fc then f.imm.toNat / 64 % 32 else imCo f

def Elem.co (e : Elem) (n : Nat) : BitVec 32 := e.ag.cos.toList.getD n 0
def Elem.setCo (e : Elem) (n : Nat) (v : BitVec 32) : Elem := { e with ag := { e.ag with cos := e.ag.cos.setIfInBounds n v } }

/-- Fields of a completion object (R185). -/
def coSt (c : BitVec 32) : Nat := bitsAt c.toNat 30 2
def coStp (c : BitVec 32) : Bool := c.getLsbD 29
def coFcs (c : BitVec 32) : Nat := bitsAt c.toNat 20 6
def coMake (st stp kind fcs : Nat) : BitVec 32 := BitVec.ofNat 32 (fieldsNat [(30, st % 4), (29, stp % 2), (26, kind % 8), (20, fcs % 64)])

/-- Fields of an operation's `imm` (R156): the port number of its `i`-th port. -/
def EngOp.portNo (o : EngOp) (i : Nat) : Nat :=
  if i = 0 then o.imm.toNat % 4 else if i = 1 then o.imm.toNat / 4 % 4 else o.imm.toNat / 16 % 4

/-- An engine operation forked (R185, R186): its object is busy, and it sees the agent's stores so far. -/
def Elem.fork (e : Elem) (f : Fields) (kind : Nat) (a b : Reg) (ports : List Port) : Elem :=
  let co := coNo e f
  let op : EngOp := { co := co, kind := kind, var := f.var.toNat, args := a.pay, argb := b.pay, imm := f.imm, done := 0, fcs := 0,
                      before := e.ag.seq, tn := a.tn || b.tn || e.flowT, why := [], ran := false,
                      ports := ports, writes := [], tile := 0, res := none, spoilt := none }
  let e := e.setCo co (coMake 1 0 kind 0)
  { e with ag := { e.ag with eng := e.ag.eng ++ [op] } }

/-- An engine operation whose object is not idle forks nothing (R185). -/
def needIdle (e : Elem) (f : Fields) : Res Unit := need (coSt (e.co (coNo e f)) == 0) (.operand f.a.toNat)

/-- Operands of an engine operation that carry poison name no place to store to: a poison-consumption fault (R161; log 16). -/
def needClean (e : Elem) (l : List Reg) (d : BitVec 10) : Res Unit := need (!(l.any Reg.pz || e.flowP)) (.poison 0 d.toNat 0)

/-- A prefetch into the caches (R170, R257): it fills the home slice, and the RDC where the word is remote, of no stamped tensor (R254)
and of a policy that lets it, and pins where the policy says so; a word of host space it drops (R268). -/
def prefetch (s : State) (e : Elem) (a : Access) : State :=
  if heSpc a.hent = 2 then s
  else if isLocal e.die a.addr then
    (match s.cur with
     | .el n => agentFill s (.el n) e.die a.addr (hePol a.hent) (heTcl a.hent)
     | .fc _ => s)
  else if heSpc a.hent ≠ 1 ∧ (hePol a.hent = 0 ∨ hePol a.hent = 2) then
    (match rdcFind s e.die e.rgn a.addr with
     | some _ => s
     | none => l2Fill (rdcFill s e.die e.rgn a.addr) a.addr (heTcl a.hent))
  else l2Serve s a.addr (hePol a.hent) (heTcl a.hent)

def bodyPref : Body := fun s f e => do
  if f.var = 1 then
    checkRaw e f onlyAB true none
    let a := readDes s e f.a
    let b := readDes s e f.b
    let len := (b.pay.lane 0).toNat
    let t := (b.pay.lane 1).toNat % 8
    let at' := (b.pay.lane 2).toNat
    need (decide (t < e.ag.targets.length ∧ at' % 64 = 0 ∧ at' + 64 * len ≤ 2 ^ 17 ∧ 1 ≤ len ∧ len ≤ 2048)) (.operand f.b.toNat)
    needDes (e.port (imSp f)).bnd f.a
    needIdle e f
    needClean e [a, b] f.d
    let e := e.setPort (imSp f) (freshPort s (e.port (imSp f)) (s.region e.rgn).ctx)
    done s (e.fork f 4 a b [e.port (imSp f)])
  else
    checkRaw e f onlyA (f.var == 0) none
    let r := readDes s e f.a
    let pno := imSp f
    match portAccess s e f.a pno (laneCoords r.pay) .load with
    | .ok (s', p, a) => if r.pz then done s e else done (prefetch s' e a) (e.setPort pno p)
    | .error _ => done s e

/-- `pref` (R170). -/
def execPref (f : Fields) (s : State) : Host.Outcome State Fault Refusal := issue 0x87 bodyPref f s

end Sys2Proof.Machine
end

