-- ==== Sys2Proof/Machine/Agent.lean ====
section
/-! DEFINITION. Ops 0x90-0x96 and 0xA0-0xA7: atomics and synchronising accesses, phases and fences, decoupling and message
queues, engine operations and completion objects (spec 06, R174-R190; spec 09, R259-R267, R274). -/
namespace Sys2Proof.Machine

-- Agents --------------------------------------------------------------------------------------------------------------

/-- The die whose RDC an agent uses: a firmware core has none (R274). -/
def agentDie (e : Elem) : Option Nat := if e.cls = .fc then none else some e.die

/-- The scope in `imm` (R156). -/
def imScp (f : Fields) : Nat := imP2 f

/-- An acquire at a scope (R177, R258): region and module scope drop the region's sectors of the die's RDC. -/
def acquire (s : State) (e : Elem) (scp : Nat) : State :=
  match agentDie e with
  | some d => if scp = 1 then s else rdcAcquire s d e.rgn
  | none => s

/-- Pending stores after others have landed over some of their bytes (R263). -/
def underAll (l sb : List PStore) : List PStore := sb.map (fun q => l.foldl (fun q p => p.under q) q)

/-- A release (R180, R262): accepted stores land, the others land when they are accepted, but for what a landed one overwrites; a
migration whose entry they write is applied (R360). -/
def release (s : State) (e : Elem) : State × Elem :=
  let l := e.ag.sb.filter PStore.acc
  (settleMigr (landEach s (agentDie e) l),
   { e with ag := { e.ag with sb := (underAll (l.filter (fun p => p.reg == none)) (e.ag.sb.filter (fun p => !p.acc))).map (fun p => { p with rel := true }) } })

/-- Whether every store of the agent has been accepted at its home. -/
def allAccepted (e : Elem) : Bool := e.ag.sb.all PStore.acc

/-- Whether every load request of the agent is answered. -/
def allAnswered (e : Elem) : Bool := e.ag.ports.toList.all (fun p => p.reqs == [])

-- Addresses of synchronising accesses -----------------------------------------------------------------------------------

/-- Whether a tile-table entry covers an address: its frame, or a frame of its pieces (R357). -/
def entryCovers (s : State) (ent : BitVec 64) (size a : Nat) : Bool :=
  ent.getLsbD 0 &&
    (if ent.getLsbD 1 then
      (List.range (size / 65536)).any (fun j =>
        let x := tabEntry s (ent.toNat / 65536 * 65536 + 8 * j)
        x.getLsbD 0 && decide (frameAddr x 65536 0 ≤ a ∧ a < frameAddr x 65536 0 + 65536))
     else decide (frameAddr ent size 0 ≤ a ∧ a < frameAddr ent size 0 + size))

/-- Whether an address lies in a frame of a stamped tensor of some context (R174, R271). -/
def stampedFrame (s : State) (a : Nat) : Bool :=
  s.ctxList.any (fun c => (List.range (ctxHcnt (s.ctx c) + 1)).any (fun slot =>
    let h := heAt s c slot
    heVal h && heSpc h == 1 &&
      (let r := srAt s (heSrec h)
       (List.range (heLim h)).any (fun t => entryCovers s (tabEntry s (srTtab r + 8 * t)) (tileBytes (srTsz r)) a))))

/-- The physical address in lanes 0 and 1 of an operand (R220). -/
def physOf (p : Payload) : Nat := stampOf p

/-- The address of a synchronising access of a size (R174): on a core the physical address, HBM only; on an AG the
element's address plus `ofs`. The access fills its sector in the home slice; a `strl`, which stores, pins nothing (R257, R363). -/
def syncAddr (s : State) (e : Elem) (f : Fields) (size : Nat) (k : Kind) : Res (State × Elem × Nat) := do
  let a := readDes s e f.a
  if e.cls = .fc then
    let addr := physOf a.pay
    need (isOwn addr && !stampedFrame s addr) (.phys addr)
    need (addr % size == 0) (.operand f.a.toNat)
    awaitFree (!homeHeld s e.clockDie addr)
    return (l2Fill s addr 0, e, addr)
  else
    let (s', p, x) ← portAccess s e f.a (imSp f) (laneCoords a.pay) k
    let addr := x.addr + imOfs f
    need (addr % size == 0) (.bounds (imSp f) p.hdl x.via.tile addr)
    awaitFree (!homeHeld s' e.die addr)
    return ((if k = .strl then l2Serve s' addr (hePol p.hent) (heTcl p.hent)
             else agentFill s' s'.cur e.die addr (hePol p.hent) (heTcl p.hent)), e.setPort (imSp f) p, addr)

/-- Whether a load of the agent from the granule of an address has been sent and not answered. -/
def openHere (e : Elem) (addr : Nat) : Bool :=
  e.ag.ports.toList.any (fun p => p.reqs.any (fun r => !r.skip && r.addr / 64 == addr / 64))

/-- A synchronising access that reads waits until no earlier load of its granule is open, so that the agent's loads never go
backwards (R263; log 131). -/
def awaitOlder (e : Elem) (addr : Nat) : Res Unit := awaitFree (!openHere e addr)

/-- A store of a synchronising access or a core: bytes of one granule, at its place among the accesses of the module. -/
def smallStore (e : Elem) (ord addr size v : Nat) (tn : Bool) : PStore :=
  { seq := e.ag.seq, base := granBase addr, data := BitVec.ofNat 512 (v % 2 ^ (8 * size) * 2 ^ (8 * (addr % 64))),
    mask := byteMask (addr % 64) size, pz := false, tn := tn, port := none, acc := true, rel := true, reg := none, via := none, ord := ord, pol := 1, tcl := 0 }

/-- The bytes of an address as the home answers them to an agent, whose own stores lie over them (R174, R262). The
agent's copy of the sector in its die's RDC is dropped (R263). -/
def homeRead (s : State) (e : Elem) (addr size : Nat) : State × Nat × Reg :=
  let base := granBase addr
  let s' := match agentDie e with
    | some d => rdcDrop s (fun x => x.die == d && x.rgn == e.rgn && x.addr == base / 128 * 128)
    | none => s
  let r := ownView e.ag.sb e.ag.seq base (homeGran s base)
  (eccNote s' base e.rgn, bitsAt r.pay.toNat (8 * (addr % 64)) (8 * size), r)

/-- A result in lanes 0 and 1, the other lanes 0. -/
def pair64 (v : Nat) : Payload := Payload.ofList [BitVec.ofNat 32 v, BitVec.ofNat 32 (v / 2 ^ 32)]

-- Atomics ---------------------------------------------------------------------------------------------------------------

/-- The function of an atomic on `w` bits (R175). -/
def atomFn (v w old b : Nat) : Nat :=
  let lo := signedOf w old
  let lb := signedOf w b
  match v with
  | 0 => (old + b) % 2 ^ w
  | 1 => if lo ≤ lb then old else b
  | 2 => if lb ≤ lo then old else b
  | 3 => old &&& b
  | 4 => old ||| b
  | 5 => old ^^^ b
  | 6 => b
  | 7 => (roundTo .fp32 ((Fmt.decode .fp32 old).add (Fmt.decode .fp32 b)).1 .rne).1
  | 8 => min old b
  | _ => max old b

/-- An indivisible read and replacement at the home (R174, R264): release first, acquire afterwards. The result goes to
`d` with TN = 1. -/
def readModify (s : State) (e : Elem) (f : Fields) (srcs : List Reg) (size : Nat) (taint : Bool) (fn : Nat → Option Nat) : Res Done := do
  awaitFree (allAccepted e)
  need (!(srcs.any Reg.pz || e.flowP)) (.poison 0 f.d.toNat 0)
  let (s, e, addr) ← syncAddr s e f size .atomic
  awaitOlder e addr
  let (s, e) := release s e
  let (s, old, g) := homeRead s e addr size
  let tn := taint || srcs.any Reg.tn || e.flowT
  let s := match fn old with
    | some v => landStore s (agentDie e) (smallStore e s.orders addr size v tn)
    | none => granBits s (granBase addr) false false taint
  let s := acquire s e (imScp f)
  done s (putWhole e f.d (pair64 old) g.pz true)

/-- 4 or 8 bytes (R156). -/
def atomSize (f : Fields) : Nat := if imSz8 f then 8 else 4

/-- The low bytes of an operand. -/
def operandNat (p : Payload) (size : Nat) : Nat := stampOf p % 2 ^ (8 * size)

/-- A scope that exists (R156). -/
def scpOk (f : Fields) : Bool := imScp f != 3

def bodyAtom : Body := fun s f e => do
  let v := f.var.toNat
  checkRaw e f usesAB (decide (v ≤ 9) && !(v == 7 && imSz8 f) && scpOk f) (badReg e f)
  let a := readDes s e f.a
  let b := readDes s e f.b
  readModify s e f [a, b] (atomSize f) (v == 6 || v == 7)
    (fun old => some (atomFn v (8 * atomSize f) old (operandNat b.pay (atomSize f))))

/-- `atom` (R174, R175, R264). -/
def execAtom (f : Fields) (s : State) : Host.Outcome State Fault Refusal := issue 0x90 bodyAtom f s

def bodyCas : Body := fun s f e => do
  checkRaw e f usesABC (f.var == 0 && scpOk f) (badReg e f)
  let a := readDes s e f.a
  let b := readDes s e f.b
  let c := readDes s e f.c
  readModify s e f [a, b, c] (atomSize f) true
    (fun old => if old = operandNat c.pay (atomSize f) then some (operandNat b.pay (atomSize f)) else none)

/-- `cas` (R174, R176, R264). -/
def execCas (f : Fields) (s : State) : Host.Outcome State Fault Refusal := issue 0x91 bodyCas f s

/-- What `ldaq` does (R174, R177): poisoned coordinates make no access and complete with PZ, the port bound or not (log 151). -/
def bodyLdaq : Body := fun s f e => do
  let size := 2 ^ f.var.toNat
  checkRaw e f usesA (decide (f.var.toNat ≤ 3) && scpOk f) (badReg e f)
  let a := readDes s e f.a
  if a.pz then
    let s' := acquire s.spend e (imScp f)
    done s' (putWhole e f.d (Config.freePayload s.freeCtr) true a.tn)
  else
    let (s, e, addr) ← syncAddr s e f size .ldaq
    awaitOlder e addr
    let (s, v, g) := homeRead s e addr size
    let s := acquire s e (imScp f)
    done s (putWhole e f.d (pair64 v) g.pz (g.tn || a.tn))

/-- `ldaq` (R174, R177). -/
def execLdaq (f : Fields) (s : State) : Host.Outcome State Fault Refusal := issue 0x95 bodyLdaq f s

def bodyStrl : Body := fun s f e => do
  let size := 2 ^ f.var.toNat
  checkRaw e f onlyAB (decide (f.var.toNat ≤ 3) && scpOk f) none
  let a := readDes s e f.a
  let b := readDes s e f.b
  awaitFree (allAccepted e)
  need (!(a.pz || b.pz || e.flowP)) (.poison 0 f.d.toNat 0)
  let (s, e, addr) ← syncAddr s e f size .strl
  let (s, e) := release s e
  done (landStore s (agentDie e) (smallStore e s.orders addr size (operandNat b.pay size) (a.tn || b.tn || e.flowT))) e

/-- `strl` (R174, R177, R264). -/
def execStrl (f : Fields) (s : State) : Host.Outcome State Fault Refusal := issue 0x96 bodyStrl f s

-- Phases and fences -------------------------------------------------------------------------------------------------------

def bodyPhase : Body := fun s f e => do
  need (decide (f.var.toNat ≤ 2)) .instr
  awaitFree (allAccepted e && e.ag.tsts == [] && allAnswered e)
  needNoRefusal e
  let (s, e) := release s e
  done (acquire s e f.var.toNat) e

/-- `phase` (R172, R179). -/
def execPhase (f : Fields) (s : State) : Host.Outcome State Fault Refusal := issue 0x92 bodyPhase f s

/-- The trap of an object whose operation has stopped or failed (R190). -/
def engineTrap (e : Elem) (n : Nat) : Trap :=
  let c := e.co n
  let o := e.ag.eng.find? (fun o => o.co == n)
  .engine n (coFcs c) (coStp c) ((o.map EngOp.tile).getD 0) ((o.map EngOp.why).getD [])

def bodyFence : Body := fun s f e => do
  let v := f.var.toNat
  need (decide (v ≤ 3) && (v == 3 || scpOk f)) .instr
  if v = 3 then
    match (List.range 32).find? (fun n => coStp (e.co n)) with
    | some n => trap (engineTrap e n)
    | none => .ok ()
    awaitFree (allAccepted e && e.ag.tsts == [] && e.ag.cos.toList.all (fun c => coSt c != 1))
    needNoRefusal e
    done s e
  else
    awaitFree (v != 2 || allAnswered e)
    needNoRefusal e
    let (s, e) := if v = 1 then (s, e) else release s e
    done (if v = 0 then s else acquire s e (imScp f)) e

/-- `fence` (R172, R180, R267). -/
def execFence (f : Fields) (s : State) : Host.Outcome State Fault Refusal := issue 0x93 bodyFence f s

/-- The cached record of a port discarded (R181). -/
def Port.discard (p : Port) : Port := { p with stale := true }

/-- The records of some ports of an agent discarded, for its engine operations too (R181, R355). -/
def AgPart.discard (a : AgPart) (l : List Nat) : AgPart :=
  { a with ports := a.ports.mapIdx (fun i p => if l.contains i then p.discard else p),
           eng := a.eng.map (fun o => { o with ports := o.ports.mapIdx (fun i p => if l.contains (o.portNo i) then p.discard else p) }) }

def bodyRcfnc : Body := fun s f e => do
  let v := f.var.toNat
  if e.cls = .fc then
    checkRaw e f onlyA (v == 2) none
    let die := ((readDes s e f.a).pay.lane 0).toNat % 32
    done (s.mapElems (fun x => if x.cls = .ag ∧ x.die = die then { x with ag := x.ag.discard [0, 1, 2, 3] } else x)) e
  else
    need (decide (v ≤ 1)) .instr
    done s { e with ag := e.ag.discard (if v = 1 then [0, 1, 2, 3] else [imSp f]) }

/-- `rcfnc` (R181). -/
def execRcfnc (f : Fields) (s : State) : Host.Outcome State Fault Refusal := issue 0x94 bodyRcfnc f s

-- Queues --------------------------------------------------------------------------------------------------------------------

/-- A message queue of the command die (R184). -/
def State.mq (s : State) (q : Nat) : List Reg := Tab.get [] s.mqs q

/-- The queue number of a core, and its count (R184). -/
def mqNo (f : Fields) : Nat := f.imm.toNat % 64
def mqCount (f : Fields) : Nat := if f.imm.toNat / 1024 % 128 = 0 then 1 else f.imm.toNat / 1024 % 128

def bodyQpsh : Body := fun s f e => do
  checkRaw e f onlyA (f.var == 0) none
  let r := readDes s e f.a
  if e.cls = .fc then
    awaitCount (decide ((s.mq (mqNo f)).length < 64))
    done { s with mqs := Tab.set s.mqs (mqNo f) (s.mq (mqNo f) ++ [r]) } e
  else
    let p := e.port (imSp f)
    awaitCount (decide (p.sq.length < 32))
    let w : CWord := { pay := r.pay, lr := false, ls := false, pz := r.pz || e.flowP, tn := r.tn || e.flowT }
    done s (e.setPort (imSp f) { p with sq := p.sq ++ [w] })

/-- `qpsh` (R182, R184). -/
def execQpsh (f : Fields) (s : State) : Host.Outcome State Fault Refusal := issue 0xA0 bodyQpsh f s

def bodyQpop : Body := fun s f0 e => do
  let f := { f0 with ln := 0 }
  checkRaw e f onlyD (f.var == 0) (badReg e f)
  if e.cls = .fc then
    match s.mq (mqNo f) with
    | [] => holdCount
    | r :: rest => done { s with mqs := Tab.set s.mqs (mqNo f) rest } (put s e f (fun i => r.pay.lane i) [r])
  else
    let p := e.port (imSp f)
    match p.lq with
    | [] => holdCount
    | x :: rest =>
      match x.old with
      | some (st, ctr) => trap (.tooOld st (imSp f) (some ctr))
      | none =>
        let r : Reg := { pay := x.word.pay, pz := x.word.pz, tn := x.word.tn }
        let e' := put s e f (fun i => r.pay.lane i) [r]
        done s (e'.setPort (imSp f) { p with lq := rest })

/-- `qpop` (R173, R182, R184). -/
def execQpop (f : Fields) (s : State) : Host.Outcome State Fault Refusal := issue 0xA1 bodyQpop f s

def bodyQwt : Body := fun s f e => do
  let v := f.var.toNat
  if e.cls = .fc then
    let n := mqCount f
    need (decide (v ≤ 1 ∧ n ≤ 64)) .instr
    let q := (s.mq (mqNo f)).length
    awaitCount (if v = 0 then decide (n ≤ q) else decide (q + n ≤ 64))
    done s e
  else
    let n := if imOfs f = 0 then 1 else imOfs f
    need (decide (v ≤ 2) && (v == 2 || decide (n ≤ 32))) .instr
    let p := e.port (imSp f)
    awaitCount (if v = 0 then decide (n ≤ p.lq.length) else if v = 1 then decide (p.sq.length + n ≤ 32) else p.sq == [])
    awaitFree (v != 2 || p.outst == 0)
    done s e

/-- `qwt` (R182-R184). -/
def execQwt (f : Fields) (s : State) : Host.Outcome State Fault Refusal := issue 0xA2 bodyQwt f s

-- Engines ---------------------------------------------------------------------------------------------------------------------

/-- The format and the words of the tensor at a port, where its record gives them. -/
def portTensor (p : Port) : Option (Fmt × Nat) := (tensorFmt (srCode p.srec)).map (fun t => (t, tensorWords p.srec t))

/-- The ports an operation needs are bound (R154). -/
def needBound (e : Elem) (f : Fields) (l : List Nat) : Res Unit := need (l.all (fun p => (e.port p).bnd)) (.operand f.a.toNat)

/-- The records that were discarded of some ports are read again, before a request through them (R181, R355). -/
def Elem.fresh (e : Elem) (s : State) (l : List Nat) : Elem :=
  l.foldl (fun e p => e.setPort p (freshPort s (e.port p) (s.region e.rgn).ctx)) e

/-- Whether two tensors agree in format and two ranges lie within them (R187). -/
def copyOk (x y : Port) (a b n : Nat) : Bool :=
  srCode x.srec == srCode y.srec &&
    match portTensor x, portTensor y with
    | some (_, u), some (_, v) => decide (a + n ≤ u ∧ b + n ≤ v)
    | _, _ => false

/-- An operation of no words is done at once (R187). -/
def Elem.forkDone (e : Elem) (f : Fields) (kind : Nat) (a : Reg) : Elem :=
  let e := e.fork f kind a Reg.zero []
  e.setCo (coNo e f) (coMake 2 0 kind 0)

/-- Lane `i` of an operand as a number. -/
def laneN (r : Reg) (i : Nat) : Nat := (r.pay.lane i).toNat

/-- A 64-bit value in lanes `i` and `i` + 1. -/
def lane64 (r : Reg) (i : Nat) : Nat := laneN r i + laneN r (i + 1) * 2 ^ 32

/-- What `cpy` does (R187): the bytes of a core's copy are a multiple of 64, or the copy traps (log 144). -/
def bodyCpy : Body := fun s f e => do
  checkRaw e f onlyA (f.var == 0) none
  let a := readDes s e f.a
  needIdle e f
  needClean e [a] f.d
  if e.cls = .fc then
    need (laneN a 4 % 64 == 0) (.operand f.a.toNat)
    done s (if laneN a 4 = 0 then e.forkDone f 1 a else e.fork f 1 a Reg.zero [])
  else
    needBound e f [imSp f, imP2 f]
    let e := e.fresh s [imSp f, imP2 f]
    need (copyOk (e.port (imSp f)) (e.port (imP2 f)) (laneN a 0) (laneN a 1) (laneN a 2)) (.operand f.a.toNat)
    done s (if laneN a 2 = 0 then e.forkDone f 1 a
            else e.fork f 1 a Reg.zero [e.port (imSp f), e.port (imP2 f)])

/-- `cpy` (R185-R187). -/
def execCpy (f : Fields) (s : State) : Host.Outcome State Fault Refusal := issue 0xA3 bodyCpy f s

/-- Whether `gth`'s tensors are what it needs (R188): rows of equal words and of equal elements, indices INT32 of rank 1 (log 142). -/
def gatherOk (src idx dst : Port) : Bool :=
  srRank src.srec == 2 && srRank dst.srec == 2 && srRank idx.srec == 1 && srCode idx.srec == 1
    && srCode src.srec == srCode dst.srec &&
    match tensorFmt (srCode src.srec) with
    | some t => rowWords src.srec t == rowWords dst.srec t && srDim src.srec 0 == srDim dst.srec 0
    | none => false

def bodyGth : Body := fun s f e => do
  checkRaw e f onlyA (f.var == 0) none
  let a := readDes s e f.a
  needIdle e f
  needClean e [a] f.d
  if e.cls = .fc then
    done s (if laneN a 7 = 0 then e.forkDone f 2 a else e.fork f 2 a Reg.zero [])
  else
    needBound e f [imSp f, imP2 f, imP3 f]
    let e := e.fresh s [imSp f, imP2 f, imP3 f]
    need (gatherOk (e.port (imSp f)) (e.port (imP2 f)) (e.port (imP3 f))) (.operand f.a.toNat)
    done s (if laneN a 1 = 0 then e.forkDone f 2 a
            else e.fork f 2 a Reg.zero [e.port (imSp f), e.port (imP2 f), e.port (imP3 f)])

/-- `gth` (R185, R186, R188). -/
def execGth (f : Fields) (s : State) : Host.Outcome State Fault Refusal := issue 0xA4 bodyGth f s

/-- The members of an AG's collective group, in rank order (R189, R302). -/
def collMembers (e : Elem) (g : Nat) : Option (List Nat) := Tab.find e.ag.colls g

/-- Whether a collective may run on the tensors it names (R189). -/
def collOk (x y : Port) (v a : Nat) (members : Nat) : Bool :=
  srCode x.srec == srCode y.srec && (decide (2 ≤ v) || srCode x.srec == 5 || srCode x.srec == 1) &&
    match portTensor x, portTensor y with
    | some (_, u), some (_, w) => decide (a ≤ u ∧ (if v = 3 then members * a else a) ≤ w)
    | _, _ => false

/-- What `coll` does (R189): a group that is not declared, a format outside the table and words outside the tensors trap (log 143). -/
def bodyColl : Body := fun s f e => do
  need (e.cls != .fc) .instr
  checkRaw e f onlyA (decide (f.var.toNat ≤ 3)) none
  let a := readDes s e f.a
  needIdle e f
  needClean e [a] f.d
  needBound e f [imSp f, imP2 f]
  match collMembers e (imOfs f) with
  | none => trap (.operand f.a.toNat)
  | some l =>
    let e := e.fresh s [imSp f, imP2 f]
    need (collOk (e.port (imSp f)) (e.port (imP2 f)) f.var.toNat (laneN a 0) l.length) (.operand f.a.toNat)
    done s (e.fork f 3 a Reg.zero [e.port (imSp f), e.port (imP2 f)])

/-- `coll` (R185, R186, R189). -/
def execColl (f : Fields) (s : State) : Host.Outcome State Fault Refusal := issue 0xA5 bodyColl f s

/-- An object observed done or failed: its operation joins and it is idle (R186, R190). -/
def Elem.join (e : Elem) (n ord : Nat) : Elem :=
  let w := (e.ag.eng.filter (fun o => o.co == n)).flatMap EngOp.writes
  let e := e.setCo n 0
  { e with ag := { joinStores e.ag ord w with eng := e.ag.eng.filter (fun o => o.co != n) } }

/-- What `cwt` and `ctst` find at their object (R190). -/
inductive Seen where
  | idle | busy | stopped | failed | done
  deriving DecidableEq, Repr

def seen (c : BitVec 32) : Seen :=
  if coStp c then .stopped
  else if coSt c = 0 then .idle
  else if coSt c = 1 then .busy
  else if coSt c = 2 then .done
  else .failed

def bodyCwt : Body := fun s f e => do
  need (f.var == 0) .instr
  let n := coNo e f
  match seen (e.co n) with
  | .idle => trap (.operand f.a.toNat)
  | .busy => holdFree
  | .stopped => trap (engineTrap e n)
  | .failed => doneAt s.joined (e.join n s.orders) (.fault (engineTrap e n))
  | .done => done s.joined (e.join n s.orders)

/-- `cwt` (R186, R190). -/
def execCwt (f : Fields) (s : State) : Host.Outcome State Fault Refusal := issue 0xA6 bodyCwt f s

def bodyCtst : Body := fun s f0 e => do
  let f := { f0 with ln := 0 }
  need (f.var == 0) .instr
  noBad (badMask f)
  let n := coNo e f
  let tested (e : Elem) (b : Bool) : Elem :=
    putMask e f (fun _ => b) [{ pay := 0, pz := false, tn := true }]
  match seen (e.co n) with
  | .idle => trap (.operand f.d.toNat)
  | .busy => done s (tested e false)
  | .stopped => trap (engineTrap e n)
  | .failed => doneAt s.joined (e.join n s.orders) (.fault (engineTrap e n))
  | .done => done s.joined (tested (e.join n s.orders) true)

/-- `ctst` (R186, R190). -/
def execCtst (f : Fields) (s : State) : Host.Outcome State Fault Refusal := issue 0xA7 bodyCtst f s

end Sys2Proof.Machine
end

