-- ==== Sys2Proof/Machine/Ruling.lean ====
section
/-! DEFINITION. Ops 0xC0-0xC4: ruling arrays (spec 07, R200-R208), and the step at which a result is ready. -/
namespace Sys2Proof.Machine

/-- A cell as `tacf.clr` leaves it (R201). -/
def cellInitial : BitVec 128 := 0xFFFFFFFFFFFFFFFF0000000000000000

def RaPart.cell (r : RaPart) (row col : Nat) : BitVec 128 := Tab.get cellInitial r.cells (64 * row + col)
def RaPart.desc (r : RaPart) (c : Nat) : BitVec 32 := Tab.get 0 r.descs c
def RaPart.leaf (r : RaPart) (c l : Nat) : Lane := Tab.get 0 r.leaves (64 * c + l)

/-- Fields of a descriptor (R202). -/
def dChn (d : BitVec 32) : Bool := d.getLsbD 8
def dOn (d : BitVec 32) : Bool := d.getLsbD 7
def dNlf (d : BitVec 32) : Nat := d.toNat % 128

/-- The head of a column's pair, where the pair is chained (R208). -/
def RaPart.chained (r : RaPart) (c : Nat) : Bool := dChn (r.desc (c / 2 * 2))

/-- Whether a column is the upper member of a chained pair (R208). -/
def RaPart.upper (r : RaPart) (c : Nat) : Bool := r.chained c && c % 2 == 1

/-- Whether a column scores (R203, R208): a chained pair by its head's `on`. -/
def RaPart.scores (r : RaPart) (c : Nat) : Bool := if r.chained c then dOn (r.desc (c / 2 * 2)) else dOn (r.desc c)

/-- A feature of a record (R203): 0 to 31 in the first word, 32 to 63 in the second. -/
def feature (x y : Payload) (i : Nat) : Nat := if i < 32 then elemAt .bf16 x i else elemAt .bf16 y (i - 32)

/-- Whether an enabled cell fails (R203). -/
def cellFails (cell : BitVec 128) (x y : Payload) : Bool :=
  let v := Fmt.decode .bf16 (feature x y (bitsAt cell.toNat 0 6))
  if v.isNaN then cell.getLsbD 14 else !(v.lt (Fmt.decode .bf16 (bitsAt cell.toNat 16 16)))

/-- The final mask of a column (R203), 0 where it does not score. -/
def RaPart.mask (r : RaPart) (x y : Payload) (c : Nat) : BitVec 64 :=
  if r.scores c then
    (List.range 64).foldl (fun m row =>
      let cell := r.cell row c
      if cell.getLsbD 15 && cellFails cell x y then m &&& cell.extractLsb' 64 64 else m)
      (BitVec.ofNat 64 (2 ^ min (dNlf (r.desc c)) 64 - 1))
  else 0

/-- The lowest set bit of a mask (R203). -/
def lowestBit (m : BitVec 64) : Option Nat := (List.range 64).find? (fun i => m.getLsbD i)

/-- The exit of a scoring column that is no upper member (R203, R208); none is EMPTY. -/
def RaPart.exit (r : RaPart) (m : List (BitVec 64)) (c : Nat) : Option Nat :=
  match lowestBit (m.getD c 0) with
  | some i => some i
  | none => if r.chained c then (lowestBit (m.getD (c + 1) 0)).map (fun i => 64 + i) else none

/-- The code of a column (R206). -/
def RaPart.code (r : RaPart) (m : List (BitVec 64)) (c : Nat) : Nat :=
  if r.upper c then 0xFE
  else if !r.scores c then 0xFD
  else match r.exit m c with
    | some i => i
    | none => 0xFF

-- Configuration -------------------------------------------------------------------------------------------------------

/-- Operand a of a write: an input slot or a state register (R204). -/
def ruleSrc (e : Elem) (d : BitVec 10) : Bool := isState e d || (isSlot d && slotOk e (desChan d) (desOfs d))

def ptrSpace (p : BitVec 14) : Nat := p.toNat / 4096
def ptrIx (p : BitVec 14) : Nat := p.toNat % 4096

/-- Whether a pointer keeps the rule of its space (R204). -/
def ptrOk (p : BitVec 14) : Bool :=
  match ptrSpace p with
  | 0 => ptrIx p % 4 == 0
  | 1 => decide (ptrIx p < 64) && ptrIx p % 16 == 0
  | 2 => ptrIx p % 16 == 0
  | _ => false

/-- No record in the array and the result queue empty (R204). -/
def RaPart.still (r : RaPart) : Bool := r.rq == [] && r.pipe == []

/-- A cell whose reserved fields are 0 (R201). -/
def cellOk (c : BitVec 128) : Bool := bitsAt c.toNat 32 32 == 0 && bitsAt c.toNat 6 8 == 0

/-- A descriptor that may be held (R202, R204). -/
def descOk (d : BitVec 32) : Bool := d.toNat / 512 == 0 && decide (dNlf d ≤ 64)

/-- Cell `j` of a word (R204). -/
def wordCell (p : Payload) (j : Nat) : BitVec 128 := p.extractLsb' (128 * j) 128

/-- A word written at the pointer (R204). -/
def RaPart.load (r : RaPart) (v : Nat) (p : Payload) : RaPart :=
  let ix := ptrIx r.ptr
  match v with
  | 1 => { r with cells := (List.range 4).foldl (fun t j => Tab.set t (ix + j) (wordCell p j)) r.cells,
                  ptr := BitVec.ofNat 14 ((ix + 4) % 4096) }
  | 2 => { r with descs := (List.range 16).foldl (fun t j => Tab.set t (ix + j) (p.lane j)) r.descs,
                  ptr := BitVec.ofNat 14 (4096 + (ix + 16) % 64) }
  | _ => { r with leaves := (List.range 16).foldl (fun t j => Tab.set t (ix + j) (p.lane j)) r.leaves,
                  ptr := BitVec.ofNat 14 (8192 + (ix + 16) % 4096) }

/-- Whether a word may be written in a form (R204). -/
def loadOk (v : Nat) (p : Payload) : Bool :=
  match v with
  | 1 => (List.range 4).all (fun j => cellOk (wordCell p j))
  | 2 => (List.range 16).all (fun j => descOk (p.lane j))
  | _ => true

def bodyTacf : Body := fun s f e => do
  let v := f.var.toNat
  let w := decide (1 ≤ v ∧ v ≤ 3)
  need (decide (v ≤ 4) && (!w || f.wa == 0 || isSlot f.a)) .instr
  if v = 0 then
    let p : BitVec 14 := f.imm.extractLsb' 0 14
    needDes (ptrOk p) f.a
    done s { e with ra := { e.ra with ptr := p } }
  else if v = 4 then
    awaitFree e.ra.still
    done s { e with ra := { e.ra with cells := [], descs := [], leaves := [], ptr := 0 } }
  else
    needDes (ruleSrc e f.a) f.a
    needDes (ptrSpace e.ra.ptr + 1 == v) f.a
    await (inWait e f.a f.wa)
    awaitFree e.ra.still
    let r := readDes s e f.a
    need (!(isSlot f.a && (e.slot (desChan f.a) (desOfs f.a)).isCtl)) (.align (desChan f.a) none
      (if (e.slot (desChan f.a) 0).isCtl then (e.slot (desChan f.a) 0).kind.toNat else 0))
    need (!r.pz) (.poison 0 f.d.toNat 0)
    needDes (loadOk v r.pay) f.a
    done s { e with ra := e.ra.load v r.pay }

/-- `tacf` (R200-R202, R204). -/
def execTacf (f : Fields) (s : State) : Host.Outcome State Fault Refusal := issue 0xC0 bodyTacf f s

def bodyTach : Body := fun s f e => do
  need (decide (f.var.toNat ≤ 1)) .instr
  let c := f.imm.toNat % 64
  needDes (c % 2 == 0) f.a
  awaitFree e.ra.still
  let d := e.ra.desc c
  done s { e with ra := { e.ra with descs := Tab.set e.ra.descs c (if f.var = 0 then d ||| 0x100 else d &&& ~~~(0x100 : BitVec 32)) } }

/-- `tach` (R208). -/
def execTach (f : Fields) (s : State) : Host.Outcome State Fault Refusal := issue 0xC4 bodyTach f s

-- Records ---------------------------------------------------------------------------------------------------------------

def bodyTafd : Body := fun s f e => do
  let c := desChan f.a
  need (f.var == 0 && (f.wa == 0 || isSlot f.a)) .instr
  needDes (isSlot f.a && desOfs f.a == 0 && slotOk e c 0 && entFmt (e.inch c).ent == 19) f.a
  await (decide (max 2 f.wa.toNat ≤ (e.inch c).q.length))
  awaitFree (decide (e.ra.rq.length + e.ra.pipe.length < 8 ∧ 2 ≤ e.ra.since))
  let x := e.slot c 0
  let y := e.slot c 1
  need (x.isData && !x.lr && y.isData && y.lr) (.align c none (if x.isCtl then x.kind.toNat else 0))
  let m := (List.range 64).map (e.ra.mask x.pay y.pay)
  let entry : RqEntry := { m := m, pz := x.pz || y.pz || e.flowP, tn := x.tn || y.tn || e.flowT }
  done s { e with ra := { e.ra with pipe := e.ra.pipe ++ [entry], since := 0 } }

/-- `tafd` (R203, R205). -/
def execTafd (f : Fields) (s : State) : Host.Outcome State Fault Refusal := issue 0xC1 bodyTafd f s

/-- RA_RESULT_READY (R203, R205): the oldest record in the array becomes an entry of the result queue. -/
def raReady (e : Elem) : Elem :=
  match e.ra.pipe with
  | [] => e
  | x :: r => { e with ra := { e.ra with pipe := r, rq := e.ra.rq ++ [x] } }

def execRaResultReady (u : Nat) (s : State) : Host.Outcome State Fault Refusal := .next (s.updElem u raReady)

/-- `tamk` (R206): the column in `imm` is checked with the encoding, before the wait for a result (R44; log 61). -/
def bodyTamk : Body := fun s f e => do
  let c := f.imm.toNat % 64
  checkRaw e f { a := false, b := false, c := false, d := true } (decide (f.var.toNat ≤ 1))
    ((badReg e f).orElse (fun _ => if f.var = 0 ∧ c % 8 ≠ 0 then some f.a else none))
  match e.ra.rq with
  | [] => holdFree
  | x :: _ =>
    let p : Payload := if f.var = 0 then
        Payload.ofLanes (fun i => let m := x.m.getD (c + i / 2) 0; m.extractLsb' (32 * (i % 2)) 32)
      else BitVec.ofNat 512 ((List.range 64).foldl (fun n k => n + e.ra.code x.m k * 2 ^ (8 * k)) 0)
    done s (putWhole e f.d p x.pz x.tn)

/-- `tamk` (R206). -/
def execTamk (f : Fields) (s : State) : Host.Outcome State Fault Refusal := issue 0xC2 bodyTamk f s

/-- One FP32 sum, rounded (R207). -/
def sum32 (x y : Nat) : Nat := (roundTo .fp32 ((Fmt.decode .fp32 x).add (Fmt.decode .fp32 y)).1 .rne).1

/-- The columns that `talv` sums. -/
def RaPart.summed (r : RaPart) : List Nat := (List.range 64).filter (fun c => r.scores c && !r.upper c)

/-- The leaf value of a column (R207): the canonical NaN where the exit is EMPTY. -/
def RaPart.value (r : RaPart) (m : List (BitVec 64)) (c : Nat) : Nat :=
  match r.exit m c with
  | some i => (r.leaf (c + i / 64) (i % 64)).toNat
  | none => Fmt.nan .fp32

def bodyTalv : Body := fun s f e => do
  checkRaw e f { a := false, b := false, c := f.c != 0x0FF, d := true } (decide (f.var.toNat ≤ 1))
    (match badReg e f with
     | some d => some d
     | none => if f.c == 0x0FF || isState e f.c || f.c.toNat / 256 == 1 || isSlot f.c then none else some f.c)
  match e.ra.rq with
  | [] => holdFree
  | x :: rest =>
    let c := readDes s e f.c
    let l := e.ra.summed
    let v := l.foldl (fun a k => sum32 a (e.ra.value x.m k)) (c.pay.lane 0).toNat
    let e' := putWhole e f.d (Payload.ofList [BitVec.ofNat 32 v, BitVec.ofNat 32 l.length]) (x.pz || c.pz) (x.tn || c.tn)
    done s (if f.var = 0 then { e' with ra := { e'.ra with rq := rest } } else e')

/-- `talv` (R207). -/
def execTalv (f : Fields) (s : State) : Host.Outcome State Fault Refusal := issue 0xC3 bodyTalv f s

end Sys2Proof.Machine
end

