-- ==== Sys2Proof/Machine/Snapshot.lean ====
section
/-! DEFINITION. Snapshots (spec 15, R364-R370; spec 16, R375): injection, markers, recording, the record in memory. -/
namespace Sys2Proof.Machine

-- Injection -----------------------------------------------------------------------------------------------------------

/-- The places of a region's elements, channel buffers apart. -/
def regionIdx (s : State) (r : Nat) : List Nat :=
  (List.range s.elems.length).filter (fun n => match s.elems[n]? with
    | some e => e.rgn == r && !e.dead && e.role != .buffer
    | none => false)

/-- The elements an element's outputs feed. -/
def feeds (e : Elem) : List Nat :=
  e.boundOuts.filterMap (fun c => match (e.outch c).dst with
    | .el n _ => some n
    | .gate _ _ => none)

/-- What channels reach from some elements. -/
def reachFrom (s : State) : Nat → List Nat → List Nat
  | 0, l => l
  | n + 1, l =>
    let new := (l.flatMap (fun i => (s.elems[i]?.map feeds).getD [])).filter (fun i => !l.contains i)
    if new = [] then l else reachFrom s n (l ++ new.eraseDups)

/-- The elements that the input gates and AGs of a region reach, these AGs among them (R364). -/
def reachedIdx (s : State) (r : Nat) : List Nat :=
  let ags := (regionIdx s r).filter (fun n => (s.elems[n]?.map Elem.cls) == some .ag)
  let gated := (s.region r).gates.filterMap (fun g =>
    if g.isOut then none else match g.out.dst with
      | .el n _ => some n
      | .gate _ _ => none)
  reachFrom s s.elems.length (ags ++ gated).eraseDups

/-- The elements a snapshot injects directly (R364): AGs, and those that no path of channels reaches. -/
def injectedIdx (s : State) (r : Nat) : List Nat :=
  (regionIdx s r).filter (fun n => (s.elems[n]?.map Elem.cls) == some .ag || !(reachedIdx s r).contains n)

/-- `snap.inj` (R364, R212): markers behind the admitted seeds of each input gate, which admits no more, and at each
element that is injected. -/
def injectSnap (s : State) (r mkn : Nat) : State :=
  let idx := injectedIdx s r
  let s := { s with elems := s.elems.mapIdx (fun n (e : Elem) => if idx.contains n then { e with mark := some mkn } else e) }
  let g := s.region r
  let gates := g.gates.map (fun (x : Gate) =>
    if x.isOut then x else { x with held := true, recd := true, out := { x.out with flight := x.out.flight ++ [.mark mkn] } })
  s.setRegion r { g with snap := some mkn, gates := gates }

/-- The elements still to record (R212). -/
def toRecord (s : State) (r : Nat) : Nat :=
  if (s.region r).snap.isNone then 0
  else ((regionIdx s r).filter (fun n => (s.elems[n]?.map Elem.frozen) == some false)).length

-- The record (R368, R369, R375) ---------------------------------------------------------------------------------------

/-- Lanes of a payload as a number. -/
def lanesNat (l : List Nat) : Nat := fieldsNat (l.mapIdx (fun i v => (32 * i, v % 2 ^ 32)))

/-- A unit of 72 bytes. -/
def unit72 (n : Nat) : List Byte := littleBytes 72 n

/-- A register as a unit. -/
def regUnit (r : Reg) : Nat := r.pay.toNat + bit r.tn * 2 ^ 512 + bit r.pz * 2 ^ 513

/-- Lanes as a unit. -/
def lanesUnit (l : List Nat) : Nat := lanesNat l

/-- An item: header and units. -/
def itemBytes (ik ix : Nat) (units : List Nat) : List Byte :=
  littleBytes 8 (fieldsNat [(32, units.length), (16, ix % 2 ^ 16), (0, ik)]) ++ units.flatMap unit72

/-- A record: header and items. -/
def recordBytes (act ek : Nat) (inf flt : Bool) (items : List (List Byte)) : List Byte :=
  let body := items.flatten
  littleBytes 32 (fieldsNat [(224, body.length + 32), (208, act % 2 ^ 16), (205, ek % 8), (204, bit inf), (203, bit flt),
                             (192, items.length % 2 ^ 11)]) ++ body

/-- Item 2: the control state of an element. -/
def ctlUnits (e : Elem) : List Nat :=
  let ms := e.m.toList
  let xs := e.x.toList
  let bits (l : List Bool) : Nat := fieldsNat (l.mapIdx (fun i b => (i, bit b)))
  [lanesUnit (ms.map (fun m => m.bits.toNat) ++ xs.map (fun x => x.ts.toNat)
              ++ [e.sticky.toNat, e.fcnt.toNat + e.pipe.length, e.invk.toNat, e.phnum.toNat, e.armc]),
   lanesUnit ([bits (ms.map Mask.pz ++ ms.map Mask.tn), bits (xs.map Scale.pz ++ xs.map Scale.tn)]
              ++ e.cls4.toList.map (fun c => bit c.en * 2 ^ 31 + c.age % 16)
              ++ [e.ve.abank.toNat, e.ve.abank.toNat / 2 ^ 32, bit e.ve.abPz + 2 * bit e.ve.abTn])]

/-- Item 4: the granules of a local store with their bits. -/
def storeUnits (st : Store) : List Nat :=
  (List.range 2048).map (fun g =>
    memNat st.bytes (64 * g) 64 + bit (st.tn.contains g) * 2 ^ 512 + bit (st.pz.contains g) * 2 ^ 513)

/-- Items 5 and 6 of a VE. -/
def veItems (v : VePart) : List (List Byte) :=
  let b (p : Payload) : Reg := { pay := p, pz := v.rqPz, tn := v.rqTn }
  [itemBytes 5 0 (v.acc.toList.map regUnit),
   itemBytes 6 0 (v.rows.map (fun p => regUnit (b p)) ++ [regUnit (b (Payload.ofList [BitVec.ofNat 32 v.wcnt, BitVec.ofNat 32 v.rcnt]))])]

/-- A firing in progress as a unit of item 7; a stream firing stands in the stage of its word (R78). -/
def runUnit (strm : Bool) (r : Run) : Nat :=
  let lps := r.loops.reverse.flatMap (fun l => [l.start, l.stop, l.left])
  lanesUnit ((([r.pos, bit r.fp + 2 * bit r.ft, r.loops.length] ++ lps).append (List.replicate 12 0)).take 15 ++ [if strm then r.pos + 1 else 0])

/-- The words that a word of a body publishes on an output. -/
def givesOn (e : Elem) (c : Nat) (w : BitVec 96) : Nat :=
  let f := fieldsOf w
  match opNo w with
  | 0x03 => if desChan f.d = c then slotCount f else 0
  | 0x06 => if desChan f.d = c then 1 else 0
  | 0x07 => if f.var = 1 then (if e.boundOuts.contains c then 1 else 0) else if desChan f.d = c then 1 else 0
  | _ => 0

/-- Where the staging slots of each firing in flight begin on an output: behind what the earlier ones have still to publish there (R79). -/
def slotBases (e : Elem) (c : Nat) : List Run → Nat → List (Run × Nat)
  | [], _ => []
  | r :: l, n => (r, n) :: slotBases e c l (n + ((e.body.drop r.pos).map (givesOn e c)).foldl (· + ·) 0)

/-- The staging slots written on an output, by their places behind its tail. -/
def stagedSlots (e : Elem) (c : Nat) : Tab CWord :=
  (slotBases e c (e.run :: e.pipe) 0).foldl (fun t x => (List.range 4).foldl (fun t j => match Tab.find x.1.stag (4 * c + j) with
    | some w => Tab.set t (x.2 + j) w
    | none => t) t) []

/-- Items 7 and 8: the firings in progress, clause by clause, and the staging slots that they have written. -/
def firingItems (e : Elem) : List (List Byte) :=
  if !e.busy then []
  else
    let runs := e.run :: e.pipe
    (((List.range 4).filter (fun k => runs.any (fun r => r.clause == k))).map (fun k =>
        itemBytes 7 k ((runs.filter (fun r => r.clause == k)).map (runUnit e.strm))))
      ++ (List.range 16).filterMap (fun c =>
          match (stagedSlots e c).getLast? with
          | some x => some (itemBytes 8 c ((List.range (x.1 + 1)).map (fun j => (Tab.get CWord.zero (stagedSlots e c) j).bits.toNat)))
          | none => none)

/-- Items 9 to 12 of an AG. -/
def agItems (a : AgPart) : List (List Byte) :=
  let n := a.nest
  let b (l : List Nat) : Nat := regUnit { pay := BitVec.ofNat 512 (lanesNat l), pz := n.pz, tn := n.tn }
  let strs := n.str.flatMap (fun l => l.map (fun v => (BitVec.ofInt 32 v).toNat))
  let port (p : Port) : List Nat :=
    let r := p.refused
    lanesUnit ([bitsAt p.bind.toNat 0 32, bitsAt p.bind.toNat 32 32, p.lq.length, p.sq.length, bit r.isSome]
               ++ (match r with | some (_, c) => c | none => []))
      :: p.lq.map (fun x => x.word.bits.toNat + bit x.old.isSome * 2 ^ 516) ++ p.sq.map (fun w => w.bits.toNat)
  let op (o : EngOp) : List Byte :=
    itemBytes 12 o.co [lanesUnit ([o.kind] ++ (List.range 8).map (fun i => (o.args.lane i).toNat)
                                  ++ [o.imm.toNat, o.done, bitsAt (a.cos.toList.getD o.co 0).toNat 20 6])]
  itemBytes 9 0 [b (n.cnt ++ n.ctr), b (n.base.map (fun v => (BitVec.ofInt 32 v).toNat)), b (strs.take 16), b ((strs.drop 16).take 16),
                 b (strs.drop 32)]
    :: (a.ports.toList.mapIdx (fun i p => itemBytes 10 i (port p)))
    ++ [itemBytes 11 0 [lanesUnit ((a.cos.toList.take 8).map BitVec.toNat)]]
    ++ (a.eng.filter (fun o => (a.cos.toList.getD o.co 0).getLsbD 29)).map op

/-- Item 4 of a record queue: the scratchpad that holds its reorder store (R279, R375; log 156). -/
def reorderItem (q : RecqPart) : List Byte :=
  let held := q.pairs.flatMap (fun p => [p.1, p.2.1.bits.toNat, p.2.2.bits.toNat])
  itemBytes 4 0 ((List.range 2048).map (fun g => (Config.reorderGranule held g).toNat))

/-- Item 19 of a record queue. -/
def recqItem (q : RecqPart) : List Byte :=
  let dealt := (List.range 8).map (fun i => (q.dealt.getD i none).getD 0xFFFFFFFF)
  itemBytes 19 0 (lanesUnit ([q.taken, q.next, q.pub] ++ dealt)
    :: q.pairs.flatMap (fun p => [lanesUnit [p.1], p.2.1.bits.toNat, p.2.2.bits.toNat]))

/-- Items 3: the inputs that hold words. -/
def inItems (e : Elem) : List (List Byte) :=
  e.boundIns.filterMap (fun c =>
    match (e.inch c).q with
    | [] => none
    | q => some (itemBytes 3 c (q.map (fun w => w.bits.toNat))))

/-- Items 14 to 17 of an RA. -/
def raItems (r : RaPart) : List (List Byte) :=
  let w (q : RqEntry) (n : Nat) : Nat := regUnit { pay := BitVec.ofNat 512 n, pz := q.pz, tn := q.tn }
  [itemBytes 14 0 ((List.range 1024).map (fun u =>
      fieldsNat ((List.range 4).map (fun j => (128 * j, (r.cell ((4 * u + j) / 64) ((4 * u + j) % 64)).toNat))))),
   itemBytes 15 0 ((List.range 4).map (fun u => lanesUnit ((List.range 16).map (fun j => (r.desc (16 * u + j)).toNat)))
      ++ [lanesUnit [r.ptr.toNat]]),
   itemBytes 16 0 ((List.range 256).map (fun u =>
      lanesUnit ((List.range 16).map (fun j => (r.leaf ((16 * u + j) / 64) ((16 * u + j) % 64)).toNat))))]
  ++ r.rq.mapIdx (fun i q =>
      itemBytes 17 i ((List.range 8).map (fun u => w q (fieldsNat ((List.range 8).map (fun j => (64 * j, (q.m.getD (8 * u + j) 0).toNat)))))
        ++ [w q (fieldsNat ((List.range 64).map (fun c => (8 * c, r.code q.m c))))]))

/-- Item 13: the fault record of a stop. -/
def stopItem (e : Elem) : List (List Byte) :=
  match e.stop with
  | some x => [itemBytes 13 0 ((List.range 4).map (fun i => bitsAt x.frec.toNat (512 * i) 512))]
  | none => []

/-- The record of an element (R375). -/
def elemBytes (e : Elem) : List Byte :=
  if e.role = .recq then
    recordBytes e.act 4 false false (inItems e ++ [reorderItem e.rq, recqItem e.rq])
  else
    recordBytes e.act e.ek e.busy e.stop.isSome (
      [itemBytes 1 0 ((e.s.toList.take e.cls.nState).map regUnit), itemBytes 2 0 (ctlUnits e)] ++ inItems e
      ++ (match e.cls with
          | .ve => itemBytes 4 0 (storeUnits e.store) :: veItems e.ve
          | .se => [itemBytes 4 0 (storeUnits e.store)]
          | _ => [])
      ++ firingItems e
      ++ (if e.cls = .ag then agItems e.ag else [])
      ++ stopItem e
      ++ (if e.cls = .ra then raItems e.ra else []))

/-- The record of a gate (R369). -/
def gateBytes (i : Nat) (g : Gate) : List Byte :=
  if g.isOut then recordBytes i 7 false false [itemBytes 18 0 [lanesUnit [g.written, g.dropped]]]
  else recordBytes i 6 false false [itemBytes 18 0 [lanesUnit [g.admitted, bit g.drained]]]

/-- A thing in its place in a list that `le` orders, after those that equal it. -/
def insertBy {α : Type} (le : α → α → Bool) (x : α) : List α → List α
  | [] => [x]
  | y :: r => if le y x then y :: insertBy le x r else x :: y :: r

/-- A list in the order of `le`; things that equal each other keep their order. -/
def sortBy {α : Type} (le : α → α → Bool) (l : List α) : List α := l.foldl (fun a x => insertBy le x a) []

/-- Elements in ascending actor index. -/
def actOrder (l : List Elem) : List Elem := sortBy (fun a b => decide (a.act ≤ b.act)) l

/-- The elements of a region that a snapshot records, in ascending actor index. -/
def recorded (s : State) (r : Nat) : List Elem := actOrder ((s.elemsOf r).filter (fun e => e.role != .buffer))

/-- The snapshot of a region: header and records (R368, R369). -/
def snapBytes (s : State) (r mkn : Nat) (gid : Nat) : List Byte :=
  let g := s.region r
  let es := recorded s r
  let recs := es.flatMap elemBytes ++ (g.gates.mapIdx gateBytes).flatten
  littleBytes 128 (fieldsNat [(960, gid), (896, g.shash.toNat), (832, (s.die 32).late), (800, recs.length + 128),
    (768, es.length + g.gates.length), (736, mkn % 2 ^ 32), (704, g.seq % 2 ^ 32), (672, g.tick % 2 ^ 32), (656, r), (644, g.q % 4096),
    (636, g.fold % 256), (628, (es.filter (fun e => e.cls == .ag && e.stop.isSome)).length % 256), (0, 0x50414E53)]) ++ recs

-- Completion (R366, R367, R373) ------------------------------------------------------------------------------------------

/-- Whether every record of a region is complete (R366): each element is frozen with markers on all its bound inputs, each
gate has recorded. -/
def snapReady (s : State) (r : Nat) : Bool :=
  (regionIdx s r).all (fun n => match s.elems[n]? with
    | some e => e.frozen && e.boundIns.all (fun c => (e.inch c).mark.isSome)
    | none => true) && (s.region r).gates.all Gate.recd

/-- The lease of a context stops at a snapshot of its region (R373). -/
def suspendLease (s : State) (r : Nat) : State :=
  let ctx := (s.region r).ctx
  let c := s.ctx ctx
  if ctxLid c ≠ 0 ∧ ctxLrgn c = r ∧ ctxLsus c = false then
    let left := (Tab.get s.now s.leases ctx) - s.now
    { s.setCtx ctx (setLease c true r (ctxLid c) left) with leases := Tab.del s.leases ctx }
  else s

/-- The graph id of a region's launch, from its object's header (R288). -/
def graphId (s : State) (r : Nat) : Nat :=
  match Tab.find s.configs (s.region r).cfg with
  | some c => leNat ((c.obj.drop 20).take 8)
  | none => 0

/-- An element as a snapshot keeps it: what it has stored stands at its homes and is not part of it (R191, R267). -/
def Elem.unposted (e : Elem) : Elem :=
  { e with ag := { e.ag with sb := [], eng := e.ag.eng.map (fun o => { o with writes := [] }) } }

/-- A snapshot of which every record is complete is written and posted, and the region is frozen (R366, R367, R393); where
its area cannot hold it, firmware removes the region with status 5. -/
def completeSnap (s : State) (r : Nat) : State :=
  let g := s.region r
  match g.snap with
  | none => s
  | some mkn =>
    if !snapReady s r then s
    else
      let c := s.ctx g.ctx
      let bytes := snapBytes s r mkn (graphId s r)
      if 1024 * ctxSalen c < bytes.length then
        let s := s.setRegion r { g with snap := none, status := 5 }
        cmdReset (haltRegion s r) r
      else
        let s := { s with mem := memWrite s.mem (ctxSarea c) bytes }
        let s := suspendLease s r
        let last : Snap := { mkn := mkn, elems := (recorded s r).map Elem.unposted, gates := g.gates, fold := g.fold, folios := g.folios, q := g.q, seq := g.seq }
        let s := s.setRegion r { s.region r with snap := none, last := some last }
        let s := if g.stt = 2 then setStt s r 3 else s
        postEvent s 2 (r + mkn % 2 ^ 32 * 65536) (regionSrc r)

-- Markers and recording -----------------------------------------------------------------------------------------------

/-- The output at a producing end of a channel. -/
def State.outAt (s : State) (x : ChanEnd) : Option OutChan :=
  match x with
  | .el n c => (s.elems[n]?).map (fun e => e.outch c)
  | .gate r g => ((s.region r).gates[g]?).map Gate.out

def State.setOutAt (s : State) (x : ChanEnd) (o : OutChan) : State :=
  match x with
  | .el n c => s.updElem n (fun e => e.setOut c o)
  | .gate r g => let y := s.region r; s.setRegion r { y with gates := y.gates.modify g (fun z => { z with out := o }) }

/-- A marker at the head of what is in flight on a channel, taken from it. -/
def takeMark (s : State) (src : ChanEnd) : Option (Nat × State) :=
  match s.outAt src with
  | none => none
  | some o =>
    match o.flight with
    | .mark k :: rest => some (k, s.setOutAt src { o with flight := rest })
    | _ => none

/-- A marker arrives at the consuming end of a channel, when every word ahead of it has (R364, R365). -/
def markArrives (s : State) (dst : ChanEnd) : State :=
  match dst with
  | .el n c =>
    onElem s n (fun e =>
      if e.dead then s
      else match takeMark s (e.inch c).src with
        | none => s
        | some (k, s') =>
          completeSnap (s'.updElem n (fun e =>
            let e := e.setIn c { e.inch c with mark := some k }
            if e.frozen || e.mark.isSome then e else { e with mark := some k })) e.rgn)
  | .gate r g =>
    match (s.region r).gates[g]? with
    | none => s
    | some x =>
      if !x.isOut then s
      else match takeMark s x.inp.src with
        | none => s
        | some (k, s') =>
          let y := s'.region r
          completeSnap (s'.setRegion r { y with gates := y.gates.modify g (fun z =>
            { z with recd := true, inp := { z.inp with mark := some k } }) }) r

/-- SNAP_MARKER_ARRIVE (R364, R366). -/
def execSnapMarkerArrive (dst : ChanEnd) (s : State) : Host.Outcome State Fault Refusal := .next (markArrives s dst)

/-- Whether an AG's memory work is answered, accepted and complete or stopped (R191). -/
def agQuiet (e : Elem) : Bool :=
  e.ag.ports.toList.all (fun p => p.reqs == []) && e.ag.sb.all PStore.acc && e.ag.tsts == []
    && e.ag.cos.toList.all (fun c => !coRunning c)

/-- Whether an element stands at a stop point (R365). -/
def atStop (e : Elem) : Bool :=
  if e.role = .recq then e.rq.left == 0 && e.rq.sent.all (fun n => n == 0)
  else (!e.busy || e.stop.isSome || e.strm || e.run.wait == some .slots) && (e.cls != .ag || agQuiet e)

/-- An AG that holds at a channel wait is stopped as at a restartable trap, and its record names the snapshot stop (R365). -/
def snapStopped (s : State) (n : Nat) (e : Elem) : State :=
  if e.cls = .ag && e.busy && e.stop.isNone then
    raiseFault s n e .snapStop (e.body.getD e.run.pos 0)
  else s.setUnit (.el n) e

/-- An element records: it publishes the marker on every bound output, drops its pins and is frozen (R365, R168). -/
def recordElem (s : State) (n : Nat) (e : Elem) (k : Nat) : State :=
  let e := e.boundOuts.foldl (fun (e : Elem) c => let o := e.outch c; e.setOut c { o with flight := o.flight ++ [.mark k] }) e
  let s := snapStopped s n { e with frozen := true }
  completeSnap { s with pins := if e.cls = .ag then s.pins.filter (fun p => p.agent != n) else s.pins } e.rgn

/-- SNAPSHOT_RECORD (R365, R191). -/
def execSnapshotRecord (u : Nat) (s : State) : Host.Outcome State Fault Refusal :=
  .next (onElem s u (fun e =>
    match e.mark with
    | some k => if e.dead || e.frozen || e.blot || !atStop e then s else recordElem s u e k
    | none => s))

end Sys2Proof.Machine
end

