-- ==== Sys2Proof/Machine/System.lean ====
section
/-! DEFINITION. Ops 0xD0-0xEC and 0xFF: taint and poison, snapshots, configuration access, traps, system registers, events,
physical memory, and firmware flow (spec 07, R209-R224). These instructions ignore `ty`. -/
namespace Sys2Proof.Machine

-- Taint and poison (R209-R211) ------------------------------------------------------------------------------------------

def bodyTntt : Body := fun s f e => do
  checkRaw e f onlyA (f.var == 0 && f.ln != 3) (badMask f)
  let a := srcA s e f
  done s (putMask e f (fun _ => a.tn) [{ a with tn := false }])

/-- `tntt` (R209): the taint of a does not enter the mask's. -/
def execTntt (f : Fields) (s : State) : Host.Outcome State Fault Refusal := issue 0xD0 bodyTntt f s

/-- A destination register or slot with its taint cleared. -/
def untaint (s : State) (e : Elem) (d : BitVec 10) : Elem := writeDes e d { readDes s e d with tn := false }

def bodyTntc : Body := fun s f e => do
  let v := f.var.toNat
  if v = 0 then
    checkRaw e f usesA (f.ln != 3) (badReg e f)
    let a := srcA s e f
    let e := put s e f (fun i => a.pay.lane i) [a]
    done s (untaint s e f.d)
  else if v = 1 then
    noBad (badMask f)
    done s (e.setMask (maskNo f.d) { e.mask (maskNo f.d) with tn := false })
  else
    need (v == 2) .instr
    done s { e with run := { e.run with ft := false } }

/-- `tntc` (R210). -/
def execTntc (f : Fields) (s : State) : Host.Outcome State Fault Refusal := issue 0xD1 bodyTntc f s

def bodyPzt : Body := fun s f e => do
  let fl := f.var == 1
  checkRaw e f (if fl then noUses else onlyA) (decide (f.var.toNat ≤ 1) && f.ln != 3) (badMask f)
  let a := if fl then Reg.zero else srcA s e f
  let e' := putMask e f (fun _ => if fl then e.flowP else a.pz) [a]
  done s (e'.setMask (maskNo f.d) { e'.mask (maskNo f.d) with pz := false, tn := a.tn })

/-- `pzt` (R211): the mask's PZ is 0 and its TN is a's, whatever the flow bits and `pm` say; `.fl` reads no a (log 123). -/
def execPzt (f : Fields) (s : State) : Host.Outcome State Fault Refusal := issue 0xD2 bodyPzt f s

-- Snapshots (R212) ------------------------------------------------------------------------------------------------------

/-- A region id that names a region of the module. -/
def regionNamed (s : State) (r : Nat) : Bool := r != 0 && (s.region r).stt != 0

def bodySnap : Body := fun s f e => do
  let st := f.var == 1
  checkRaw e f (if st then usesA else onlyA) (decide (f.var.toNat ≤ 1)) (if st then badReg e f else none)
  let a := readDes s e f.a
  let r := (a.pay.lane 0).toNat
  needDes (regionNamed s r) f.a
  let g := s.region r
  if st then
    done s (putWhole e f.d (Payload.ofList [BitVec.ofNat 32 (toRecord s r), BitVec.ofNat 32 ((g.last.map Snap.mkn).getD 0)]) a.pz true)
  else
    needDes g.snap.isNone f.a
    done (completeSnap (injectSnap s r (a.pay.lane 1).toNat) r) e

/-- `snap` (R212, R364). -/
def execSnap (f : Fields) (s : State) : Host.Outcome State Fault Refusal := issue 0xD3 bodySnap f s

-- Configuration access (R213) ---------------------------------------------------------------------------------------------

/-- A site id or unit id as it names an element (R213): bits 30:21 of a site id are reserved and
ignored (R15); a unit id with a bit of 30:21 or 15:10 set names none (log 149). -/
def siteName (id : Nat) : Nat := if id.testBit 31 then id else id % 2 ^ 21

/-- The element at a site, or the AG or RA of a unit number, where an installed configuration holds one. -/
def namedElem (s : State) (id : Nat) : Option (Nat × Elem) :=
  ((List.range s.elems.length).findSome? (fun n => match s.elems[n]? with
    | some e => if !e.dead && e.rgn != 0 && decide (e.die < 64) && e.site.toNat == siteName id then some (n, e) else none
    | none => none))

/-- An item that `conf` and `confr` reach (R213). -/
inductive Item where
  | state (i : Nat) | const (i : Nat) | input (c : Nat) | output (c : Nat) | mask (i : Nat) | scale (i : Nat) | sticky
  | word (i : Nat) | slot (c j : Nat)
  deriving DecidableEq, Repr

/-- The item of a kind and an index, where the element's class holds it (R62, R213). -/
def itemOf (e : Elem) (kind ix : Nat) : Option Item :=
  match kind with
  | 0 => if ix < e.cls.nState then some (.state ix) else none
  | 1 => if ix < e.cls.nConst then some (.const ix) else none
  | 2 => if ix < 32 then some (.input ix) else none
  | 3 => if ix < 16 then some (.output ix) else none
  | 4 =>
    if 1 ≤ ix ∧ ix ≤ 3 then some (.mask ix)
    else if e.cls.hasScale = false then none
    else if 8 ≤ ix ∧ ix ≤ 15 then some (.scale (ix - 8))
    else if ix = 16 then some .sticky
    else none
  | 5 => if ix < e.body.length then some (.word ix) else none
  | 6 => if ix < 128 then some (.slot (ix / 4) (ix % 4)) else none
  | _ => none

/-- A scalar item, in lane 0. -/
def scalar (n : Nat) : Reg := .ofPay (Payload.ofList [BitVec.ofNat 32 n])

/-- An item as `confr` reads it. -/
def itemGet (e : Elem) : Item → Reg
  | .state i => e.s.toList.getD i Reg.zero
  | .const i => e.k.toList.getD i Reg.zero
  | .input c => scalar (e.inch c).ent.toNat
  | .output c => scalar (e.outch c).ent.toNat
  | .mask i => { scalar (e.mask i).bits.toNat with pz := (e.mask i).pz, tn := (e.mask i).tn }
  | .scale i => let x := e.x.toList.getD i Scale.installed; { scalar x.ts.toNat with pz := x.pz, tn := x.tn }
  | .sticky => scalar e.sticky.toNat
  | .word i => .ofPay ((e.body.getD i 0).setWidth 512)
  | .slot c j => wordReg (e.slot c j)

/-- Whether a binding is one the loader accepts on an input (R28). -/
def inBindOk (e : Elem) (c fmt cmp : Nat) : Bool :=
  let other (k : Nat) : Nat := entFmt (e.inch k).ent
  let pairs := fmt = 16 ∨ fmt = 17
  (decide (fmt ≤ 12) || fmt == 19 || decide pairs)
    && (!decide pairs || (cmp != c && entEn (e.inch cmp).ent && other cmp == 9))
    && (fmt == 9 || e.boundIns.all (fun k => k == c || !(e.hasCmp k && entCmp (e.inch k).ent == c)))

/-- An entry with a new format, scale register and companion (R213): its other fields must stand in the word written. -/
def rebind (old v : BitVec 32) : Option (BitVec 32) :=
  if entEn old && old.toNat / 2 ^ 13 == v.toNat / 2 ^ 13 then some v else none

/-- An item written by `conf`, where it may be. -/
def itemPut (e : Elem) (b : Reg) : Item → Option Elem
  | .state i => some { e with s := e.s.setIfInBounds i b }
  | .const i => some { e with k := e.k.setIfInBounds i b }
  | .input c =>
    match rebind (e.inch c).ent (b.pay.lane 0) with
    | some v => if inBindOk e c (entFmt v) (entCmp v) then some (e.setIn c { e.inch c with ent := v }) else none
    | none => none
  | .output c =>
    match rebind (e.outch c).ent (b.pay.lane 0) with
    | some v => if decide (entFmt v ≤ 12) && entCmp v == 0 then some (e.setOut c { e.outch c with ent := v }) else none
    | none => none
  | .mask i => some (e.setMask i { bits := (b.pay.lane 0).setWidth 16, pz := b.pz, tn := b.tn })
  | .scale i => some { e with x := e.x.setIfInBounds i { ts := (b.pay.lane 0).setWidth 16, pz := b.pz, tn := b.tn } }
  | .sticky => some { e with sticky := (b.pay.lane 0).setWidth 5 }
  | .word i => some { e with body := e.body.set i (b.pay.setWidth 96) }
  | .slot c j =>
    let q := (e.inch c).q
    match q[j]? with
    | some w =>
      some (e.setIn c { e.inch c with q := q.set j { w with pay := b.pay, pz := w.isData && b.pz, tn := w.isData && b.tn } })
    | none => none

/-- The element and the item that A names. -/
def confTarget (s : State) (e : Elem) (f : Fields) : Option (Nat × Elem × Item) :=
  let a := (readDes s e f.a).pay
  match namedElem s (a.lane 0).toNat with
  | some (n, x) => (itemOf x (bitsAt (a.lane 1).toNat 12 4) (bitsAt (a.lane 1).toNat 0 12)).map (fun i => (n, x, i))
  | none => none

/-- Whether an element's region is stopped: at a snapshot, at a trap, or during installation (R213). -/
def confStopped (s : State) (x : Elem) : Bool :=
  x.frozen || x.stop.isSome || (s.region x.rgn).stt == 1 || (s.region x.rgn).stt == 3 || (s.region x.rgn).stt == 4

def bodyConf : Body := fun s f e => do
  checkRaw e f onlyAB (f.var == 0) none
  match confTarget s e f with
  | none => trap (.operand f.a.toNat)
  | some (n, x, i) =>
    needDes (confStopped s x) f.a
    match itemPut x (readDes s e f.b) i with
    | some y => done (s.setUnit (.el n) y) e
    | none => trap (.operand f.a.toNat)

/-- `conf` (R213). -/
def execConf (f : Fields) (s : State) : Host.Outcome State Fault Refusal := issue 0xD4 bodyConf f s

def bodyConfr : Body := fun s f e => do
  checkRaw e f usesA (f.var == 0) (badReg e f)
  match confTarget s e f with
  | none => trap (.operand f.a.toNat)
  | some (_, x, i) => let r := itemGet x i; done s (putWhole e f.d r.pay r.pz r.tn)

/-- `confr` (R213). -/
def execConfr (f : Fields) (s : State) : Host.Outcome State Fault Refusal := issue 0xD5 bodyConfr f s

-- Traps (R214, R218, R221, R222, R224) -----------------------------------------------------------------------------------

def bodyTrap : Body := fun _ f _ => do
  need (f.var == 0) .instr
  trap (.soft (f.imm.toNat % 65536))

/-- `trap` (R214). -/
def execTrap (f : Fields) (s : State) : Host.Outcome State Fault Refusal := issue 0xE0 bodyTrap f s

def bodyEret : Body := fun s f e => do
  need (f.var == 0 && e.fc.inh) .instr
  doneAt s (coreReturn e) (.goto e.fc.epc.toNat)

/-- `eret` (R218). -/
def execEret (f : Fields) (s : State) : Host.Outcome State Fault Refusal := issue 0xE1 bodyEret f s

def bodyBkpt : Body := fun s f e => do
  need (f.var == 0) .instr
  if (if e.cls = .fc then e.fc.dbg else (s.region e.rgn).dbg) then trap .brk else done s e

/-- `bkpt` (R221). -/
def execBkpt (f : Fields) (s : State) : Host.Outcome State Fault Refusal := issue 0xE8 bodyBkpt f s

/-- A region halted by a program (R222, R237): event 3 carries the code and the site. -/
def haltByCode (s : State) (e : Elem) (code : Nat) : State :=
  let s := s.setRegion e.rgn { s.region e.rgn with hcode := some code }
  haltRegion (postEvent s 3 (code % 65536 + e.site.toNat * 65536) e.src) e.rgn

def bodyHalt : Body := fun s f e => do
  need (f.var == 0) .instr
  if e.cls = .fc then done s { e with fc := { e.fc with halted := true } }
  else done (haltByCode s e (f.imm.toNat % 65536)) e

/-- `halt` (R222). -/
def execHalt (f : Fields) (s : State) : Host.Outcome State Fault Refusal := issue 0xE9 bodyHalt f s

def bodyXtrap : Body := fun _ f _ => trap (.xtrap f.var.toNat f.d.toNat f.imm.toNat)

/-- `xtrap` (R52, R224). -/
def execXtrap (f : Fields) (s : State) : Host.Outcome State Fault Refusal := issue 0xFF bodyXtrap f s

-- System registers (R216) -------------------------------------------------------------------------------------------------

/-- The number of a system register. -/
def sysNo (f : Fields) : Nat := f.imm.toNat % 4096

/-- A system register as it reads: its value, and whether it is tainted. -/
def sysGet (e : Elem) (n : Nat) : Option (Nat × Bool) :=
  match n with
  | 0x000 => some (e.fc.cstat.toNat, false)
  | 0x001 => some (e.fc.tvec.toNat, false)
  | 0x002 => some (e.fc.epc.toNat, false)
  | 0x003 => some (e.fc.ecause.toNat, false)
  | 0x004 => some (e.fc.eval.toNat, false)
  | 0x005 => some (e.fc.estat.toNat, false)
  | 0x010 => some (e.act, false)
  | 0x011 => some (e.fc.cycl.toNat, true)
  | 0x030 => some (e.fc.evq.length, true)
  | _ => none

/-- A flush of the instruction cache (R53). -/
def flushCache (e : Elem) : Elem := { e with fc := { e.fc with icache := [] } }

/-- A heartbeat (R408). -/
def heartbeat (e : Elem) : Elem := { e with fc := { e.fc with beat := some 0 } }

/-- A system register written with lanes 0 and 1 of a payload. -/
def sysPut (e : Elem) (n : Nat) (p : Payload) : Option Elem :=
  let v := p.lane 0
  match n with
  | 0x000 => some { e with fc := { e.fc with cstat := v &&& 3 } }
  | 0x001 => some { e with fc := { e.fc with tvec := v } }
  | 0x002 => some { e with fc := { e.fc with epc := v } }
  | 0x003 => some { e with fc := { e.fc with ecause := v } }
  | 0x004 => some { e with fc := { e.fc with eval := p.lane 1 ++ v } }
  | 0x005 => some { e with fc := { e.fc with estat := v &&& 3 } }
  | 0x020 => some (flushCache e)
  | 0x021 => some (heartbeat e)
  | _ => none

/-- The numbers that R216 lists. -/
def sysListed (n : Nat) : Bool := [0x000, 0x001, 0x002, 0x003, 0x004, 0x005, 0x010, 0x011, 0x020, 0x021, 0x030].contains n

def bodySysr : Body := fun s f e => do
  let n := sysNo f
  checkRaw e f onlyD (f.var == 0 && !(n == 0x020 || n == 0x021)) (badReg e f)
  match sysGet e n with
  | none => trap (.operand f.a.toNat)
  | some (v, tn) => done s (putWhole e f.d (pair64 v) false tn)

/-- `sysr` (R216). -/
def execSysr (f : Fields) (s : State) : Host.Outcome State Fault Refusal := issue 0xE2 bodySysr f s

def bodySysw : Body := fun s f e => do
  let n := sysNo f
  checkRaw e f onlyA (f.var == 0 && !(n == 0x010 || n == 0x011 || n == 0x030)) none
  match sysPut e n (readDes s e f.a).pay with
  | none => trap (.operand f.a.toNat)
  | some e => done s e

/-- `sysw` (R216). -/
def execSysw (f : Fields) (s : State) : Host.Outcome State Fault Refusal := issue 0xE3 bodySysw f s

def bodyIcacheFlush : Body := fun s f e => do
  checkRaw e f onlyA (f.var == 0) none
  done s (flushCache e)

/-- The write of `icfl` (R53, R216). -/
def execIcacheFlush (f : Fields) (s : State) : Host.Outcome State Fault Refusal := issue 0xE3 bodyIcacheFlush f s

def bodyHeartbeatWrite : Body := fun s f e => do
  checkRaw e f onlyA (f.var == 0) none
  done s (heartbeat e)

/-- The write of `hbeat` (R216, R408). -/
def execHeartbeatWrite (f : Fields) (s : State) : Host.Outcome State Fault Refusal := issue 0xE3 bodyHeartbeatWrite f s

-- Events (R219) -----------------------------------------------------------------------------------------------------------

def bodyIdle : Body := fun s f e => do
  need (f.var == 0) .instr
  let t := f.imm.toNat
  let past := match e.fc.idleAt with
    | some at' => decide (t ≠ 0 ∧ at' + 1000 * t ≤ s.now)
    | none => false
  if e.fc.evq != [] || past then done s { e with fc := { e.fc with idleAt := none } }
  else doneAt s { e with fc := { e.fc with idleAt := some (e.fc.idleAt.getD s.now) } } .stay

/-- `idle` (R219): while it waits, the core keeps when it began to. -/
def execIdle (f : Fields) (s : State) : Host.Outcome State Fault Refusal := issue 0xE4 bodyIdle f s

/-- An event that waits for a core enters its queue, where there is room (R219). -/
def refill (s : State) (e : Elem) : State × Elem :=
  match s.evwait.find? (fun w => w.1 == e.act) with
  | some w => ({ s with evwait := s.evwait.erase w }, { e with fc := { e.fc with evq := e.fc.evq ++ [w.2] } })
  | none => (s, e)

def bodyEvrd : Body := fun s f e => do
  checkRaw e f onlyD (f.var == 0) (badReg e f)
  match e.fc.evq with
  | [] => done s (putWhole e f.d 0 false true)
  | ev :: rest =>
    let (s, e) := refill s { e with fc := { e.fc with evq := rest } }
    done s (putWhole e f.d (ev.setWidth 512) false true)

/-- `evrd` (R219). -/
def execEvrd (f : Fields) (s : State) : Host.Outcome State Fault Refusal := issue 0xE5 bodyEvrd f s

-- Physical memory (R220, R271, R274, R411) ---------------------------------------------------------------------------------

/-- The size of an access. -/
def physSize (f : Fields) : Nat := if f.var = 0 then 64 else if f.var = 1 then 4 else 8

/-- What an address and a size reach; none is bounds. -/
inductive Place where
  | memory | register (r : RegName) | flash
  deriving DecidableEq, Repr

def placeOf (s : State) (a size : Nat) : Option Place :=
  if a % size ≠ 0 then none
  else if isOwn a then (if stampedFrame s a then none else some .memory)
  else if isHost a then some .memory
  else if isFlash a then some .flash
  else if isRegAddr a then (regAt a size).map .register
  else none

def bodyLdp : Body := fun s f e => do
  checkRaw e f usesA (decide (f.var.toNat ≤ 2)) (badReg e f)
  let a := readDes s e f.a
  let addr := physOf a.pay
  let size := physSize f
  if a.pz then done s.spend (putWhole e f.d (Config.freePayload s.freeCtr) true a.tn)
  else match placeOf s addr size with
    | none => trap (.phys addr)
    | some (.register r) =>
      done s (putWhole e f.d (BitVec.ofNat 512 (regRead s r)) false a.tn)
    | some _ =>
      awaitFree (!homeHeld s 32 addr)
      let (s', v, g) := homeRead (l2Fill s addr 0) e addr size
      done s' (putWhole e f.d (BitVec.ofNat 512 v) g.pz (g.tn || a.tn))

/-- `ldp` (R220, R161, R363, R379). -/
def execLdp (f : Fields) (s : State) : Host.Outcome State Fault Refusal := issue 0xE6 bodyLdp f s

/-- A store of a core that is not published yet (R220, R274); no handle gives it a policy, and it fills no sector (log 162). -/
def coreStore (e : Elem) (ord addr size v : Nat) (tn : Bool) (reg : Bool) : PStore :=
  { smallStore e ord addr size v tn with
    acc := false, rel := false, reg := if reg then some (addr, size, BitVec.ofNat 64 v) else none }

def bodyStp : Body := fun s f e => do
  checkRaw e f onlyAB (decide (f.var.toNat ≤ 2)) none
  let a := readDes s e f.a
  let b := readDes s e f.b
  let addr := physOf a.pay
  let size := physSize f
  need (!(a.pz || b.pz)) (.poison 0 f.d.toNat addr)
  match placeOf s addr size with
  | none => trap (.phys addr)
  | some .flash => trap (.phys addr)
  | some p =>
    let st := coreStore e s.orders addr size (b.pay.toNat % 2 ^ (8 * size)) (a.tn || b.tn) (match p with | .register _ => true | _ => false)
    done { s with orders := s.orders + 1 } { e with ag := { e.ag with sb := e.ag.sb ++ [st], seq := e.ag.seq + 1 } }

/-- `stp` (R220, R161, R379). -/
def execStp (f : Fields) (s : State) : Host.Outcome State Fault Refusal := issue 0xE7 bodyStp f s

-- Firmware flow (R223) ------------------------------------------------------------------------------------------------------

/-- The target of `fjmp` and `fcall`. -/
def jumpTarget (s : State) (e : Elem) (f : Fields) : Nat :=
  if f.var = 0 then (((e.run.pos : Int) + signedOf 24 f.imm.toNat) % 2 ^ 32).toNat else ((readDes s e f.a).pay.lane 0).toNat

def bodyFjmp : Body := fun s f e => do
  checkRaw e f (if f.var = 1 then onlyA else noUses) (decide (f.var.toNat ≤ 1)) none
  doneAt s e (.goto (jumpTarget s e f))

/-- `fjmp` (R223). -/
def execFjmp (f : Fields) (s : State) : Host.Outcome State Fault Refusal := issue 0xEA bodyFjmp f s

def bodyFcall : Body := fun s f e => do
  checkRaw e f (if f.var = 1 then onlyA else noUses) (decide (f.var.toNat ≤ 1 ∧ e.fc.rstack.length < 32)) none
  doneAt s { e with fc := { e.fc with rstack := BitVec.ofNat 32 e.nextPos :: e.fc.rstack } } (.goto (jumpTarget s e f))

/-- `fcall` (R223). -/
def execFcall (f : Fields) (s : State) : Host.Outcome State Fault Refusal := issue 0xEB bodyFcall f s

def bodyFret : Body := fun s f e => do
  match e.fc.rstack with
  | [] => trap .instr
  | r :: rest =>
    need (f.var == 0) .instr
    doneAt s { e with fc := { e.fc with rstack := rest } } (.goto r.toNat)

/-- `fret` (R223). -/
def execFret (f : Fields) (s : State) : Host.Outcome State Fault Refusal := issue 0xEC bodyFret f s

end Sys2Proof.Machine
end

