-- ==== Sys2Proof/Machine/Channels.lean ====
section
/-! DEFINITION. Channels at work: a firing starts (R228-R231, R244, R251), words and credits arrive (R69, R249), a section is
armed (R251), a record queue deals and publishes (R279-R282), gates admit and write (R253, R341, R343). -/
namespace Sys2Proof.Machine

-- Heads ---------------------------------------------------------------------------------------------------------------

/-- Whether an element may act: it is not stopped, frozen, halted, blotted or removed. -/
def Elem.active (e : Elem) : Bool := !e.dead && !e.halted && !e.frozen && !e.blot && e.stop.isNone

/-- Whether a clause is runnable (R228, R251). -/
def runnable (e : Elem) (c : Clause) : Bool :=
  c.used && c.en
    && c.ins.all (fun t => decide (t.min ≤ (e.inch t.ch).q.length))
    && c.outs.all (fun t => decide (t.min ≤ (e.outch t.ch).free))
    && (match c.ins with
        | [] => false
        | t :: r => match e.headOf t.ch with
          | none => false
          | some k => c.accepts k && r.all (fun x => e.headOf x.ch == some k))
    && (!(e.sect && c.strm) || decide (e.armc ≠ 0))

/-- The bound inputs that pass control words by themselves: a companion goes with its weight channel (R32). -/
def Elem.mainIns (e : Elem) : List Nat :=
  e.boundIns.filter (fun c => !e.boundIns.any (fun w => e.hasCmp w && entCmp (e.inch w).ent == c))

/-- A word on a weight channel's companion that R32 does not ask for beside the control word at its head. -/
def Elem.cmpWrong (e : Elem) (c : Nat) : Bool :=
  let i := e.inch c
  let m := (e.inch (entCmp i.ent)).q
  let other (x : CWord) : Bool := !(x.isCtl && x.kind == (e.slot c 0).kind && x.arg == (e.slot c 0).arg)
  e.hasCmp c && (if i.wpos % 4 = 0 then m.head?.any other else m.head?.any CWord.isCtl || (m[1]?).any other)

/-- A control word that the element itself consumes, at the head of an input with a wrong companion (R32). -/
def pairFault (e : Elem) : Option Trap :=
  e.mainIns.findSome? (fun c =>
    match e.headOf c with
    | some k => if (k == 4 || k == 6 || (k == 7 && e.sect && e.armc == 0 && c == e.armIn)) && e.cmpWrong c then
        some (.align c (some (entCmp (e.inch c).ent)) k) else none
    | none => none)

/-- A `drain` or `switch` at one head against another word at another, with no clause runnable (R235, R236). -/
def mixedHead (e : Elem) : Option Trap :=
  if e.clauses.any (runnable e) then none
  else
    let ins := e.mainIns
    let other (k : Nat) : Option Nat := ins.find? (fun c => match e.headOf c with | some j => j != k | none => false)
    match ins.find? (fun c => e.headOf c == some 6), other 6 with
    | some a, some b => some (.unbal a b (e.inch a).q.length (e.inch b).q.length 6)
    | _, _ =>
      match ins.find? (fun c => e.headOf c == some 4), other 4 with
      | some a, some b => some (.align a (some b) 4)
      | _, _ => none

/-- The fault that the heads of an element raise: a word that no clause accepts in any cycle (R231), the others without a firing
in progress. -/
def actorFault (e : Elem) : Option Trap :=
  match strayHead e with
  | some t => some t
  | none => if e.busy then none else match pairFault e with
    | some t => some t
    | none => mixedHead e

/-- The fault that the words on c0 raise (R280), that of a record as soon as its second word is there (log 163); while a `drain` or `switch`
passes, no item has begun (R416). -/
def recqInFault (e : Elem) : Option Trap :=
  let q := (e.inch 0).q
  match q with
  | [] => none
  | w :: r =>
    let k := kindOf w
    if e.rq.passing.isSome then none else
    let bad : Option Trap := some (.align 0 none k)
    if malformed w then bad
    else if e.rq.left ≠ 0 then (if w.isCtl && !e.rq.lead then bad else none)
    else if w.isCtl then (if k = 7 ∨ k = 3 ∨ k = 4 ∨ k = 6 then none else bad)
    else if w.lr then bad
    else match r with
      | [] => none
      | x :: _ => if x.isData && x.lr then none else bad

/-- The fault that the word at the head of member `m`'s return raises (R282, R416, R236). -/
def returnFault (e : Elem) (m : Nat) : Option Trap :=
  let c := m + 1
  let q := (e.inch c).q
  let bad (k : Nat) : Option Trap := some (.align c none k)
  let unbal (k : Nat) : Option Trap := some (.unbal c 0xFFFFFFFF q.length 0 k)
  match q with
  | [] => none
  | w :: r =>
    let k := kindOf w
    match (e.rq.owed.getD m []).head? with
    | some (.pair _) =>
      if w.isCtl then bad k
      else match r with
        | [] => none
        | x :: _ => if x.isData && x.lr then none else bad k
    | some .eoi => if k = 3 then none else bad k
    | some .pass => if e.rq.passing = some k then none else if e.rq.passing = some 6 then unbal k else bad k
    | none => if k = 6 then unbal k else bad k

/-- The first fault of a record queue. -/
def recqFault (e : Elem) : Option Trap :=
  match recqInFault e with
  | some t => some t
  | none => (List.range e.rq.members).findSome? (returnFault e)

/-- The fault that the words at the heads of an element raise. -/
def headFault (e : Elem) : Option Trap :=
  match e.role with
  | .actor => actorFault e
  | .recq => recqFault e
  | .buffer => none

/-- An element whose heads raise a fault raises it. -/
def judgeHeads (s : State) (n : Nat) : State :=
  match s.elems[n]? with
  | some e =>
    if !e.active then s
    else match headFault e with
      | some t => raiseFault s n e t 0
      | none => s
  | none => s

-- Words and credits -----------------------------------------------------------------------------------------------------

/-- A word sent on an output of an element, by the element itself and not by a firing. -/
def Elem.push (e : Elem) (c : Nat) (w : CWord) : Elem :=
  let o := e.outch c
  e.setOut c { o with flight := o.flight ++ [.word w 0], free := o.free - 1 }

/-- Words removed from the head of an input of an element, whose producer gets the credit (R69). -/
def eatAt (s : State) (n c k : Nat) : State :=
  match s.elems[n]? with
  | none => s
  | some e =>
    let i := e.inch c
    let gone := i.q.take k
    giveCredit (s.updElem n (fun e => e.setIn c { i with q := i.q.drop k, wpos := gone.foldl wposAfter i.wpos })) i.src gone.length

/-- A word that has crossed every bridge on its way, at the head of what is in flight on a channel, taken from it. -/
def takeWord (s : State) (src : ChanEnd) : Option (CWord × State) :=
  match s.outAt src with
  | none => none
  | some o =>
    match o.flight with
    | .word w k :: rest => if o.via.length ≤ k then some (w, s.setOutAt src { o with flight := rest }) else none
    | _ => none

/-- CHANNEL_WORD_ARRIVE (R69, R70, R231, R248). -/
def execChannelWordArrive (u ch : Nat) (s : State) : Host.Outcome State Fault Refusal :=
  .next (onElem s u (fun e =>
    if e.dead || !entEn (e.inch ch).ent then s
    else match takeWord s (e.inch ch).src with
      | none => s
      | some (w, s') => judgeHeads (s'.updElem u (fun e => e.setIn ch { e.inch ch with q := (e.inch ch).q ++ [w] })) u))

/-- CREDIT_RETURN (R69, R249): the credits on their way to a producer reach its free count. -/
def execCreditReturn (src : ChanEnd) (s : State) : Host.Outcome State Fault Refusal :=
  .next (match s.outAt src with
    | none => s
    | some o => s.setOutAt src { o with free := o.free + o.cred, cred := 0 })

-- Firings -----------------------------------------------------------------------------------------------------------------

/-- Whether an `arm` is due (R251). -/
def armDue (e : Elem) : Bool := e.sect && e.armc == 0 && e.headOf e.armIn == some 7 && cmpHere e e.armIn 1

/-- Whether every bound input has a kind at its head, and the companions the words that go with it (R32). -/
def allHeads (e : Elem) (kind : Nat) : Bool :=
  e.boundIns != [] && e.mainIns.all (fun c => e.headOf c == some kind && cmpHere e c 1)

/-- The head word of an input of an element consumed, with its companion words (R32, R69). -/
def eatPair (s : State) (n c : Nat) : State :=
  match s.elems[n]? with
  | none => s
  | some e =>
    let k := e.cmpCount c 1
    let s := eatAt s n c 1
    if k = 0 then s else eatAt s n (entCmp (e.inch c).ent) k

/-- The arm action (R251): it waits for a free slot where an arm output is bound. -/
def armElem (s : State) (n : Nat) (e : Elem) : State :=
  let w := e.slot e.armIn 0
  let e' := { e with armc := w.arg.toNat }
  match e.armOut with
  | some o =>
    if !entEn (e.outch o).ent then eatPair (s.setUnit (.el n) e') n e.armIn
    else if (e.outch o).free = 0 then s
    else eatPair (s.setUnit (.el n) (e'.push o (CWord.ctl 7 w.arg))) n e.armIn
  | none => eatPair (s.setUnit (.el n) e') n e.armIn

/-- ARM_ACTION (R251, R21). -/
def execArmAction (u : Nat) (s : State) : Host.Outcome State Fault Refusal :=
  .next (onElem s u (fun e =>
    if !e.active || e.busy || e.role != .actor || e.parked then s
    else match headFault e with
      | some t => raiseFault s u e t 0
      | none => if armDue e then judgeHeads (armElem s u e) u else s))

/-- The clause that fires (R229): of those passed over eight times, else of all, the one of lowest `pri`. -/
def chosen (e : Elem) : Option Nat :=
  let r := (List.range 4).filter (fun i => runnable e (e.cls4.toList.getD i Clause.unused))
  let pri (i : Nat) : Nat := (e.cls4.toList.getD i Clause.unused).pri
  let p := r.filter (fun i => (e.cls4.toList.getD i Clause.unused).age == 8)
  let from' := if p = [] then r else p
  from'.foldl (fun b i => match b with
    | none => some i
    | some j => if pri i < pri j then some i else some j) none

/-- The aging of the used clauses (R229). -/
def aged (e : Elem) (ch : Option Nat) : Vector Clause 4 :=
  e.cls4.mapIdx (fun i c =>
    if !c.used then c
    else if ch = some i then { c with age := 0 }
    else if ch.isSome && runnable e c then { c with age := min (c.age + 1) 8 }
    else { c with age := 0 })

/-- An element starts a firing of a clause (R229, R46, R87, R244, R251). -/
def startFiring (e : Elem) (i : Nat) : Elem :=
  let c := e.cls4.toList.getD i Clause.unused
  { e with cls4 := aged e (some i), busy := true, fcnt := e.fcnt + 1, armc := if e.sect && c.strm then e.armc - 1 else e.armc,
           run := { Run.idle with clause := i, pos := c.entry, ft := c.aof && !e.merge } }

/-- A stream actor as a word of a firing will leave its channels: in such a body each firing's consumptions and publications are fixed
(R79). -/
def aheadWord (x : State × Elem) (w : BitVec 96) : State × Elem :=
  let f := fieldsOf w
  let used (e : Elem) (c n : Nat) : Elem := e.setOut c { e.outch c with free := (e.outch c).free - n }
  let sends (e : Elem) (eoi : Bool) : Elem := { e with run := { e.run with eoi := e.run.eoi || eoi } }
  match opNo w with
  | 0x02 => consumeAll (slotCount f) ((takeChans f (slotCount f)).map Prod.fst) x
  | 0x03 => (x.1, used x.2 (desChan f.d) (slotCount f))
  | 0x06 => (x.1, sends (used x.2 (desChan f.d) 1) (f.var == 3))
  | 0x07 =>
    (x.1, sends (if f.var = 1 then x.2.boundOuts.foldl (fun e c => used e c 1) x.2 else used x.2 (desChan f.d) 1)
            (kindOf (x.2.slot (desChan f.a) (desOfs f.a)) == 3))
  | _ => x

/-- A stream actor as the rest of a firing will leave it. -/
def pastFiring (x : State × Elem) (r : Run) : State × Elem :=
  let y := (x.2.body.drop r.pos).foldl aheadWord (x.1, { x.2 with run := r })
  (y.1, y.2.counted)

/-- The firings of an element in flight, the one at work first. -/
def Elem.firings (e : Elem) : List Run := e.run :: e.pipe

/-- A stream actor as firing `k` behind the one at work finds it: with the head and tail offsets advanced by the earlier ones (R79). -/
def Elem.behind (s : State) (e : Elem) (k : Nat) : Elem :=
  { ((e.firings.take k).foldl pastFiring (s, e)).2 with fcnt := e.fcnt + BitVec.ofNat 32 k, pipe := [] }

/-- A stream actor as the next firing finds it. -/
def Elem.ahead (s : State) (e : Elem) : Elem := { e.behind s e.firings.length with busy := false, run := Run.idle }

/-- A stream firing enters S1 behind those in flight, where the last has left it and none holds (R78-R80; log 141). -/
def followFiring (s : State) (u : Nat) (e : Elem) : State :=
  let x := e.ahead s
  let last := e.pipe.getLast?.getD e.run
  if !e.strm || e.firings.any (fun r => r.wait.isSome) || (headFault x).isSome || armDue x || allHeads x 4 || allHeads x 6 then s
  else match chosen x with
    | some i =>
      if last.pos ≤ (e.cls4.toList.getD i Clause.unused).entry then s
      else
        let y := startFiring x i
        s.setUnit (.el u) { e with cls4 := y.cls4, armc := y.armc, pipe := e.pipe ++ [y.run] }
    | none => s

-- Firings in their stages (R78-R80) -----------------------------------------------------------------------------------------

/-- A stream actor with firing `k` behind the one at work in the place of that one. -/
def Elem.staged (s : State) (e : Elem) (k : Nat) (r : Run) : Elem := { e.behind s k with busy := true, run := r }

/-- Whether a word waits until every earlier firing has done its part (R79): it consumes or publishes where one has still to, it consumes a
control word, or it works on the accumulators behind one that has still to. -/
def stageHolds (e v : Elem) (rest : List (BitVec 96)) (w : BitVec 96) : Bool :=
  let f := fieldsOf w
  let eaten (c : Nat) : Bool := v.inch c != e.inch c || ((v.inch c).q.take (slotCount f)).any CWord.isCtl
  let fed (c : Nat) : Bool := (v.outch c).free != (e.outch c).free
  let acc (w : BitVec 96) : Bool := decide (0x61 ≤ opNo w ∧ opNo w ≤ 0x63)
  match opNo w with
  | 0x02 => (takeChans f (slotCount f)).any (fun p => eaten p.1 || (v.hasCmp p.1 && v.inch (entCmp (v.inch p.1).ent) != e.inch (entCmp (v.inch p.1).ent)))
  | 0x03 => fed (desChan f.d)
  | 0x06 => fed (desChan f.d)
  | 0x07 => if f.var = 1 then v.boundOuts.any fed else fed (desChan f.d)
  | _ => acc w && rest.any acc

/-- The firing `k` behind the one at work, and its word, where it executes it now: no earlier firing holds (R80), the one before it stands two
stages on, since words of one stage follow each other by a cycle (R78), and nothing has to wait for the earlier ones. -/
def stageDue (s : State) (e : Elem) (k : Nat) : Option (Run × BitVec 96) :=
  match e.firings[k]?, e.firings[k - 1]? with
  | some r, some o =>
    match e.body[r.pos]? with
    | some w =>
      if !e.active || e.role != .actor || !e.busy || !e.strm || e.parked || k = 0 || decide (o.pos < r.pos + 2)
          || (e.firings.take k).any (fun x => x.wait.isSome)
          || stageHolds e (e.staged s k r) ((e.firings.take k).flatMap (fun x => e.body.drop x.pos)) w then none
      else some (r, w)
    | none => none
  | _, _ => none

/-- A stream firing behind the one at work executes its next word, or nothing where it has to wait (R78, R80). -/
def fetchStage (s : State) (u k : Nat) : Option (Run × Instr × State) :=
  match s.elems[u]? with
  | none => none
  | some e =>
    match stageDue s e k with
    | none => none
    | some (r, w) => (decodeWord w).map (fun i => (r, i, s.setUnit (.el u) (e.staged s k r)))

/-- The element after a word of firing `k`, from what that word has made of the element as it found it. -/
def Elem.unstaged (e v x : Elem) (k : Nat) : Elem :=
  { x with run := e.run, pipe := e.pipe.set (k - 1) x.run, cls4 := e.cls4, fcnt := e.fcnt, invk := e.invk, phnum := e.phnum, armc := e.armc,
           ins := Vector.ofFn (fun c : Fin 32 => if v.ins[c] = e.ins[c] then x.ins[c] else e.ins[c]),
           outs := Vector.ofFn (fun c : Fin 16 => { x.outs[c] with free := e.outs[c].free - (v.outs[c].free - x.outs[c].free) }) }

/-- The state after a word of a firing in its stage. -/
def unstage (s : State) (u k : Nat) (r : Run) (t : State) : State :=
  match s.elems[u]? with
  | some e => t.updElem u (fun x => e.unstaged (e.staged s k r) x k)
  | none => t

/-- FIRING_START (R78, R228-R231, R235, R236, R244, R251): where a system action is due, no firing starts. -/
def execFiringStart (u : Nat) (s : State) : Host.Outcome State Fault Refusal :=
  .next (onElem s u (fun e =>
    if !e.active || e.role != .actor || e.parked then s
    else if e.busy then followFiring s u e
    else match headFault e with
      | some t => raiseFault s u e t 0
      | none =>
        if armDue e || allHeads e 4 || allHeads e 6 then s
        else match chosen e with
          | some i => s.setUnit (.el u) (startFiring e i)
          | none => s.setUnit (.el u) { e with cls4 := aged e none }))

-- Record queues -----------------------------------------------------------------------------------------------------------

/-- A record queue that may act. -/
def onRecq (s : State) (n : Nat) (g : Elem → State) : State :=
  onElem s n (fun e => if e.active && e.role == .recq && !e.parked then g e else s)

/-- A step of a record queue; words it cannot accept raise their fault instead, also those that the step brings to a head. -/
def recqStep (s : State) (n : Nat) (g : Elem → State) : State :=
  onRecq s n (fun e => match recqFault e with
    | some t => raiseFault s n e t 0
    | none => judgeHeads (g e) n)

/-- The element after its broadcast has come to the next word, where every member has the one at the head. -/
def recqNext (s : State) (n : Nat) : State :=
  onElem s n (fun e =>
    if e.rq.left ≠ 0 && e.rq.sent.all (fun k => k != 0) then
      let q := e.rq
      let q := { q with left := q.left - 1, lead := false, sent := q.sent.map (fun k => k - 1), taken := q.taken + 1 }
      eatAt (s.setUnit (.el n) { e with rq := q }) n 0 1
    else s)

/-- A word as it is sent on: a control word with lanes 2 to 15, PZ and TN clear (R20). -/
def sentWord (w : CWord) : CWord := if w.isCtl then CWord.ctl w.kind w.arg else w

/-- A member is sent the next word of the broadcast (R280); with an `eoi` its return owes one (R282). -/
def recqSend (s : State) (n m : Nat) (e : Elem) : State :=
  let i := e.inch 0
  let head := i.q.headD CWord.zero
  let starts := e.rq.left == 0 && e.rq.passing.isNone && i.q != [] && (kindOf head == 7 || kindOf head == 3)
  let q := if starts then { e.rq with left := if kindOf head = 7 then head.arg.toNat + 1 else 1, lead := true,
                                      sent := List.replicate e.rq.members 0 } else e.rq
  let k := q.sent.getD m 0
  match i.q[k]? with
  | some w =>
    if q.left = 0 ∨ q.left ≤ k ∨ (e.outch m).free = 0 ∨ (w.isCtl && (!q.lead || k != 0)) ∨ q.members ≤ m then s
    else
      let q := { q with sent := q.sent.set m (k + 1), owed := if kindOf w = 3 then q.owed.modify m (fun l => l ++ [Owed.eoi]) else q.owed }
      recqNext (s.setUnit (.el n) ({ e with rq := q }.push m (sentWord w))) n
  | none => s

/-- RECQ_BROADCAST (R280). -/
def execRecqBroadcast (u m : Nat) (s : State) : Host.Outcome State Fault Refusal :=
  .next (recqStep s u (fun e => recqSend s u m e))

/-- Whether member `m` is idle (R281). -/
def memberIdle (e : Elem) (m : Nat) : Bool := (e.outch m).free == entCap (e.outch m).ent

/-- The idle member that has gone longest without a record (R281). -/
def nextMember (e : Elem) : Option Nat :=
  ((List.range e.rq.members).filter (memberIdle e)).foldl (fun b m =>
    match b with
    | none => some m
    | some j =>
      match e.rq.dealt.getD m none, e.rq.dealt.getD j none with
      | none, some _ => some m
      | some x, some y => if x < y then some m else some j
      | _, none => some j) none

/-- RECQ_DEAL (R281, R282). -/
def execRecqDeal (u : Nat) (s : State) : Host.Outcome State Fault Refusal :=
  .next (recqStep s u (fun e =>
    match (e.inch 0).q, nextMember e with
    | w :: x :: _, some m =>
      if e.rq.left ≠ 0 ∨ e.rq.passing.isSome ∨ w.isCtl ∨ 1024 ≤ e.rq.pairs.length then s
      else
        let q := { e.rq with next := e.rq.next + 1, taken := e.rq.taken + 2, dealt := e.rq.dealt.set m (some e.rq.next),
                             owed := e.rq.owed.modify m (fun l => l ++ [.pair e.rq.next]) }
        eatAt (s.setUnit (.el u) (({ e with rq := q }.push m w).push m x)) u 0 2
    | _, _ => s))

/-- The pair at the head of a return stored under its record number while the store has room (R282); that of the record to be
published next is published at once where it has none. -/
def recqTake (n : Nat) (s : State) (m : Nat) : State :=
  onElem s n (fun e =>
    match (e.inch (m + 1)).q, e.rq.owed.getD m [] with
    | w :: x :: _, .pair k :: rest =>
      let q := { e.rq with owed := e.rq.owed.set m rest }
      if e.rq.pairs.length < 1024 then
        eatAt (s.setUnit (.el n) { e with rq := { q with pairs := Tab.set q.pairs k (w, x) } }) n (m + 1) 2
      else if k = q.pub ∧ 2 ≤ (e.outch q.members).free then
        eatAt (s.setUnit (.el n) (({ e with rq := { q with pub := q.pub + 1 } }.push q.members w).push q.members x)) n (m + 1) 2
      else s
    | _, _ => s)

/-- The next pair in record order published, where the output has two free slots (R282). -/
def recqPublish (n : Nat) (s : State) : State :=
  onElem s n (fun e =>
    match Tab.find e.rq.pairs e.rq.pub with
    | some (w, x) =>
      if (e.outch e.rq.members).free < 2 then s
      else
        let q := { e.rq with pairs := Tab.del e.rq.pairs e.rq.pub, pub := e.rq.pub + 1 }
        s.setUnit (.el n) (({ e with rq := q }.push e.rq.members w).push e.rq.members x)
    | none => s)

/-- RECQ_PUBLISH_PAIR (R282). -/
def execRecqPublishPair (u : Nat) (s : State) : Host.Outcome State Fault Refusal :=
  .next (recqStep s u (fun e => recqPublish u ((List.range e.rq.members).foldl (recqTake u) s)))

/-- Whether every return owes a thing next and has a kind at its head, and nothing waits to be published. -/
def returnsAt (e : Elem) (x : Owed) (kind : Nat) : Bool :=
  e.rq.pairs == [] && e.rq.members != 0
    && (List.range e.rq.members).all (fun m => (e.rq.owed.getD m []).head? == some x && e.headOf (m + 1) == some kind)

/-- The word at every return consumed. -/
def recqClear (n : Nat) (s : State) (e : Elem) : State :=
  let q := { e.rq with owed := e.rq.owed.map (fun l => l.drop 1) }
  (List.range e.rq.members).foldl (fun s m => eatAt s n (m + 1) 1) (s.setUnit (.el n) { e with rq := q })

/-- RECQ_EOI (R282). -/
def execRecqEoi (u : Nat) (s : State) : Host.Outcome State Fault Refusal :=
  .next (recqStep s u (fun e =>
    if returnsAt e .eoi 3 && (e.outch e.rq.members).free != 0 then
      recqClear u s (e.push e.rq.members (CWord.ctl 3 0))
    else s))

/-- RECQ_DRAIN_FEED (R416): step 1 of passing a `drain` or a `switch`. -/
def execRecqDrainFeed (u : Nat) (s : State) : Host.Outcome State Fault Refusal :=
  .next (recqStep s u (fun e =>
    let w := e.slot 0 0
    let k := kindOf w
    let feeds := List.range e.rq.members
    if (e.inch 0).q != [] && (k == 4 || k == 6) && e.rq.left == 0 && e.rq.passing.isNone && feeds.all (fun m => (e.outch m).free != 0) then
      let q := { e.rq with passing := some k, passArg := w.arg, taken := e.rq.taken + 1, owed := e.rq.owed.map (fun l => l ++ [.pass]) }
      eatAt (s.setUnit (.el u) (feeds.foldl (fun (e : Elem) m => e.push m (CWord.ctl w.kind w.arg)) { e with rq := q })) u 0 1
    else s))

-- Gates ---------------------------------------------------------------------------------------------------------------------

/-- A gate of a region changed. -/
def setGate (s : State) (r g : Nat) (x : Gate) : State :=
  let y := s.region r
  s.setRegion r { y with gates := y.gates.set g x }

/-- A word sent by an input gate. -/
def Gate.push (x : Gate) (w : CWord) : Gate :=
  { x with out := { x.out with flight := x.out.flight ++ [.word w 0], free := x.out.free - 1 } }

/-- SEED_ADMIT (R253, R341): the next seed of an input gate enters, and one `drain` behind the last. -/
def execSeedAdmit (rgn g : Nat) (s : State) : Host.Outcome State Fault Refusal :=
  .next (
    let y := s.region rgn
    match y.gates[g]? with
    | none => s
    | some x =>
      if x.isOut || x.held || x.closed || y.stt != 2 || y.opened.isNone || x.out.free == 0 then s
      else match x.seeds[x.admitted]? with
        | some w => setGate s rgn g { x.push (sentWord w) with admitted := x.admitted + 1 }
        | none => if x.drained then s else setGate s rgn g { x.push (CWord.ctl 4 0) with drained := true })

/-- The device reconfigures a region: it emits a `switch` that carries the id of the new configuration, at an input gate that has room, between
two seeds or behind the last; the spec gives it no other place and no instant (R20, R232; log 155). -/
def emitSwitch (s : State) (rgn g : Nat) (cfg : Lane) : State :=
  let y := s.region rgn
  match y.gates[g]? with
  | none => s
  | some x =>
    if x.isOut || x.held || x.closed || y.stt != 2 || y.opened.isNone || x.out.free == 0 then s
    else setGate s rgn g (x.push (CWord.ctl 6 cfg))

/-- A word unit as an output gate writes it (R343, R20). -/
def outUnit (w0 : CWord) : List Byte :=
  let w := sentWord w0
  littleBytes 72 (w.pay.toNat + bit w.ls * 2 ^ 512 + bit w.lr * 2 ^ 513 + bit w.pz * 2 ^ 514 + bit w.tn * 2 ^ 515)

/-- The site of a gate (R325). -/
def gateSite (y : Region) : Nat :=
  match y.folios with
  | (d, f) :: _ => d * 65536 + 12 * (f / 12) * 256 + 12 * (f % 12)
  | [] => 0

/-- A `halt` at an output gate halts its region (R237, R222). -/
def haltAtGate (s : State) (r arg : Nat) : State :=
  let s := s.setRegion r { s.region r with hcode := some (arg % 65536) }
  haltRegion (postEvent s 3 (arg % 65536 + gateSite (s.region r) * 65536) (regionSrc r)) r

/-- A word that reaches an output gate (R343, R237, R390). -/
def gateTakes (s : State) (r g : Nat) (x : Gate) (w : CWord) : State :=
  if x.closed then s
  else if kindOf w = 4 then setGate s r g { x with passed := true }
  else if x.written < x.cap then
    let s := setGate s r g { x with written := x.written + 1 }
    let s := { s with mem := memWrite s.mem (x.buf + 72 * x.written) (outUnit w) }
    if kindOf w = 9 then haltAtGate s r w.arg.toNat else s
  else
    let s := setGate s r g { x with dropped := x.dropped + 1 }
    if kindOf w = 9 then haltAtGate s r w.arg.toNat else s

/-- OUTPUT_GATE_WORD (R343, R237). -/
def execOutputGateWord (rgn g : Nat) (s : State) : Host.Outcome State Fault Refusal :=
  .next (match (s.region rgn).gates[g]? with
    | none => s
    | some x =>
      if !x.isOut then s
      else match takeWord s x.inp.src with
        | none => s
        | some (w, s') => giveCredit (gateTakes s' rgn g x w) x.inp.src 1)

end Sys2Proof.Machine
end

