-- ==== Sys2Proof/Machine/Engine.lean ====
section
/-! DEFINITION. Engine operations at work (spec 06, R185-R190; spec 09, R267): copies, gathers, collectives and adapter
copies, and the steps at which one completes, stops on a restartable fault, or fails. -/
namespace Sys2Proof.Machine

/-- How an engine operation ends for now (R185, R190): complete, stopped on a restartable fault, failed; or it still waits
for the other members of its group. -/
inductive EngEnd where
  | complete
  | stop (t : Trap)
  | fail (t : Trap)
  | waiting
  deriving DecidableEq, Repr

/-- A trap as an engine meets it (R160, R185). -/
def engineFault (t : Trap) : EngEnd := if t.restartable then .stop t else .fail t

/-- `fcs` of a fault (R185): its six bits hold the class and subcause of a class below 8. -/
def engineFcs (t : Trap) : Nat := if t.cls.1 < 8 then t.cls.1 * 8 + t.cls.2 else 0

/-- Work of an engine: the module and the operation, or how it ends. -/
abbrev EngRes := Except EngEnd (State × EngOp)

def EngOp.port (o : EngOp) (i : Nat) : Port := o.ports.getD i Port.unbound

/-- Operand lanes of the operation. -/
def EngOp.arg (o : EngOp) (i : Nat) : Nat := (o.args.lane i).toNat
def EngOp.arg64 (o : EngOp) (i : Nat) : Nat := o.arg i + o.arg (i + 1) * 2 ^ 32

/-- An access of an engine through one of its ports (R159, R257). -/
def engAccess (s : State) (e : Elem) (o : EngOp) (i : Nat) (c : List Int) (k : Kind) : Except EngEnd (State × EngOp × Access) :=
  match checkAccess s e.die e.agFolio (s.linkOf e.rgn) (s.region e.rgn).ctx (o.portNo i) (o.port i) c k with
  | .ok (s', p, a) => if homeHeld s' e.die a.addr then .error .waiting else .ok (s', { o with ports := o.ports.set i p }, a)
  | .error t => .error (engineFault t)

/-- The coordinates of a word of the tensor at the operation's `i`-th port. -/
def EngOp.coords (o : EngOp) (i w : Nat) : List Int :=
  match tensorFmt (srCode (o.port i).srec) with
  | some t => wordCoords (o.port i).srec t w
  | none => []

/-- The granule an engine reads (R186, R257): as the agent's load at the fork would find it, with the engine's own writes;
where a word it reads is one it also writes, which of the two orders holds is left open (R187; log 5). -/
def engRead (s : State) (u : UnitId) (e : Elem) (o : EngOp) (base pol tcl : Nat) (skip : Bool) : State × Reg :=
  let (s', g) := agentGran s u e.die e.rgn base pol tcl skip
  let r := ownView e.ag.sb o.before base g
  if o.writes.any (fun p => p.base == base) then
    (s'.spend, if Config.freeOrder s'.freeCtr then ownView (o.writes.map (fun p => { p with seq := 0 })) 1 base r else r)
  else (s', r)

/-- The word an engine reads through an access: the elements outside the tensor read as zero (R159). -/
def engWord (s : State) (u : UnitId) (e : Elem) (o : EngOp) (a : Access) : State × Reg :=
  let (s, r) := engRead s u e o a.addr (hePol a.hent) (heTcl a.hent) a.homed
  (s, { r with pay := r.pay &&& a.mask })

/-- A write of an engine, as it stands until the join. -/
def engStore (base : Nat) (data mask : BitVec 512) (pz tn : Bool) (via : Option TileUse) (pol tcl : Nat) : PStore :=
  { seq := 0, base := base, data := data, mask := mask, pz := pz, tn := tn, port := none, acc := true, rel := false, reg := none,
    via := via, ord := 0, pol := pol, tcl := tcl }

def EngOp.write (o : EngOp) (p : PStore) : EngOp := { o with writes := o.writes ++ [p] }

/-- A poisoned word for host memory, which keeps no meta bits, is not sent; the operation goes on (R161, R268, R380; log 132). -/
def EngOp.spoil (o : EngOp) (a : Nat) : EngOp := { o with spoilt := o.spoilt.or (some a) }

/-- A word an engine writes (R161, R257, R268): its poison and taint travel with it, its home slice is filled. -/
def engPut (s : State) (o : EngOp) (b : Access) (r : Reg) : EngRes :=
  if isHost b.addr && r.pz then .ok (s, o.spoil b.addr)
  else .ok (l2Serve s b.addr (hePol b.hent) (heTcl b.hent),
            o.write (engStore b.addr r.pay b.mask r.pz (r.tn || o.tn) (some b.via) (hePol b.hent) (heTcl b.hent)))

/-- A word copied from one tensor to another (R187): poison and taint travel with it (R161). -/
def copyWord (s : State) (u : UnitId) (e : Elem) (o : EngOp) (i w j v : Nat) : EngRes := do
  let (s, o, a) ← engAccess s e o i (o.coords i w) .engRead
  let (s, r) := engWord s u e o a
  let (s, o, b) ← engAccess s e o j (o.coords j v) .engWrite
  engPut s o b r

/-- Whether a core's engine may reach `n` bytes (R174, R220, R271): own HBM and host memory, outside stamped frames (log 144). -/
def coreReach (s : State) (a n : Nat) : Bool :=
  (isOwn a && isOwn (a + n - 1) || isHost a && isHost (a + n - 1)) && !stampedFrame s a && !stampedFrame s (a + n - 1)

/-- Bytes of at most 64 that a core's engine reads at any address; a core's accesses bypass the RDC and fill for class 0 (R257,
R363). -/
def engBytes (s : State) (u : UnitId) (e : Elem) (o : EngOp) (a : Nat) : State × Reg :=
  let base := granBase a
  let (s, r) := engRead s u e o base 3 0 true
  if a % 64 = 0 then (s, r)
  else
    let (s, q) := engRead s u e o (base + 64) 3 0 true
    (s, { pay := (q.pay ++ r.pay).extractLsb' (8 * (a % 64)) 512, pz := r.pz || q.pz, tn := r.tn || q.tn })

/-- At most 64 bytes written at any address. -/
def EngOp.writeBytes (o : EngOp) (a n : Nat) (r : Reg) : EngOp :=
  let base := granBase a
  let off := a % 64
  let o := o.write (engStore base (r.pay <<< (8 * off)) (byteMask off (min n (64 - off))) r.pz (r.tn || o.tn) none 0 0)
  if off + n ≤ 64 then o
  else o.write (engStore (base + 64) (r.pay >>> (8 * (64 - off))) (byteMask 0 (off + n - 64)) r.pz (r.tn || o.tn) none 0 0)

/-- At most 64 bytes copied by a core's engine; an address it may not reach fails it with bounds. -/
def copyBytes (s : State) (u : UnitId) (e : Elem) (o : EngOp) (src dst n : Nat) : EngRes :=
  if n = 0 then .ok (s, o)
  else if !(coreReach s src n) then .error (engineFault (.phys src))
  else if !(coreReach s dst n) then .error (engineFault (.phys dst))
  else if homeHeld s 32 src || homeHeld s 32 dst then .error .waiting
  else
    let (s, r) := engBytes s u e o src
    if isHost dst && r.pz then .ok (s, o.spoil dst)
    else .ok (l2Fill (l2Fill s (granBase dst) 0) (granBase (dst + n - 1)) 0, o.writeBytes dst n r)

/-- A run of bytes copied in pieces of 64. -/
def copyRun (u : UnitId) (e : Elem) : Nat → State → EngOp → Nat → Nat → Nat → EngRes
  | 0, s, o, _, _, _ => .ok (s, o)
  | k + 1, s, o, src, dst, n => do
    let (s, o) ← copyBytes s u e o src dst (min n 64)
    copyRun u e k s o (src + 64) (dst + 64) (n - 64)

/-- The index of a gather's row (R188): an INT32 of the index tensor, or of the index table of a core, whose PZ
and TN are dropped (log 152). -/
def gatherIndex (s : State) (u : UnitId) (e : Elem) (o : EngOp) (j : Nat) : Except EngEnd (State × EngOp × Int) := do
  if e.cls = .fc then
    let a := o.arg64 5 + 4 * j
    if !coreReach s a 4 then throw (engineFault (.phys a))
    let (s, r) := engBytes s u e o a
    return (s, o, (r.pay.lane 0).toInt)
  else
    let ix := o.arg 0 + j
    let (s, o, a) ← engAccess s e o 1 [Int.ofNat (ix / 16 * 16), 0, 0, 0, 0, 0] .engRead
    if a.valid ≤ ix % 16 then throw (engineFault (.bounds (o.portNo 1) (o.port 1).hdl 0 a.addr))
    let (s, r) := engWord s u e o a
    return (s, o, (r.pay.lane (ix % 16)).toInt)

/-- The words of a row of the gather's source. -/
def EngOp.row (o : EngOp) : Nat :=
  match tensorFmt (srCode (o.port 0).srec) with
  | some t => rowWords (o.port 0).srec t
  | none => 0

/-- Coordinates of word `k` of row `r` of a rank-2 tensor. -/
def EngOp.rowCoords (o : EngOp) (i r k : Nat) : List Int :=
  match tensorFmt (srCode (o.port i).srec) with
  | some t => [Int.ofNat (k * (16 * t.perLane)), Int.ofNat r, 0, 0, 0, 0]
  | none => []

/-- One unit of a gather: a word of a row, or on a core a row (R188). -/
def gatherStep (s : State) (u : UnitId) (e : Elem) (o : EngOp) (w : Nat) : EngRes := do
  if e.cls = .fc then
    let (s, o, ix) ← gatherIndex s u e o w
    let src := Int.ofNat (o.arg64 0) + ix * o.arg 4
    if src < 0 then throw (engineFault (.phys 0))
    copyRun u e (o.arg 4 / 64 + 1) s o src.toNat (o.arg64 2 + w * o.arg 4) (o.arg 4)
  else
    let j := w / o.row
    let k := w % o.row
    let (s, o, ix) ← gatherIndex s u e o j
    if ix < 0 ∨ Int.ofNat (srDim (o.port 0).srec 1) ≤ ix then throw (engineFault (.bounds (o.portNo 0) (o.port 0).hdl 0 0))
    let (s, o, a) ← engAccess s e o 0 (o.rowCoords 0 ix.toNat k) .engRead
    let (s, r) := engWord s u e o a
    let (s, o, b) ← engAccess s e o 2 (o.rowCoords 2 (o.arg 2 + j) k) .engWrite
    engPut s o b r

/-- The number of the word at coordinates, in canonical order (R159). -/
def wordNo (r : BitVec 1536) (t : Fmt) (c : List Int) : Nat :=
  (c.getD 0 0).toNat / (16 * t.perLane)
    + rowWords r t * sumTo (fun k => (c.getD (k + 1) 0).toNat * prodTo (fun j => srDim r (j + 1)) k) (srRank r - 1)

/-- A word of an adapter copy, into the resident store of its target (R170, R150, R147); a copy past the tensor's last word
fails with bounds (R159). -/
def adaptStep (s : State) (u : UnitId) (e : Elem) (o : EngOp) (w : Nat) : EngRes := do
  let out : EngEnd := engineFault (.bounds (o.portNo 0) (o.port 0).hdl 0 0)
  match tensorFmt (srCode (o.port 0).srec), (e.ag.targets[(o.argb.lane 1).toNat % 8]?).bind (fun v => (s.elems[v]?).map (fun x => (v, x))) with
  | some t, some (v, x) =>
    let c := laneCoords o.args
    let n := wordNo (o.port 0).srec t c + w
    if w ≠ 0 ∧ tensorWords (o.port 0).srec t ≤ n then throw out
    let (s, o, a) ← engAccess s e o 0 (if w = 0 then c else wordCoords (o.port 0).srec t n) .engRead
    let (s, r) := engWord s u e o a
    let addr := (o.argb.lane 2).toNat + 64 * w
    let (s, st) := wholeBits s (x.store.write addr 64 r.pay.toNat) (granule addr) r.pz (r.tn || o.tn)
    return (s.updElem v (fun y => { y with store := st }), o)
  | _, _ => throw out

/-- How many units of work an operation has. -/
def EngOp.total (o : EngOp) (fc : Bool) : Nat :=
  if o.kind = 1 then (if fc then o.arg 4 / 64 else o.arg 2)
  else if o.kind = 2 then (if fc then o.arg 7 else o.arg 1 * o.row)
  else (o.argb.lane 0).toNat

/-- One unit of work. -/
def engStep (s : State) (u : UnitId) (e : Elem) (o : EngOp) (w : Nat) : EngRes :=
  if o.kind = 1 then
    (if e.cls = .fc then copyBytes s u e o (o.arg64 0 + 64 * w) (o.arg64 2 + 64 * w) 64
     else copyWord s u e o 0 (o.arg 0 + w) 1 (o.arg 1 + w))
  else if o.kind = 2 then gatherStep s u e o w
  else adaptStep s u e o w

/-- The operation goes on until its end; what it has done stands (R160, R267). -/
def engLoop (u : UnitId) (e : Elem) : Nat → State → EngOp → State × EngOp × EngEnd
  | 0, s, o => (s, { o with ran := true }, .complete)
  | n + 1, s, o =>
    match engStep s u e o o.done with
    | .ok (s', o') => engLoop u e n s' { o' with done := o.done + 1 }
    | .error x => (s, o, x)

-- Collectives -----------------------------------------------------------------------------------------------------------

/-- The group of a collective operation. -/
def EngOp.group (o : EngOp) : Nat := o.imm.toNat / 1024 % 64

/-- A member's oldest collective operation of a group whose words have not been gathered (R189). -/
def memberOp (s : State) (g n : Nat) : Option (Nat × Elem × EngOp) :=
  match s.elems[n]? with
  | none => none
  | some e => (e.ag.eng.find? (fun o => o.kind == 3 && o.group == g && o.res.isNone && coSt (e.co o.co) == 1)).map (fun o => (n, e, o))

/-- The words a member contributes. -/
def contribution (u : UnitId) (e : Elem) : Nat → State → EngOp → Except EngEnd (State × EngOp × List Reg)
  | 0, s, o => .ok (s, o, [])
  | n + 1, s, o => do
    let (s, o, l) ← contribution u e n s o
    let (s, o, a) ← engAccess s e o 0 (o.coords 0 n) .engRead
    let (s, r) := engWord s u e o a
    return (s, o, l ++ [r])

/-- The rank tree (R189): pairs combined, an unpaired last value passed on, until one remains. -/
def rankTree {α : Type} (add : α → α → α) : Nat → List α → List α
  | 0, l => l
  | n + 1, l => if l.length ≤ 1 then l else rankTree add n (treeLevel add l)

/-- Two lanes combined (R189); the flags of an FP32 sum's rounding are dropped (log 125). -/
def collLane (v code : Nat) (x y : Lane) : Lane :=
  if v = 0 then
    (if code = 5 then BitVec.ofNat 32 (roundTo .fp32 ((Fmt.decode .fp32 x.toNat).add (Fmt.decode .fp32 y.toNat)).1 .rne).1 else x + y)
  else if code = 5 then BitVec.ofNat 32 (pickCode .fp32 true false x.toNat y.toNat)
  else if x.toInt < y.toInt then y else x

/-- Two words combined. -/
def collWord (v code : Nat) (x y : Reg) : Reg :=
  { pay := Payload.ofLanes (fun i => collLane v code (x.pay.lane i) (y.pay.lane i)), pz := x.pz || y.pz, tn := x.tn || y.tn }

/-- The words every member receives (R189). -/
def collResult (v code root : Nat) (len : Nat) (all : List (List Reg)) : List Reg :=
  if v = 3 then all.flatten
  else if v = 2 then all.getD root []
  else (List.range len).map (fun k =>
    (rankTree (collWord v code) all.length (all.map (fun l => l.getD k Reg.zero))).headD Reg.zero)

/-- A member's operation put back. -/
def putOp (s : State) (n : Nat) (o : EngOp) : State :=
  s.updElem n (fun e => { e with ag := { e.ag with eng := e.ag.eng.map (fun x => if x.co = o.co then o else x) } })

/-- The contributions of all members, in rank order; the fault of a member other than `me` keeps the others waiting. -/
def collReads (me : Nat) : List (Nat × Elem × EngOp) → State → Except EngEnd (State × List (Nat × EngOp) × List (List Reg))
  | [], s => .ok (s, [], [])
  | (n, e, o) :: rest, s =>
    match contribution (.el n) e (o.arg 0) s o with
    | .error x => .error (if n = me then x else .waiting)
    | .ok (s, o, l) => do
      let (s, ms, ls) ← collReads me rest s
      return (s, (n, o) :: ms, l :: ls)

/-- Whether a member's operation agrees with another's (R189). -/
def collAgrees (a b : EngOp) : Bool := a.var == b.var && a.arg 0 == b.arg 0 && (a.var != 2 || a.arg 1 == b.arg 1)

/-- The words of a collective gathered and combined: every member that has forked receives them (R189). A root that
is no member's rank fails them all (log 143). -/
def collGather (s : State) (me : Nat) (e : Elem) (o : EngOp) : Except (State × EngEnd) State :=
  match (collMembers e o.group).bind (fun l => (l.mapM (memberOp s o.group)).map (fun ms => (l, ms))) with
  | none => .error (s, .waiting)
  | some (l, ms) =>
    if !(ms.all (fun m => collAgrees o m.2.2)) || (o.var == 2 && decide (l.length ≤ o.arg 1)) then
      -- a member that disagrees makes every member's object failed; the class is bounds (log 17)
      .error (ms.foldl (fun s m => s.updElem m.1 (fun x => x.setCo m.2.2.co (coMake 3 0 3 24))) s, .fail (.phys 0))
    else
      match collReads me ms s with
      | .error x => .error (s, x)
      | .ok (s, ms, all) =>
        let res := collResult o.var (srCode (o.port 0).srec) (o.arg 1) (o.arg 0) all
        .ok (ms.foldl (fun s m => putOp s m.1 { m.2 with res := some res }) s)

/-- A member's destination words written from where it stands; what it has written stands (R189, R267). -/
def collWrites (e : Elem) : List Reg → State → EngOp → State × EngOp × EngEnd
  | [], s, o => (s, { o with ran := true }, .complete)
  | r :: rest, s, o =>
    match (do let (s, o, b) ← engAccess s e o 1 (o.coords 1 o.done) .engWrite; engPut s o b r) with
    | .ok (s, o) => collWrites e rest s { o with done := o.done + 1 }
    | .error x => (s, o, x)

/-- A collective as member `me` meets it (R189): once all members have forked and all contributions are read, it writes its own
destination words. -/
def collRun (s : State) (me : Nat) (e : Elem) (o : EngOp) : State × EngEnd :=
  match (if o.res.isSome then Except.ok s else collGather s me e o) with
  | .error x => x
  | .ok s =>
    match (s.elems[me]?).bind (fun x => x.ag.eng.find? (fun y => y.co == o.co)) with
    | none => (s, .waiting)
    | some o =>
      let (s, o, x) := collWrites e ((o.res.getD []).drop o.done) s o
      (putOp s me o, x)

-- The steps ----------------------------------------------------------------------------------------------------------------

/-- An operation at work on a unit, to its end. -/
def engRun (s : State) (u : UnitId) (e : Elem) (o : EngOp) : State × EngEnd :=
  if o.kind = 3 then
    (match u with
     | .el n => collRun s n e o
     | .fc _ => (s, .waiting))
  else
    let (s', o', x) := engLoop u e (o.total (e.cls == .fc) - o.done) s o
    let e' := (s'.unit u).getD e
    (s'.setUnit u { e' with ag := { e'.ag with eng := e'.ag.eng.map (fun y => if y.co = o.co then o' else y) } }, x)

/-- The object of an operation that ended on a fault, with the detail that its trap will report (R185, R190). -/
def engFault (e : Elem) (co st stp kind : Nat) (t : Trap) : Elem :=
  let e := e.setCo co (coMake st stp kind (engineFcs t))
  { e with ag := { e.ag with eng := e.ag.eng.map (fun y => if y.co = co then { y with fcs := BitVec.ofNat 6 (engineFcs t), why := t.det 0, tile := t.tile } else y) } }

/-- The object and the operation marked with how it ended. -/
def engMark (s : State) (u : UnitId) (co kind : Nat) (x : EngEnd) : State :=
  match s.unit u with
  | none => s
  | some e =>
    match x with
    | .complete => s.setUnit u (e.setCo co (coMake 2 0 kind 0))
    | .stop t => s.setUnit u (engFault e co 1 1 kind t)
    | .fail t => s.setUnit u (engFault e co 3 0 kind t)
    | .waiting => s

/-- The agent of an operation that was to send a poisoned word to host memory takes the fault of such a store, once (R161, R268; log
132). -/
def engSpoilt (s : State) (u : UnitId) (co : Nat) : State :=
  match s.unit u with
  | none => s
  | some e =>
    match (e.ag.eng.find? (fun o => o.co == co)).bind EngOp.spoilt with
    | none => s
    | some a =>
      takeTrap s u { e with ag := { e.ag with eng := e.ag.eng.map (fun o => if o.co = co then { o with spoilt := none } else o) } }
        (.poison 0 0 a) 0

/-- An engine step: it takes place where the operation ends so (log 2). -/
def engineEvent (s : State) (u : UnitId) (co : Nat) (due : EngEnd → Bool) : State :=
  match s.unit u with
  | none => s
  | some e =>
    match e.ag.eng.find? (fun o => o.co == co) with
    | none => s
    | some o =>
      if !coRunning (e.co co) then s
      else
        let (s', x) := engRun s u e o
        if due x then resetAll (engSpoilt (engMark s' u co o.kind x) u co) else s

/-- ENGINE_OP_COMPLETE (R185-R189, R150). -/
def execEngineOpComplete (a : UnitId) (co : Nat) (s : State) : Host.Outcome State Fault Refusal :=
  .next (engineEvent s a co (fun x => x == .complete))

/-- ENGINE_OP_STOP (R160, R190, R267). -/
def execEngineOpStop (a : UnitId) (co : Nat) (s : State) : Host.Outcome State Fault Refusal :=
  .next (engineEvent s a co (fun x => match x with | .stop _ => true | _ => false))

/-- ENGINE_OP_FAIL (R188-R190). -/
def execEngineOpFail (a : UnitId) (co : Nat) (s : State) : Host.Outcome State Fault Refusal :=
  .next (engineEvent s a co (fun x => match x with | .fail _ => true | _ => false))

end Sys2Proof.Machine
end

