-- ==== Sys2Proof/Machine/Fetch.lean ====
section
/-! DEFINITION. What a unit does at its turn: which word it fetches (R53, R54, R91), and what the turn of a unit that
executes nothing is. -/
namespace Sys2Proof.Machine

/-- What a turn of a unit comes to: an instruction to execute, a state without one, or no unit. -/
inductive Fetched where
  | run (i : Instr) (s : State)
  | idle (s : State)
  | missing
  deriving DecidableEq, Repr

/-- Expanded words of a code segment as its cache holds them: each names the lead byte of the next, the last the end of the
segment (R53; log 122). -/
def linkWords (seg : Nat × Nat) (bytes : List Byte) : List (Nat × Nat × BitVec 96) → List CacheWord
  | [] => []
  | (off, n, w) :: r =>
    { addr := seg.1 + off, len := n, seg := seg.1, next := seg.1 + (match r with | [] => seg.2 | x :: _ => x.1), word := w,
      bytes := (bytes.drop off).take n } :: linkWords seg bytes r

/-- The words of a code segment that stands in HBM homed on die 0, with the bytes they were expanded from (R53). -/
def fillSegment (m : List Host.Cell) (seg : Nat × Nat) : List CacheWord :=
  let bytes := memBytes m seg.1 seg.2
  linkWords seg bytes (expandAt bytes)

/-- The instruction cache filled from every code segment (R53). Its capacity bounds timing only. -/
def fillCache (m : List Host.Cell) (segs : List (Nat × Nat)) : List CacheWord := segs.flatMap (fillSegment m)

/-- A core with its cache filled, where a flush has left it empty. -/
def Elem.filled (e : Elem) (m : List Host.Cell) : Elem :=
  if e.fc.icache = [] then { e with fc := { e.fc with icache := fillCache m e.fc.segs } } else e

/-- The word of a core at its code address: unspecified where its bytes were changed and no flush has followed (R53). -/
def coreWord (s : State) (e : Elem) : Option (BitVec 96 × Nat) :=
  match wordAt e.fc.icache e.run.pos with
  | none => none
  | some w =>
    if memBytes s.mem w.addr w.len = w.bytes then some (w.word, s.freeCtr)
    else some (Config.freeCode s.freeCtr, s.freeCtr + 1)

/-- A word to execute: an op that is not assigned traps as an illegal instruction (R60). -/
def decoded (s : State) (u : UnitId) (e : Elem) (w : BitVec 96) : Fetched :=
  match decodeWord w with
  | some i => .run i s
  | none => .idle (takeTrap s u e .instr w)

/-- The turn of a firmware core: halted it does nothing (R215, R222); an address that is no lead byte
of a word traps, a pad's among them (R53; log 122). -/
def fetchCore (s : State) (n : Nat) (e : Elem) : Fetched :=
  if e.fc.halted || e.fc.dead then .idle s
  else
    let e := e.filled s.mem
    let s := s.setUnit (.fc n) e
    match coreWord s e with
    | none => .idle (takeTrap s (.fc n) e .instr 0)
    | some (w, k) => decoded { s with freeCtr := k } (.fc n) e w

/-- An input of a blotted element discards its head word (R390). -/
def blotTurn (s : State) (n : Nat) (e : Elem) : State :=
  e.boundIns.foldl (fun s c =>
    match s.elems[n]? with
    | none => s
    | some x => if (x.inch c).q = [] then s
                else giveCredit (s.setUnit (.el n) (x.setIn c { x.inch c with q := (x.inch c).q.drop 1 })) (x.inch c).src 1) s

/-- The turn of an element: stopped, frozen or halted it issues nothing (R160, R365, R380); blotted it discards (R390);
without a firing in progress it may start one (R229); past the last word of its body it traps (R91). -/
def fetchElem (s : State) (n : Nat) (e : Elem) : Fetched :=
  if e.blot then .idle (blotTurn s n e)
  else if e.dead || e.halted || e.frozen || e.stop.isSome || e.role != .actor || e.parked then .idle s
  else if !e.busy then .run (.firingStart n) s
  else match e.body[e.run.pos]? with
    | none => .idle (takeTrap s (.el n) e .instr 0)
    | some w => decoded s (.el n) e w

/-- The turn of the unit that is current. -/
def fetch (s : State) : Fetched :=
  match s.unit s.cur with
  | none => .missing
  | some e =>
    match s.cur with
    | .el n => fetchElem s n e
    | .fc n => fetchCore s n e

/-- The state with a unit current. -/
def State.at (s : State) (u : UnitId) : State := { s with cur := u }

/-- A core whose code at its own address is the given bytes, and which is current (log 6). -/
def withCode (s : State) (bytes : List Byte) (len : Nat) : State :=
  let e := s.cores[0]
  let c := { e.fc with segs := [(e.run.pos, len)], icache := [], halted := false, dead := false }
  { s with mem := memWrite s.mem e.run.pos (bytes.take len),
           cores := s.cores.setIfInBounds 0 { e with fc := c }, cur := .fc 0, agenda := [] }

/-- An element of a class added, with a body of one word and a firing in progress at it, and current (log 6). -/
def withBody (s : State) (c : Cls) (w : BitVec 96) : State :=
  { s with elems := s.elems ++ [{ Elem.blank c with body := [w], busy := true }],
           cur := .el s.elems.length, agenda := [] }

/-- An instruction placed so that the next step executes it (log 6). -/
def placeWord (s : State) (bytes : List Byte) : State :=
  match expandOne 0 bytes with
  | (some w, n) =>
    match classesOf (w.extractLsb' 88 8) with
    | c :: r => if (c :: r).contains .fc then withCode s bytes n else withBody s c w
    | [] => withCode s bytes n
  | (none, n) => withCode s bytes n

end Sys2Proof.Machine
end

