-- ==== Sys2Proof/Machine/Homes.lean ====
section
/-! DEFINITION. What homes and ports do on their own: loads answered, stores accepted, stamped stores, tile invalidation,
host accesses, migration, PRI, register stores (spec 06, 09, 15, 17). -/
namespace Sys2Proof.Machine

-- Loads -----------------------------------------------------------------------------------------------------------------

/-- The oldest request of a port answered: its entry fills the load queue (R167). -/
def answer (e : Elem) (pno : Nat) (x : LqEntry) : Elem :=
  let p := e.port pno
  e.setPort pno { p with reqs := p.reqs.drop 1, lq := p.lq ++ [x], outst := p.outst - 1 }

/-- A request of a region that is being removed brings nothing: the entry is gone (R390). -/
def dropReq (e : Elem) (pno : Nat) : Elem :=
  let p := e.port pno
  e.setPort pno { p with reqs := p.reqs.drop 1, outst := p.outst - 1 }

/-- Whether an older request of the agent for the same granule is still unanswered (R263). -/
def olderHere (e : Elem) (r : Req) : Bool :=
  e.ag.ports.toList.any (fun p => p.reqs.any (fun q => !q.skip && decide (q.ord < r.ord) && q.addr / 64 == r.addr / 64))

/-- The word a load brings (R159, R161): the granule as its agent sees it, its elements inside the tensor. -/
def loadWord (e : Elem) (r : Req) (g : Reg) : CWord :=
  let v := ownView e.ag.sb r.before (granBase r.addr) g
  { pay := v.pay &&& lowMask r.valid, lr := false, ls := false, pz := v.pz || r.pz, tn := v.tn || r.tn }

/-- A load answered by memory (R161, R167, R168, R257). -/
def loadAnswer (s : State) (u pno : Nat) (e : Elem) (r : Req) : State :=
  if 5 ≤ (s.region e.rgn).stt then resetAll (s.setUnit (.el u) (dropReq e pno))
  else if r.skip then
    s.spend.setUnit (.el u) (answer e pno { word := { CWord.zero with pay := Config.freePayload s.freeCtr, pz := true, tn := r.tn }, old := none })
  else if olderHere e r || homeHeld s e.die r.addr then s
  else
    let base := granBase r.addr
    let (s, g) := agentGran s (.el u) e.die e.rgn base r.pol r.tcl r.home
    s.updElem u (fun x => answer x pno { word := loadWord e r g, old := none })

/-- LOAD_RESPONSE (R147, R161, R167, R403). -/
def execLoadResponse (u p : Nat) (s : State) : Host.Outcome State Fault Refusal :=
  .next (onElem s u (fun e =>
    match (e.port p).reqs with
    | r :: _ => if r.stamp.isSome then s else loadAnswer s u p e r
    | [] => s))

/-- A stamped load answered at its home (R173). -/
def tldaAnswer (s : State) (u pno : Nat) (e : Elem) (r : Req) (st : Nat) : State :=
  let d := homeDie r.addr
  if 5 ≤ (s.region e.rgn).stt then resetAll (s.setUnit (.el u) (dropReq e pno))
  else if (s.die d).early ≤ st ∨ homeHeld s e.die r.addr then s
  else
    let s := eccNote (agentFill (dryDie s d) (.el u) e.die (granBase r.addr) r.pol r.tcl) (granBase r.addr) e.rgn
    let x : LqEntry := match verAt s (granBase r.addr) st with
      | some g => { word := { pay := g.pay &&& lowMask r.valid, lr := false, ls := false, pz := g.pz || r.pz, tn := g.tn || r.tn }, old := none }
      | none => { word := { CWord.zero with pz := r.pz, tn := r.tn }, old := some (st, r.ctr) }
    s.updElem u (fun e => answer e pno x)

/-- TLDA_HOME_SERVE (R173). -/
def execTldaHomeServe (u p : Nat) (s : State) : Host.Outcome State Fault Refusal :=
  .next (onElem s u (fun e =>
    match (e.port p).reqs with
    | r :: _ => (match r.stamp with
        | some st => tldaAnswer s u p e r st
        | none => s)
    | [] => s))

-- Stores ----------------------------------------------------------------------------------------------------------------

/-- A store no longer outstanding at its port. -/
def settlePort (e : Elem) (p : Option Nat) : Elem :=
  match p with
  | some n => let q := e.port n; e.setPort n { q with outst := q.outst - 1 }
  | none => e

/-- The oldest store that is not accepted is accepted at its home, where its sector is filled (R179, R257); it lands where it
has been released (R180). -/
def acceptStore (s : State) (a : UnitId) : State :=
  match s.unit a with
  | none => s
  | some e =>
    match e.ag.sb.find? (fun p => !p.acc) with
    | none => s
    | some p =>
      if homeHeld s e.die p.base then s else
      let e := settlePort e p.port
      let s := l2Serve s p.base p.pol p.tcl
      let sb := e.ag.sb.map (fun q => if q.seq = p.seq then { q with acc := true } else q)
      if p.rel then
        resetAll (landAny (s.setUnit a { e with ag := { e.ag with sb := sb.filter (fun q => q.seq != p.seq) } }) (agentDie e) p)
      else resetAll (s.setUnit a { e with ag := { e.ag with sb := sb } })

/-- STORE_ACCEPT (R179). -/
def execStoreAccept (a : UnitId) (s : State) : Host.Outcome State Fault Refusal := .next (settleMigr (acceptStore s a))

/-- The wet stores of a slice. -/
def wetOf (s : State) (base : Nat) : List Wet :=
  s.wet.filter (fun w => w.die == homeDie base && homeFolio w.base == homeFolio base)

/-- The oldest stamped store of an AG arrives at its home slice (R172): refused, or held wet. -/
def tstsArrive (s : State) (u : Nat) (e : Elem) (t : Tsts) : State :=
  let d := homeDie t.base
  let e' := settlePort { e with ag := { e.ag with tsts := e.ag.tsts.drop 1 } } (some t.port)
  if t.stamp ≤ (s.die d).early then
    let q := e'.port t.port
    resetAll (s.setUnit (.el u) (e'.setPort t.port { q with refused := if q.refused.isSome then q.refused else some (t.stamp, t.ctr) }))
  else if 4096 ≤ (wetOf s t.base).length ∨ homeHeld s e.die t.base then s
  else
    let w : Wet := { die := d, base := t.base, data := t.data, mask := t.mask, pz := t.pz, tn := t.tn, stamp := t.stamp, agent := u,
                     order := s.orders }
    let s := l2Serve s t.base t.pol t.tcl
    resetAll { s.setUnit (.el u) e' with wet := wetInsert s.wet w, orders := s.orders + 1 }

/-- STAMPED_STORE_ARRIVE (R172). -/
def execStampedStoreArrive (u : Nat) (s : State) : Host.Outcome State Fault Refusal :=
  .next (onElem s u (fun e =>
    match e.ag.tsts with
    | t :: _ => tstsArrive s u e t
    | [] => s))

/-- STAMPED_STORE_DRY (R171, R172). -/
def execStampedStoreDry (die : Nat) (s : State) : Host.Outcome State Fault Refusal := .next (dryDie s die)

/-- RDC_SECTOR_EVICTION (R258): the `i`-th sector of a die's RDC. -/
def execRdcSectorEviction (die i : Nat) (s : State) : Host.Outcome State Fault Refusal :=
  .next (match (s.rdc.filter (fun x => x.die == die))[i]? with
    | some x => { s with rdc := s.rdc.erase x }
    | none => s)

-- Migration (R360, R361) -----------------------------------------------------------------------------------------------

/-- Whether request `a` wins over the pending request `b`, which arrived first (R361). -/
def mgWins (a b : BitVec 256) : Bool :=
  if mgLat a < mgEar b then true
  else if mgLat b < mgEar a then false
  else if mgHost a != mgHost b then mgHost a
  else decide (mgEar a < mgEar b)

/-- A request meets those that are pending for its tile (R361). -/
def mgMeet (s : State) (m : Migr) : State :=
  match s.migr.find? (fun x => x.ctx == m.ctx && mgHdl x.req == mgHdl m.req && mgTile x.req == mgTile m.req) with
  | none => { s with migr := s.migr ++ [m] }
  | some x =>
    if mgWins m.req x.req then mgStatus { s with migr := s.migr.erase x ++ [m] } x 1
    else mgStatus s m 1

/-- A migration request of a context, whose record stands at a host address (R360, R361). -/
def migrate (s : State) (ctx addr : Nat) : State :=
  let s := settleMigr s
  let m : Migr := { ctx := ctx, req := BitVec.ofNat 256 (memNat s.mem (hostKey addr) 32), addr := addr, order := s.orders }
  let h := heAt s ctx (hdlSlot (mgHdl m.req))
  let s := { s with orders := s.orders + 1 }
  if mgLat m.req < mgEar m.req ∨ handleOk s ctx (mgHdl m.req) = false ∨ heLim h ≤ mgTile m.req then mgStatus s m 2
  else postEvent (mgMeet s m) 13 ctx (srcNum 32 9 ctx)

/-- MIGRATION_REQUEST (R360, R361): the record at a host address. -/
def execMigrationRequest (ctx addr : Nat) (s : State) : Host.Outcome State Fault Refusal := .next (migrate s ctx addr)

-- Tile invalidation (R358, R359) -----------------------------------------------------------------------------------------

/-- Whether a translation is one that a die's invalidation names. -/
def invCovers (v : BitVec 128) (u : TileUse) : Bool :=
  let n := v.toNat
  u.ctx == bitsAt n 30 12 && u.slot == bitsAt n 42 22 && decide (bitsAt n 64 32 ≤ u.tile ∧ u.tile < bitsAt n 64 32 + bitsAt n 96 32)

def viaCovered (v : BitVec 128) (u : Option TileUse) : Bool :=
  match u with
  | some u => invCovers v u
  | none => false

/-- The entries of the tiles leave the tile caches of the die. -/
def dropTiles (s : State) (die : Nat) : State :=
  let v := (s.die die).inv
  { s with tiles := s.tiles.filter (fun t => !(t.die == die && invCovers v { ctx := t.ctx, slot := t.slot, tile := t.tile })) }

/-- Whether an element still has an access that used such an entry: a load unanswered, a store not accepted, an engine
at work. -/
def usesTiles (v : BitVec 128) (e : Elem) : Bool :=
  e.ag.ports.toList.any (fun p => p.reqs.any (fun r => viaCovered v r.via))
    || e.ag.sb.any (fun p => !p.acc && viaCovered v p.via) || e.ag.tsts.any (fun t => viaCovered v t.via)

/-- TILE_INVALIDATE (R358). -/
def execTileInvalidate (die : Nat) (s : State) : Host.Outcome State Fault Refusal :=
  .next (if (s.die die).invBusy then dropTiles s die else s)

/-- The accepted stores of an element that used such an entry stand at their homes (R359), and what its engine operations have written
through one: they land, with every earlier store to the same granules. -/
def landCovered (v : BitVec 128) (s : State) (n : Nat) : State :=
  onElem s n (fun e =>
    let all := e.ag.sb ++ (e.ag.eng.flatMap EngOp.writes).map (fun p => { p with ord := s.orders })
    let bases := (all.filter (fun p => p.acc && viaCovered v p.via)).map PStore.base
    let go (p : PStore) : Bool := p.acc && p.reg.isNone && bases.contains p.base
    let e' : Elem := { e with ag := { e.ag with sb := e.ag.sb.filter (fun p => !go p),
                                                eng := e.ag.eng.map (fun o => { o with writes := o.writes.filter (fun p => !go p) }) } }
    landAll (s.joined.setUnit (.el n) e') (some e.die) (all.filter go))

/-- TILE_INVALIDATE_DONE (R358, R359). -/
def execTileInvalidateDone (die : Nat) (s : State) : Host.Outcome State Fault Refusal :=
  .next (
    let d := s.die die
    if !d.invBusy ∨ s.elems.any (fun e => e.die == die && usesTiles d.inv e) then s
    else
      let s := (List.range s.elems.length).foldl (fun s n =>
        if (s.elems[n]?.map Elem.die) == some die then landCovered d.inv s n else s) (dropTiles s die)
      settleMigr (s.setDie die { s.die die with inv := d.inv ||| 1, invBusy := false }))

-- The host (R268, R349) ------------------------------------------------------------------------------------------------------

/-- A store that is visible at once and brings no meta bits. -/
def plainStore (ord base : Nat) (data mask : BitVec 512) : PStore :=
  { seq := 0, base := base, data := data, mask := mask, pz := false, tn := false, port := none, acc := true, rel := true, reg := none,
    via := none, ord := ord, pol := 1, tcl := 0 }

/-- Bytes written at addresses of HBM by the host: its data carries no meta bits (R161, R268). -/
def hostStore (s : State) (a : Nat) (bytes : List Byte) : State :=
  let first := granBase a
  let n := (a + bytes.length - first + 63) / 64
  (List.range n).foldl (fun s i =>
    let base := first + 64 * i
    let lo := max a base
    let hi := min (a + bytes.length) (base + 64)
    let v := leNat ((bytes.drop (lo - a)).take (hi - lo))
    landStore s none (plainStore s.orders base (BitVec.ofNat 512 (v * 2 ^ (8 * (lo - base)))) (byteMask (lo - base) (hi - lo)))) s

/-- HOST_MEMORY_READ (R349): what a completed read of the host returned. -/
def execHostMemoryRead (link addr size : Nat) (s : State) : Host.Outcome State Fault Refusal :=
  .next (
    if isHost addr || (isOwn addr && !s.linkDown.contains link) then { s with reads := s.reads ++ [memBytes s.mem addr size] } else s)

/-- REGISTER_WRITE (R379, R362, R386, R395, R401, R411): a store to a register takes effect. -/
def execRegisterWrite (addr size : Nat) (data : BitVec 64) (s : State) : Host.Outcome State Fault Refusal :=
  .next (match regAt addr size with
    | some r => regWrite s r (data.toNat % 2 ^ (8 * size))
    | none => s)

end Sys2Proof.Machine
end

