-- ==== Sys2Proof/Machine/Links.lean ====
section
/-! DEFINITION. Bridges and time between dies: flits (R249, R250), beacons, PTP and the marks of an interval (R192-R199, R396,
R397). -/
namespace Sys2Proof.Machine

-- Bridges (R2) --------------------------------------------------------------------------------------------------------------

def Die.bridge (d : Die) (b : Nat) : Bridge := Tab.get Bridge.initial d.brs b

def State.bridge (s : State) (d b : Nat) : Bridge := (s.die d).bridge b
def State.setBridge (s : State) (d b : Nat) (x : Bridge) : State := s.setDie d { s.die d with brs := Tab.set (s.die d).brs b x }

/-- The unit at the other end of a link: 0 BW, 1 BE, 2 BX, 3 BC (R2); a command die's units 0 and 1 face dies 0 and 16 of its module,
its units 4-11 the peer links 0-7 (R383), a peer's command die this module's through its unit 4. -/
def peerBridge (d b : Nat) : Option (Nat × Nat) :=
  let o := d / 64 * 64
  if 576 ≤ d ∨ 32 < d % 64 then none
  else if d % 64 = 32 then
    (if b = 0 then some (o, 3) else if b = 1 then some (o + 16, 3)
     else if o = 0 ∧ 4 ≤ b ∧ b < 12 then some (64 * (b - 3) + 32, 4)
     else if o ≠ 0 ∧ b = 4 then some (32, d / 64 + 3) else none)
  else match b with
    | 0 => if d % 16 = 0 then none else some (d - 1, 1)
    | 1 => if d % 16 = 15 then none else some (d + 1, 0)
    | 2 => some (if d % 64 < 16 then d + 16 else d - 16, 2)
    | 3 => if d % 16 = 0 then some (o + 32, d % 64 / 16) else none
    | _ => none

/-- The bridge from which a die takes time (R397); a peer's command die takes it from the launching module. -/
def upstream (s : State) (d : Nat) : Nat :=
  if d % 64 = 32 then 4
  else
    let b := if d % 16 = 0 then 3 else 0
    if unsound s d 4 b 0 then 2 else b

/-- Whether a number is a die's: of this module, or of a peer. -/
def isDie (d : Nat) : Bool := decide (d < 576 ∧ d % 64 ≤ 32)

-- Beacons (R397) ------------------------------------------------------------------------------------------------------------

def bcRtr (x : BitVec 512) : Bool := x.getLsbD 199
def bcHops (x : BitVec 512) : Nat := bitsAt x.toNat 192 7
def bcDmin (x : BitVec 512) : Nat := bitsAt x.toNat 128 32
def bcLate (x : BitVec 512) : Nat := bitsAt x.toNat 64 64
def bcEarly (x : BitVec 512) : Nat := bitsAt x.toNat 0 64

/-- The beacon a die sends on one of its bridges. -/
def beaconOf (d : Die) (b : Bridge) : BitVec 512 :=
  BitVec.ofNat 512 (fieldsNat [(199, bit b.rtr), (192, d.hops % 128), (160, d.bseq % 2 ^ 32), (128, b.dmin % 2 ^ 32),
                               (64, d.late % 2 ^ 64), (0, d.early % 2 ^ 64)])

/-- A beacon sent on one bridge. -/
def sendBeacon (n : Nat) (s : State) (b : Nat) : State :=
  match peerBridge n b with
  | none => s
  | some (m, c) =>
    let x := s.bridge n b
    let beacon := (s.now, beaconOf (s.die n) x)
    let s := s.setBridge n b { x with rtr := false }
    let y := s.bridge m c
    s.setBridge m c { y with beacons := y.beacons ++ [beacon] }

/-- BEACON_SEND (R397): on each of the die's bridges, the command die on its peer links too. -/
def execBeaconSend (die : Nat) (s : State) : Host.Outcome State Fault Refusal :=
  .next (
    if !isDie die then s
    else
      let s := (List.range 12).foldl (sendBeacon die) s
      s.setDie die { s.die die with bseq := ((s.die die).bseq + 1) % 2 ^ 32 })

/-- Whether a beacon is of a die that no synchronisation has reached (R396). -/
def bcFree (x : BitVec 512) : Bool := bcEarly x == 0 && bcLate x == 2 ^ 64 - 1

/-- A beacon applied to a die's interval (R397): bounds in 1/20,000 ns. That of a die without a reference says nothing of time:
the interval stays (R396). -/
def Die.apply (d : Die) (b : Nat) (x : BitVec 512) (wideB : Bool) : Die :=
  if bcFree x then { d with hops := bcHops x + 1, bage := 0, hold := false } else
  let e' := (bcEarly x + bcDmin x) * 20000
  let l' := (bcLate x + bcDmin x) * 20000 + (if wideB then 50000000 else 50000)
  let changed := d.upst != 0 && d.upst != b + 1
  let lat := if bcRtr x || changed then max l' d.ear else max (min d.lat l') d.ear
  { d with lat := lat, ear := max d.ear e', hops := bcHops x + 1, bage := 0, lock := true, hold := false, upst := b + 1 }

/-- The most time in ns, whole, that a beacon is on its way: the minimum delay that it carries and the bound of its link (R397). -/
def Bridge.longest (b : Bridge) (x : BitVec 512) : Nat := bcDmin x + (if b.wideB then 2500 else 2)

/-- BEACON_RECEIVE (R192, R193, R199, R397): the oldest beacon on its way to a bridge arrives. It takes at least the
minimum delay that it carries, measured when it was sent; the bound of a retrain stands until the first beacon sent after it; one that has not arrived within the maximum has been lost (log 133). -/
def execBeaconReceive (die br : Nat) (s : State) : Host.Outcome State Fault Refusal :=
  .next (
    if !isDie die ∨ die = 32 then s
    else
      let x := s.bridge die br
      match x.beacons with
      | [] => s
      | (sent, c) :: rest =>
        if s.now < sent + bcDmin c then s
        else if sent + x.longest c < s.now then s.setBridge die br { x with beacons := rest }
        else
          let s := s.setBridge die br { x with beacons := rest, wideB := x.wideB && decide (sent < x.rtAt) }
          if br = upstream s die then setClock s die ((s.die die).apply br c x.wideB) else s)

/-- LINK_RETRAIN (R397): both ends of the link; its training measures the minimum delay. -/
def execLinkRetrain (die br : Nat) (s : State) : Host.Outcome State Fault Refusal :=
  .next (match peerBridge die br with
    | none => s
    | some (m, c) =>
      let dmin := Config.freeDelay s.freeCtr % 2 ^ 32
      let s := s.spend.setBridge die br { s.bridge die br with rtr := true, wideB := true, rtAt := s.now, dmin := dmin }
      s.setBridge m c { s.bridge m c with rtr := true, wideB := true, rtAt := s.now, dmin := dmin })

/-- BEACON_HOLD_TIMEOUT (R199): no beacon for more than 100 us. -/
def execBeaconHoldTimeout (die : Nat) (s : State) : Host.Outcome State Fault Refusal :=
  .next (
    let d := s.die die
    if !isDie die ∨ die = 32 ∨ d.bage ≤ 100000 ∨ d.hold then s else changeDie s die { d with hold := true, lock := false })

/-- INTERVAL_DRIFT_TOO_WIDE (R193). -/
def execIntervalDriftTooWide (die : Nat) (s : State) : Host.Outcome State Fault Refusal :=
  .next (
    let d := s.die die
    if !isDie die ∨ d.wide ∨ d.width ≤ d.lim then s else changeDie s die d)

/-- PTP_SYNC (R396): the reference interval is PTP time with its uncertainty to either side; earliest never moves back
(R192). -/
def execPtpSync (now unc : Nat) (s : State) : Host.Outcome State Fault Refusal :=
  .next (
    if s.linkDown.contains s.ptpLink then s
    else
      let d := s.die 32
      let ear := max d.ear ((now - unc) * 20000)
      setClock s 32 { d with ear := ear, lat := max ((now + unc) * 20000) ear, bage := 0, lock := true, upst := 1 })

/-- PTP_LOCK_TIMEOUT (R396): no synchronisation for 2 s. -/
def execPtpLockTimeout (s : State) : Host.Outcome State Fault Refusal :=
  .next (
    let d := s.die 32
    if !d.lock ∨ d.bage ≤ 2000000000 then s else changeDie s 32 { d with lock := false })

/-- HOST_LINK_DOWN (R396): the reference moves to link 1 while link 0 is down. -/
def execHostLinkDown (link : Nat) (down : Bool) (s : State) : Host.Outcome State Fault Refusal :=
  .next (
    let l := if down then (if s.linkDown.contains link then s.linkDown else s.linkDown ++ [link]) else s.linkDown.filter (fun x => x != link)
    { s with linkDown := l, ptpLink := if l.contains 0 then 1 else 0 })

-- Flits (R250) ----------------------------------------------------------------------------------------------------------------

/-- CRC-32C, a bit at a time from the least significant. -/
def crcBits : Nat → BitVec 32 → BitVec 32
  | 0, c => c
  | n + 1, c => match c.getLsbD 0 with
    | true => crcBits n ((c >>> 1) ^^^ 0x82F63B78)
    | false => crcBits n (c >>> 1)

/-- CRC-32C of bytes, the first first. -/
def crc32c (l : List Byte) : BitVec 32 := ~~~(l.foldl (fun c b => crcBits 8 (c ^^^ b.setWidth 32)) 0xFFFFFFFF)

def flPay (f : BitVec 640) : Payload := f.extractLsb' 128 512
def flMeta (f : BitVec 640) : Nat := bitsAt f.toNat 124 4
def flStrm (f : BitVec 640) : Nat := bitsAt f.toNat 114 10
def flSeq (f : BitVec 640) : Nat := bitsAt f.toNat 98 16
def flKind (f : BitVec 640) : Nat := bitsAt f.toNat 96 2
def flCcnt (f : BitVec 640) : Nat := bitsAt f.toNat 84 12
def flCstr (f : BitVec 640) : Nat := bitsAt f.toNat 74 10

/-- Whether a flit's `crc` covers its bits 639:32. -/
def flSound (f : BitVec 640) : Bool := crc32c (littleBytes 76 (f.toNat / 2 ^ 32)) == f.setWidth 32

/-- The word of a flit; no PZ is set on a control word (R20). -/
def flWord (f : BitVec 640) (pz : Bool) : CWord :=
  let w : CWord := { pay := flPay f, lr := (flMeta f).testBit 3, ls := (flMeta f).testBit 2, pz := (flMeta f).testBit 1, tn := (flMeta f).testBit 0 }
  { w with pz := w.pz || (w.isData && pz) }

/-- Every producing end of a channel. -/
def allOuts (s : State) : List ChanEnd :=
  (List.range s.elems.length).flatMap (fun n => match s.elems[n]? with
    | some e => if e.dead then [] else e.boundOuts.map (fun c => ChanEnd.el n c)
    | none => [])
  ++ s.regions.flatMap (fun p => (List.range p.2.gates.length).filterMap (fun g =>
      match p.2.gates[g]? with
      | some x => if x.isOut then none else some (ChanEnd.gate p.1 g)
      | none => none))

/-- The channel that crosses a bridge under a stream number, and which of its hops that is. -/
def streamAt (s : State) (d b strm : Nat) : Option (ChanEnd × Nat) :=
  (allOuts s).findSome? (fun x => match s.outAt x with
    | some o => (o.via.findIdx? (fun h => h.die == d && h.br == b && h.strm == strm)).map (fun i => (x, i))
    | none => none)

/-- The region of a producing end. -/
def endRegion (s : State) (x : ChanEnd) : Nat :=
  match x with
  | .el n _ => ((s.elems[n]?).map Elem.rgn).getD 0
  | .gate r _ => r

/-- The first word in flight that has crossed `i` bridges crosses the next one. -/
def crossFirst (i : Nat) (w : CWord) : List Flight → Option (List Flight)
  | [] => none
  | .word x k :: r => if k = i then some (.word w (k + 1) :: r) else (crossFirst i w r).map (fun l => .word x k :: l)
  | .mark n :: r => (crossFirst i w r).map (fun l => .mark n :: l)

/-- Credits that a flit returns to the channel that leaves its producer's die by this bridge (R249). -/
def flitCredits (s : State) (die br : Nat) (f : BitVec 640) : State :=
  if flCcnt f = 0 then s
  else match streamAt s die br (flCstr f) with
    | some (x, 0) => (match s.outAt x with
        | some o => let n := min (flCcnt f) o.cred; s.setOutAt x { o with free := o.free + n, cred := o.cred - n }
        | none => s)
    | _ => s

/-- A word flit enters a die by a bridge (R250): out of sequence it raises the link fault, with a wrong `crc` its word is
poisoned and an uncorrectable error recorded. -/
def flitWord (s : State) (die br : Nat) (f : BitVec 640) : State :=
  match peerBridge die br with
  | none => s
  | some (m, c) =>
    match streamAt s m c (flStrm f) with
    | none => s
    | some (x, i) =>
      let r := endRegion s x
      let b := s.bridge die br
      let want := Tab.get 0 b.seqIn (flStrm f)
      if flSeq f ≠ want then raiseUnitFault s die 10 (bridgeNo die br) r (.link die br) (.flits (flStrm f) die br)
      else match (s.outAt x).bind (fun o => (crossFirst i (flWord f (!flSound f)) o.flight).map (fun l => { o with flight := l })) with
        | none => s
        | some o =>
          let s := (s.setOutAt x o).setBridge die br { b with seqIn := Tab.set b.seqIn (flStrm f) ((want + 1) % 65536) }
          if flSound f then s else raiseUnitFault s die 10 (bridgeNo die br) r (.link die br) (.ecc 5 0 none)

/-- BRIDGE_FLIT_RECEIVE (R249, R250). -/
def execBridgeFlitReceive (die br : Nat) (flit : BitVec 640) (s : State) : Host.Outcome State Fault Refusal :=
  .next (
    let k := flKind flit
    let b := s.bridge die br
    if unitHeld s die 10 (bridgeNo die br) then s
    else if k = 3 then s.setBridge die br { b with dropped := b.dropped + 1 }
    else if k = 2 then (if flSound flit then s.setBridge die br { b with beacons := b.beacons ++ [(s.now - bcDmin (flPay flit), flPay flit)] } else s)
    else
      let s := if k = 0 then flitWord s die br flit else s
      resetAll (if flSound flit then flitCredits s die br flit else s))

end Sys2Proof.Machine
end

