-- ==== Sys2Proof/Machine/Object.lean ====
section
/-! DEFINITION. The graph object (spec 13, R287-R305): its records, and the element that an actor's records describe (R64,
R341). -/
namespace Sys2Proof.Machine

/-- `n` bytes of an object from an offset, as a number (R287). -/
def objNat (o : List Byte) (off n : Nat) : Nat := leNat ((o.drop off).take n)

/-- A section-table entry (R289). -/
structure Sect where
  kind : Nat
  off  : Nat
  len  : Nat
  cnt  : Nat
  deriving DecidableEq, Repr

/-- Fields of the header (R288). -/
def hdrNact (o : List Byte) : Nat := bitsAt (objNat o 0 64) 224 32
def hdrGid (o : List Byte) : Nat := bitsAt (objNat o 0 64) 160 64
def hdrLen (o : List Byte) : Nat := bitsAt (objNat o 0 64) 128 32
def hdrNsec (o : List Byte) : Nat := bitsAt (objNat o 0 64) 96 32
def hdrSigned (o : List Byte) : Bool := (objNat o 0 64).testBit 65
def hdrFree (o : List Byte) : Bool := (objNat o 0 64).testBit 64

/-- The section table (R289). -/
def sectTable (o : List Byte) : List Sect :=
  (List.range (min (hdrNsec o) 16)).map (fun i =>
    let n := objNat o (64 + 16 * i) 16
    { kind := bitsAt n 0 32, off := bitsAt n 32 32, len := bitsAt n 64 32, cnt := bitsAt n 96 32 })

/-- A section by its kind; an absent one is empty. -/
def sect (o : List Byte) (k : Nat) : Sect :=
  ((sectTable o).find? (fun x => x.kind == k)).getD { kind := k, off := 0, len := 0, cnt := 0 }

/-- Record `i` of a section whose records have a size. -/
def recNat (o : List Byte) (k size i : Nat) : Nat := objNat o ((sect o k).off + size * i) size

/-- All records of a section, read by `g`. -/
def recsOf {α : Type} (o : List Byte) (k size : Nat) (g : Nat → α) : List α :=
  (List.range (sect o k).cnt).map (fun i => g (recNat o k size i))

/-- An actor record (R291). -/
structure ActRec where
  name : Nat
  cls  : Nat
  strm : Bool
  sect : Bool
  cmt  : Bool
  ncl  : Nat
  fcl  : Nat
  boff : Nat
  blen : Nat
  fold : Nat
  armi : Nat
  armo : Option Nat
  deriving DecidableEq, Repr

def actRec (n : Nat) : ActRec :=
  { name := bitsAt n 0 32, cls := bitsAt n 32 3, strm := n.testBit 35, sect := n.testBit 36, cmt := n.testBit 37, ncl := bitsAt n 40 3,
    fcl := bitsAt n 48 16, boff := bitsAt n 64 32, blen := bitsAt n 96 16, fold := bitsAt n 112 8, armi := bitsAt n 120 5,
    armo := if n.testBit 129 then some (bitsAt n 125 4) else none }

def actRecs (o : List Byte) : List ActRec := recsOf o 2 32 actRec

/-- A clause record (R292). -/
structure ClsRec where
  ent : Nat
  act : Nat
  frt : Nat
  nrt : Nat
  deriving DecidableEq, Repr

def clsRecs (o : List Byte) : List ClsRec :=
  recsOf o 3 32 (fun n => { ent := bitsAt n 0 128, act := bitsAt n 128 16, frt := bitsAt n 144 16, nrt := bitsAt n 160 8 })

/-- A rate record (R293). -/
structure RateRec where
  cl : Nat
  r  : Rate
  deriving DecidableEq, Repr

def rateRecs (o : List Byte) : List RateRec :=
  recsOf o 4 8 (fun n => { cl := bitsAt n 0 16,
                           r := { out := n.testBit 16, ch := bitsAt n 17 5, wds := bitsAt n 32 16, rows := bitsAt n 48 8 } })

/-- A channel record (R295). -/
structure ChnRec where
  ent  : BitVec 32
  act  : Nat
  chn  : Nat
  out  : Bool
  gate : Bool
  far  : Nat
  fch  : Nat
  buf  : Option Nat
  deriving DecidableEq, Repr

def chnRecs (o : List Byte) : List ChnRec :=
  recsOf o 6 16 (fun n => { ent := BitVec.ofNat 32 n, act := bitsAt n 32 16, chn := bitsAt n 48 5, out := n.testBit 53, gate := n.testBit 54,
                            far := bitsAt n 64 16, fch := bitsAt n 80 5,
                            buf := if bitsAt n 96 16 = 0xFFFF then none else some (bitsAt n 96 16) })

/-- A word unit's payload, with sideband from two bits of `use`, the higher being LR (R297). -/
def unitWord (n lo : Nat) : CWord :=
  { pay := BitVec.ofNat 512 n, lr := n.testBit (lo + 1), ls := n.testBit lo, pz := false, tn := false }

/-- A preload: the input's channel record, and the word (R297). -/
def preRecs (o : List Byte) : List (Nat × CWord) := recsOf o 7 72 (fun n => (bitsAt n 512 16, unitWord n 528))

/-- A register record (R298). -/
structure RegRec where
  act : Nat
  des : BitVec 10
  abk : Bool
  pay : Payload
  deriving DecidableEq, Repr

def regRecs (o : List Byte) : List RegRec :=
  recsOf o 9 72 (fun n => { act := bitsAt n 512 16, des := BitVec.ofNat 10 (bitsAt n 528 10), abk := n.testBit 538, pay := BitVec.ofNat 512 n })

/-- A tensor record (R299). -/
structure TnsRec where
  name : Nat
  fmt  : Nat
  rank : Nat
  spc  : Nat
  pol  : Nat
  tsz  : Nat
  cmp  : Nat
  tsc  : Nat
  dims : List Nat
  img  : Option Nat
  tshp : List Nat
  deriving DecidableEq, Repr

def tnsRecs (o : List Byte) : List TnsRec :=
  recsOf o 10 64 (fun n => { name := bitsAt n 0 32, fmt := bitsAt n 32 5, rank := bitsAt n 37 3, spc := bitsAt n 40 3, pol := bitsAt n 43 2,
                             tsz := bitsAt n 45 2, cmp := bitsAt n 48 16, tsc := bitsAt n 64 16,
                             dims := (List.range 6).map (fun k => bitsAt n (32 * k + 96) 32),
                             img := if bitsAt n 288 32 = 0xFFFFFFFF then none else some (bitsAt n 288 32),
                             tshp := (List.range 6).map (fun k => bitsAt n (16 * k + 320) 16) })

/-- A port record (R300). -/
structure PortRec where
  act : Nat
  sp  : Nat
  tsz : Nat
  tns : Nat
  deriving DecidableEq, Repr

def portRecs (o : List Byte) : List PortRec :=
  recsOf o 11 8 (fun n => { act := bitsAt n 0 16, sp := bitsAt n 16 2, tsz := bitsAt n 18 2, tns := bitsAt n 20 16 })

/-- An image record and its lanes (R301). -/
structure ImgRec where
  kind  : Nat
  tgt   : Nat
  at'   : Nat
  doff  : Nat
  nln   : Nat
  deriving DecidableEq, Repr

def imgRecs (o : List Byte) : List ImgRec :=
  recsOf o 12 16 (fun n => { kind := bitsAt n 0 4, tgt := bitsAt n 16 16, at' := bitsAt n 32 32, nln := bitsAt n 64 32, doff := bitsAt n 96 32 })

def ImgRec.lane (o : List Byte) (r : ImgRec) (j : Nat) : Nat := objNat o ((sect o 12).off + r.doff + 4 * j) 4
def ImgRec.bytes (o : List Byte) (r : ImgRec) : List Byte := (o.drop ((sect o 12).off + r.doff)).take (4 * r.nln)

/-- A group record and its members (R302). -/
structure GrpRec where
  kind : Nat
  cg   : Nat
  nmb  : Nat
  moff : Nat
  name : Nat
  own  : Nat
  mem  : List Nat
  deriving DecidableEq, Repr

def grpRecs (o : List Byte) : List GrpRec :=
  recsOf o 8 16 (fun n => { kind := bitsAt n 0 4, cg := bitsAt n 8 8, nmb := bitsAt n 16 16, moff := bitsAt n 32 32, name := bitsAt n 64 32,
                            own := bitsAt n 96 32,
                            mem := (List.range (bitsAt n 16 16)).map (fun i => objNat o ((sect o 8).off + bitsAt n 32 32 + 2 * i) 2) })

/-- A gate record and its seeds (R303). -/
structure GateRec where
  name  : Nat
  out   : Bool
  soff  : Nat
  nsd   : Nat
  seeds : List CWord
  deriving DecidableEq, Repr

def gateRecs (o : List Byte) : List GateRec :=
  recsOf o 14 16 (fun n => { name := bitsAt n 0 32, out := n.testBit 32, soff := bitsAt n 64 32, nsd := bitsAt n 96 32,
                             seeds := (List.range (bitsAt n 96 32)).map (fun i =>
                               unitWord (objNat o ((sect o 14).off + bitsAt n 64 32 + 72 * i) 72) 512) })

/-- A fold alternative (R304): the base actors it replaces, and how many elements it has. -/
structure FoldRec where
  name : Nat
  nel  : Nat
  nb   : Nat
  loff : Nat
  base : List Nat
  deriving DecidableEq, Repr

def foldRecs (o : List Byte) : List FoldRec :=
  recsOf o 13 16 (fun n => { name := bitsAt n 0 32, nel := bitsAt n 64 16, nb := bitsAt n 80 16, loff := bitsAt n 96 32,
                             base := (List.range (bitsAt n 80 16)).map (fun i => objNat o ((sect o 13).off + bitsAt n 96 32 + 2 * i) 2) })

-- The graph of a fold choice --------------------------------------------------------------------------------------------

/-- The actors of a fold choice (R304, R328): the base graph, or an alternative's elements and the base actors it keeps. -/
def actorsOf (o : List Byte) (choice : Nat) : List Nat :=
  let acts := actRecs o
  let gone := if choice = 0 then [] else ((foldRecs o)[choice - 1]?.map FoldRec.base).getD []
  (List.range acts.length).filter (fun i => match acts[i]? with
    | some a => (a.fold == 0 && !gone.contains i) || (choice != 0 && a.fold == choice)
    | none => false)

/-- The channel records of a fold choice whose ends both belong to it. -/
def chansOf (o : List Byte) (choice : Nat) : List ChnRec :=
  let acts := actorsOf o choice
  (chnRecs o).filter (fun r => acts.contains r.act)

/-- The record at the other end of a channel between actors, in a fold choice: it names this end (R295, R304). -/
def farRec (recs : List ChnRec) (r : ChnRec) : Option ChnRec :=
  if r.gate then none
  else recs.find? (fun q => !q.gate && q.out != r.out && q.far == r.act && q.fch == r.chn && (q.act == r.far && q.chn == r.fch))

/-- As `farRec`, where the record of a kept base actor still names a base actor that the alternative has replaced (R304): from
that actor's end, the element whose record names it; from the element's end, the end that its record names. -/
def farEnd (recs : List ChnRec) (r : ChnRec) : Option ChnRec :=
  let gone (i : Nat) : Bool := !recs.any (fun x => x.act == i)
  match farRec recs r with
  | some q => some q
  | none =>
    if r.gate then none
    else if gone r.far then recs.find? (fun q => !q.gate && q.out != r.out && q.far == r.act && q.fch == r.chn)
    else recs.find? (fun q => !q.gate && q.out != r.out && q.act == r.far && q.chn == r.fch && gone q.far)

-- The element of an actor -------------------------------------------------------------------------------------------------

/-- The class of an actor record; record queues and channel buffers are SEs (R291). -/
def actCls (c : Nat) : Cls :=
  match c with
  | 0 => .ve
  | 2 => .ag
  | 3 => .ra
  | _ => .se

def actRole (c : Nat) : Role :=
  match c with
  | 4 => .recq
  | 5 => .buffer
  | _ => .actor

/-- The bytes and the words of an actor's body (R294). -/
def bodyBytes (o : List Byte) (a : ActRec) : List Byte := (o.drop ((sect o 5).off + a.boff)).take a.blen
def bodyWords (o : List Byte) (a : ActRec) : List (BitVec 96) := expand (bodyBytes o a)

/-- Terms of a clause entry (R226). -/
def entIns (n : Nat) : List Term :=
  (List.range 4).filterMap (fun i =>
    let t := bitsAt n (86 - 10 * i) 10
    if t.testBit 9 then some { ch := bitsAt t 4 5, min := t % 16 } else none)

def entOuts (n : Nat) : List Term :=
  (List.range 4).filterMap (fun i =>
    let t := bitsAt n (47 - 9 * i) 9
    if t.testBit 8 then some { ch := bitsAt t 4 4, min := t % 16 } else none)

/-- A clause from its record, its rate terms and what the loader found of it (R226, R243). -/
def clauseOf (c : ClsRec) (rates : List Rate) (aof : Bool) : Clause :=
  let n := c.ent
  { used := true, en := n.testBit 127, strm := n.testBit 126, pri := bitsAt n 124 2, entry := bitsAt n 118 6,
    acc := BitVec.ofNat 7 (bitsAt n 111 7), aof := aof, ins := entIns n, outs := entOuts n, age := bitsAt n 16 4, rates := rates }

/-- The rate terms of a clause record. -/
def ratesOf (o : List Byte) (c : ClsRec) : List Rate := (((rateRecs o).drop c.frt).take c.nrt).map RateRec.r

/-- The clause records of an actor, with their indices. -/
def actClauses (o : List Byte) (a : ActRec) : List (Nat × ClsRec) :=
  (List.range a.ncl).filterMap (fun i => ((clsRecs o)[a.fcl + i]?).map (fun c => (a.fcl + i, c)))

/-- Registers given by records (R298); reserved bits of the adapter bank register read as zero (R140). -/
def applyReg (e : Elem) (r : RegRec) : Elem :=
  if r.abk then { e with ve := { e.ve with abank := (r.pay.setWidth 50).setWidth 64 } }
  else match desOf r.des with
    | .state n => { e with s := e.s.setIfInBounds n (.ofPay r.pay) }
    | .const n => { e with k := e.k.setIfInBounds n (.ofPay r.pay) }
    | .special n =>
      if 0xE8 ≤ n ∧ n ≤ 0xEF then
        { e with x := e.x.setIfInBounds (n - 0xE8) { ts := (r.pay.lane 0).setWidth 16, pz := false, tn := false } }
      else e
    | _ => e

/-- The bits of a cell that are not reserved (R201). -/
def cellMask : BitVec 128 := 0xFFFFFFFFFFFFFFFF00000000FFFFC03F

/-- A lane of a cell replaced; reserved bits read as zero (R201, R15). -/
def cellPut (c : BitVec 128) (j v : Nat) : BitVec 128 :=
  let n := c.toNat - bitsAt c.toNat (32 * j) 32 * 2 ^ (32 * j) + v % 2 ^ 32 * 2 ^ (32 * j)
  BitVec.ofNat 128 n &&& cellMask

/-- Images of an element (R301): stores, and the ruling image of an RA. -/
def applyImg (o : List Byte) (e : Elem) (r : ImgRec) : Elem :=
  let ix (j : Nat) : Nat := r.at' + j
  match r.kind with
  | 1 | 2 => { e with store := { e.store with bytes := memWrite e.store.bytes r.at' (r.bytes o) } }
  | 3 => { e with ra := { e.ra with cells := (List.range r.nln).foldl (fun t j =>
      Tab.set t (ix j / 4) (cellPut (Tab.get cellInitial t (ix j / 4)) (ix j % 4) (r.lane o j))) e.ra.cells } }
  | 4 => { e with ra := { e.ra with descs := (List.range r.nln).foldl (fun t j => Tab.set t (ix j) (BitVec.ofNat 32 (r.lane o j % 512))) e.ra.descs } }
  | 5 => { e with ra := { e.ra with leaves := (List.range r.nln).foldl (fun t j => Tab.set t (ix j) (BitVec.ofNat 32 (r.lane o j))) e.ra.leaves } }
  | _ => e

/-- The port bindings of an AG (R300, R336): a tensor's handle from the launch's bindings. Records are read at the first
access (R355). -/
def applyPort (hdl : Nat → Nat) (e : Elem) (r : PortRec) : Elem :=
  let b := BitVec.ofNat 64 (fieldsNat [(33, r.tsz), (32, 1), (0, hdl r.tns % 2 ^ 32)])
  { e with ag := { e.ag with ports := e.ag.ports.setIfInBounds r.sp { Port.unbound with bind := b, stale := true } } }

/-- The members of groups of a kind that hold an actor. -/
def groupsWith (o : List Byte) (kind i : Nat) : List GrpRec := (grpRecs o).filter (fun g => g.kind == kind && g.mem.contains i)

/-- The members of a record queue, in order (R279): the far ends of its outputs o0 upward, as its group of kind 5 lists
them. -/
def recqMembers (o : List Byte) (i : Nat) : List Nat :=
  let feed := ((chnRecs o).find? (fun r => r.act == i && r.out && r.chn == 0)).map ChnRec.far
  match feed with
  | some m => ((grpRecs o).find? (fun g => g.kind == 5 && g.mem.head? == some m)).elim [] GrpRec.mem
  | none => []

/-- The element of actor `i` as installation makes it (R64, R341), before its channels and partners are given: `aof` says
which of its clauses are arrival-order clauses, `hdl` the handle of each tensor. Of two PORT records of one port the later stands (log 166). -/
def loadedElem (o : List Byte) (i : Nat) (aof : Nat → Bool) (merge : Bool) (hdl : Nat → Nat) : Elem :=
  match (actRecs o)[i]? with
  | none => Elem.blank .se
  | some a =>
    let cls := (actClauses o a).mapIdx (fun k c => clauseOf c.2 (ratesOf o c.2) (aof k))
    let e := { Elem.blank (actCls a.cls) with
      role := actRole a.cls, act := i, body := bodyWords o a, strm := a.strm, sect := a.sect, armIn := a.armi, armOut := a.armo, merge := merge,
      cls4 := #v[cls.getD 0 Clause.unused, cls.getD 1 Clause.unused, cls.getD 2 Clause.unused, cls.getD 3 Clause.unused],
      rq := RecqPart.fresh (recqMembers o i).length }
    let e := ((regRecs o).filter (fun r => r.act == i)).foldl applyReg e
    let e := ((imgRecs o).filter (fun r => r.kind != 0 && r.tgt == i)).foldl (applyImg o) e
    ((portRecs o).filter (fun r => r.act == i)).foldl (applyPort hdl) e

end Sys2Proof.Machine
end

