-- ==== Sys2Proof/Machine/Sha.lean ====
section
/-! DEFINITION. SHA-512 (FIPS 180-4; log 19), which the spec names for digests (R305, R321, R399, R409). Its constants are computed
from what defines them: the fractions of the square roots of the first 8 primes and of the cube roots of the first 80. -/
namespace Sys2Proof.Machine

/-- The greatest x below `r + 2 ^ n` whose k-th power is no more than `m`, found bit by bit from the top. -/
def rootBits (k m : Nat) : Nat → Nat → Nat
  | 0, r => r
  | n + 1, r => rootBits k m n (if (r + 2 ^ n) ^ k ≤ m then r + 2 ^ n else r)

/-- The first 64 bits of the fraction of the k-th root of `p`, for a root below 32. -/
def rootFraction (k p : Nat) : BitVec 64 := BitVec.ofNat 64 (rootBits k (p * 2 ^ (64 * k)) 69 0)

/-- The primes below `n`. -/
def primesBelow (n : Nat) : List Nat :=
  (List.range n).filter (fun p => 2 ≤ p && (List.range 21).all (fun q => q < 2 || q == p || p % q != 0))

/-- The initial hash value: square roots. -/
def shaStart : List (BitVec 64) := (primesBelow 20).map (rootFraction 2)

/-- The constants of the 80 rounds: cube roots. -/
def shaConsts : List (BitVec 64) := (primesBelow 410).map (rootFraction 3)

/-- The padded message, as bytes. -/
def shaPad (m : List Byte) : List Byte :=
  let z := (239 - m.length % 128) % 128
  m ++ [0x80] ++ List.replicate z 0 ++ (littleBytes 16 (8 * m.length)).reverse

/-- 64-bit words of bytes, most significant byte first. -/
def shaWords (m : List Byte) : Nat → List (BitVec 64)
  | 0 => []
  | n + 1 => BitVec.ofNat 64 (leNat (m.take 8).reverse) :: shaWords (m.drop 8) n

/-- The exclusive or of a word turned right by each amount. -/
def turned (x : BitVec 64) (turns : List Nat) : BitVec 64 := turns.foldl (fun y n => y ^^^ x.rotateRight n) 0

/-- The word that the schedule's window of sixteen takes in as its first word leaves. -/
def shaNext (w : List (BitVec 64)) : BitVec 64 :=
  w.getD 0 0 + w.getD 9 0 + (turned (w.getD 1 0) [1, 8] ^^^ w.getD 1 0 >>> 7) + (turned (w.getD 14 0) [19, 61] ^^^ w.getD 14 0 >>> 6)

/-- One round over the eight working words, `kw` its constant plus its word of the schedule: the sum that enters at the top, half of
it added to the fourth word on its way. -/
def shaStir (kw : BitVec 64) : List (BitVec 64) → List (BitVec 64)
  | [a, b, c, d, e, f, g, h] =>
    let t := h + kw + turned e [14, 18, 41] + (g ^^^ e &&& (f ^^^ g))
    [t + turned a [28, 34, 39] + (a &&& (b ||| c) ||| b &&& c), a, b, c, d + t, e, f, g]
  | v => v

/-- The rounds of a block, the schedule's window moving on with them. -/
def shaRounds : List (BitVec 64) → List (BitVec 64) → List (BitVec 64) → List (BitVec 64)
  | [], _, v => v
  | k :: ks, w, v => shaRounds ks (w.drop 1 ++ [shaNext w]) (shaStir (k + w.getD 0 0) v)

/-- Blocks of 128 bytes. -/
def shaBlocks : Nat → List (BitVec 64) → List Byte → List (BitVec 64)
  | 0, h, _ => h
  | n + 1, h, m => shaBlocks n (List.zipWith (· + ·) h (shaRounds shaConsts (shaWords m 16) h)) (m.drop 128)

/-- The 64 bytes of the digest, in the order of the standard. -/
def sha512 (m : List Byte) : List Byte :=
  let p := shaPad m
  (shaBlocks (p.length / 128) shaStart p).flatMap (fun w => (littleBytes 8 w.toNat).reverse)

/-- The digest as a number: its bytes read little-endian, as every record of the spec is (R287). -/
def sha512Nat (m : List Byte) : Nat := leNat (sha512 m)

end Sys2Proof.Machine
end

