-- ==== Sys2Proof/Machine/Tensor.lean ====
section
/-! DEFINITION. Ops 0x60-0x68: tensor operations (spec 05, R136-R146). -/
namespace Sys2Proof.Machine

/-- A completed instruction; where what it wrote is poisoned, the poison-consumption fault follows it (R136). -/
def doneOrPoison (s : State) (e : Elem) (pz : Bool) (which : Nat) (d : BitVec 10) : Res Done :=
  if pz then doneAt s e (.fault (.poison which d.toNat 0)) else done s e

/-- The b operand of a float `dot` (R137): the format its elements are read in, and whether they are decoded in line.
A channel bound FP32 or BF16 keeps its type; the bits of any other are taken as they stand where `ty` overrides (R29). -/
def dotB (e : Elem) (f : Fields) (ta : Nat) : Nat × Bool :=
  if isSlot f.b then
    let k := entFmt (e.inch (desChan f.b)).ent
    let t := typeOfFmt k
    if weightTypes t then (t, true) else if f.ty = 0 ∨ t = 5 ∨ t = 6 then (t, false) else (ta, false)
  else (ta, false)

/-- The type of b in an integer `dot` (R29, R137). -/
def dotBInt (e : Elem) (f : Fields) (ta : Nat) : Nat :=
  if isSlot f.b && f.ty == 0 then typeOfFmt (entFmt (e.inch (desChan f.b)).ent) else ta

/-- The products of one lane of a (R137): `n` elements, paired with elements `off` upward of b. -/
def laneProducts (n lane off : Nat) (x y : Nat → Num × Flags) : List (Num × Flags) :=
  (List.range n).map (fun j =>
    let el := n * lane + j
    let (u, g) := x el
    let (v, h) := y (off + el)
    let (p, k) := u.mul v
    (p, g ||| h ||| k))

/-- The terms of some lanes; an inactive lane contributes +0 (R42). -/
def dotTerms (act : Nat → Bool) (n off : Nat) (x y : Nat → Num × Flags) (lanes : List Nat) : List (Num × Flags) :=
  lanes.flatMap (fun l => if act l then laneProducts n l off x y else List.replicate n (.zero false, 0))

/-- An exact sum with the flags of its terms (R40). -/
def sumTerms (c : Num) (l : List (Num × Flags)) : Nat × Flags :=
  let (r, g) := exactSum (c :: l.map Prod.fst)
  (r, l.foldl (fun a t => a ||| t.2) g)

/-- An exact integer sum of products (R137). -/
def intTerms (act : Nat → Bool) (n off : Nat) (x y : Nat → Int) (lanes : List Nat) : Int :=
  lanes.foldl (fun a l => if act l then (List.range n).foldl (fun a j => a + x (n * l + j) * y (off + n * l + j)) a else a) 0

def bodyDot : Body := fun s f e => do
  let v := f.var.toNat
  let u := usesABC
  let t0 := resolve e f.ty (usedDes u f)
  let fl := decide (v ≤ 1)
  let okT (t : Nat) := if fl then t == 5 || t == 6 else t == 1 || t == 3 || t == 4
  let (tb, inl) := if fl then dotB e f t0 else (dotBInt e f t0, false)
  let na := (fmtOf t0).perLane
  let nb := (fmtOf tb).perLane
  let okB := if fl then inl || tb == 5 || tb == 6 else tb == t0
  let okPart := !okT t0 || !okB || decide (nb < na) || decide (partNo f < nb / na)
  need (decide (v ≤ 3) && f.ln != 3 && waitsOk u f && okPart) .instr
  need (okT t0) (.type t0)
  need (okB && decide (na ≤ nb)) (.type tb)
  let _ ← check e f u true okT (badReg e f)
  let sc := if inl then scalingOf e f.b tb else .named
  awaitCompanion e sc
  let a := srcA s e f
  let b := srcB s e f
  let c := srcC s e f
  let act := laneActive e f
  let off := partNo f * 16 * na
  let srcs := [a, b, c] ++ scalingSrcs e sc []
  let whole := allActive e f
  let prev := readDes s e f.d
  let pz := destPz e f srcs prev whole
  let all := List.range 16
  if fl then
    let fa := fmtOf t0
    let fb := fmtOf tb
    let x (el : Nat) : Num × Flags := (fa.decode (elemAt fa a.pay el), 0)
    let y (el : Nat) : Num × Flags :=
      if inl then let (w, g) := weightElem e fb b.pay sc (fun _ => unitScale) Num.one el; (Fmt.decode .bf16 w, g)
      else (fb.decode (elemAt fb b.pay el), 0)
    let cn (i : Nat) := Fmt.decode .fp32 (c.pay.lane i).toNat
    if v = 0 then
      let (r, g) := sumTerms (cn 0) (dotTerms act na off x y all)
      let e1 := if someActive e f then e.raise g else e
      doneOrPoison s (put s e1 f (fun _ => BitVec.ofNat 32 r) srcs) pz 256 f.d
    else
      let r (i : Nat) : Lane × Flags :=
        let (q, g) := sumTerms (cn i) (dotTerms act na off x y [i])
        (BitVec.ofNat 32 q, g)
      doneOrPoison s (putFlags s e f r srcs) pz 256 f.d
  else
    let fa := fmtOf t0
    let x (el : Nat) := elemInt fa false (elemAt fa a.pay el)
    let y (el : Nat) := elemInt fa false (elemAt fa b.pay el)
    let g (i : Nat) : Lane :=
      let l := if v = 2 then all else [i]
      BitVec.ofInt 32 ((c.pay.lane (if v = 2 then 0 else i)).toInt + intTerms act na off x y l)
    doneOrPoison s (put s e f g srcs) pz 256 f.d

/-- `dot` (R137). -/
def execDot (f : Fields) (s : State) : Host.Outcome State Fault Refusal := issue 0x60 bodyDot f s

-- Accumulators and matrix steps ------------------------------------------------------------------------------------------

/-- acc0-acc7 (R138). -/
def Elem.accReg (e : Elem) (k : Nat) : Reg := e.ve.acc.toList.getD k Reg.zero
def Elem.setAcc (e : Elem) (k : Nat) (r : Reg) : Elem := { e with ve := { e.ve with acc := e.ve.acc.setIfInBounds k r } }

/-- The fields of `imm` of `mma` (R139). -/
def acm (f : Fields) : Bool := f.imm.getLsbD 23
def wxs (f : Fields) : Nat := f.imm.toNat / 2 ^ 20 % 8
def aix (f : Fields) : Nat := f.imm.toNat / 2 ^ 17 % 8
def tadr (f : Fields) : Nat := f.imm.toNat % 2 ^ 17

/-- Tile format and bytes of the variants (R139). -/
def tileFmt (v : Nat) : Fmt × Nat :=
  match v with
  | 0 => (.bf16, 256) | 1 => (.e4m3, 128) | 2 => (.e5m2, 128) | 3 => (.e2m1, 64) | _ => (.i4, 64)

/-- Element `el` of a tile packed from an address upward (R139). -/
def tileElem (st : Store) (base : Nat) (t : Fmt) (el : Nat) : Nat :=
  st.num (base + t.bits * el / 8) (max 1 (t.bits / 8)) / 2 ^ (t.bits * el % 8) % 2 ^ t.bits

/-- W(k, n) (R139). -/
def tileWeight (e : Elem) (v base : Nat) (xs el : Nat) : Num × Flags :=
  let (t, _) := tileFmt v
  let c := tileElem e.store base t el
  if v = 0 then (Fmt.decode .bf16 c, 0)
  else let (w, g) := dequant t c unitScale (scaleNum e xs); (Fmt.decode .bf16 w, g)

/-- Lane `i` of a matrix step on a partial sum (R139): an element of a in an active lane gives its product, one in an inactive lane +0 (R42). -/
def mmaLane (e : Elem) (f : Fields) (base : Nat) (a : Payload) (p : Lane) (i : Nat) : Lane × Flags :=
  let r := i / 8
  let n := i % 8
  let term (k : Nat) : Num × Flags :=
    let (w, g) := tileWeight e f.var.toNat base (wxs f) (8 * k + n)
    let (q, h) := (Fmt.decode .bf16 (elemAt .bf16 a (16 * r + k))).mul w
    (q, g ||| h)
  let terms := (List.range 16).map (fun k => if laneActive e f ((16 * r + k) / 2) then term k else (.zero false, 0))
  let (v, g) := sumTerms (Fmt.decode .fp32 p.toNat) terms
  (BitVec.ofNat 32 v, g)

/-- The granules of a tile (R147). -/
def tileGrans (base bytes : Nat) : List Nat := (List.range (max 1 (bytes / 64))).map (fun k => granule (base + 64 * k))

/-- A matrix step with its tile at an address (R139, R147, R136). -/
def matrixStep (s : State) (e : Elem) (f : Fields) (base : Nat) (extra : List Reg) : Res Done :=
  let a := srcA s e f
  let c := srcC s e f
  let grans := if someActive e f then tileGrans base (tileFmt f.var.toNat).2 else []
  let (gpz, gtn) := e.store.bits grans
  let s := badEvents s e e.store grans
  let e := { e with store := e.store.marked grans }
  let srcs := [a] ++ extra ++ (if f.var = 0 then [] else [scaleReg e (wxs f)]) ++ [{ pay := 0, pz := gpz, tn := gtn }]
  if acm f then
    let old := e.accReg (aix f)
    let r (i : Nat) := mmaLane e f base a.pay (old.pay.lane i) i
    let e' := e.raise (laneFlags (laneActive e f) (fun i => (r i).2))
    let pz := destPz e f (old :: srcs) old true
    let v : Reg := { pay := mergeLanes (laneActive e f) (fun i => (r i).1) old.pay, pz := pz, tn := destTn e f (old :: srcs) old true }
    doneOrPoison s (e'.setAcc (aix f) v) pz (2 ^ aix f) f.d
  else
    let prev := readDes s e f.d
    let pz := destPz e f (c :: srcs) prev (allActive e f)
    doneOrPoison s (putFlags s e f (fun i => mmaLane e f base a.pay (c.pay.lane i) i) (c :: srcs)) pz 256 f.d

/-- The checks of `mma` and `mmag` (R139): with `acm` = 1 c and d are 0x0FF. -/
def matrixCheck (e : Elem) (f : Fields) (u : Uses) (bad : Option (BitVec 10)) : Res Unit := do
  let ends : Option (BitVec 10) :=
    if acm f then (if f.c != 0x0FF then some f.c else if f.d != 0x0FF then some f.d else none) else badReg e f
  let bad2 := match bad with
    | some d => some d
    | none => ends
  let _ ← check e f u (decide (f.var.toNat ≤ 4)) (fun t => t == 6) bad2

def bodyMma : Body := fun s f0 e => do
  let f := { f0 with ln := 0 }
  matrixCheck e f { usesABC with b := false } (if tadr f % (tileFmt f.var.toNat).2 = 0 then none else some f.a)
  matrixStep s e f (tadr f) []

/-- `mma` (R139). -/
def execMma (f : Fields) (s : State) : Host.Outcome State Fault Refusal := issue 0x61 bodyMma f s

/-- The fields of the adapter bank register (R140). -/
def bankCnt (b : BitVec 64) : Nat := bitsAt b.toNat 34 16
def bankStrd (b : BitVec 64) : Nat := bitsAt b.toNat 17 17
def bankBase (b : BitVec 64) : Nat := bitsAt b.toNat 0 17

def bodyMmag : Body := fun s f0 e => do
  let f := { f0 with ln := 0 }
  matrixCheck e f usesABC (if isSlot f.b || isState e f.b then none else some f.b)
  let b := srcB s e f
  let ix := (b.pay.lane 0).toNat % 65536
  let bk := e.ve.abank
  let addr := (bankBase bk + ix * bankStrd bk + tadr f) % storeSize
  needDes (decide (ix < bankCnt bk) && decide (addr % (tileFmt f.var.toNat).2 = 0)) f.b
  matrixStep s e f addr [b, { pay := 0, pz := e.ve.abPz, tn := e.ve.abTn }]

/-- `mmag` (R141). -/
def execMmag (f : Fields) (s : State) : Host.Outcome State Fault Refusal := issue 0x62 bodyMmag f s

def bodyWsel : Body := fun s f e => do
  need (f.var == 0) .instr
  needDes (srcOk e f.a) f.a
  await (inWait e f.a 0)
  let a := readDes s e f.a
  let v := (a.pay.lane 0).toNat % 2 ^ 17 + (a.pay.lane 1).toNat % 2 ^ 17 * 2 ^ 17 + (a.pay.lane 2).toNat % 2 ^ 16 * 2 ^ 34
  done s { e with ve := { e.ve with abank := BitVec.ofNat 64 v, abPz := a.pz || e.flowP, abTn := a.tn || e.flowT } }

/-- `wsel` (R140; log 124). -/
def execWsel (f : Fields) (s : State) : Host.Outcome State Fault Refusal := issue 0x68 bodyWsel f s

def bodyBmm : Body := fun s f0 e => do
  let f := { f0 with ln := 0 }
  let u := { usesABC with b := false }
  let base := tadr f
  let bad := if base % 512 = 0 then badReg e f else some f.a
  let _ ← check e f u (decide (f.var.toNat ≤ 1)) (fun t => t == 12) bad
  let a := srcA s e f
  let c := srcC s e f
  let grans := if someActive e f then tileGrans base 512 else []
  let (gpz, gtn) := e.store.bits grans
  let s := badEvents s e e.store grans
  let e := { e with store := e.store.marked grans }
  let cmb (x y : Nat) : Nat := if f.var = 0 then x ^^^ y else x &&& y
  let cnt (i : Nat) : Nat := (activeLanes e f).foldl
    (fun n l => n + onesBelow (cmb (a.pay.lane l).toNat (e.store.num (base + 64 * i + 4 * l) 4)) 32) 0
  let srcs := [a, c, { pay := 0, pz := gpz, tn := gtn }]
  let pz := destPz e f srcs (readDes s e f.d) (allActive e f)
  doneOrPoison s (put s e f (fun i => if i < 8 then c.pay.lane i + BitVec.ofNat 32 (cnt i) else c.pay.lane i) srcs) pz 256 f.d

/-- `bmm` (R142). -/
def execBmm (f : Fields) (s : State) : Host.Outcome State Fault Refusal := issue 0x63 bodyBmm f s

-- The transposing requantiser -----------------------------------------------------------------------------------------------

def bodyTpq : Body := fun s f0 e => do
  let f := { f0 with ln := 0 }
  let _ ← check e f { usesA with d := false } (f.var == 0) (fun t => t == 5) none
  awaitCount (decide (e.ve.wcnt < 16))
  let a := srcA s e f
  let row := e.ve.rows.getD e.ve.wcnt 0
  let v := e.ve
  done s { e with ve := { v with rows := v.rows.set v.wcnt (mergeLanes (laneActive e f) a.pay.lane row), wcnt := v.wcnt + 1,
                                 rqPz := v.rqPz || a.pz || e.flowP, rqTn := v.rqTn || a.tn || e.flowT } }

/-- `tpq` (R144). -/
def execTpq (f : Fields) (s : State) : Host.Outcome State Fault Refusal := issue 0x64 bodyTpq f s

/-- The requantiser emptied (R143). -/
def VePart.emptied (v : VePart) : VePart :=
  { v with rows := List.replicate 16 0, wcnt := 0, rcnt := 0, rqPz := false, rqTn := false }

def bodyTpqr : Body := fun s f e => do
  let v := f.var.toNat
  let r := fmtOf v
  let n := r.perLane
  let tooFar := decide (e.ve.wcnt = 16) && decide (16 < e.ve.rcnt + n)
  need ([4, 5, 6, 8, 9].contains v && (rmode f).isSome && f.ln != 3 && (f.wd == 0 || isOut f.d) && !tooFar) .instr
  noBad (badReg e f)
  await (outWait e f.d f.wd)
  awaitCount (decide (e.ve.wcnt = 16))
  let m := (rmode f).getD .rne
  let el (k : Nat) : Num := Fmt.decode .fp32 (Payload.lane (e.ve.rows.getD (k % 16) 0) (e.ve.rcnt + k / 16)).toNat
  let e' := putFlags s e f (fun i => flagLane r (fun j => quantElem r m (el (n * i + j)) Num.one (scaleNum e (xsel f))))
    [{ pay := 0, pz := e.ve.rqPz, tn := e.ve.rqTn }, scaleReg e (xsel f)]
  let w := e'.ve
  done s { e' with ve := if 16 ≤ w.rcnt + n then w.emptied else { w with rcnt := w.rcnt + n } }

/-- `tpqr` (R145). -/
def execTpqr (f : Fields) (s : State) : Host.Outcome State Fault Refusal := issue 0x65 bodyTpqr f s

/-- An accumulator word zeroed on the active lanes; over all 16 its PZ and TN are cleared (R146). -/
def zeroAcc (e : Elem) (f : Fields) (r : Reg) : Reg :=
  { pay := mergeLanes (laneActive e f) (fun _ => 0) r.pay, pz := r.pz && !allActive e f, tn := r.tn && !allActive e f }

def bodyAccrd : Body := fun s f0 e => do
  let f := { f0 with ln := 0, wd := 0 }
  need (decide (f.var.toNat ≤ 1)) .instr
  noBad (badReg e f)
  await (outWait e f.d 0)
  let k := f.imm.toNat % 8
  let a := e.accReg k
  let e' := put s e f a.pay.lane [a]
  done s (if f.var = 1 then e'.setAcc k (zeroAcc e f a) else e')

/-- `accrd` (R146; log 124). -/
def execAccrd (f : Fields) (s : State) : Host.Outcome State Fault Refusal := issue 0x66 bodyAccrd f s

def bodyAccz : Body := fun s f0 e => do
  let f := { f0 with ln := 0 }
  need (decide (f.var.toNat ≤ 1)) .instr
  let k := f.imm.toNat % 8
  done s (if f.var = 1 then { e with ve := { e.ve with acc := e.ve.acc.map (zeroAcc e f) } }
          else e.setAcc k (zeroAcc e f (e.accReg k)))

/-- `accz` (R146; log 124). -/
def execAccz (f : Fields) (s : State) : Host.Outcome State Fault Refusal := issue 0x67 bodyAccz f s

end Sys2Proof.Machine
end

