-- ==== Sys2Proof/Machine/Loader.lean ====
section
/-! DEFINITION. The loader (spec 13, R318, R319): the header, the sections, the digest, the bodies and the records. The checks of
R239 on the whole graph are in Progress.lean. -/
namespace Sys2Proof.Machine

-- Reports -------------------------------------------------------------------------------------------------------------

/-- The loader's report (R318). -/
structure Report where
  code  : Nat
  skind : Nat
  rix   : Nat
  act   : Nat
  pos   : Nat
  chn   : Nat
  out   : Bool
  aux   : Nat
  deriving DecidableEq, Repr

def Report.of (code : Nat) : Report := { code := code, skind := 0, rix := 0, act := 0xFFFF, pos := 0xFF, chn := 0, out := false, aux := 0 }

/-- The 32 bytes of R318; `skind` has no room for 16, SYM, whose low four bits are written (log 164). -/
def Report.bits (r : Report) : BitVec 256 :=
  BitVec.ofNat 256 (fieldsNat [(96, r.aux % 2 ^ 32), (93, bit r.out), (88, r.chn % 32), (80, r.pos % 256), (64, r.act % 2 ^ 16), (32, r.rix % 2 ^ 32),
    (16, r.skind % 16), (0, r.code % 2 ^ 16)])

/-- A check: nothing, or the first failure. -/
abbrev Chk := Option Report

def want (ok : Bool) (r : Report) : Chk := if ok then none else some r

/-- The first failure over a list. -/
def overAll {α : Type} (l : List α) (g : α → Chk) : Chk := l.findSome? g

/-- The first failure over the records of a list with their indices. -/
def overRecs {α : Type} (l : List α) (g : Nat → α → Chk) : Chk := (l.zipIdx).findSome? (fun p => g p.2 p.1)

-- Header, sections, digest (R288, R289, R305) ---------------------------------------------------------------------------

/-- The size of the records of a section; STR and BODY have none. -/
def recSize (k : Nat) : Nat :=
  match k with
  | 2 => 32 | 3 => 32 | 4 => 8 | 6 => 16 | 7 => 72 | 8 => 16 | 9 => 72 | 10 => 64 | 11 => 8 | 12 => 16 | 13 => 16 | 14 => 16 | 15 => 208 | 16 => 16
  | _ => 0

/-- The header (R288): codes 1 and 4. -/
def checkHeader (o : List Byte) (len : Nat) : Chk :=
  let h := objNat o 0 64
  want (decide (64 ≤ o.length) && bitsAt h 0 32 == 0x46554C59 && bitsAt h 32 16 == 1 && hdrLen o == len && o.length == len
        && decide (1 ≤ hdrNsec o ∧ hdrNsec o ≤ 16)) (Report.of 1)
  <|> want (bitsAt h 66 30 == 0 && bitsAt h 256 256 == 0) (Report.of 4)

/-- Whether two spans of bytes overlap. -/
def overlaps (a la b lb : Nat) : Bool := decide (0 < la ∧ 0 < lb ∧ a < b + lb ∧ b < a + la)

/-- The section table (R289): codes 2 and 4. -/
def checkSections (o : List Byte) : Chk :=
  let t := sectTable o
  let kinds := t.map Sect.kind
  overRecs t (fun i x =>
    let r := { Report.of 2 with skind := x.kind, rix := i }
    want (decide (1 ≤ x.kind ∧ x.kind ≤ 16)) { r with code := 4 }
    <|> want (x.off % 8 == 0 && decide (64 + 16 * hdrNsec o ≤ x.off ∧ x.off + x.len ≤ hdrLen o)
              && decide (recSize x.kind * x.cnt ≤ x.len) && (kinds.filter (fun k => k == x.kind)).length == 1
              && (t.take i).all (fun y => !overlaps x.off x.len y.off y.len)) r)
  <|> overAll [2, 3, 5, 6, 14, 15] (fun k => want (kinds.contains k) { Report.of 2 with skind := k })
  <|> want ((sect o 15).cnt == 1) { Report.of 2 with skind := 15 }

/-- The object as its digest is made: `sgnd` of the header 0 (R288), the bytes of its SIG record read as zero (R305). -/
def unsignedObj (o0 : List Byte) : List Byte :=
  let s := (sect o0 15).off
  let o := o0.modify 8 (fun b => b &&& 0xFD)
  o.take s ++ List.replicate (min 208 (o.length - s)) 0 ++ o.drop (s + 208)

/-- The digest and, where one is required, the signature (R305): code 3. -/
def checkDigest (o : List Byte) (needSig : Bool) : Chk :=
  let g := recNat o 15 208 0
  let d := BitVec.ofNat 512 g
  let r := { Report.of 3 with skind := 15 }
  want (sha512Nat (unsignedObj o) == d.toNat) r
  <|> want (!needSig || (hdrSigned o && Config.sigValid (BitVec.ofNat 32 (bitsAt g 1568 32)) d (BitVec.ofNat 528 (bitsAt g 512 528))
                                          (BitVec.ofNat 528 (bitsAt g 1040 528)))) r

-- Bodies as the loader reads them -----------------------------------------------------------------------------------------

/-- Whether an op reads a source through `a`, `b` or `c` or writes through `d` (the descriptions of spec 04 to 07). -/
def opUses (w : BitVec 96) : Uses :=
  let f := fieldsOf w
  let n := (w.extractLsb' 88 8).toNat
  let v := f.var.toNat
  let within (l : List (Nat × Nat)) : Bool := l.any (fun p => decide (p.1 ≤ n ∧ n ≤ p.2))
  { a := within [(0x02, 0x02), (0x04, 0x08), (0x0A, 0x0A), (0x11, 0x11), (0x20, 0x39), (0x3B, 0x4D), (0x4F, 0x54), (0x60, 0x64), (0x68, 0x68),
                 (0x70, 0x76), (0x80, 0x81), (0x83, 0x88), (0x90, 0x91), (0x94, 0x96), (0xA0, 0xA0), (0xA3, 0xA5), (0xB2, 0xB2), (0xB4, 0xB4),
                 (0xC0, 0xC1), (0xD0, 0xD2)]
         || (n == 0x03 && v == 3) || (n == 0x0B && v != 2),
    b := within [(0x02, 0x02), (0x04, 0x04), (0x20, 0x26), (0x29, 0x2E), (0x36, 0x38), (0x3B, 0x3B), (0x40, 0x45), (0x48, 0x48), (0x51, 0x52),
                 (0x60, 0x60), (0x62, 0x62), (0x71, 0x71), (0x73, 0x73), (0x75, 0x76), (0x85, 0x87), (0x90, 0x91), (0x96, 0x96)]
         || (n == 0x0A && v != 4) || (decide (0x2F ≤ n ∧ n ≤ 0x32) && v != 1) || (n == 0x3D && v == 0),
    c := within [(0x02, 0x02), (0x24, 0x24), (0x38, 0x38), (0x43, 0x43), (0x60, 0x63), (0x76, 0x76), (0x91, 0x91), (0xC3, 0xC3)],
    d := within [(0x03, 0x06), (0x08, 0x08), (0x0A, 0x0B), (0x20, 0x54), (0x60, 0x63), (0x65, 0x66), (0x70, 0x70), (0x72, 0x72), (0x74, 0x74),
                 (0x76, 0x76), (0x82, 0x82), (0x90, 0x91), (0x95, 0x95), (0xA1, 0xA1), (0xA7, 0xA7), (0xB0, 0xB1), (0xB3, 0xB4), (0xC2, 0xC4),
                 (0xD0, 0xD2)]
         || (n == 0x07 && v == 0) }

/-- Whether a word writes through `d`: `wait` only names a slot there, `fsts.clr` and `tntc.fl` ignore it, `tach` has none, and a matrix
step with `acm` = 1 writes an accumulator word (R95, R128, R139, R208, R210). A `give` and a `cfwd.one` count as writing there what
they publish, and a word whose `var` its description does not define as writing its `d` (log 138). -/
def writesD (w : BitVec 96) : Bool :=
  let n := opNo w
  let v := (fieldsOf w).var
  (opUses w).d && !(n == 0x04 || (n == 0x4E && v == 2) || n == 0xC4 || (n == 0xD1 && v == 2)
                    || ((n == 0x61 || n == 0x62) && acm (fieldsOf w)))

/-- Whether a word reads the mask named by `pm`. -/
def readsMask (w : BitVec 96) : Bool := !([0x00, 0x01, 0x02, 0x03, 0x04, 0x06, 0x07].contains (opNo w))

-- The graph as records -----------------------------------------------------------------------------------------------------

/-- An object as the loader reads it. -/
structure Obj where
  o     : List Byte
  acts  : List ActRec
  cls   : List ClsRec
  chn   : List ChnRec
  grp   : List GrpRec
  gates : List GateRec
  folds : List FoldRec
  body  : List (List (BitVec 96))

def Obj.of (o : List Byte) : Obj :=
  { o := o, acts := actRecs o, cls := clsRecs o, chn := chnRecs o, grp := grpRecs o, gates := gateRecs o, folds := foldRecs o,
    body := (actRecs o).map (fun a => if a.cls ≤ 3 then bodyWords o a else []) }

def Obj.act (g : Obj) (i : Nat) : ActRec := g.acts.getD i (actRec 0)
def Obj.words (g : Obj) (i : Nat) : List (BitVec 96) := g.body.getD i []

/-- The clause records of an actor, as clauses, with their indices in CLS. -/
def Obj.clauses (g : Obj) (i : Nat) : List (Nat × Clause) :=
  let a := g.act i
  (List.range a.ncl).filterMap (fun k => (g.cls[a.fcl + k]?).map (fun c => (a.fcl + k, clauseOf c (ratesOf g.o c) false)))

/-- The channel record of an end of an actor. -/
def Obj.port (g : Obj) (i : Nat) (out : Bool) (c : Nat) : Option ChnRec := g.chn.find? (fun r => r.act == i && r.out == out && r.chn == c)

def Obj.ins (g : Obj) (i : Nat) : List Nat := (List.range 32).filter (fun c => (g.port i false c).isSome)
def Obj.outs (g : Obj) (i : Nat) : List Nat := (List.range 16).filter (fun c => (g.port i true c).isSome)

/-- The capacity of an end. -/
def Obj.cap (g : Obj) (i : Nat) (out : Bool) (c : Nat) : Nat := ((g.port i out c).map (fun r => entCap r.ent)).getD 0

/-- The format of an end. -/
def Obj.fmt (g : Obj) (i : Nat) (out : Bool) (c : Nat) : Nat := ((g.port i out c).map (fun r => entFmt r.ent)).getD 0

/-- A channel slot of a designator: its direction and channel; the reserved output channels 16 to 31 name none (R45). -/
def slotName (d : BitVec 10) : Option (Bool × Nat) :=
  if isSlot d then some (false, desChan d) else if isOut d && decide (desChan d < 16) then some (true, desChan d) else none

/-- The channel slots a word names, with the wait it applies to each and their offset. -/
def slotsOf (w : BitVec 96) : List ((Bool × Nat) × Nat × Nat) :=
  let f := fieldsOf w
  let u := opUses w
  let one (use : Bool) (d : BitVec 10) (wt : Nat) : List ((Bool × Nat) × Nat × Nat) :=
    if use then ((slotName d).map (fun p => (p, wt, desOfs d))).toList else []
  one u.a f.a f.wa.toNat ++ one u.b f.b f.wb.toNat ++ one u.c f.c 0 ++ one u.d f.d f.wd.toNat

-- Bodies (R48, R62, R63, R73, R78, R79, R97, R102, R103, R105, R116, R139) --------------------------------------------------

/-- The words a class holds (R62). -/
def bodyLimit (c : Nat) : Nat := if c = 0 then 64 else if c = 3 then 16 else 32

/-- The report on a word. -/
def wordRep (code act pos : Nat) : Report := { Report.of code with skind := 5, act := act, pos := pos }

/-- Where a body lies, and its limit: codes 4 and 5. -/
def checkSize (g : Obj) (i : Nat) (a : ActRec) : Chk :=
  if 4 ≤ a.cls then none
  else
    want (decide (a.boff + a.blen ≤ (sect g.o 5).len)) { Report.of 4 with skind := 2, rix := i, act := i }
    <|> want (decide ((g.words i).length ≤ bodyLimit a.cls)) { Report.of 5 with skind := 5, act := i, aux := bodyLimit a.cls }

/-- A `ctlw` that R97 forbids. -/
def badCtlw (f : Fields) : Bool :=
  !([1, 2, 3, 7, 8, 9].contains f.var.toNat) || !isOut f.d || desOfs f.d != 0
    || (f.a == 0x0FF && ((f.var == 2 && !decide (2 ≤ f.imm.toNat ∧ f.imm.toNat ≤ 15)) || (f.var == 7 && f.imm == 0)))

/-- The size of a weight tile (R139). -/
def tileSize (v : Nat) : Nat := [256, 128, 128, 64, 64].getD v 1

/-- Loops of a body: first and last word. -/
def loopSpans (ws : List (BitVec 96)) : List (Nat × Nat) :=
  (ws.zipIdx).filterMap (fun p =>
    let n := (fieldsOf p.1).imm.toNat % 256
    if opNo p.1 = 0x11 ∧ n ≠ 0 then some (p.2 + 1, p.2 + n) else none)

/-- One word of a body: codes 6, 7, 8, 10, 12, 21. `ses` is how many SEs the actor's quad group holds in every fold choice. -/
def checkWord (g : Obj) (i : Nat) (a : ActRec) (ses : Nat) (ws : List (BitVec 96)) (p : Nat) (w : BitVec 96) : Chk :=
  let f := fieldsOf w
  let n := opNo w
  let bad (c : Nat) : Report := wordRep c i p
  let u := opUses w
  let ty := if f.ty ≠ 0 then f.ty.toNat
    else (((usedDes u f).filterMap slotName).head?.map (fun x => typeOfFmt (g.fmt i x.1 x.2))).getD 1
  if n = 0xFF then none
  else
    want ((classesOf (BitVec.ofNat 8 n)).contains (actCls a.cls) && !(n == 0xD1 && !hdrFree g.o)) (bad 6)
    <|> want (!(n == 0x3F && (a.cls == 1 || a.cls == 2) && decide (5 ≤ ty ∧ ty ≤ 7))) (bad 6)
    <|> want (!(writesD w && (decide (0x100 ≤ f.d.toNat ∧ f.d.toNat < 0x140) || isSlot f.d || f.d == 0x0F0 || decide (0x0F8 ≤ f.d.toNat ∧ f.d.toNat ≤ 0x0FE)))) (bad 7)
    <|> want (!(n == 0x06 && badCtlw f)) (bad 7)
    <|> want (!(n == 0x61 && decide (f.var.toNat < 5) && f.imm.toNat % 2 ^ 17 % tileSize f.var.toNat != 0)) (bad 7)
    <|> want (!(n == 0x10 && !decide (p < f.imm.toNat ∧ f.imm.toNat < ws.length))) (bad 8)
    <|> want (!(n == 0x11 && !decide (p + f.imm.toNat % 256 < ws.length))) (bad 8)
    <|> want (!(n == 0x10 && (loopSpans ws).any (fun s =>
          decide (s.1 ≤ p ∧ p ≤ s.2) != decide (s.1 ≤ f.imm.toNat ∧ f.imm.toNat ≤ s.2)))) (bad 8)
    <|> overAll (slotsOf w) (fun x =>
          want (g.port i x.1.1 x.1.2).isSome { bad 10 with chn := x.1.2, out := x.1.1 })
    <|> overAll (slotsOf w) (fun x =>
          want (decide (x.2.1 ≤ g.cap i x.1.1 x.1.2)) { bad 12 with chn := x.1.2, out := x.1.1, aux := x.2.1 })
    <|> want (!(a.cls == 0 && decide (0x72 ≤ n ∧ n ≤ 0x76) && decide (ses ≤ f.imm.toNat / 2 ^ 23))) (bad 21)
    <|> want (!(n == 0x62 && a.sect && !isSlot f.b)) (bad 23)

/-- The ops of a stream body (R78). -/
def streamOp (n : Nat) : Bool :=
  [(0x00, 0x08), (0x0A, 0x0B), (0x20, 0x24), (0x27, 0x3E), (0x40, 0x48), (0x50, 0x52), (0x60, 0x63), (0x70, 0x70)].any
    (fun p => decide (p.1 ≤ n ∧ n ≤ p.2))

/-- State and mask registers a word reads, and those it writes (R79); a write that keeps lanes of its destination does not read it (log
150). -/
def regsRead (w : BitVec 96) : List Nat :=
  let f := fieldsOf w
  let n := opNo w
  let u := opUses w
  -- `movi.hi` keeps half of its destination (R112)
  ((usedDes { u with d := n == 0x3A && f.var == 1 } f).map BitVec.toNat ++ (if readsMask w then [0xF0 + f.pm.toNat] else [])).filter
    (fun n => decide (n < 0x40) || decide (0xF1 ≤ n ∧ n ≤ 0xF3))

def regsWritten (w : BitVec 96) : List Nat :=
  (if writesD w then [(fieldsOf w).d.toNat] else []).filter (fun n => decide (n < 0x40) || decide (0xF1 ≤ n ∧ n ≤ 0xF3))

/-- A stream body (R78, R79): code 9. -/
def checkStream (i : Nat) (a : ActRec) (cl : List (Nat × Clause)) (ws : List (BitVec 96)) : Chk :=
  let n := ws.length
  want (cl.all (fun c => c.2.strm == a.strm)) (wordRep 9 i 0xFF)
  <|> (if !a.strm then none else
    want (a.cls == 0 && decide (2 ≤ n ∧ n ≤ 6) && (ws.getLast?.map opNo) == some 1 && (ws.filter (fun w => opNo w == 1)).length == 1)
      (wordRep 9 i 0xFF)
    <|> overAll ws.zipIdx (fun x => want (streamOp (opNo x.1)) (wordRep 9 i x.2))
    <|> overAll (List.range n) (fun j => overAll (List.range j) (fun k =>
          let early := ws.getD k 0
          let late := ws.getD j 0
          want (!((regsRead early).any (regsWritten late).contains) && !(decide (k + 1 < j) && (regsWritten early).any (regsRead late).contains))
            (wordRep 9 i j))))

-- Paths through a body (R234, R239) -----------------------------------------------------------------------------------------

/-- What a path has done: words consumed and published by channel, and what an `eoi` head has made of m1 to m3. -/
structure Path where
  cons  : List Nat
  pubs  : List Nat
  masks : List (Option Bool)
  deriving DecidableEq, Repr

def Path.start : Path := { cons := List.replicate 32 0, pubs := List.replicate 16 0, masks := [none, none, none] }

/-- What a word does on a path: words taken and published, and what it makes of a mask that it writes. -/
structure Effect where
  take : List (Nat × Nat)
  give : List (Nat × Nat)
  mask : Option (Option Bool)

/-- Counts raised, up to a cap. -/
def bump (top : Nat) (l : List Nat) (x : List (Nat × Nat)) : List Nat := x.foldl (fun l p => l.modify p.1 (fun v => min top (v + p.2))) l

def Path.after (top : Nat) (f : Fields) (e : Effect) (p : Path) : Path :=
  { cons := bump top p.cons e.take, pubs := bump top p.pubs e.give,
    masks := match e.mask with
      | some m => if isMask f.d then p.masks.set (maskNo f.d - 1) m else p.masks
      | none => p.masks }

/-- The paths that run through a span of words: at an `end` in it, the words met (with the masks there, and whether in a
loop whose count a register gives), those that leave it by a branch or by a `brk`, and those that complete it. -/
structure Trail where
  ends : List Path
  seen : List (Nat × List (Option Bool) × Bool)
  out  : List (Nat × Path)
  brk  : List Path
  done : List Path

def Trail.none : Trail := { ends := [], seen := [], out := [], brk := [], done := [] }

/-- One list added to another without repeats. -/
def joinNew {α : Type} [DecidableEq α] (a b : List α) : List α := b.foldl (fun l x => if l.contains x then l else l ++ [x]) a

/-- What a pass adds to a trail. -/
def Trail.join (t u : Trail) : Trail :=
  { t with ends := joinNew t.ends u.ends, seen := joinNew t.seen u.seen, out := joinNew t.out u.out, brk := joinNew t.brk u.brk }

/-- Passes of a loop; where the paths that enter a pass are those that entered an earlier one, the passes between repeat
and are left out. -/
def passes (pass : List Path → Trail) : Nat → List Path → List (List Path) → Trail → Trail
  | 0, l, _, t => { t with done := l }
  | n + 1, l, hist, t =>
    match (hist.take 64).idxOf? l with
    | some i => { t with done := if (n + 1) % (i + 1) = 0 then l else hist.getD (i - (n + 1) % (i + 1)) [] }
    | none => let u := pass l; passes pass n u.done (l :: hist) (t.join u)

/-- Whether a branch is taken, where its form or an `eoi` head decides it (R102, R234): `ones` is what is known of its mask. -/
def branchDecided (var : Nat) (ones : Option Bool) : Option Bool :=
  if var = 0 then some true else ones.map (fun b => if var = 3 then !b else b)

/-- What stands at each position of a span, and the trail so far. -/
structure Span where
  at'   : Tab (List Path)
  trail : Trail

def Span.add (s : Span) (p : Nat) (l : List Path) : Span := { s with at' := Tab.set s.at' p (joinNew (Tab.get [] s.at' p) l) }

/-- Paths that branch, or that pass over a loop of no passes: within the span to their target, or out of it. -/
def Span.jump (s : Span) (hi target : Nat) (l : List Path) : Span :=
  if target ≤ hi then s.add target l else { s with trail := { s.trail with out := joinNew s.trail.out (l.map (fun x => (target, x))) } }

/-- How the words of a body act on the paths that the loader follows; `follow` says at which positions a mask decides a
branch. -/
structure Reading where
  ws     : List (BitVec 96)
  eff    : BitVec 96 → Effect
  follow : Nat → Bool
  top    : Nat

/-- One word of a span (R102-R105); `inner` runs a loop's span in a trail of its own. -/
def spanWord (r : Reading) (inner : Bool → Nat → Nat → List Path → Trail) (reg : Bool) (hi : Nat) (s : Span) (p : Nat) : Span :=
  let here := Tab.get [] s.at' p
  if here = [] then s
  else
    let word := r.ws.getD p 0
    let f := fieldsOf word
    let n := opNo word
    let s : Span := { s with trail := { s.trail with seen := joinNew s.trail.seen (here.map (fun x => (p, x.masks, reg))) } }
    let ones (x : Path) : Option Bool := if f.pm ≠ 0 ∧ r.follow p then x.masks.getD (f.pm.toNat - 1) none else none
    let taken := here.filter (fun x => branchDecided f.var.toNat (ones x) != some false)
    let fall := here.filter (fun x => branchDecided f.var.toNat (ones x) != some true)
    if n = 0x01 then { s with trail := { s.trail with ends := joinNew s.trail.ends here } }
    else if n = 0xFF then s
    else if n = 0x10 then (if f.imm.toNat ≤ p then s else (s.add (p + 1) fall).jump hi f.imm.toNat taken)
    else if n = 0x12 then { s.add (p + 1) fall with trail := { s.trail with brk := joinNew s.trail.brk taken } }
    else if n = 0x11 then
      let len : Nat := f.imm.toNat % 256
      let byReg := f.a != 0x0FF
      let count : Nat := if byReg then 1 else f.imm.toNat / 256
      if len = 0 ∨ hi < p + len then s
      else if count = 0 then s.jump hi (p + len + 1) here
      else
        let t := passes (inner (reg || byReg) (p + 1) (p + len)) count here [] Trail.none
        let s : Span := { s with trail := { s.trail with ends := joinNew s.trail.ends t.ends, seen := joinNew s.trail.seen t.seen } }
        t.out.foldl (fun s x => s.jump hi x.1 [x.2]) (s.add (p + len + 1) (t.done ++ t.brk))
    else s.add (p + 1) (here.map (fun x => x.after r.top f (r.eff word)))

/-- The paths through the words from `lo` to `hi`; at most four loops are active (R103). -/
def runSpan (r : Reading) : Nat → Bool → Nat → Nat → List Path → Trail
  | 0, _, _, _, _ => Trail.none
  | d + 1, reg, lo, hi, l =>
    let s0 : Span := { at' := [(lo, l)], trail := Trail.none }
    let s := (List.range (hi + 1 - lo)).foldl (fun s i => spanWord r (runSpan r d) reg hi s (lo + i)) s0
    { s.trail with done := Tab.get [] s.at' (hi + 1) }

/-- The paths through a body from an entry. -/
def runBody (r : Reading) (entry : Nat) : Trail := runSpan r 5 false entry (r.ws.length - 1) [Path.start]

/-- Input channels that `take` names. -/
def takenChans (f : Fields) : List Nat :=
  ([f.a, f.b, f.c].filter isSlot).map desChan

/-- The companion of an input bound with code 16 or 17. -/
def Obj.companion (g : Obj) (i c : Nat) : Option Nat :=
  match g.port i false c with
  | some r => if entFmt r.ent = 16 ∨ entFmt r.ent = 17 then some (entCmp r.ent) else none
  | none => none

/-- What a word does to the `eoi` (kind 3) or `halt` (kind 9) duty (R234). -/
def dutyEffect (g : Obj) (i kind : Nat) (named : List Nat) (w : BitVec 96) : Effect :=
  let f := fieldsOf w
  let n := opNo w
  let took := if n = 0x02 then (takenChans f) ++ (takenChans f).filterMap (g.companion i) else []
  let gave := if n = 0x07 ∧ f.var = 1 then g.outs i
    else if (n = 0x07 ∧ f.var = 0) ∨ (n = 0x06 ∧ f.var.toNat = kind) then [desChan f.d] else []
  let head := n == 0x05 && f.pm == 0 && isSlot f.a && desOfs f.a == 0 && named.contains (desChan f.a)
  let mask : Option (Option Bool) :=
    if head && f.var == 2 then some (some true)
    else if head && f.var == 3 then some (some false)
    else if head && f.var == 4 && f.imm.toNat == kind then some (some true)
    else if (opUses w).d && isMask f.d then some none
    else none
  { take := took.map (fun c => (c, 1)), give := gave.map (fun c => (c, 1)), mask := mask }

/-- Whether a path has done the duty at its end, of an actor's outputs on some alone. -/
def dutyDone (all outs named : List Nat) (w : Path) : Bool :=
  all.all (fun c => w.pubs.getD c 0 == bit (outs.contains c)) && named.all (fun c => w.cons.getD c 0 == 1)

/-- The kinds that a clause accepts, of data and the control kinds. -/
def accKinds (c : Clause) : List Nat := [0, 1, 2, 3, 7, 8, 9].filter c.accepts

/-- Whether a clause does its duty for a kind on every path (R234), on some outputs: where it accepts nothing else, a mask decides no
branch. -/
def dutyHolds (g : Obj) (i kind : Nat) (outs : List Nat) (c : Clause) : Bool :=
  let ws := g.words i
  let named := c.ins.map Term.ch
  let eff := dutyEffect g i kind named
  let first := runBody { ws := ws, eff := eff, follow := fun _ => false, top := 0 } c.entry
  let open' := first.seen.filterMap (fun w =>
    let pm := (fieldsOf (ws.getD w.1 0)).pm
    if pm ≠ 0 ∧ (w.2.1.getD (pm.toNat - 1) none).isNone then some w.1 else none)
  let only := accKinds c == [kind]
  let all := runBody { ws := ws, eff := eff, follow := fun p => !only && !open'.contains p, top := 2 } c.entry
  all.ends.all (dutyDone (g.outs i) outs named)
    && all.seen.all (fun w =>
      let e := eff (ws.getD w.1 0)
      !(w.2.2 && (e.give != [] || e.take.any (fun p => named.contains p.1))))

-- Clauses (R225-R227, R231, R243) --------------------------------------------------------------------------------------------

/-- Whether two clauses are proved exclusive (R243). -/
def exclusive (c d : Clause) : Bool :=
  c.ins.any (fun t => d.ins.any (fun u => t.ch == u.ch)) && (c.acc &&& d.acc) == 0

/-- The words on which some path of a clause goes, by position. -/
def reached (ws : List (BitVec 96)) (entry : Nat) : List Nat :=
  ((runBody { ws := ws, eff := fun _ => { take := [], give := [], mask := none }, follow := fun _ => false, top := 0 } entry).seen.map
    Prod.fst).eraseDups

/-- What a word does to the counts of a rate signature (R239, R293): companion words apart. -/
def rateEffect (g : Obj) (i : Nat) (w : BitVec 96) : Effect :=
  let f := fieldsOf w
  let n := opNo w
  let k := if f.imm.toNat % 8 = 0 then 1 else f.imm.toNat % 8
  { take := if n = 0x02 then (takenChans f).map (fun c => (c, k)) else [],
    give := if n = 0x03 then [(desChan f.d, k)]
      else if n = 0x06 ∨ (n = 0x07 ∧ f.var = 0) then [(desChan f.d, 1)]
      else if n = 0x07 ∧ f.var = 1 then (g.outs i).map (fun c => (c, 1)) else [],
    mask := none }

/-- The paths of a clause as its rate signature counts them. -/
def ratePaths (g : Obj) (i : Nat) (c : Clause) : Trail :=
  runBody { ws := g.words i, eff := rateEffect g i, follow := fun _ => false, top := 65536 } c.entry

/-- The ends of a clause's paths, with their counts. -/
def rateEnds (g : Obj) (i : Nat) (c : Clause) : List Path := (ratePaths g i c).ends

/-- Whether a word with an effect stands in a loop whose count a register gives. -/
def rateOpen (g : Obj) (i : Nat) (c : Clause) : Bool :=
  (ratePaths g i c).seen.any (fun w =>
    let e := rateEffect g i ((g.words i).getD w.1 0)
    w.2.2 && (e.give != [] || e.take != []))

/-- The declared words of a channel of a clause. -/
def Clause.declared (c : Clause) (out : Bool) (ch : Nat) : Option Nat :=
  (c.rates.find? (fun r => r.out == out && r.ch == ch)).map Rate.wds

/-- A choice between two channels: on every path exactly one of them carries one word (R241). -/
def choosesOne (get : Path → List Nat) (ends : List Path) (x y : Nat) : Bool :=
  ends.all (fun w => (get w).getD x 0 + (get w).getD y 0 == 1)

/-- Whether every path moves one word on a channel. -/
def movesOne (get : Path → List Nat) (ends : List Path) (x : Nat) : Bool := ends.all (fun w => (get w).getD x 0 == 1)

/-- The type that a word of an actor resolves to (R29). -/
def staticType (g : Obj) (i : Nat) (w : BitVec 96) : Nat :=
  let f := fieldsOf w
  if f.ty ≠ 0 then f.ty.toNat
  else (((usedDes (opUses w) f).filterMap slotName).head?.map (fun x => typeOfFmt (g.fmt i x.1 x.2))).getD 1

-- What a body makes of one input (R241) -------------------------------------------------------------------------------------

/-- What stands in a register, a staging slot or a test, as an expression over the words that a firing finds on one input; `none` where it
rests on more than these and constants. -/
abbrev InTerm := Option (List Nat)

/-- The input's word behind `n` others. -/
def wordTerm (n : Nat) : List Nat := [1, n]

/-- A path through a body as the loader reads it for one input: what stands in registers and staging slots, the words taken from the
input, the tests made with their outcomes, whether each word published is the first word of the input, and the counts of the path. -/
structure Walk where
  regs   : Tab InTerm
  staged : Tab InTerm
  took   : Nat
  tests  : List (List Nat × Bool)
  copied : Bool
  path   : Path

def Walk.start : Walk := { regs := [], staged := [], took := 0, tests := [], copied := true, path := Path.start }

/-- An operand: what a register persists from earlier firings is no expression over this one's words. -/
def Walk.operand (x : Walk) (g : Obj) (i ch : Nat) (d : BitVec 10) : InTerm :=
  if d = 0x0F0 ∨ d = 0x0FE ∨ d = 0x0FF then some [2, d.toNat]
  else if isMask d then Tab.get none x.regs d.toNat
  else match desOf d with
    | .state _ => Tab.get none x.regs d.toNat
    | .const _ => ((regRecs g.o).find? (fun r => r.act == i && r.des == d && !r.abk)).elim (some [3, 0]) (fun r => some [3, r.pay.toNat])
    | .slot c j => if c = ch then some (wordTerm (x.took + j)) else none
    | _ => none

/-- What a word writes to its destination: a whole `mov` its operand, another word that works on its operands alone the expression that it
and they make, with what the destination held where some lanes keep it. -/
def Walk.result (x : Walk) (g : Obj) (i ch : Nat) (w : BitVec 96) : InTerm :=
  let f := fieldsOf w
  let n := opNo w
  let u := opUses w
  let part := f.ln != 0 || (readsMask w && f.pm != 0)
  if n = 0x39 ∧ f.var = 0 ∧ !part then x.operand g i ch f.a
  else if n = 0x05 ∨ n = 0x08 ∨ n = 0x0A ∨ n = 0x0B ∨ (0x20 ≤ n ∧ n ≤ 0x4D) ∨ n = 0x4F ∨ n = 0x50 ∨ n = 0x54 then
    let ops := usedDes { u with d := false } f ++ (if part then [f.d] ++ (if f.pm = 0 then [] else [BitVec.ofNat 10 (0xF0 + f.pm.toNat)]) else [])
    (ops.mapM (x.operand g i ch)).map (fun l =>
      [4, n, f.var.toNat, staticType g i w, f.ln.toNat, f.imm.toNat] ++ l.flatMap (fun t => t.length :: t))
  else none

/-- A walk after a word that does not branch. -/
def Walk.after (x : Walk) (g : Obj) (i ch : Nat) (w : BitVec 96) : Walk :=
  let f := fieldsOf w
  let eff := rateEffect g i w
  let v := x.result g i ch w
  let copied := x.copied && (opNo w != 0x03 || (decide (f.imm.toNat % 8 ≤ 1) && Tab.get none x.staged (8 * desChan f.d) == some (wordTerm 0)))
  { x with
    regs := if writesD w && !isOut f.d then Tab.set x.regs f.d.toNat v else x.regs,
    staged := if opNo w = 0x03 then x.staged.filter (fun p => p.1 / 8 != desChan f.d)
              else if writesD w && isOut f.d then Tab.set x.staged (8 * desChan f.d + desOfs f.d) v else x.staged,
    took := x.took + (eff.take.filter (fun p => p.1 == ch)).foldl (fun n p => n + p.2) 0,
    copied := copied, path := x.path.after 65536 f eff }

/-- What is known of the test of a `bra` (R102), and the outcome that takes it. -/
def Walk.test (x : Walk) (f : Fields) : InTerm × Bool :=
  let m := if f.pm = 0 then some [2, 0xF0] else Tab.get none x.regs (0xF0 + f.pm.toNat)
  match f.var.toNat with
  | 1 => (m.map (fun t => 1 :: t), true)
  | 2 => (m.map (fun t => 2 :: t), true)
  | _ => (m.map (fun t => 1 :: t), false)

/-- The walks from a position to the ends of a body; none where a loop stands in the way. -/
def walksFrom (g : Obj) (i ch : Nat) : Nat → Nat → Walk → Option (List Walk)
  | 0, _, _ => some []
  | n + 1, p, x =>
    match (g.words i)[p]? with
    | none => some []
    | some w =>
      let f := fieldsOf w
      let go (q : Nat) (y : Walk) : Option (List Walk) := if q ≤ p then some [] else walksFrom g i ch n q y
      if opNo w = 0x01 then some [x]
      else if opNo w = 0xFF then some []
      else if opNo w = 0x11 ∨ opNo w = 0x12 then none
      else if opNo w ≠ 0x10 then walksFrom g i ch n (p + 1) (x.after g i ch w)
      else if f.var = 0 then go f.imm.toNat x
      else
        let t := x.test f
        let known (b : Bool) : Option Walk := match t.1 with
          | none => some x
          | some e => if x.tests.contains (e, !b) then none else some { x with tests := if x.tests.contains (e, b) then x.tests else x.tests ++ [(e, b)] }
        let taken := (known t.2).elim (some []) (go f.imm.toNat)
        let fall := (known !t.2).elim (some []) (walksFrom g i ch n (p + 1))
        taken.bind (fun a => fall.map (fun b => a ++ b))

/-- The walks of a clause. -/
def walksOf (g : Obj) (i ch : Nat) (c : Clause) : Option (List Walk) := walksFrom g i ch (g.words i).length c.entry Walk.start

/-- How a clause chooses between its channels 0 and 1: the tests on the words of the select input under which it takes the one, and those
under which it takes the other; none where the select does not decide it. The spec does not say which select word is true: what chooses
channel 0 is (R241; log 154). -/
def choiceOf (g : Obj) (i sel : Nat) (c : Clause) (get : Path → List Nat) : Option (List (List (List Nat × Bool)) × List (List (List Nat × Bool))) :=
  match walksOf g i sel c with
  | none => none
  | some l =>
    let on (k : Nat) : List (List (List Nat × Bool)) := ((l.filter (fun x => (get x.path).getD k 0 == 1)).map Walk.tests).eraseDups
    let apart (a b : List (List Nat × Bool)) : Bool := a.any (fun t => b.contains (t.1, !t.2))
    if (on 0).all (fun a => (on 1).all (apart a)) then some (on 0, on 1) else none

/-- A steer (R241): one word from c0 and from the select on c1, one out on o0 or o1. -/
def isSteer (g : Obj) (i : Nat) (c : Clause) : Bool :=
  let ends := rateEnds g i c
  g.outs i == [0, 1] && (c.ins.map Term.ch == [0, 1] || c.ins.map Term.ch == [1, 0]) && c.accepts 0 && movesOne Path.cons ends 0 && movesOne Path.cons ends 1
    && choosesOne Path.pubs ends 0 1 && (choiceOf g i 1 c Path.pubs).isSome

/-- A merge by control (R241): one word from the select on c2 and one from c0 or c1, one out on o0. -/
def isSelect (g : Obj) (i : Nat) (c : Clause) : Bool :=
  let ends := rateEnds g i c
  g.ins i == [0, 1, 2] && g.outs i == [0] && c.ins.map Term.ch == [2] && c.accepts 0 && movesOne Path.cons ends 2 && movesOne Path.pubs ends 0
    && choosesOne Path.cons ends 0 1 && (choiceOf g i 2 c Path.cons).isSome

/-- The first channel of a clause whose count on some path differs from the declared one, and that count (R239): inputs that
the clause names or declares, and every output. -/
def rateWrong (g : Obj) (i : Nat) (c : Clause) : Option (Bool × Nat × Nat) :=
  let ends := rateEnds g i c
  let comps := (g.ins i).filterMap (g.companion i)
  let free (out : Bool) (ch : Nat) : Bool :=
    (!out && comps.contains ch) || (out && isSteer g i c && decide (ch < 2)) || (!out && isSelect g i c && decide (ch < 2))
  let bad (out : Bool) (ch : Nat) : Bool :=
    let d := (c.declared out ch).getD 0
    !free out ch && ends.any (fun w => (if out then w.pubs else w.cons).getD ch 0 != d)
  let missing (out : Bool) (ch : Nat) : Bool := (c.declared out ch).isNone
  let find (out : Bool) (terms : List Nat) (chans : List Nat) : Option (Bool × Nat × Nat) :=
    (chans.find? (fun ch => bad out ch || (terms.contains ch && missing out ch && !free out ch))).map (fun ch => (out, ch, (c.declared out ch).getD 0))
  let named := c.ins.map Term.ch
  (find false named ((g.ins i).filter (fun ch => named.contains ch || !missing false ch))).orElse
    (fun _ => find true (c.outs.map Term.ch) (g.outs i))

/-- The words a firing of a clause moves on a channel: those it declares, else those of every path. -/
def wordsMoved (g : Obj) (i : Nat) (c : Clause) (out : Bool) (ch : Nat) : Nat :=
  match c.declared out ch with
  | some w => w
  | none => ((rateEnds g i c).head?.map (fun w => (if out then w.pubs else w.cons).getD ch 0)).getD 0

/-- Whether an actor is an exact-commutative operator (R245); only an SE has a scratchpad of its own. Beside the ops that the rule lists,
a data clause may take, wait and end: these make no result. A record queue and a buffer publish outside any clause and are none. -/
def commutOk (g : Obj) (i : Nat) : Bool :=
  let ws := g.words i
  decide ((g.act i).cls ≤ 3) && (g.clauses i).all (fun p =>
    let c := p.2
    let at' := (reached ws c.entry).map (fun q => ws.getD q 0)
    (c.accepts 3 || at'.all (fun w => !([0x03, 0x06, 0x07].contains (opNo w)))) &&
      (!c.accepts 0 || at'.all (fun w =>
        let f := fieldsOf w
        let n := opNo w
        let plain := f.var == 0 && decide (f.d.toNat < 0x40) && decide (f.ty.toNat ≤ 4)
        let intSrc := f.ty != 0 || decide (staticType g i w ≤ 4)
        if n = 0x76 then (g.act i).cls == 1 && decide (f.var.toNat ≤ 7) && f.d == 0x0FF
        else if n = 0x29 ∨ n = 0x2A then (plain || (f.var == 1 && decide (f.d.toNat < 0x40) && decide (f.ty.toNat ≤ 4))) && intSrc
        else if n = 0x20 ∨ (0x2B ≤ n ∧ n ≤ 0x2D) then plain && intSrc
        else [0x00, 0x01, 0x02, 0x04].contains n)))

/-- Whether a word may set sticky flags (R38): float arithmetic and conversion, float reductions, the float variants of `dot`. -/
def setsSticky (g : Obj) (i : Nat) (w : BitVec 96) : Bool :=
  let n := opNo w
  let v := (fieldsOf w).var.toNat
  decide (0x40 ≤ n ∧ n ≤ 0x43) || decide (0x48 ≤ n ∧ n ≤ 0x4C) || decide (0x4F ≤ n ∧ n ≤ 0x53) || (n == 0x60 && decide (v ≤ 1))
    || ((n == 0x3F || n == 0x54) && decide (v < 3) && !intTypes (staticType g i w))

/-- Whether a word leaves alone all that R415 bars beside its operands: local stores, accumulators, the sticky flags, scale registers
read in line (which only words that set those may), nests, ports, memory, engines, arrays, and the stamp of `stmp`. -/
def mergeOp (g : Obj) (i : Nat) (w : BitVec 96) : Bool :=
  let n := opNo w
  let f := fieldsOf w
  !(setsSticky g i w || n == 0x4E || decide (0x61 ≤ n ∧ n ≤ 0x76) || (decide (0x80 ≤ n ∧ n ≤ 0xA7) && !(n == 0x82 && f.var == 1))
    || n == 0xB1 || decide (0xC0 ≤ n ∧ n ≤ 0xC4) || (n == 0xD1 && f.var == 2))

/-- Whether a clause of an arrival-order merge has the structure of R415. -/
def mergeClause (g : Obj) (i o : Nat) (c : Clause) : Bool :=
  let ws := g.words i
  let ends := rateEnds g i c
  let quiet (d : BitVec 10) : Bool :=
    match desOf d with
    | .state _ => false
    | .special n => n == 0xFF || n == 0xFE || n == 0xF0
    | _ => true
  c.ins.length == 1 && c.outs.map Term.ch == [o]
    && c.ins.all (fun t => c.declared false t.ch == some 1) && c.declared true o == some 1
    && ends.all (fun w => w.pubs.getD o 0 == 1)
    && (reached ws c.entry).all (fun p =>
      let w := ws.getD p 0
      let f := fieldsOf w
      let u := opUses w
      (!writesD w || f.d == 0x0FF || (isOut f.d && desChan f.d == o)) && (!u.a || quiet f.a) && (!u.b || quiet f.b) && (!u.c || quiet f.c)
        && (!readsMask w || f.pm == 0) && mergeOp g i w)

/-- Whether an actor is an arrival-order merge (R415). -/
def isMerge (g : Obj) (i : Nat) : Bool :=
  let a := g.act i
  let data := (g.clauses i).filter (fun p => p.2.accepts 0)
  match g.outs i with
  | [o] =>
    !a.cmt && !a.sect && !a.strm && decide (a.cls ≤ 3) && data.all (fun p => mergeClause g i o p.2)
      && (data.flatMap (fun p => p.2.ins.map Term.ch)).Nodup
      && ((g.clauses i).filter (fun p => p.2.accepts 3)).all (fun p => dutyHolds g i 3 [o] p.2)
  | _ => false

/-- Whether an arrival-order merge feeds an accepted exact-commutative operator, so that its order taints nothing (R243,
R244). -/
def mergeExempt (g : Obj) (i : Nat) : Bool :=
  isMerge g i && (g.outs i).all (fun o => match g.port i true o with
    | some r => !r.gate && (g.act r.far).cmt && commutOk g r.far
    | none => false)

/-- Whether a clause is an arrival-order clause (R243). -/
def arrivalOrder (g : Obj) (i k : Nat) : Bool :=
  let cl := g.clauses i
  hdrFree g.o && (List.range cl.length).any (fun j => j != k &&
    match cl[j]?, cl[k]? with
    | some c, some d => !exclusive c.2 d.2
    | _, _ => false)

/-- The report on a clause record. -/
def clauseRep (code i rix : Nat) : Report := { Report.of code with skind := 3, rix := rix, act := i }

/-- The control kinds that the seeds of a gate or the `ctlw` words of a producer put on an input's channel; `eoi` comes on every
channel (R234). -/
def kindsMade (g : Obj) (r : ChnRec) : List Nat :=
  let sent := if r.gate then
      ((g.gates[r.far]?).map (fun x => (x.seeds.filter CWord.isCtl).map (fun w => w.kind.toNat))).getD []
    else (g.words r.far).filterMap (fun w =>
      let f := fieldsOf w
      if opNo w = 0x06 ∧ isOut f.d ∧ desChan f.d = r.fch then some f.var.toNat else none)
  (3 :: sent).eraseDups.filter (fun k => k != 4 && k != 5 && k != 6 && k != 0)

/-- The control kinds that reach each input, by its place in CHN. -/
abbrev Kinds := Tab (List Nat)

/-- The kinds that reach an input of an actor. -/
def kindsAt (g : Obj) (t : Kinds) (i c : Nat) : List Nat :=
  match g.chn.findIdx? (fun r => r.act == i && !r.out && r.chn == c) with
  | some k => Tab.get [] t k
  | none => []

/-- Whether a clause that accepts a kind publishes words on an output by `cfwd` on some path of a firing with such heads. -/
def forwards (g : Obj) (i o kind : Nat) (c : Clause) : Bool :=
  let cfwd (w : BitVec 96) : Effect :=
    let e := dutyEffect g i kind (c.ins.map Term.ch) w
    if opNo w = 0x07 then e else { e with give := [] }
  c.accepts kind && (runBody { ws := g.words i, eff := cfwd, follow := fun _ => true, top := 2 } c.entry).ends.any
    (fun x => x.pubs.getD o 0 != 0)

/-- The kinds that a producer sends on to an input: a record queue its `arm` words to its members (R280), a section member the `arm`
words that arm it (R251), an actor what its clauses forward (R98). -/
def kindsPassed (g : Obj) (t : Kinds) (r : ChnRec) : List Nat :=
  if r.gate then []
  else if (g.act r.far).cls = 4 then
    (if r.fch < (recqMembers g.o r.far).length then (kindsAt g t r.far 0).filter (fun k => k == 7) else [])
  else
    let a := g.act r.far
    [1, 2, 7, 8, 9].filter (fun k =>
      (k == 7 && a.sect && a.armo == some r.fch && (kindsAt g t r.far a.armi).contains 7)
        || (g.clauses r.far).any (fun p => p.2.ins.all (fun x => (kindsAt g t r.far x.ch).contains k) && forwards g r.far r.fch k p.2))

/-- One more pass over the inputs. -/
def kindsStep (g : Obj) (t : Kinds) : Kinds :=
  g.chn.zipIdx.foldl (fun t p => if p.1.out then t else Tab.set t p.2 ((Tab.get [] t p.2 ++ kindsPassed g t p.1).eraseDups)) t

/-- Passes until nothing changes. -/
def kindsLoop (g : Obj) : Nat → Kinds → Kinds
  | 0, t => t
  | n + 1, t => let u := kindsStep g t; if u == t then t else kindsLoop g n u

/-- The kinds that reach every input (R231). -/
def kindsReach (g : Obj) : Kinds :=
  kindsLoop g (7 * g.chn.length) (g.chn.zipIdx.filterMap (fun p => if p.1.out then none else some (p.2, kindsMade g p.1)))

/-- A clause of an actor (R227): codes 11 and 12; a nonzero `age` is rejected with the reserved bits (log 160). -/
def checkClause (g : Obj) (i : Nat) (a : ActRec) (n : Nat) (c : Clause) : Chk :=
  let ent := ((g.cls[n]?).map ClsRec.ent).getD 0
  let ci := c.ins.map Term.ch
  let co := c.outs.map Term.ch
  let bad (k : Nat) : Report := clauseRep k i n
  want (decide (c.entry < (g.words i).length) && ci != [] && c.acc != 0 && decide ci.Nodup && decide co.Nodup
        && ci.all (fun x => (g.port i false x).isSome) && co.all (fun x => (g.port i true x).isSome)
        && !(c.strm && a.cls != 0) && bitsAt ent 96 15 == 0 && bitsAt ent 0 20 == 0) (bad 11)
  <|> overAll c.ins (fun t => want (decide (t.min ≤ g.cap i false t.ch)) { bad 12 with chn := t.ch, aux := t.min })
  <|> overAll c.outs (fun t => want (decide (t.min ≤ g.cap i true t.ch)) { bad 12 with chn := t.ch, out := true, aux := t.min })

/-- Whether an input is a companion, whose control words are consumed with another's (R32): what stands there need not come to the head
alone. -/
def pairedInput (g : Obj) (r : ChnRec) : Bool :=
  (g.ins r.act).any (fun c => g.companion r.act c == some r.chn)

/-- What an actor's record asks of its clauses together (R225, R227, R231, R234, R245; log 168): codes 11, 13, 20. -/
def checkClauses (g : Obj) (kinds : Kinds) (i : Nat) (a : ActRec) : Chk :=
  let cl := g.clauses i
  let act (k : Nat) : Report := { Report.of k with skind := 2, rix := i, act := i }
  if 4 ≤ a.cls then want (!a.cmt) (act 20)
  else
    want (decide (1 ≤ a.ncl ∧ a.ncl ≤ 4) && cl.length == a.ncl && g.ins i != []) (act 11)
    <|> want (decide ((cl.map (fun p => p.2.pri)).Nodup)) (act 11)
    <|> overAll (g.chn.filter (fun r => r.act == i && !r.out && !pairedInput g r)) (fun r =>
          overAll (kindsAt g kinds i r.chn) (fun k =>
            want (cl.any (fun p => (p.2.ins.map Term.ch).contains r.chn && p.2.accepts k) || (a.sect && r.chn == a.armi && k == 7)
                  || (k == 3 && !cl.any (fun p => p.2.accepts 3)))
              { act 11 with chn := r.chn, aux := k }))
    <|> want (cl.any (fun p => p.2.accepts 3)) (act 13)
    <|> want (!a.cmt || commutOk g i) (act 20)

/-- What a body does on a clause's paths (R234, R239): codes 13 and 14. The duty is owed on some outputs: in a fold element those of the
original actor, each of whose invocations ends by itself (log 157). -/
def checkPaths (g : Obj) (i n : Nat) (outs : List Nat) (c : Clause) : Chk :=
  want (!c.accepts 3 || dutyHolds g i 3 outs c) (clauseRep 13 i n)
  <|> want (!c.accepts 9 || dutyHolds g i 9 outs c) (clauseRep 13 i n)
  <|> (match rateWrong g i c with
       | some (out, ch, d) => some { clauseRep 14 i n with chn := ch, out := out, aux := d }
       | none => none)
  <|> want (!rateOpen g i c) (clauseRep 14 i n)

end Sys2Proof.Machine
end

