-- ==== Sys2Proof/Machine/Folding.lean ====
section
/-! DEFINITION. Fold alternatives (spec 13, R304, R313): which base actors an element of an alternative is made of, and how the
merge renumbers their words, clauses, registers, ports and channels. -/
namespace Sys2Proof.Machine

/-- A base actor in the element that holds it: the element, the actor, where its body and its clauses begin there. -/
structure Member where
  el   : Nat
  act  : Nat
  word : Nat
  cl   : Nat
  deriving DecidableEq, Repr

/-- Pairs of words of an actor and of its element. -/
def wordPairs (g : Obj) (m : Member) : List (BitVec 96 × BitVec 96) := (g.words m.act).zip ((g.words m.el).drop m.word)

/-- Pairs of clauses of an actor and of its element, in the same order. -/
def clausePairs (g : Obj) (m : Member) : List (Clause × Clause) :=
  ((g.clauses m.act).map Prod.snd).zip (((g.clauses m.el).drop m.cl).map Prod.snd)

/-- Where the port numbers of a word of an AG stand in its `imm` (R156, R182, R185): what each is multiplied by. -/
def portFields (w : BitVec 96) : List Nat :=
  let n := opNo w
  if n = 0xA4 then [1, 4, 16] else if n = 0xA3 ∨ n = 0xA5 then [1, 4]
  else if (0x83 ≤ n ∧ n ≤ 0x89) ∨ n = 0x90 ∨ n = 0x91 ∨ (n = 0x94 ∧ (fieldsOf w).var = 0) ∨ n = 0x95 ∨ n = 0x96 ∨ (0xA0 ≤ n ∧ n ≤ 0xA2) then [1]
  else []

/-- Where a scale register's number stands in a word's `imm` (R118, R139). -/
def scaleFields (w : BitVec 96) : List Nat :=
  let n := opNo w
  if n = 0x61 ∨ n = 0x62 then [2 ^ 20] else if n = 0x51 ∨ n = 0x52 ∨ n = 0x65 then [64] else []

/-- A number with some of its fields, of `size` values each, at 0. -/
def without (size n : Nat) (l : List Nat) : Nat := l.foldl (fun n d => n - d * (n / d % size)) n

/-- The `imm` of a word without what a merge renumbers in it. -/
def immKept (w : BitVec 96) : Nat := without 8 (without 4 (fieldsOf w).imm.toNat (portFields w)) (scaleFields w)

/-- Whether a designator is another renumbered: one register class, one slot offset; other specials as they are (R313). -/
def desFits (x y : BitVec 10) : Bool :=
  let scale (n : Nat) : Bool := decide (0xE8 ≤ n ∧ n ≤ 0xEF)
  match desOf x, desOf y with
  | .state _, .state _ => true
  | .const _, .const _ => true
  | .slot _ i, .slot _ j => i == j
  | .out _ i, .out _ j => i == j
  | .special n, .special k => n == k || (isMask x && isMask y) || (scale n && scale k)
  | _, _ => x == y

/-- Whether a word of an element is an actor's, renumbered: a `bra` target moves with the body, every other field stays (R313). -/
def wordFits (shift : Nat) (x y : BitVec 96) : Bool :=
  let f := fieldsOf x
  let h := fieldsOf y
  opNo x == opNo y && f.var == h.var && f.ty == h.ty && f.ln == h.ln && f.wa == h.wa && f.wb == h.wb && f.wd == h.wd
    && (f.pm == 0) == (h.pm == 0) && ((usedDes (opUses x) f).zip (usedDes (opUses y) h)).all (fun p => desFits p.1 p.2)
    && (if opNo x = 0x10 then h.imm.toNat == f.imm.toNat + shift else immKept y == immKept x)

/-- Pairs of designators that corresponding words of an actor and its element use. -/
def desPairs (g : Obj) (m : Member) : List (BitVec 10 × BitVec 10) :=
  (wordPairs g m).flatMap (fun p => (usedDes (opUses p.1) (fieldsOf p.1)).zip (usedDes (opUses p.2) (fieldsOf p.2)))

/-- Pairs of channels, (an actor's, its element's), that clauses and words name (R313). -/
def namedPairs (g : Obj) (m : Member) (out : Bool) : List (Nat × Nat) :=
  ((clausePairs g m).flatMap (fun p => ((if out then p.1.outs else p.1.ins).zip (if out then p.2.outs else p.2.ins)).map (fun t => (t.1.ch, t.2.ch)))
    ++ (desPairs g m).filterMap (fun p => match slotName p.1, slotName p.2 with
      | some (o, c), some (o', c') => if o = out ∧ o' = out then some (c, c') else none
      | _, _ => none)).eraseDups

/-- The same with the companions of inputs. -/
def chanPairs (g : Obj) (m : Member) (out : Bool) : List (Nat × Nat) :=
  let l := namedPairs g m out
  if out then l
  else (l ++ l.filterMap (fun p => match g.companion m.act p.1, g.companion m.el p.2 with
    | some c, some c' => some (c, c')
    | _, _ => none)).eraseDups

/-- The groups above the element level that an actor lies in. -/
def levelsOf (g : Obj) (i : Nat) : List (List Nat) := (g.grp.filter (fun x => decide (x.kind ≤ 3) && x.mem.contains i)).map (fun x => x.kind :: x.mem)

/-- Whether the rate terms of an element's clause are an actor's, renumbered. -/
def ratesFit (g : Obj) (m : Member) (x y : Clause) : Bool :=
  x.rates.length == y.rates.length && x.rates.all (fun r => y.rates.any (fun q =>
    q.out == r.out && q.wds == r.wds && q.rows == r.rows && (chanPairs g m r.out).contains (r.ch, q.ch)))

/-- Whether an actor fits an element at a place: class, body, and clauses with `pri` numbered in their order (R313). -/
def memberFits (g : Obj) (m : Member) : Bool :=
  (g.act m.act).cls == (g.act m.el).cls
    && decide ((g.words m.act).length ≤ ((g.words m.el).drop m.word).length) && (wordPairs g m).all (fun p => wordFits m.word p.1 p.2)
    && decide ((g.clauses m.act).length ≤ ((g.clauses m.el).drop m.cl).length)
    && (clausePairs g m).zipIdx.all (fun q =>
      let x := q.1.1
      let y := q.1.2
      y.entry == x.entry + m.word && y.acc == x.acc && y.pri == m.cl + q.2 && y.strm == x.strm
        && y.ins.map Term.min == x.ins.map Term.min && y.outs.map Term.min == x.outs.map Term.min && ratesFit g m x y)

/-- Whether the far ends of a member's channels are those of its actor, where they are gates, kept actors or members among some: a
channel between members becomes one between their elements. -/
def farFits (g : Obj) (base : List Nat) (ms : List Member) (m : Member) : Bool :=
  let far (i : Nat) (out : Bool) (c : Nat) : Option (Bool × Nat × Nat) := (g.port i out c).map (fun r => (r.gate, r.far, r.fch))
  let same (out : Bool) : Bool := (chanPairs g m out).all (fun p =>
    match far m.act out p.1 with
    | none => (far m.el out p.2).isNone
    | some (gate, i, c) =>
      if gate || !base.contains i then far m.el out p.2 == some (gate, i, c)
      else match ms.find? (fun x => x.act == i) with
        | none => true
        | some x => (far m.el out p.2).any (fun q => !q.1 && q.2.1 == x.el && (chanPairs g x (!out)).contains (c, q.2.2)))
  same false && same true

-- Pairs of what a merge renumbers (R313) --------------------------------------------------------------------------------------

/-- Pairs of numbers of state registers, masks, scale registers and ports. -/
def statePairs (g : Obj) (m : Member) : List (Nat × Nat) :=
  ((desPairs g m).filterMap (fun p => match desOf p.1, desOf p.2 with
    | .state i, .state j => some (i, j)
    | _, _ => none)).eraseDups

def specialPairs (g : Obj) (m : Member) (lo n : Nat) : List (Nat × Nat) :=
  ((desPairs g m).filterMap (fun p => match desOf p.1, desOf p.2 with
    | .special i, .special j => if lo ≤ i ∧ i < lo + n ∧ lo ≤ j ∧ j < lo + n then some (i - lo, j - lo) else none
    | _, _ => none)).eraseDups

def maskPairs (g : Obj) (m : Member) : List (Nat × Nat) :=
  ((specialPairs g m 0xF1 3) ++ (wordPairs g m).filterMap (fun p =>
    let i := (fieldsOf p.1).pm.toNat
    let j := (fieldsOf p.2).pm.toNat
    if i = 0 ∨ j = 0 then none else some (i - 1, j - 1))).eraseDups

def scalePairs (g : Obj) (m : Member) : List (Nat × Nat) :=
  (specialPairs g m 0xE8 8 ++ (chanPairs g m false).filterMap (fun p =>
    match g.port m.act false p.1, g.port m.el false p.2 with
    | some x, some y => if (8 ≤ entFmt x.ent ∧ entFmt x.ent ≤ 11) ∨ entFmt x.ent = 16 ∨ entFmt x.ent = 17 then some (entXs x.ent, entXs y.ent) else none
    | _, _ => none)
    ++ (wordPairs g m).flatMap (fun p => (scaleFields p.1).map (fun d => ((fieldsOf p.1).imm.toNat / d % 8, (fieldsOf p.2).imm.toNat / d % 8)))).eraseDups

def portPairs (g : Obj) (m : Member) : List (Nat × Nat) :=
  if (g.act m.act).cls ≠ 2 then []
  else ((wordPairs g m).flatMap (fun p =>
    (portFields p.1).map (fun d => ((fieldsOf p.1).imm.toNat / d % 4, (fieldsOf p.2).imm.toNat / d % 4)))).eraseDups

def constPairs (g : Obj) (m : Member) : List (Nat × Nat) :=
  ((desPairs g m).filterMap (fun p => match desOf p.1, desOf p.2 with
    | .const i, .const j => some (i, j)
    | _, _ => none)).eraseDups

-- Whether an alternative is a merge ----------------------------------------------------------------------------------------

/-- Whether pairs of numbers renumber the members of one element: each number of a member has one there, no two share one, and the host's
stay (R313). -/
def renumbers (ms : List Member) (pairs : Member → List (Nat × Nat)) : Bool :=
  let l := ms.flatMap (fun m => (pairs m).map (fun p => ((m.act, p.1), p.2)))
  l.all (fun x => l.all (fun y => (x.1 == y.1) == (x.2 == y.2)))
    && ms.all (fun m => m.cl != 0 || (pairs m).all (fun p => p.1 == p.2))

/-- The words preloaded on an input. -/
def preloadsOf (g : Obj) (i c : Nat) : List CWord :=
  match g.chn.findIdx? (fun r => r.act == i && !r.out && r.chn == c) with
  | some k => ((preRecs g.o).filter (fun p => p.1 == k)).map Prod.snd
  | none => []

/-- Whether what installation sets for a member stands in its element: initial registers, ports, and the channels' entries and preloads. -/
def membersInit (g : Obj) (m : Member) : Bool :=
  let reg (i d : Nat) : Option Payload := ((regRecs g.o).find? (fun r => r.act == i && !r.abk && r.des.toNat == d)).map RegRec.pay
  let port (i k : Nat) : Option (Nat × Nat) := ((portRecs g.o).find? (fun r => r.act == i && r.sp == k)).map (fun r => (r.tns, r.tsz))
  let ent (i : Nat) (out : Bool) (c : Nat) : Option (Nat × Nat × Nat) := (g.port i out c).map (fun r => (entFmt r.ent, entCap r.ent, entPre r.ent))
  (statePairs g m).all (fun p => reg m.act p.1 == reg m.el p.2) && (constPairs g m).all (fun p => reg m.act (256 + p.1) == reg m.el (256 + p.2))
    && (scalePairs g m).all (fun p => reg m.act (0xE8 + p.1) == reg m.el (0xE8 + p.2))
    && (portPairs g m).all (fun p => port m.act p.1 == port m.el p.2)
    && [false, true].all (fun out => (chanPairs g m out).all (fun p => ent m.act out p.1 == ent m.el out p.2))
    && (chanPairs g m false).all (fun p => preloadsOf g m.act p.1 == preloadsOf g m.el p.2)

/-- Whether the members of every element keep their registers, ports and channels apart, and bring what installation sets (R313). -/
def membersApart (g : Obj) (ms : List Member) : Bool :=
  (ms.map Member.el).eraseDups.all (fun el =>
    let l := ms.filter (fun m => m.el == el)
    renumbers l (statePairs g) && renumbers l (constPairs g) && renumbers l (maskPairs g) && renumbers l (scalePairs g)
      && renumbers l (portPairs g) && renumbers l (fun m => chanPairs g m false) && renumbers l (fun m => chanPairs g m true))
    && ms.all (membersInit g)

/-- The base actors given to the elements of an alternative, one after another (R313): each element is its actors' bodies and clauses in
order, its members share their groups and nothing else, and far ends agree. -/
def giveMembers (g : Obj) (base : List Nat) : Nat → List Nat → Nat → Nat → List Nat → List Member → Option (List Member)
  | 0, _, _, _, _, _ => none
  | n + 1, els, word, cl, free, ms =>
    match els with
    | [] => if free = [] ∧ ms.all (farFits g base ms) ∧ membersApart g ms then some ms else none
    | el :: r =>
      if 0 < word ∧ word = (g.words el).length ∧ cl = (g.clauses el).length then giveMembers g base n r 0 0 free ms
      else free.findSome? (fun i =>
        let m : Member := { el := el, act := i, word := word, cl := cl }
        let host := ((ms.filter (fun x => x.el == el)).head?.map Member.act).getD i
        if memberFits g m && levelsOf g i == levelsOf g host && farFits g base (ms ++ [m]) m then
          giveMembers g base n els (word + (g.words i).length) (cl + (g.clauses i).length) (free.erase i) (ms ++ [m])
        else none)

/-- The elements of an alternative, channel buffers of their inputs apart. -/
def foldElems (g : Obj) (choice : Nat) : List Nat :=
  (List.range g.acts.length).filter (fun i => (g.act i).fold == choice && (g.act i).cls != 5)

/-- The members of every element of a fold choice; none where the alternative is no merge of its base actors. -/
def foldMembers? (g : Obj) (choice : Nat) : Option (List Member) :=
  let base := ((g.folds[choice - 1]?).map FoldRec.base).getD []
  let els := foldElems g choice
  giveMembers g base (base.length + els.length + 1) els 0 0 base []

def foldMembers (g : Obj) (choice : Nat) : List Member := if choice = 0 then [] else (foldMembers? g choice).getD []

/-- The original actor of a clause of an element, by its place (R243); of a base actor, itself. -/
def clauseOwner (g : Obj) (i k : Nat) : Nat :=
  (((foldMembers g (g.act i).fold).filter (fun m => m.el == i && decide (m.cl ≤ k ∧ k < m.cl + (g.clauses m.act).length))).head?.map Member.act).getD i

/-- The outputs of the original actor whose clause it is: of a member, those it has in its element (R313); of a base actor, all. -/
def clauseOuts (g : Obj) (i : Nat) (c : Clause) : List Nat :=
  let k := ((g.clauses i).findIdx? (fun p => p.2 == c)).getD 0
  match (foldMembers g (g.act i).fold).find? (fun m => m.el == i && decide (m.cl ≤ k ∧ k < m.cl + (g.clauses m.act).length)) with
  | some m => (chanPairs g m true).map Prod.snd
  | none => g.outs i

/-- Whether an actor's words name a completion object (R185). -/
def namesObject (g : Obj) (i co : Nat) : Bool :=
  (g.words i).any (fun w => let n := opNo w
    (n == 0x87 || decide (0xA0 ≤ n ∧ n ≤ 0xA7)) && (fieldsOf w).imm.toNat / 64 % 8 == co)

end Sys2Proof.Machine
end

