-- ==== Sys2Proof/Machine/Progress.lean ====
section
/-! DEFINITION. The checks of R239 on a graph of one fold choice: balance, cycles, capacity, control (codes 15 to 18). -/
namespace Sys2Proof.Machine

/-- A channel between actors, by its producing end. -/
def chanKey (act ch : Nat) : Nat := act * 16 + ch

/-- The records of a fold choice. -/
structure Part where
  g    : Obj
  acts : List Nat
  recs : List ChnRec

def Part.of (g : Obj) (choice : Nat) : Part := { g := g, acts := actorsOf g.o choice, recs := chansOf g.o choice }

/-- The record of an end in a fold choice. -/
def Part.port (p : Part) (i : Nat) (out : Bool) (c : Nat) : Option ChnRec :=
  p.recs.find? (fun r => r.act == i && r.out == out && r.chn == c)

/-- The channel at an end, where both its ends are actors of the choice. -/
def Part.chan (p : Part) (i : Nat) (out : Bool) (c : Nat) : Option Nat :=
  match p.port i out c with
  | some r => (farEnd p.recs r).map (fun q => if out then chanKey i c else chanKey q.act q.chn)
  | none => none

/-- What one firing of a kind does to channels: words other than `eoi` and `eoi` words, produced above 0 and consumed below; where a
select stream chooses it, the origin of that stream and the choice. -/
structure Column where
  act  : Nat
  data : Bool
  sel  : Option (Nat × Bool)
  moves : List (Nat × Bool × Int)

/-- The moves of a firing of a clause; `eoi` says whether its heads are `eoi`. -/
def clauseMoves (p : Part) (i : Nat) (c : Clause) (eoi : Bool) : List (Nat × Bool × Int) :=
  ((p.g.ins i).map (fun c => (false, c)) ++ (p.g.outs i).map (fun c => (true, c))).flatMap (fun r =>
    let w := wordsMoved p.g i c r.1 r.2
    match p.chan i r.1 r.2 with
    | none => []
    | some k =>
      let sgn : Int := if r.1 then 1 else -1
      let one := eoi && (if r.1 then (clauseOuts p.g i c).contains r.2 else c.ins.any (fun t => t.ch == r.2))
      if one then [(k, true, sgn), (k, false, sgn * ((w - 1 : Nat) : Int))] else [(k, false, sgn * (w : Int))])

/-- A move of one word on an end. -/
def oneMove (p : Part) (i : Nat) (out eoi : Bool) (ch : Nat) (n : Int) : List (Nat × Bool × Int) :=
  match p.chan i out ch with
  | some k => [(k, eoi, if out then n else -n)]
  | none => []

/-- Whether an actor is a fork: one input, one word of it on each output, every word published a copy of it (R241). -/
def isFork (g : Obj) (i : Nat) : Bool :=
  match g.ins i with
  | [ch] => (g.clauses i).all (fun c => c.2.rates.all (fun r => r.wds == 1)
      && (g.outs i).all (fun o => c.2.declared true o == some 1)
      && (!c.2.accepts 0 || (walksOf g i ch c.2).any (fun l => l.all Walk.copied)))
  | _ => false

/-- The fork that copies the select stream of a steer or a merge, where there is one. -/
def selectFork (p : Part) (i ch : Nat) : Option Nat :=
  match p.port i false ch with
  | some r => if !r.gate && isFork p.g r.far then some r.far else none
  | none => none

/-- The clauses of a choice that choose: actor, clause, whether a steer. -/
def choosing (p : Part) : List (Nat × Clause × Bool) :=
  p.acts.flatMap (fun i => (p.g.clauses i).filterMap (fun c =>
    if isSteer p.g i c.2 then some (i, c.2, true) else if isSelect p.g i c.2 then some (i, c.2, false) else none))

/-- What a chooser's choice rests on: the fork of its select stream, and the tests on a select word under which it takes channel 0. -/
def choiceKey (p : Part) (x : Nat × Clause × Bool) : Option (Nat × List (List (List Nat × Bool)) × List (List (List Nat × Bool))) :=
  let sel := if x.2.2 then 1 else 2
  match selectFork p x.1 sel, choiceOf p.g x.1 sel x.2.1 (if x.2.2 then Path.pubs else Path.cons) with
  | some k, some t => some (k, t)
  | _, _ => none

/-- The origin of a chooser's select stream: copies from one fork that are tested alike have one, the first such chooser's actor; another
select has an origin of its own. -/
def originOf (p : Part) (x : Nat × Clause × Bool) : Nat :=
  match choiceKey p x with
  | none => 65536 + x.1
  | some k => (((choosing p).find? (fun y => choiceKey p y == some k)).map Prod.fst).getD x.1

/-- The clauses of a choice that choose, with the origin of their select streams: actor, clause, whether a steer, origin. -/
def choosers (p : Part) : List (Nat × Clause × Bool × Nat) := (choosing p).map (fun x => (x.1, x.2.1, x.2.2, originOf p x))

/-- The moves of a chooser whose select is true, or false. -/
def chooserMoves (p : Part) (x : Nat × Clause × Bool × Nat) (sel : Bool) : List (Nat × Bool × Int) :=
  let ch := if sel then 0 else 1
  let i := x.1
  if x.2.2.1 then oneMove p i false false 0 1 ++ oneMove p i false false 1 1 ++ oneMove p i true false ch 1
  else oneMove p i false false ch 1 ++ oneMove p i false false 2 1 ++ oneMove p i true false 0 1

/-- The columns of a record queue (R280-R282): a record through each member, a broadcast word, an `eoi`. -/
def recqColumns (p : Part) (i : Nat) : List Column :=
  let ms := recqMembers p.g.o i
  let n := ms.length
  let every := List.range n
  let arms := ms.any (fun m => (p.g.clauses m).any (fun c => c.2.accepts 7))
  every.map (fun m =>
    { act := i, data := true, sel := none, moves := oneMove p i false false 0 2 ++ oneMove p i true false m 2 ++ oneMove p i false false (m + 1) 2
                                         ++ oneMove p i true false n 2 })
  ++ (if arms then [{ act := i, data := false, sel := none, moves := oneMove p i false false 0 1 ++ every.flatMap (fun m => oneMove p i true false m 1) }] else [])
  ++ [{ act := i, data := false, sel := none,
        moves := oneMove p i false true 0 1 ++ every.flatMap (fun m => oneMove p i true true m 1 ++ oneMove p i false true (m + 1) 1)
                   ++ oneMove p i true true n 1 }]

/-- Every kind of firing of a choice. -/
def columns (p : Part) : List Column :=
  let ch := choosers p
  let picked (i : Nat) (c : Clause) : Bool := ch.any (fun x => x.1 == i && x.2.1 == c)
  p.acts.flatMap (fun i =>
    if (p.g.act i).cls = 4 then recqColumns p i
    else (p.g.clauses i).flatMap (fun x =>
      let c := x.2
      (if (accKinds c).any (fun k => k != 3) && !picked i c then [{ act := i, data := c.accepts 0, sel := none, moves := clauseMoves p i c false }] else [])
      ++ (if c.accepts 3 then [{ act := i, data := false, sel := none, moves := clauseMoves p i c true }] else [])))
  ++ (ch.map (fun x => x.2.2.2)).eraseDups.flatMap (fun o =>
      [true, false].map (fun sel =>
        let l := ch.filter (fun x => x.2.2.2 == o)
        { act := (l.head?.map Prod.fst).getD 0, data := true, sel := some (o, sel), moves := l.flatMap (fun x => chooserMoves p x sel) }))

/-- What a column moves on a channel. -/
def Column.on (c : Column) (k : Nat) (eoi : Bool) : Int := (c.moves.filter (fun m => m.1 == k && m.2.1 == eoi)).foldl (fun n m => n + m.2.2) 0

-- Balance (R239) --------------------------------------------------------------------------------------------------------

/-- A vector divided by the greatest common divisor of its entries. -/
def reduced (v : List Int) : List Int :=
  let d := v.foldl (fun n x => Nat.gcd n x.natAbs) 0
  if d ≤ 1 then v else v.map (fun x => x / (d : Int))

def dotProd (a b : List Int) : Int := (a.zip b).foldl (fun n p => n + p.1 * p.2) 0

/-- Whether the support of a vector lies properly inside another's. -/
def inside (a b : List Int) : Bool :=
  (a.zip b).all (fun p => p.1 == 0 || p.2 != 0) && (a.zip b).any (fun p => p.1 == 0 && p.2 != 0)

/-- The rays of a cone that lie in the plane of an equation. -/
def cutCone (rays : List (List Int)) (eq : List Int) : List (List Int) :=
  let flat := rays.filter (fun r => dotProd r eq == 0)
  let up := rays.filter (fun r => decide (0 < dotProd r eq))
  let down := rays.filter (fun r => decide (dotProd r eq < 0))
  let new := up.flatMap (fun r => down.map (fun t =>
    let x := dotProd r eq
    let y := -dotProd t eq
    reduced ((r.zip t).map (fun p => y * p.1 + x * p.2))))
  let all := (flat ++ new).eraseDups
  all.filter (fun r => !all.any (fun t => inside t r))

/-- The consuming end of a channel. -/
def Part.consumer (p : Part) (k : Nat) : Option ChnRec :=
  match p.port (k / 16) true (k % 16) with
  | some r => farEnd p.recs r
  | none => none

/-- Whether a channel carries a preload. -/
def Part.lined (p : Part) (k : Nat) : Bool := (p.consumer k).any (fun r => entPre r.ent != 0)

/-- The rays of the firing counts that balance some channels; the `eoi` words of a line with a preload stay in it (R242; log 168). -/
def balanceRays (p : Part) (cols : List Column) (chans : List Nat) : List (List Int) :=
  let n := cols.length
  let unit := (List.range n).map (fun i => (List.range n).map (fun j => if i = j then (1 : Int) else 0))
  (chans.flatMap (fun k => (if p.lined k then [false] else [false, true]).map (fun eoi => cols.map (fun c => c.on k eoi)))).foldl
    (fun rays eq => if eq.all (fun x => x == 0) then rays else cutCone rays eq) unit

/-- The sum of rays. -/
def raySum (n : Nat) (rays : List (List Int)) : List Int :=
  rays.foldl (fun a r => (a.zip r).map (fun p => p.1 + p.2)) (List.replicate n 0)

/-- The channels of a choice between actors, in the order of CHN. -/
def Part.chans (p : Part) : List Nat :=
  (p.recs.filterMap (fun r => p.chan r.act r.out r.chn)).eraseDups

/-- The origins of select streams. -/
def selOrigins (cols : List Column) : List Nat := (cols.filterMap (fun c => c.sel.map Prod.fst)).eraseDups

/-- Whether some channels balance whatever the select streams choose (R239, R241): each stream alone may choose one way always, and
all of them together in unlike proportions. Counts that balance so balance pairwise, not by a chance of the proportions. -/
def balancesFreely (p : Part) (cols : List Column) (chans : List Nat) : Bool :=
  let os := selOrigins cols
  let rays := balanceRays p cols chans
  let count (r : List Int) (x : Nat × Bool) : Int := ((cols.zip r).map (fun c => if c.1.sel == some x then c.2 else 0)).foldl (· + ·) 0
  let alone := os.all (fun o => [true, false].all (fun b => rays.any (fun r => decide (0 < count r (o, b)) && count r (o, !b) == 0)))
  let mixed (flip : Bool) : Bool :=
    let eqs := os.zipIdx.map (fun o => cols.map (fun c =>
      if c.sel == some (o.1, flip) then (1 : Int) else if c.sel == some (o.1, !flip) then -((o.2 + 2 : Nat) : Int) else 0))
    (raySum cols.length (eqs.foldl cutCone rays)).all (fun x => decide (0 < x))
  os == [] || (alone && mixed true && mixed false)

/-- Positive firing counts that balance some channels, where there are any. -/
def firingCounts (p : Part) (cols : List Column) (chans : List Nat) : Option (List Int) :=
  let q := raySum cols.length (balanceRays p cols chans)
  if q.all (fun x => decide (0 < x)) && balancesFreely p cols chans then some q else none

/-- The words that a channel's producer publishes in one round of firing counts. -/
def published (cols : List Column) (q : List Int) (k : Nat) : Nat :=
  ((cols.zip q).foldl (fun n p => if p.1.data then n + max 0 (p.1.on k false) * p.2 else n) (0 : Int)).toNat

/-- The report on a channel, which names its producing end. -/
def chanRep (code k aux : Nat) : Report := { Report.of code with act := k / 16, chn := k % 16, out := true, aux := aux }

/-- Code 15, with the counts where the graph balances. -/
def checkBalance (p : Part) (cols : List Column) : Except Report (List Int) :=
  let ks := p.chans
  let ch := choosers p
  let lone := ch.find? (fun x => !x.2.2.1 && [0, 1].any (fun c => match p.port x.1 false c with
    | some r => !r.gate && !ch.any (fun y => y.2.2.1 && y.2.2.2 == x.2.2.2 && decide (y.2.2.2 < 65536))
    | none => false))
  match lone with
  | some x => .error { Report.of 15 with act := x.1, chn := 2 }
  | none =>
    match firingCounts p cols ks with
    | some q => .ok q
    | none =>
      match (List.range ks.length).find? (fun n => (firingCounts p cols (ks.take (n + 1))).isNone) with
      | some n => .error (chanRep 15 (ks.getD n 0) (published cols ((firingCounts p cols (ks.take n)).getD []) (ks.getD n 0)))
      | none => .error (Report.of 15)

-- Cycles and capacity (R239) ----------------------------------------------------------------------------------------------

/-- Whether a record is a return of a record queue: what the queue deals does not wait for its returns. -/
def isReturn (p : Part) (r : ChnRec) : Bool := (p.g.act r.act).cls == 4 && !r.out && r.chn != 0

/-- The actors that channels of a choice lead to from some; where they lead to a record queue's return, none. -/
def actorsFrom (p : Part) : Nat → List Nat → List Nat
  | 0, l => l
  | n + 1, l =>
    let new := ((p.recs.filter (fun r => r.out && !r.gate && l.contains r.act)).filterMap (fun r => ((farEnd p.recs r).filter (fun q => !isReturn p q)).map ChnRec.act)).filter
      (fun i => !l.contains i)
    if new = [] then l else actorsFrom p n (l ++ new.eraseDups)

/-- Whether a channel lies on a directed cycle. -/
def onCycle (p : Part) (k : Nat) : Bool :=
  match p.consumer k with
  | some r => !isReturn p r && (actorsFrom p p.acts.length [r.act]).contains (k / 16)
  | none => false

/-- A run of firings on the channels of cycles: tokens by channel, firings left by column. -/
structure Round where
  tokens : Tab Int
  left   : List Int

/-- A column fires as often as its tokens and its count let it. -/
def fireColumn (cyc : List Nat) (cols : List Column) (r : Round) (i : Nat) : Round :=
  match cols[i]? with
  | none => r
  | some c =>
    let need (k : Nat) : Int := max 0 (-(c.on k false))
    let n := cyc.foldl (fun n k => if need k = 0 then n else min n (Tab.get 0 r.tokens k / need k)) (r.left.getD i 0)
    if n ≤ 0 then r
    else { tokens := cyc.foldl (fun t k => if c.on k false = 0 then t else Tab.set t k (Tab.get 0 t k + n * c.on k false)) r.tokens,
           left := r.left.modify i (fun x => x - n) }

/-- Rounds until nothing more fires. -/
def fireAll (cyc : List Nat) (cols : List Column) : Nat → Round → Round
  | 0, r => r
  | n + 1, r =>
    let r' := (List.range cols.length).foldl (fireColumn cyc cols) r
    if r'.left == r.left then r else fireAll cyc cols n r'

/-- Code 16: every cycle holds tokens enough for each actor on it to fire once per its count. -/
def checkCycles (p : Part) (cols : List Column) (q : List Int) : Chk :=
  let cyc := p.chans.filter (fun k => onCycle p k && cols.any (fun c => c.data && decide (0 < c.on k false)))
  let pre (k : Nat) : Int := ((p.consumer k).map (fun r => (entPre r.ent : Int))).getD 0
  let r0 : Round := { tokens := cyc.map (fun k => (k, pre k)), left := (cols.zip q).map (fun x => if x.1.data then x.2 else 0) }
  let r := fireAll cyc cols (q.foldl (fun n x => n + x.toNat) 1) r0
  let stuck := (cols.zip r.left).filter (fun x => decide (0 < x.2))
  (cyc.findSome? (fun k => (stuck.find? (fun x => decide (Tab.get 0 r.tokens k < -(x.1.on k false)))).map
    (fun x => chanRep 16 k (-(x.1.on k false)).toNat)))

/-- The slots that the clauses and body of an actor require at once at an end. -/
def slotsNeeded (g : Obj) (i : Nat) (out : Bool) (c : Nat) : Nat :=
  let fromBody := (g.words i).flatMap (fun w => (slotsOf w).filterMap (fun x => if x.1 = (out, c) then some (max x.2.1 (x.2.2 + 1)) else none))
  let terms := (g.clauses i).flatMap (fun x => (if out then x.2.outs else x.2.ins).filterMap (fun t => if t.ch = c then some t.min else none))
  (fromBody ++ terms).foldl max 0

/-- Code 17: capacities. -/
def checkCapacity (p : Part) (cols : List Column) (q : List Int) : Chk :=
  overAll p.recs (fun r =>
    let n := slotsNeeded p.g r.act r.out r.chn
    want (decide (n ≤ entCap r.ent)) { Report.of 17 with act := r.act, chn := r.chn, out := r.out, aux := n })
  <|> overAll (p.chans.filter (onCycle p)) (fun k =>
    match p.consumer k with
    | some r =>
      let n := entPre r.ent + published cols q k
      want (decide (n ≤ entCap r.ent)) (chanRep 17 k n)
    | none => none)

-- Control at joins (R239) -------------------------------------------------------------------------------------------------

/-- What stands before a control word of a stream, since the one before it: data words and rows, and the kind of that word. A
`bubble` is a row of its own. -/
structure Seg where
  words : Nat
  rows  : Nat
  kind  : Nat
  deriving DecidableEq, Repr

abbrev Segs := List Seg

/-- The segments of a sequence of words. -/
def wordSegs : List CWord → Nat × Nat → Segs
  | [], _ => []
  | w :: r, (n, k) =>
    if w.isCtl then { words := n, rows := k, kind := w.kind.toNat } :: wordSegs r (0, if w.kind = 1 then 1 else 0)
    else wordSegs r (n + 1, if w.lr then k + 1 else k)

/-- Words ahead of a stream. -/
def Segs.behind (pre : List CWord) (l : Segs) : Segs :=
  match l with
  | [] => []
  | s :: r => { s with words := s.words + pre.length, rows := s.rows + (pre.filter CWord.lr).length } :: r

/-- The preloads of an input, in order. -/
def Part.preloads (p : Part) (r : ChnRec) : List CWord :=
  match p.g.chn.findIdx? (fun x => x == r) with
  | some k => ((preRecs p.g.o).filter (fun x => x.1 == k)).map Prod.snd
  | none => []

/-- The segments at an input, where they are known: of a gate's seeds, or of a channel whose producer's are. -/
def inSegs (p : Part) (known : Tab Segs) (i c : Nat) : Option Segs :=
  match p.port i false c with
  | none => none
  | some r =>
    (if r.gate then (p.g.gates[r.far]?).map (fun x => wordSegs x.seeds (0, 0))
     else match p.chan i false c with
      | some k => Tab.find known k
      | none => none).map (fun l => l.behind (p.preloads r))

/-- How often a clause fires in each segment, from the first channel it names whose segments are known. -/
def firesPer (p : Part) (known : Tab Segs) (i : Nat) (c : Clause) : Option (List Nat) :=
  c.ins.findSome? (fun t =>
    match inSegs p known i t.ch, c.declared false t.ch with
    | some l, some w => if w = 0 then none else some (l.map (fun x => x.words / w))
    | _, _ => none)

/-- The rows a clause ends on an output with each firing. -/
def rowsOn (c : Clause) (o : Nat) : Nat := ((c.rates.find? (fun r => r.out && r.ch == o)).map Rate.rows).getD 0

/-- The clauses of the original actor that an output belongs to (R243, R313). -/
def clausesOn (p : Part) (i o : Nat) : List Clause := ((p.g.clauses i).map Prod.snd).filter (fun c => (clauseOuts p.g i c).contains o)

/-- Whether a body makes control words of its own on an output (R97): where they stand among its words is not declared. -/
def makesCtl (g : Obj) (i o : Nat) (c : Clause) : Bool :=
  (reached (g.words i) c.entry).any (fun q => let w := (g.words i).getD q 0; opNo w == 0x06 && desChan (fieldsOf w).d == o)

/-- What a firing on a control word of a kind does on an output: words beside it, rows, and whether it sends one of that kind
there. -/
def ctlFiring (p : Part) (i o kind : Nat) : Option (Nat × Nat × Bool) :=
  match (clausesOn p i o).filter (fun c => c.accepts kind) with
  | [c] =>
    let ends := (runBody { ws := p.g.words i, eff := dutyEffect p.g i kind (c.ins.map Term.ch), follow := fun _ => true, top := 2 } c.entry).ends
    let sent := ends.any (fun x => x.pubs.getD o 0 != 0)
    let words := (c.declared true o).getD (bit sent) - bit sent
    if ends.all (fun x => x.pubs.getD o 0 == (if sent then 1 else 0)) then some (words, if words = 0 then 0 else rowsOn c o, sent)
    else none
  | _ => none

/-- What a firing on data does on an output, where select streams choose as `pick` says: words and rows (R241). -/
def dataFiring (p : Part) (pick : Nat → Bool) (i o : Nat) (c : Clause) : Nat × Nat :=
  if isSteer p.g i c then
    (if o = (if pick (originOf p (i, c, true)) then 0 else 1) then (1, rowsOn c o) else (0, 0))
  else ((c.declared true o).getD 0, rowsOn c o)

/-- Segments made one by one: what each brings, and whether a control word ends it. -/
def closeSegs : List (Nat × Nat × Nat × Bool) → Nat × Nat → Segs
  | [], _ => []
  | (n, k, kind, sent) :: r, (a, b) =>
    if sent then { words := a + n, rows := b + k, kind := kind } :: closeSegs r (0, if kind = 1 then 1 else 0)
    else closeSegs r (a + n, b + k)

/-- Whether clauses draw their words from different inputs, so that what stands on each fixes how often each fires. -/
def drawApart (cl : List Clause) : Bool :=
  decide ((cl.flatMap (fun c => c.ins.filterMap (fun t => if (c.declared false t.ch).getD 0 = 0 then none else some t.ch))).Nodup)

/-- The segments at an output of an actor, where its inputs' are known. -/
def outSegs (p : Part) (pick : Nat → Bool) (known : Tab Segs) (i o : Nat) : Option Segs :=
  let cl := clausesOn p i o
  let data := cl.filter (fun c => c.accepts 0)
  match cl.filter (fun c => c.accepts 3), data.mapM (firesPer p known i) with
  | [e], some fires =>
    if data.any (makesCtl p.g i o) || !drawApart data then none
    else match (e.ins.filter (fun t => data.any (fun c => (c.ins.map Term.ch).contains t.ch)) ++ e.ins).findSome? (fun t => inSegs p known i t.ch) with
      | none => none
      | some l =>
        (l.zipIdx.mapM (fun q =>
          (ctlFiring p i o q.1.kind).map (fun x =>
            let own := (data.zip fires).foldl (fun y cf =>
              let n := cf.2.getD q.2 0
              let w := dataFiring p pick i o cf.1
              (y.1 + n * w.1, y.2 + n * w.2)) (0, 0)
            (own.1 + x.1, own.2 + x.2.1, q.1.kind, x.2.2)))).map (fun l => closeSegs l (0, 0))
  | _, _ => none

/-- The known segments after one more pass over the actors. -/
def spreadSegs (p : Part) (pick : Nat → Bool) (known : Tab Segs) : Tab Segs :=
  p.recs.foldl (fun t r =>
    if r.out && !r.gate && (Tab.find t (chanKey r.act r.chn)).isNone then
      match outSegs p pick t r.act r.chn with
      | some l => Tab.set t (chanKey r.act r.chn) l
      | none => t
    else t) known

-- Rows before each `eoi`, where the places of other control words among them are not declared ------------------------------

/-- What stands between two `eoi` words of a stream: data words, rows, and how many control words there are of each kind. -/
structure Block where
  words : Nat
  rows  : Nat
  ctls  : List Nat
  deriving DecidableEq, Repr

abbrev Blocks := List Block

def Block.empty : Block := { words := 0, rows := 0, ctls := List.replicate 10 0 }

/-- Two parts of a block together, and one several times. -/
def Block.plus (x y : Block) : Block := { words := x.words + y.words, rows := x.rows + y.rows, ctls := (x.ctls.zip y.ctls).map (fun p => p.1 + p.2) }
def Block.times (n : Nat) (x : Block) : Block := { words := n * x.words, rows := n * x.rows, ctls := x.ctls.map (fun k => n * k) }

/-- The blocks of segments. -/
def Segs.blocks : Segs → Block → Blocks
  | [], _ => []
  | s :: r, b =>
    let b : Block := { b with words := b.words + s.words, rows := b.rows + s.rows }
    if s.kind = 3 then b :: Segs.blocks r Block.empty else Segs.blocks r { b with ctls := b.ctls.modify s.kind (fun n => n + 1) }

/-- The blocks at an input: of its segments where they are known, else of its channel, its preloads ahead. -/
def inBlocks (p : Part) (segs : Tab Segs) (known : Tab Blocks) (i c : Nat) : Option Blocks :=
  match inSegs p segs i c, p.port i false c, p.chan i false c with
  | some l, _, _ => some (l.blocks Block.empty)
  | none, some r, some k =>
    let pre := p.preloads r
    (Tab.find known k).bind (fun l => match l with
      | b :: rest => if pre.any CWord.isCtl then none
                     else some ({ b with words := b.words + pre.length, rows := b.rows + (pre.filter CWord.lr).length } :: rest)
      | [] => some [])
  | _, _, _ => none

/-- How many control words of kind `k` a firing of a clause on heads of a kind (0: data) sends on an output, where every path sends as
many. -/
def ctlCount (g : Obj) (i o kind k : Nat) (c : Clause) : Option Nat :=
  let named := c.ins.map Term.ch
  let eff (w : BitVec 96) : Effect :=
    let f := fieldsOf w
    let e := dutyEffect g i kind named w
    let sent := (opNo w = 0x06 && f.var.toNat == k && desChan f.d == o)
      || (opNo w = 0x07 && k == kind && (f.var == 1 || desChan f.d == o))
    let head := opNo w == 0x05 && f.pm == 0 && isSlot f.a && desOfs f.a == 0 && named.contains (desChan f.a)
    { take := [], give := if sent then [(o, 1)] else [],
      mask := if kind = 0 ∧ head ∧ (f.var = 2 ∨ f.var = 4) then some (some false) else if kind = 0 ∧ head ∧ f.var = 3 then some (some true) else e.mask }
  match (runBody { ws := g.words i, eff := eff, follow := fun _ => true, top := 65536 } c.entry).ends.map (fun x => x.pubs.getD o 0) with
  | n :: r => if r.all (fun m => m == n) then some n else none
  | [] => none

/-- What a firing of a clause on heads of a kind brings on an output; `bubble` words are rows. -/
def firingOn (p : Part) (pick : Nat → Bool) (i o kind : Nat) (c : Clause) : Option Block :=
  if kind = 0 ∧ isSteer p.g i c then
    some { Block.empty with words := (dataFiring p pick i o c).1, rows := (dataFiring p pick i o c).2 }
  else
    ((List.range 10).mapM (fun k => if k = 0 then some 0 else ctlCount p.g i o kind k c)).map (fun l =>
      let words := (c.declared true o).getD 0 - l.sum
      { words := words, rows := if words = 0 then l.getD 1 0 else rowsOn c o, ctls := l })

/-- What a firing on a control word of a kind brings on an output, where one clause accepts it. -/
def ctlBlock (p : Part) (pick : Nat → Bool) (i o kind : Nat) : Option Block :=
  match (clausesOn p i o).filter (fun c => c.accepts kind) with
  | [c] => firingOn p pick i o kind c
  | _ => none

/-- How often a clause fires in each block, from the first channel it names whose blocks are known. -/
def firesPerBlock (p : Part) (segs : Tab Segs) (known : Tab Blocks) (i : Nat) (c : Clause) : Option (List Nat) :=
  c.ins.findSome? (fun t =>
    match inBlocks p segs known i t.ch, c.declared false t.ch with
    | some l, some w => if w = 0 then none else some (l.map (fun x => x.words / w))
    | _, _ => none)

/-- The results of a record queue: a pair for each record, with the rows that every member declares for one (R280, R282). -/
def queueBlocks (p : Part) (segs : Tab Segs) (known : Tab Blocks) (i : Nat) : Option Blocks :=
  let rows := (List.range (recqMembers p.g.o i).length).filterMap (fun m =>
    (p.port i false (m + 1)).map (fun r => ((p.g.clauses r.far).filter (fun c => c.2.accepts 0)).map (fun c => rowsOn c.2 r.fch)))
  match rows.flatten.eraseDups, inBlocks p segs known i 0 with
  | [n], some l => if l.all (fun b => b.ctls.sum == 0) then some (l.map (fun b => { Block.empty with words := b.words / 2 * 2, rows := b.words / 2 * n })) else none
  | _, _ => none

/-- The blocks at an output of an actor, where its inputs' are known: every firing brings what its clause declares, and the firing on an
`eoi` sends one. -/
def outBlocks (p : Part) (pick : Nat → Bool) (segs : Tab Segs) (known : Tab Blocks) (i o : Nat) : Option Blocks :=
  if (p.g.act i).cls = 4 then (if o = (recqMembers p.g.o i).length then queueBlocks p segs known i else none)
  else
    let cl := clausesOn p i o
    let data := cl.filter (fun c => c.accepts 0)
    match cl.filter (fun c => c.accepts 3), data.mapM (firesPerBlock p segs known i), data.mapM (firingOn p pick i o 0), ctlBlock p pick i o 3 with
    | [e], some fires, some own, some last =>
      if last.ctls.getD 3 0 ≠ 1 ∨ own.any (fun b => b.ctls.getD 3 0 != 0) ∨ !drawApart data then none
      else
        ((e.ins.filter (fun t => data.any (fun c => (c.ins.map Term.ch).contains t.ch)) ++ e.ins).findSome? (fun t => inBlocks p segs known i t.ch)).bind
          (fun l => l.zipIdx.mapM (fun q =>
            (q.1.ctls.zipIdx.mapM (fun n => if n.1 = 0 then some Block.empty else (ctlBlock p pick i o n.2).map (Block.times n.1))).map (fun ctl =>
              let sum := ((fires.zip own).map (fun x => x.2.times (x.1.getD q.2 0)) ++ ctl).foldl Block.plus Block.empty
              let all := sum.plus last
              { all with ctls := all.ctls.set 3 0 })))
    | _, _, _, _ => none

/-- The known blocks after one more pass over the actors. -/
def spreadBlocks (p : Part) (pick : Nat → Bool) (segs : Tab Segs) (known : Tab Blocks) : Tab Blocks :=
  p.recs.foldl (fun t r =>
    if r.out && !r.gate && (Tab.find t (chanKey r.act r.chn)).isNone then
      match outBlocks p pick segs t r.act r.chn with
      | some l => Tab.set t (chanKey r.act r.chn) l
      | none => t
    else t) known

/-- Whether two inputs meet at an actor: a clause that accepts data names both. -/
def joined (g : Obj) (i x y : Nat) : Bool :=
  (g.clauses i).any (fun c => c.2.accepts 0 && (c.2.ins.map Term.ch).contains x && (c.2.ins.map Term.ch).contains y)

/-- The rows before each control word, and its kind. -/
def Segs.marks (l : Segs) : List (Nat × Nat) := l.map (fun s => (s.rows, s.kind))

/-- Every way in which some select streams may choose, each the same way always; what rows depend on them is a sum over these. -/
def picks : List Nat → List (List (Nat × Bool))
  | [] => [[]]
  | o :: r => (picks r).flatMap (fun l => [(o, true) :: l, (o, false) :: l])

/-- Whether the inputs that meet at a clause have what must be the same there, each number alike: where not, the report. -/
def alike (p : Part) (i : Nat) (l : List (Nat × List (Nat × Nat))) : Chk :=
  overAll l (fun x => (l.find? (fun y => joined p.g i x.1 y.1 && y.2 != x.2)).map (fun y =>
    { Report.of 18 with act := i, chn := y.1, aux := ((x.2.zip y.2).find? (fun z => z.1 != z.2)).elim 0 (fun z => z.1.1) }))

/-- Code 18: at a join, each control word follows the same number of rows on every input whose rows the declared rates fix, whatever
the select streams choose; where they fix the rows before each `eoi` alone, each `eoi` (log 134). -/
def checkControl (p : Part) : Chk :=
  overAll (picks ((choosers p).map (fun x => x.2.2.2)).eraseDups) (fun l =>
    let pick (o : Nat) : Bool := ((l.find? (fun x => x.1 == o)).map Prod.snd).getD true
    let known := (List.range p.acts.length).foldl (fun t _ => spreadSegs p pick t) []
    let blocks := (List.range p.acts.length).foldl (fun t _ => spreadBlocks p pick known t) []
    overAll p.acts (fun i => overAll ((p.g.clauses i).filter (fun c => c.2.accepts 3)) (fun c =>
      alike p i (c.2.ins.filterMap (fun t => (inSegs p known i t.ch).map (fun l => (t.ch, l.marks))))
      <|> alike p i (c.2.ins.filterMap (fun t => (inBlocks p known blocks i t.ch).map (fun l => (t.ch, l.map (fun b => (b.rows, 3)))))))))

/-- The checks 15 to 18 on a fold choice. -/
def checkProgress (g : Obj) (choice : Nat) : Chk :=
  let p := Part.of g choice
  let cols := columns p
  match checkBalance p cols with
  | .error r => some r
  | .ok q => checkCycles p cols q <|> checkCapacity p cols q <|> checkControl p

end Sys2Proof.Machine
end

