-- ==== Sys2Proof/Machine/Records.lean ====
section
/-! DEFINITION. The loader's checks of records outside bodies and clauses (R319), in the order of the section kinds, and the
loader as a whole (R318). -/
namespace Sys2Proof.Machine

/-- The report on a record of a section. -/
def recRep (code skind rix : Nat) : Report := { Report.of code with skind := skind, rix := rix }

/-- Whether an offset names a string of STR, which ends in it (R290). -/
def nameOk (g : Obj) (n : Nat) : Bool :=
  let s := sect g.o 1
  decide (n < s.len) && ((g.o.drop (s.off + n)).take (s.len - n)).contains 0

/-- Whether fields of a record read as zero: (low bit, width). -/
def zeroAt (n : Nat) (l : List (Nat × Nat)) : Bool := l.all (fun p => bitsAt n p.1 p.2 == 0)

-- ACT (R291) and record queues (R279) ---------------------------------------------------------------------------------------

/-- What must be equal in the members of a record queue (R279); registers that no record names have the values of R64 (R298). -/
def memberSame (g : Obj) (x y : Nat) : Bool :=
  let a := g.act x
  let b := g.act y
  let ents (i : Nat) : List (Nat × Bool × BitVec 32) := (g.chn.filter (fun r => r.act == i)).map (fun r => (r.chn, r.out, r.ent))
  let made (i : Nat) : Elem :=
    ((imgRecs g.o).filter (fun r => r.kind != 0 && r.tgt == i)).foldl (applyImg g.o)
      (((regRecs g.o).filter (fun r => r.act == i)).foldl applyReg (Elem.blank .ra))
  let cls (i : Nat) : List Nat := (g.clauses i).map (fun c => ((g.cls[c.1]?).map ClsRec.ent).getD 0)
  bodyBytes g.o a == bodyBytes g.o b && cls x == cls y && (ents x).all (ents y).contains && (ents y).all (ents x).contains
    && raItems (made x).ra == raItems (made y).ra && (made x).s == (made y).s && (made x).k == (made y).k && (made x).x == (made y).x

/-- A record queue (R279): code 22. -/
def checkRecq (g : Obj) (i : Nat) (a : ActRec) : Chk :=
  let bad : Report := { recRep 22 2 i with act := i }
  let ms := recqMembers g.o i
  let n := ms.length
  want (a.blen == 0 && a.ncl == 0 && (imgRecs g.o).all (fun r => !(r.kind == 1 && r.tgt == i))) bad
  <|> want (decide (1 ≤ n ∧ n ≤ 8) && ms.all (fun m => (g.act m).cls == 3)) bad
  <|> want (g.ins i == List.range (n + 1) && g.outs i == List.range (n + 1)) bad
  <|> overRecs ms (fun m x =>
        let feed := g.port i true m
        let ret := g.port i false (m + 1)
        let data := (g.clauses x).filter (fun c => c.2.accepts 0)
        want (memberSame g (ms.headD 0) x
              && (match feed, ret with
                  | some f, some r =>
                    !f.gate && !r.gate && f.far == x && r.far == x && g.fmt x false f.fch == 19
                      && data.all (fun c => c.2.declared false f.fch == some 2 && c.2.declared true r.fch == some 2)
                  | _, _ => false)) { bad with chn := m, out := true, aux := n })

/-- An actor record: codes 4, 11, 13, 20, 22, 23. -/
def checkAct (g : Obj) (kinds : Kinds) (i : Nat) (a : ActRec) : Chk :=
  let n := recNat g.o 2 32 i
  let bad (c : Nat) : Report := { recRep c 2 i with act := i }
  want (zeroAt n [(130, 126), (43, 5), (38, 2)] && decide (a.cls ≤ 5 ∧ a.fold ≤ g.folds.length) && nameOk g a.name
        && decide (4 ≤ a.cls ∨ a.fcl + a.ncl ≤ g.cls.length)) (bad 4)
  <|> (if a.cls = 4 then checkRecq g i a else none)
  <|> want (!a.sect || (g.ins i).contains a.armi) { bad 23 with chn := a.armi }
  <|> checkClauses g kinds i a

-- CLS and RATE (R292, R293) ---------------------------------------------------------------------------------------------------

/-- Exclusivity of an actor's clause with those before it (R243): code 19. In a fold element it is judged per original actor. -/
def checkExclusive (g : Obj) (i n : Nat) (c : Clause) : Chk :=
  let cl := g.clauses i
  let k := (cl.findIdx? (fun p => p.1 == n)).getD 0
  if hdrFree g.o || mergeExempt g (clauseOwner g i k) then none
  else overRecs (cl.take k) (fun j q => want (clauseOwner g i j != clauseOwner g i k || exclusive c q.2) (clauseRep 19 i n))

/-- A clause record, and the clause for each actor that has it: codes 4, 11, 12, 13, 14, 19. -/
def checkClsRec (g : Obj) (n : Nat) (c : ClsRec) : Chk :=
  want (zeroAt (recNat g.o 3 32 n) [(168, 88)]
        && decide (1 ≤ c.nrt ∧ c.nrt ≤ 48 ∧ c.frt + c.nrt ≤ (sect g.o 4).cnt ∧ c.act < g.acts.length)) (recRep 4 3 n)
  <|> overRecs g.acts (fun i a =>
        if 4 ≤ a.cls then none
        else overAll ((g.clauses i).filter (fun p => p.1 == n)) (fun p =>
          checkClause g i a n p.2 <|> checkExclusive g i n p.2 <|> checkPaths g i n (clauseOuts g i p.2) p.2))

def checkRateRec (g : Obj) (i : Nat) (r : RateRec) : Chk :=
  let n := recNat g.o 4 8 i
  want (zeroAt n [(56, 8), (22, 10)] && decide (r.cl < g.cls.length) && decide (!r.r.out ∨ r.r.ch < 16)) (recRep 4 4 i)

-- CHN and PRE (R28, R66-R68, R295-R297) ----------------------------------------------------------------------------------------

/-- The formats an end may be bound with (R28). -/
def fmtOk (out : Bool) (k : Nat) : Bool := decide (k ≤ 12) || (!out && (k == 16 || k == 17 || k == 19))

/-- The other end of a channel, in every fold choice that holds this one (R68, R295). -/
def farOk (g : Obj) (r : ChnRec) : Bool :=
  r.gate || (List.range (g.folds.length + 1)).all (fun ch =>
    let acts := actorsOf g.o ch
    !acts.contains r.act ||
      (let recs := chansOf g.o ch
       match farEnd recs r with
       | some q => entCap q.ent == entCap r.ent
                     && (recs.filter (fun x => !x.gate && x.out == r.out && (farEnd recs x).map (fun y => (y.act, y.chn)) == some (q.act, q.chn))).length == 1
       | none => false))

/-- Whether a channel buffer of an actor's input serves no other one, in every fold choice that holds the actor (R296, R319). -/
def bufferOk (g : Obj) (i b : Nat) : Bool :=
  (g.act b).cls == 5 && (List.range (g.folds.length + 1)).all (fun ch =>
    let acts := actorsOf g.o ch
    !acts.contains i || (acts.contains b && ((chansOf g.o ch).filter (fun x => x.buf == some b)).length == 1))

def checkChn (g : Obj) (i : Nat) (r : ChnRec) : Chk :=
  let n := recNat g.o 6 16 i
  let e := r.ent.toNat
  let ext := e.testBit 30
  let bad (c : Nat) : Report := { recRep c 6 i with act := r.act, chn := r.chn, out := r.out }
  let cmpOk := !(entFmt r.ent == 16 || entFmt r.ent == 17) || (entCmp r.ent != r.chn && g.fmt r.act false (entCmp r.ent) == 9)
  want (zeroAt n [(112, 16), (85, 11), (55, 9)] && decide (r.act < g.acts.length)
        && decide (r.far < if r.gate then g.gates.length else g.acts.length)
        && decide (!r.out ∨ r.chn < 16) && r.buf.all (fun b => decide (b < g.acts.length))) (bad 4)
  <|> want (entEn r.ent && (g.act r.act).cls != 5
        && (g.chn.filter (fun x => x.act == r.act && x.out == r.out && x.chn == r.chn)).length == 1) (bad 10)
  <|> (if r.out then
        want (zeroAt e [(30, 1), (13, 5), (0, 5)] && fmtOk true (entFmt r.ent) && (!r.gate || entCap r.ent == 4)) (bad 10)
      else
        want (fmtOk false (entFmt r.ent) && cmpOk && decide (entPre r.ent ≤ entCap r.ent ∧ entPre r.ent ≤ 16 ∧ 4 ≤ entCap r.ent)
              && (ext || entCap r.ent == 4) && (ext == r.buf.isSome)
              && r.buf.all (bufferOk g r.act)) (bad 10)
        <|> want ((preRecs g.o).countP (fun p => p.1 == i) == entPre r.ent) { bad 10 with aux := entPre r.ent })
  <|> want (farOk g r) (bad 10)

/-- A channel buffer stands in the quad group of the actor that it serves (R247): code 21. -/
def checkBuffer (g : Obj) (i : Nat) (r : ChnRec) : Chk :=
  match r.buf with
  | none => none
  | some b => want (g.grp.any (fun x => x.kind == 0 && x.mem.contains b && x.mem.contains r.act)) { recRep 21 6 i with act := r.act, chn := r.chn }

def checkPre (g : Obj) (i : Nat) (p : Nat × CWord) : Chk :=
  want (zeroAt (recNat g.o 7 72 i) [(530, 46)] && decide (p.1 < g.chn.length)) (recRep 4 7 i)
  <|> want (!p.2.isCtl && (g.chn[p.1]?).any (fun r => !r.out)) (recRep 10 7 i)

-- GRP (R151, R247, R302) ---------------------------------------------------------------------------------------------------------

/-- The groups of a level that hold an actor. -/
def groupsOf (g : Obj) (kind i : Nat) : List GrpRec := g.grp.filter (fun x => x.kind == kind && x.mem.contains i)

/-- The SEs of an actor's quad group, record queues and channel buffers among them, in listed order (R151, R291). -/
def quadSes (g : Obj) (i : Nat) : List Nat :=
  match groupsOf g 0 i with
  | x :: _ => x.mem.filter (fun m => actCls (g.act m).cls == .se)
  | [] => []

/-- How many of them stand in every fold choice that has the actor. -/
def quadCount (g : Obj) (i : Nat) : Nat :=
  (((List.range (g.folds.length + 1)).map (actorsOf g.o)).filter (fun l => l.contains i)).foldl
    (fun n l => min n ((quadSes g i).filter l.contains).length) (quadSes g i).length

/-- What a quad group holds of one fold choice (R302): two VEs and two SEs, record queues and channel buffers among them, or one
SE and the buffers of its inputs. -/
def quadHolds (g : Obj) (recs : List ChnRec) (m : List Nat) : Bool :=
  let count (p : Nat → Bool) : Nat := m.countP (fun i => p (g.act i).cls)
  let ve := count (fun c => c == 0)
  let se := count (fun c => c == 1 || c == 4)
  let cb := count (fun c => c == 5)
  (ve + se + cb == m.length && decide (ve ≤ 2 ∧ se + cb ≤ 2))
    || (se == 1 && cb + 1 == m.length
        && m.all (fun b => (g.act b).cls != 5 || recs.all (fun r => r.buf != some b || m.contains r.act)))

/-- What a quad group holds, in every fold choice. -/
def quadOk (g : Obj) (m : List Nat) : Bool :=
  m.all (fun i => [0, 1, 4, 5].contains (g.act i).cls)
    && (List.range (g.folds.length + 1)).all (fun ch => quadHolds g (chansOf g.o ch) (m.filter (actorsOf g.o ch).contains))

/-- A group record: codes 4 and 21. `own` and `cg` say nothing for other kinds than theirs, and R319 rejects no value of them there. -/
def checkGrp (g : Obj) (i : Nat) (x : GrpRec) : Chk :=
  let n := recNat g.o 8 16 i
  let bad (c : Nat) : Report := recRep c 8 i
  let cls (k : Nat) : Bool := x.mem.all (fun m => (g.act m).cls == k)
  want (zeroAt n [(4, 4)] && decide (x.kind ≤ 6 ∧ 1 ≤ x.nmb ∧ x.moff + 2 * x.nmb ≤ (sect g.o 8).len) && nameOk g x.name
        && x.mem.all (fun m => decide (m < g.acts.length))
        && (x.kind != 6 || decide (x.own < g.acts.length)) && (x.kind != 4 || decide (x.cg < 64))) (bad 4)
  <|> want (decide x.mem.Nodup) (bad 21)
  <|> (if x.kind ≤ 3 then
        overAll x.mem (fun m =>
          want ((groupsOf g x.kind m).length == 1
                && ([1, 2, 3].filter (fun k => decide (x.kind < k))).all (fun k =>
                  (groupsOf g k m).map GrpRec.mem == (groupsOf g k (x.mem.headD 0)).map GrpRec.mem)) { bad 21 with act := m })
      else none)
  <|> want (x.kind != 0 || quadOk g x.mem) (bad 21)
  <|> want (x.kind != 4 || cls 2) (bad 21)
  <|> want (x.kind != 5 || cls 3) (bad 21)
  <|> want (x.kind != 6 || (cls 0 && (g.act x.own).cls == 2 && decide (x.nmb ≤ 8))) (bad 21)

-- REG, TNS, PORT, IMG (R298-R301, R312) ---------------------------------------------------------------------------------------------

/-- A REG record (R298): a second one for a register is rejected with code 4 (log 165). -/
def checkReg (g : Obj) (i : Nat) (r : RegRec) : Chk :=
  let c := actCls (g.act r.act).cls
  let held := match desOf r.des with
    | .state n => decide (n < c.nState)
    | .const n => decide (n < c.nConst)
    | .special n => decide (0xE8 ≤ n ∧ n ≤ 0xEF) && c.hasScale
    | _ => false
  want (zeroAt (recNat g.o 9 72 i) [(539, 37)] && decide (r.act < g.acts.length)
        && (if r.abk then r.des == 0x0FF && c == .ve else held)
        && !((regRecs g.o).take i).any (fun x => x.act == r.act && x.abk == r.abk && x.des == r.des)) { recRep 4 9 i with act := r.act }

def checkTns (g : Obj) (i : Nat) (t : TnsRec) : Chk :=
  let n := recNat g.o 10 64 i
  let bad (c : Nat) : Report := recRep c 10 i
  let blocks := t.fmt == 16 || t.fmt == 17
  want (zeroAt n [(416, 96), (80, 16), (47, 1)] && decide (t.spc ≤ 3 ∧ t.tsz ≤ 2) && nameOk g t.name
        && t.img.all (fun k => decide (k < (sect g.o 12).cnt)) && (t.cmp == 0xFFFF || decide (t.cmp < (sect g.o 10).cnt))) (bad 4)
  <|> want ((decide (1 ≤ t.fmt ∧ t.fmt ≤ 12) || blocks) && decide (1 ≤ t.rank ∧ t.rank ≤ 6)
            && t.dims.zipIdx.all (fun p => if p.2 < t.rank then p.1 != 0 else p.1 == 1) && t.tshp.all (fun x => x != 0)
            && (t.spc != 1 || (decide (t.fmt ≤ 12) && t.pol == 0))
            && t.img.all (fun k => ((imgRecs g.o)[k]?).any (fun r => r.kind == 0 && r.tgt == i))
            && blocks == (t.cmp != 0xFFFF)) (bad 24)

/-- Whether a tensor's space allows every access that an AG's body makes through a port (R160). -/
def portAllows (g : Obj) (act sp spc : Nat) : Bool :=
  (g.words act).all (fun w =>
    let n := opNo w
    let f := fieldsOf w
    let k : Option Kind :=
      if n = 0x83 then some .load else if n = 0x84 then some .store else if n = 0x85 then some .tlda else if n = 0x86 then some .tsts
      else if n = 0x90 ∨ n = 0x91 then some .atomic else if n = 0x95 then some .ldaq else if n = 0x96 then some .strl else none
    match k with
    | none => true
    | some k => f.imm.toNat % 4 != sp || (k.refused spc).isNone)

def checkPort (g : Obj) (i : Nat) (r : PortRec) : Chk :=
  want (zeroAt (recNat g.o 11 8 i) [(36, 28)] && decide (r.act < g.acts.length ∧ r.tns < (sect g.o 10).cnt ∧ r.tsz ≤ 2) && (g.act r.act).cls == 2) { recRep 4 11 i with act := r.act }
  <|> want (((tnsRecs g.o)[r.tns]?).all (fun t => portAllows g r.act r.sp t.spc)) { recRep 24 11 i with act := r.act }

/-- Elements of a lane for a tensor's format (R23). -/
def perLane (fmt : Nat) : Nat :=
  match Fmt.ofCode (typeOfFmt fmt) with
  | some f => f.perLane
  | none => 1

/-- The lanes a tensor's image holds (R312). -/
def imageLanes (t : TnsRec) : Nat :=
  let n := perLane t.fmt
  (t.dims.getD 0 1 + n - 1) / n * ((t.dims.take t.rank).drop 1).foldl (fun a b => a * b) 1

/-- Whether the element bits past dim(0) of an image's filled lanes are zero (R312). -/
def imageTail (g : Obj) (t : TnsRec) (r : ImgRec) : Bool :=
  let n := perLane t.fmt
  let row := (t.dims.getD 0 1 + n - 1) / n
  let tail := t.dims.getD 0 1 % n
  tail == 0 || (List.range r.nln).all (fun j => (r.at' + j) % row + 1 != row || decide (r.lane g.o j < 2 ^ (32 / n * tail)))

/-- An IMG record (R301, R312): a tensor's image from lane 0 is whole, one from a later lane may end early (log 167). -/
def checkImg (g : Obj) (i : Nat) (r : ImgRec) : Chk :=
  let bad (c : Nat) : Report := { recRep c 12 i with act := if r.kind = 0 then 0xFFFF else r.tgt }
  let cls := (g.act r.tgt).cls
  want (zeroAt (recNat g.o 12 16 i) [(4, 12)] && decide (r.kind ≤ 5 ∧ r.doff + 4 * r.nln ≤ (sect g.o 12).len)
        && decide (r.tgt < if r.kind = 0 then (sect g.o 10).cnt else g.acts.length)) (bad 4)
  <|> (match r.kind with
       | 0 => want (((tnsRecs g.o)[r.tgt]?).any (fun t => t.img == some i && imageTail g t r
                && (if r.at' = 0 then r.nln == imageLanes t else decide (r.at' + r.nln ≤ imageLanes t)))) (bad 25)
       | 1 => want (cls == 1 && r.at' % 4 == 0 && decide (r.at' + 4 * r.nln ≤ 2 ^ 17)) (bad 25)
       | 2 => want (cls == 0 && r.at' % 4 == 0 && decide (r.at' + 4 * r.nln ≤ 2 ^ 17)) (bad 25)
       | 3 => want (cls == 3 && decide (r.at' + r.nln ≤ 16384)) (bad 25)
       | 4 => want (cls == 3 && decide (r.at' + r.nln ≤ 64) && (List.range r.nln).all (fun j => decide (r.lane g.o j % 128 ≤ 64))) (bad 25)
       | _ => want (cls == 3 && decide (r.at' + r.nln ≤ 4096)) (bad 25))

-- FOLD, GATE, SYM (R303, R304, R306, R313) -------------------------------------------------------------------------------------------

/-- Whether a body reads `fcnt`, `invk` or `phnum` (R313). -/
def readsCounts (ws : List (BitVec 96)) : Bool :=
  ws.any (fun w => (usedDes { opUses w with d := false } (fieldsOf w)).any (fun d => d == 0x0FC || d == 0x0FA || d == 0x0F9))

/-- A fold alternative: codes 4 and 27. Its elements are its base actors, merged in groups of one class that share their groups; it may
bring channel buffers of their inputs, which count among its actors (R296, R304, R313; log 146). -/
def checkFold (g : Obj) (f : Nat) (x : FoldRec) : Chk :=
  let bad (c : Nat) : Report := recRep c 13 f
  let elems := foldElems g (f + 1)
  let all := (List.range g.acts.length).filter (fun i => (g.act i).fold == f + 1)
  let plain (i : Nat) : Bool := let a := g.act i; decide (a.cls ≤ 2) && !a.strm && !a.sect && !readsCounts (g.words i)
  want (zeroAt (recNat g.o 13 16 f) [(32, 32)] && nameOk g x.name && decide (x.loff + 2 * x.nb ≤ (sect g.o 13).len)
        && x.base.all (fun i => decide (i < g.acts.length))) (bad 4)
  <|> want (all.length == x.nel) { bad 27 with aux := x.nel }
  <|> overAll x.base (fun i => want ((g.act i).fold == 0 && plain i) { bad 27 with act := i })
  <|> overAll elems (fun i => want (plain i) { bad 27 with act := i })
  <|> want (decide x.base.Nodup && (foldMembers? g (f + 1)).isSome) (bad 27)

def checkGate (g : Obj) (i : Nat) (x : GateRec) : Chk :=
  let bad (c : Nat) : Report := recRep c 14 i
  let seeds (j : Nat) : Nat := objNat g.o ((sect g.o 14).off + x.soff + 72 * j) 72
  let ends (ch : Nat) : Nat := ((chansOf g.o ch).filter (fun r => r.gate && r.far == i && r.out == x.out)).length
  want (zeroAt (recNat g.o 14 16 i) [(33, 31)] && nameOk g x.name && decide (x.soff + 72 * x.nsd ≤ (sect g.o 14).len)
        && (List.range x.nsd).all (fun j => bitsAt (seeds j) 514 62 == 0)) (bad 4)
  <|> want ((List.range (g.folds.length + 1)).all (fun ch => ends ch == 1) && g.chn.all (fun r => !(r.gate && r.far == i) || r.out == x.out)) (bad 26)
  <|> want (if x.out then x.nsd == 0 else x.seeds.getLast?.any (fun w => w.isCtl && w.kind == 3)) (bad 26)

def checkSym (g : Obj) (i : Nat) : Chk :=
  let n := recNat g.o 16 16 i
  want (zeroAt n [(32, 40)] && decide (bitsAt n 72 8 ≤ 4) && (bitsAt n 80 16 == 0xFFFF || decide (bitsAt n 80 16 < g.acts.length))
        && nameOk g (bitsAt n 0 32)) (recRep 4 16 i)

-- The loader ---------------------------------------------------------------------------------------------------------------------------

/-- The words of every actor's body. -/
def checkBodies (g : Obj) : Chk :=
  overRecs g.acts (fun i a =>
    if 4 ≤ a.cls then none
    else overRecs (g.words i) (fun p w => checkWord g i a (quadCount g i) (g.words i) p w) <|> checkStream i a (g.clauses i) (g.words i))

/-- Every record with all its checks, in the order of the section kinds and of the records (R318). -/
def checkRecords (g : Obj) : Chk :=
  (let kinds := kindsReach g; overRecs g.acts (checkAct g kinds))
  <|> overRecs g.cls (checkClsRec g)
  <|> overRecs (rateRecs g.o) (checkRateRec g)
  <|> checkBodies g
  <|> overRecs g.chn (fun i r => checkChn g i r <|> checkBuffer g i r)
  <|> overRecs (preRecs g.o) (checkPre g)
  <|> overRecs g.grp (checkGrp g)
  <|> overRecs (regRecs g.o) (checkReg g)
  <|> overRecs (tnsRecs g.o) (checkTns g)
  <|> overRecs (portRecs g.o) (checkPort g)
  <|> overRecs (imgRecs g.o) (checkImg g)
  <|> overRecs g.folds (checkFold g)
  <|> overRecs g.gates (checkGate g)
  <|> want (zeroAt (recNat g.o 15 208 0) [(1600, 64)]) (recRep 4 15 0)
  <|> overAll (List.range (sect g.o 16).cnt) (checkSym g)

/-- The loader (R318, R319): the first failure, or none where the object is accepted. `len` is the length that the host
gives, `needSig` whether its queue demands a signature. -/
def loaderCheck (o : List Byte) (len : Nat) (needSig : Bool) : Chk :=
  checkHeader o len <|> checkSections o <|> checkDigest o needSig
  <|> (let g := Obj.of o
       overRecs g.acts (checkSize g) <|> checkRecords g <|> overAll (List.range (g.folds.length + 1)) (checkProgress g))

/-- The element of an actor of a registered object (R64, R243, R341). -/
def installed (o : List Byte) (i : Nat) (hdl : Nat → Nat) : Elem :=
  let g := Obj.of o
  loadedElem o i (arrivalOrder g i) (mergeExempt g i) hdl

end Sys2Proof.Machine
end

