-- ==== Sys2Proof/Machine/Passing.lean ====
section
/-! DEFINITION. `drain` and `switch` as elements and record queues pass them (R235, R236, R416), and the configuration that a
`switch` installs. -/
namespace Sys2Proof.Machine

/-- The value a binding table gives a tensor (R336). -/
def bindHandle (binds : List (BitVec 128)) (t : Nat) : Nat :=
  ((binds.find? (fun b => !b.getLsbD 31 && bitsAt b.toNat 0 16 == t)).map (fun b => bitsAt b.toNat 32 32)).getD 0

/-- The channel table of actor `i`, put into an element whose channels keep their words and their other ends. -/
def withTable (g : Obj) (i : Nat) (e : Elem) : Elem :=
  { e with ins := e.ins.mapIdx (fun c x => { x with ent := ((g.port i false c).map ChnRec.ent).getD 0 }),
           outs := e.outs.mapIdx (fun c x => { x with ent := ((g.port i true c).map ChnRec.ent).getD 0 }) }

/-- A record queue under a new configuration: its place in the input, its record numbers and its reorder store live for the launch
(R279). -/
def RecqPart.kept (old new : RecqPart) : RecqPart :=
  { new with next := old.next, pub := old.pub, taken := old.taken, pairs := old.pairs,
             dealt := (List.range new.members).map (fun m => old.dealt.getD m none) }

/-- A configuration installed in an element that stays where it is and keeps its channels (R64, R236). -/
def switched (c : Config) (e : Elem) : Elem :=
  let n := installed c.obj e.act (bindHandle c.binds)
  withTable (Obj.of c.obj) e.act { n with
    rgn := e.rgn, site := e.site, die := e.die, folio := e.folio, ins := e.ins.map (fun x => { x with wpos := 0 }), outs := e.outs,
    mark := e.mark, rq := e.rq.kept n.rq, ve := { n.ve with quad := e.ve.quad }, ag := { n.ag with targets := e.ag.targets, colls := e.ag.colls } }

/-- The configuration whose id a `switch` carried, installed in an element; an id that is not registered installs nothing. -/
def installSwitch (s : State) (n id : Nat) : State :=
  match Tab.find s.configs id with
  | some c => if c.live then s.updElem n (switched c) else s
  | none => s

/-- Whether the effect of `phase.rgn` holds an AG (R179, R235). -/
def phaseHolds (e : Elem) : Bool := e.cls == .ag && !(allAccepted e && e.ag.tsts == [] && allAnswered e)

/-- The effect of `phase.rgn` on an AG (R179, R235). -/
def phaseEffect (s : State) (n : Nat) (e : Elem) : State :=
  if e.cls = .ag then
    let (s, e) := release s e
    acquire (s.setUnit (.el n) e) e 0
  else s

/-- The kind at every bound input passed on (R235, R236): the effect of `phase.rgn` first, then one word on every bound output, and the words consumed. -/
def passWord (s : State) (n : Nat) (e : Elem) (kind : Nat) : State :=
  let arg := (e.slot (e.mainIns.headD 0) 0).arg
  if phaseHolds e then s
  else match (if e.cls = .ag then needNoRefusal e else .ok ()) with
    | .error (.trap t) => raiseFault s n e t 0
    | .error (.hold _) => s
    | .ok _ =>
      let s := phaseEffect s n e
      if e.boundOuts.any (fun c => (e.outch c).free == 0) then s
      else
        let s := s.updElem n (fun e => e.boundOuts.foldl (fun (e : Elem) c => e.push c (CWord.ctl (BitVec.ofNat 32 kind) arg)) e)
        let s := e.mainIns.foldl (fun s c => eatPair s n c) s
        let s := if kind = 6 then installSwitch s n arg.toNat else s
        judgeHeads s n

/-- The action for a kind on an element, where it is due. -/
def passAction (s : State) (u kind : Nat) : State :=
  onElem s u (fun e =>
    if !e.active || e.busy || e.role != .actor || e.parked then s
    else match headFault e with
      | some t => raiseFault s u e t 0
      | none => if allHeads e kind then passWord s u e kind else s)

/-- DRAIN_ACTION (R235). -/
def execDrainAction (u : Nat) (s : State) : Host.Outcome State Fault Refusal := .next (passAction s u 4)

/-- SWITCH_ACTION (R236). -/
def execSwitchAction (u : Nat) (s : State) : Host.Outcome State Fault Refusal := .next (passAction s u 6)

/-- RECQ_DRAIN_OUT (R416): step 2 of passing a `drain` or a `switch`. -/
def execRecqDrainOut (u : Nat) (s : State) : Host.Outcome State Fault Refusal :=
  .next (recqStep s u (fun e =>
    match e.rq.passing with
    | none => s
    | some k =>
      if returnsAt e .pass k && (e.outch e.rq.members).free != 0 then
        let s := recqClear u s ({ e with rq := { e.rq with passing := none } }.push e.rq.members (CWord.ctl (BitVec.ofNat 32 k) e.rq.passArg))
        if k = 6 then installSwitch s u e.rq.passArg.toNat else s
      else s))

end Sys2Proof.Machine
end

