-- ==== Sys2Proof/Machine/Placement.lean ====
section
/-! DEFINITION. The ductus engine (spec 14, R320-R331, R417; spec 17, R398, R399): the shape of a region, placement, routing,
and the report of a failure to fit. Folios are pairs (die, folio) in region order. -/
namespace Sys2Proof.Machine

-- Sites (R3-R6, R325) -------------------------------------------------------------------------------------------------------

/-- The corner site of a folio, (col, row). -/
def folioCorner (f : Nat) : Nat × Nat := (12 * (f % 12), 12 * (f / 12))

/-- The folio of a site. -/
def folioOf (c r : Nat) : Nat := 12 * (r / 12) + c / 12

/-- The hemi of a folio. -/
def hemiOf (f : Nat) : Nat := f % 12 / 6

/-- The place of a site (R5), of an AG or RA (R213), with the number of its die in the bits from 16 up. -/
def siteCode (d c r : Nat) : Nat := d * 65536 + r * 256 + c
def unitCode (d n : Nat) : Nat := 2 ^ 31 + d * 65536 + n

/-- A site identifier as programs read it (R5, R213): the die by its number in its module. -/
def siteRead (code : Nat) : BitVec 32 := BitVec.ofNat 32 (code / 2 ^ 31 * 2 ^ 31 + code % 2 ^ 31 / 65536 % 32 * 65536 + code % 65536)

/-- The place where an element joins the fabric, (col, row) (R325). -/
def siteAt (code : Nat) : Nat × Nat :=
  if code < 2 ^ 31 then (code % 256, code / 256 % 256)
  else
    let n := code % 1024
    if n < 576 then folioCorner (n / 4) else (3 * (n - 576), 72)

def codeDie (code : Nat) : Nat := code % 2 ^ 31 / 65536

/-- The folio of an element. -/
def codeFolio (code : Nat) : Nat := folioOf (siteAt code).1 (siteAt code).2

/-- The elements of a class in a folio, in region order (R320). -/
def seatsOf (d f : Nat) (c : Cls) : List Nat :=
  let (x, y) := folioCorner f
  let grid (odd : Nat) : List Nat :=
    (List.range 12).flatMap (fun j => (List.range 6).map (fun i => siteCode d (x + 2 * i + (j + odd) % 2) (y + j)))
  match c with
  | .ve => grid 0
  | .se => grid 1
  | .ag => (List.range 4).map (fun p => unitCode d (4 * f + p))
  | .ra => if f / 12 = 6 then (List.range 4).map (fun p => unitCode d (576 + 4 * (f - 72) + p)) else []
  | .fc => []

/-- Whether the map marks an element, AG or RA unsound (R398, R399). -/
def seatSound (s : State) (code : Nat) : Bool :=
  let d := codeDie code
  let n := code % 1024
  !s.mapBad && !(if code < 2 ^ 31 then unsound s d 0 (code % 256) (code / 256 % 256)
                 else if n < 576 then unsound s d 2 (n / 4) (n % 4) else unsound s d 3 (n - 576) 0)

-- Shape (R321, R398) -----------------------------------------------------------------------------------------------------------

/-- The edge site of a bridge unit (R325). -/
def bridgeSite (b : Nat) : Nat × Nat := if b = 1 then (143, 72) else if b = 2 then (72, 143) else (0, 72)

/-- Whether an entry of the map falls within a folio of its die (R398). -/
def fallsIn (x : BitVec 64) (f : Nat) : Bool :=
  match smKind x with
  | 0 => folioOf (smA x) (smB x) == f
  | 1 => folioOf (smA x) (smB x) == f
  | 2 => smA x == f
  | 3 => folioOf (3 * smA x) 72 == f
  | 4 => folioOf (bridgeSite (smA x)).1 (bridgeSite (smA x)).2 == f
  | 5 => smA x == f
  | 6 => hemiOf f == (if (smA x + 256 * smB x) % 128 < 36 then 0 else 1)
  | _ => false

/-- The folios of a region on a die. -/
def onDie (folios : List (Nat × Nat)) (d : Nat) : List Nat := (folios.filter (fun f => f.1 == d)).map Prod.snd

/-- The fabric dies of the peer modules, by peer link and then by die (R320). -/
def peerDies : List Nat := (List.range 8).flatMap (fun p => (List.range 32).map (fun d => 64 * (p + 1) + d))

/-- The dies of a region in region order: those of this module, then those of its peers (R320). -/
def diesOf (folios : List (Nat × Nat)) : List Nat := sortBy (fun a b => decide (a ≤ b)) ((folios.map Prod.fst).eraseDups)

/-- The dies of this module among them. -/
def ownDies (folios : List (Nat × Nat)) : List Nat := (diesOf folios).filter (fun d => decide (d < 32))

/-- The entries hashed for a die, with their `die` field 0, ascending. -/
def shapeEntries (s : State) (folios : List (Nat × Nat)) (d : Nat) : List Nat :=
  sortBy (fun a b => decide (a ≤ b)) (((mapOf s d).filter (fun x => (onDie folios d).any (fallsIn x))).map (fun x => x.toNat % 2 ^ 59))

/-- A region's shape descriptor (R321). -/
def shapeBytes (s : State) (folios : List (Nat × Nat)) : List Byte :=
  let ds := diesOf folios
  let own := ownDies folios
  let cols (l : List Nat) : List Nat := l.map (fun d => d % 16)
  let lo := (cols own).foldl min 16
  let hi := (cols own).foldl max 0
  ds.flatMap (fun d =>
    littleBytes 1 (d / 16 % 2 * 128 + (d % 16 - (cols ds).foldl min 16))
      ++ littleBytes 18 ((onDie folios d).foldl (fun n f => n ||| 2 ^ f) 0)
      ++ sha512 ((shapeEntries s folios d).flatMap (littleBytes 8)))
  ++ ((List.range 32).filter (fun d => own.any (fun x => x / 16 == d / 16) && decide (lo ≤ d % 16 ∧ d % 16 ≤ hi))).flatMap (fun d =>
      littleBytes 1 ((List.range 4).foldl (fun n b => n + bit (unsound s d 4 b 0) * 2 ^ b) 0))

/-- The shape hash (R321). -/
def shapeHash (s : State) (folios : List (Nat × Nat)) : BitVec 64 := BitVec.ofNat 64 (leNat ((sha512 (shapeBytes s folios)).take 8))

-- Units of co-location (R4, R324) -----------------------------------------------------------------------------------------------

/-- The units chosen so far, innermost known by its outer ones. -/
structure Scope where
  die   : Option Nat
  hemi  : Option Nat
  folio : Option Nat
  quad  : Option Nat
  deriving DecidableEq, Repr

def Scope.all : Scope := { die := none, hemi := none, folio := none, quad := none }

/-- Whether a folio lies in the units. -/
def Scope.hasFolio (u : Scope) (f : Nat × Nat) : Bool := u.die.all (· == f.1) && u.hemi.all (· == hemiOf f.2) && u.folio.all (· == f.2)

/-- The quad of a site. -/
def quadOf (c r : Nat) : Nat := 72 * (r / 2) + c / 2

/-- Whether an element lies in the chosen quad. -/
def Scope.hasSeat (u : Scope) (code : Nat) : Bool := u.quad.all (· == quadOf (siteAt code).1 (siteAt code).2)

/-- The unit of a level (0 quad, 1 folio, 2 hemi, 3 die) that holds an element. -/
def unitAt (lvl code : Nat) : Scope :=
  let f := codeFolio code
  { die := some (codeDie code), hemi := if lvl ≤ 2 then some (hemiOf f) else none, folio := if lvl ≤ 1 then some f else none,
    quad := if lvl = 0 then some (quadOf (siteAt code).1 (siteAt code).2) else none }

/-- The units of a level within the chosen ones, in region order. -/
def unitsIn (folios : List (Nat × Nat)) (lvl : Nat) (u : Scope) : List Scope :=
  let fs := folios.filter u.hasFolio
  match lvl with
  | 3 => (fs.map (fun f => { Scope.all with die := some f.1 })).eraseDups
  | 2 => (fs.map (fun f => { Scope.all with die := some f.1, hemi := some (hemiOf f.2) })).eraseDups
  | 1 => fs.map (fun f => { die := some f.1, hemi := some (hemiOf f.2), folio := some f.2, quad := none })
  | _ => fs.flatMap (fun f => (List.range 36).map (fun j =>
      { die := some f.1, hemi := some (hemiOf f.2), folio := some f.2,
        quad := some (quadOf ((folioCorner f.2).1 + 2 * (j % 6)) ((folioCorner f.2).2 + 2 * (j / 6))) }))

/-- The free sound elements of a class within some units. -/
def freeSeats (s : State) (folios : List (Nat × Nat)) (taken : List Nat) (u : Scope) (c : Cls) : List Nat :=
  (folios.filter u.hasFolio).flatMap (fun f => (seatsOf f.1 f.2 c).filter (fun x => u.hasSeat x && !taken.contains x && seatSound s x))

/-- The first of them. -/
def firstSeat (s : State) (folios : List (Nat × Nat)) (taken : List Nat) (u : Scope) (c : Cls) : Option Nat :=
  (folios.filter u.hasFolio).findSome? (fun f => (seatsOf f.1 f.2 c).find? (fun x => u.hasSeat x && !taken.contains x && seatSound s x))

-- Reports (R330, R331) ------------------------------------------------------------------------------------------------------------

/-- What a failure to fit reports, beside the region and the graph. -/
structure NoFit where
  cause : Nat
  need  : Nat
  have' : Nat
  fact  : Nat
  fchn  : Nat
  lvl   : Nat
  ecl   : Nat
  bound : Nat
  deriving DecidableEq, Repr

/-- The number of a class in a report. -/
def eclOf (c : Cls) : Nat :=
  match c with
  | .ve => 0 | .se => 1 | .ag => 2 | .ra => 3 | .fc => 0

/-- The report of R330; the time spent is a free value within the bound of R329. -/
def NoFit.bits (x : NoFit) (s : State) (folios : List (Nat × Nat)) (gid fold : Nat) : BitVec 512 :=
  BitVec.ofNat 512 (fieldsNat [(448, (shapeHash s folios).toNat), (384, gid), (352, x.need % 2 ^ 32), (320, x.have' % 2 ^ 32), (304, x.fact % 2 ^ 16),
    (288, x.fchn % 2 ^ 16), (256, min (Config.freeNs s.freeCtr) x.bound % 2 ^ 32), (240, folios.length % 2 ^ 16), (232, (diesOf folios).length % 2 ^ 8),
    (224, fold % 256), (220, x.lvl), (216, x.ecl), (0, x.cause)])

-- Placing actors (R323, R324) --------------------------------------------------------------------------------------------------------

/-- The record queues with their members, which stand on one die (R279). -/
def recqTeams (g : Obj) : List (List Nat) :=
  ((List.range g.acts.length).filter (fun q => (g.act q).cls == 4)).map (fun q => q :: recqMembers g.o q)

/-- Some actors with all that a chain of teams and groups binds to them. -/
def boundTo (g : Obj) : Nat → List Nat → List Nat
  | 0, l => l
  | n + 1, l =>
    let all := recqTeams g ++ (g.grp.filter (fun x => decide (x.kind ≤ 3))).map GrpRec.mem
    let more := joinNew l ((all.filter (fun m => m.any l.contains)).flatMap id)
    if more.length = l.length then l else boundTo g n more

/-- The members of an actor's group at a level, among the actors of a fold choice. On the level of dies, a record queue, its members
and all that groups bind to them are one (R279). -/
def groupAt (g : Obj) (acts : List Nat) (lvl i : Nat) : List Nat :=
  let own := (groupsOf g lvl i).head?.elim [] GrpRec.mem
  let team := if lvl = 3 then boundTo g g.acts.length [i] else []
  (if (recqTeams g).any (fun m => m.any team.contains) then sortBy (fun a b => decide (a ≤ b)) team else own).filter acts.contains

/-- Keys of a level from those of the level below (R323). -/
def keysUp (g : Obj) (acts : List Nat) (lvl : Nat) (t : Tab Nat) : Tab Nat :=
  acts.map (fun i => (i, ((groupAt g acts lvl i).map (fun m => Tab.get m t m)).foldl min (Tab.get i t i)))

/-- Whether a list of numbers stands before another or equals it. -/
def lexLe : List Nat → List Nat → Bool
  | [], _ => true
  | _ :: _, [] => false
  | a :: r, b :: q => decide (a < b) || (a == b && lexLe r q)

/-- The actors in the order in which they are placed (R323). -/
def placeOrder (g : Obj) (acts : List Nat) : List Nat :=
  let q := keysUp g acts 0 []
  let f := keysUp g acts 1 q
  let h := keysUp g acts 2 f
  let d := keysUp g acts 3 h
  let key (i : Nat) : List Nat := [Tab.get i d i, Tab.get i h i, Tab.get i f i, Tab.get i q i, i]
  ((sortBy (fun a b => lexLe a.1 b.1) (acts.map (fun i => (key i, i)))).map Prod.snd)

/-- The class of the element an actor needs. -/
def seatCls (g : Obj) (i : Nat) : Cls := actCls (g.act i).cls

/-- The classes that are counted, in the order of R331. -/
def seatClasses : List Cls := [.ve, .se, .ag, .ra]

/-- How many actors of a list need a class. -/
def needOf (g : Obj) (l : List Nat) (c : Cls) : Nat := (l.filter (fun i => seatCls g i == c)).length

/-- The failure of cause 2 (R331): no unit of a level holds a group. -/
def noUnitFor (s : State) (folios : List (Nat × Nat)) (g : Obj) (taken : List Nat) (units : List Scope) (lvl i : Nat) (group : List Nat) : NoFit :=
  let free (u : Scope) (c : Cls) : Nat := (freeSeats s folios taken u c).length
  let short (u : List Scope) (c : Cls) : Bool := u.all (fun x => decide (free x c < needOf g group c))
  let c := ((seatClasses.find? (short units)).orElse (fun _ => seatClasses.find? (short (units.take 1)))).getD .ve
  { cause := 2, need := needOf g group c, have' := (units.map (fun u => free u c)).foldl max 0, fact := i, fchn := 0xFFFF, lvl := lvl + 1,
    ecl := eclOf c, bound := 0 }

/-- The unit of a level for an actor (R324). -/
def chooseUnit (s : State) (folios : List (Nat × Nat)) (g : Obj) (acts : List Nat) (placed : Tab Nat) (i lvl : Nat) (u : Scope) : Except NoFit Scope :=
  let m := groupAt g acts lvl i
  if m = [] then .ok u
  else match m.findSome? (Tab.find placed) with
    | some x => .ok (unitAt lvl x)
    | none =>
      let taken := placed.map Prod.snd
      let units := unitsIn folios lvl u
      match units.find? (fun x => seatClasses.all (fun c => needOf g m c == 0 || decide (needOf g m c ≤ (freeSeats s folios taken x c).length))) with
      | some x => .ok x
      | none => .error (noUnitFor s folios g taken units lvl i m)

/-- The level of the innermost unit chosen, as reports number levels. -/
def innerLvl (g : Obj) (acts : List Nat) (i : Nat) : Nat :=
  match [0, 1, 2, 3].find? (fun l => groupAt g acts l i != []) with
  | some l => l + 1
  | none => 5

/-- The failure of cause 1 (R331). -/
def noSeatFor (s : State) (folios : List (Nat × Nat)) (g : Obj) (acts : List Nat) (i lvl : Nat) : NoFit :=
  let c := seatCls g i
  { cause := 1, need := needOf g acts c, have' := (freeSeats s folios [] Scope.all c).length, fact := i, fchn := 0xFFFF, lvl := lvl, ecl := eclOf c,
    bound := 0 }

/-- One actor placed (R324). Where the map failed its verification, nothing is chosen: cause 1 (R399). -/
def placeOne (s : State) (folios : List (Nat × Nat)) (g : Obj) (acts : List Nat) (placed : Tab Nat) (i : Nat) : Except NoFit (Tab Nat) := do
  if s.mapBad then throw (noSeatFor s folios g acts i 5)
  let u ← [3, 2, 1, 0].foldlM (fun u l => chooseUnit s folios g acts placed i l u) Scope.all
  match firstSeat s folios (placed.map Prod.snd) u (seatCls g i) with
  | some x => .ok (placed ++ [(i, x)])
  | none => throw (noSeatFor s folios g acts i (innerLvl g acts i))

/-- Every actor placed, or the failure and how many were placed before it. -/
def placeAll (s : State) (folios : List (Nat × Nat)) (g : Obj) (acts : List Nat) : List Nat → Tab Nat → Except NoFit (Tab Nat)
  | [], placed => .ok placed
  | i :: r, placed =>
    match placeOne s folios g acts placed i with
    | .ok t => placeAll s folios g acts r t
    | .error x => .error { x with bound := 64 * placed.length + 20000 }

-- Routing (R326, R327) -----------------------------------------------------------------------------------------------------------------

/-- A step over a neighbour link: from (col, row) in a direction of R398. -/
structure Hopping where
  c   : Nat
  r   : Nat
  dir : Nat
  deriving DecidableEq, Repr

/-- Steps along columns, then along rows. -/
def walkCols (c d r : Nat) : List Hopping :=
  if c ≤ d then (List.range (d - c)).map (fun i => { c := c + i, r := r, dir := 1 })
  else (List.range (c - d)).map (fun i => { c := c - i, r := r, dir := 3 })

def walkRows (r t c : Nat) : List Hopping :=
  if r ≤ t then (List.range (t - r)).map (fun i => { c := c, r := r + i, dir := 0 })
  else (List.range (r - t)).map (fun i => { c := c, r := r - i, dir := 2 })

def colsFirst (a b : Nat × Nat) : List Hopping := walkCols a.1 b.1 a.2 ++ walkRows a.2 b.2 b.1
def rowsFirst (a b : Nat × Nat) : List Hopping := walkRows a.2 b.2 a.1 ++ walkCols a.1 b.1 b.2

/-- A detour by an offset, where it stays on the die. -/
def detour (a b : Nat × Nat) (d : Int × Int) : Option (List Hopping) :=
  let c := (a.1 : Int) + d.1
  let r := (a.2 : Int) + d.2
  if 0 ≤ c ∧ c < 144 ∧ 0 ≤ r ∧ r < 144 then
    let m := (c.toNat, r.toNat)
    some (colsFirst a m ++ colsFirst m b)
  else none

/-- The attempts of R326, in order. -/
def attempts (a b : Nat × Nat) : List (List Hopping) :=
  colsFirst a b :: rowsFirst a b
    :: [(0, 1), (0, -1), (1, 0), (-1, 0), (0, 2), (0, -2), (2, 0), (-2, 0)].filterMap (detour a b)

/-- Where a step ends. -/
def Hopping.to (h : Hopping) : Nat × Nat :=
  match h.dir with
  | 0 => (h.c, h.r + 1)
  | 1 => (h.c + 1, h.r)
  | 2 => (h.c, h.r - 1)
  | _ => (h.c - 1, h.r)

/-- The number of a link in a direction. -/
def Hopping.key (d : Nat) (h : Hopping) : Nat := ((d * 144 + h.c) * 144 + h.r) * 4 + h.dir

/-- Whether the map marks a link unsound, named from one of its ends (R398). -/
def linkUnsound (s : State) (d : Nat) (h : Hopping) : Bool :=
  let t := h.to
  (mapOf s d).any (fun x => smKind x == 1 &&
    ((smA x == h.c && smB x == h.r && smC x == h.dir) || (smA x == t.1 && smB x == t.2 && smC x == (h.dir + 2) % 4)))

/-- Whether a link may carry one more channel (R326). -/
def linkOpen (s : State) (folios : List (Nat × Nat)) (load : Tab Nat) (d : Nat) (h : Hopping) : Bool :=
  folios.contains (d, folioOf h.c h.r) && folios.contains (d, folioOf h.to.1 h.to.2) && !linkUnsound s d h
    && decide (Tab.get 0 load (h.key d) < 8)

/-- A leg within a die: the links' loads after it, and its hops. -/
def routeLeg (s : State) (folios : List (Nat × Nat)) (load : Tab Nat) (d : Nat) (a b : Nat × Nat) : Option (Tab Nat × Nat) :=
  ((attempts a b).find? (fun l => l.all (linkOpen s folios load d))).map (fun l =>
    (l.foldl (fun t h => Tab.set t (h.key d) (Tab.get 0 t (h.key d) + 1)) load, l.length))

/-- The bridges from a die to another of one module, each as (die left, unit by which it leaves) (R327). -/
def ladderWay : Nat → Nat → Nat → List (Nat × Nat)
  | 0, _, _ => []
  | n + 1, d, e =>
    if d = e then []
    else if d % 16 < e % 16 then (d, 1) :: ladderWay n (d + 1) e
    else if e % 16 < d % 16 then (d, 0) :: ladderWay n (d - 1) e
    else [(d, 2)]

/-- The ladder's west end in the row of a die: it is joined to the command die (R2). -/
def westEnd (d : Nat) : Nat := d / 16 * 16

/-- The links between the command dies of two modules: a peer link last on the way out of a module and first on the way in (R327). -/
def peerWay (a b : Nat) : List (Nat × Nat) :=
  (if a = 0 then [] else [(64 * a + 32, 4)]) ++ (if b = 0 then [] else [(32, 3 + b)])

/-- The bridges and peer links from a die to another (R327). To a die of another module the way leaves by the west end of its row, and
enters by that of the same row (log 113). -/
def crossingsOf (d e : Nat) : List (Nat × Nat) :=
  if d / 64 = e / 64 then ladderWay 17 d e
  else
    let door := e / 64 * 64 + d % 64 / 16 * 16
    ladderWay 17 d (westEnd d) ++ [(westEnd d, 3)] ++ peerWay (d / 64) (e / 64) ++ [(e / 64 * 64 + 32, d % 64 / 16)] ++ ladderWay 17 door e

/-- Whether a crossing is of a peer link. -/
def isPeerHop (x : Nat × Nat) : Bool := x.1 % 64 == 32 && decide (4 ≤ x.2)

/-- Whether both bridge units of a crossing are sound; the map names those of fabric dies. -/
def crossSound (s : State) (x : Nat × Nat) : Bool :=
  let ok (y : Nat × Nat) : Bool := y.1 % 64 == 32 || !unsound s y.1 4 y.2 0
  ok x && (peerBridge x.1 x.2).any ok

/-- The spine port of a region on a die (R327). -/
def spinePort (folios : List (Nat × Nat)) (d : Nat) : Nat × Nat := folioCorner ((onDie folios d).headD 0)

/-- A channel of a fold choice: the index of its record in CHN (0xFFFF into an output gate, which has no input-side record),
its ends as actors or gates. -/
structure Wire where
  rec' : Nat
  src  : ChanEnd
  dst  : ChanEnd
  deriving DecidableEq, Repr

/-- The channels in the order in which they are routed (R326). -/
def wiresOf (o : List Byte) (choice : Nat) : List Wire :=
  let acts := actorsOf o choice
  let all := ((chnRecs o).zipIdx).filter (fun p => acts.contains p.1.act)
  let recs := all.map Prod.fst
  all.filterMap (fun p =>
    let r := p.1
    if r.out then none
    else if r.gate then some { rec' := p.2, src := .gate 0 r.far, dst := .el r.act r.chn }
    else (farEnd recs r).map (fun q => { rec' := p.2, src := .el q.act q.chn, dst := .el r.act r.chn }))
  ++ all.filterMap (fun p =>
    let r := p.1
    if r.out && r.gate then some { rec' := 0xFFFF, src := .el r.act r.chn, dst := .gate 0 r.far } else none)

/-- Die and site of an end. -/
def endSite (folios : List (Nat × Nat)) (placed : Tab Nat) (x : ChanEnd) : Nat × (Nat × Nat) :=
  match x with
  | .el i _ => let c := Tab.get 0 placed i; (codeDie c, siteAt c)
  | .gate _ _ => match folios with
    | (d, f) :: _ => (d, folioCorner f)
    | [] => (0, (0, 0))

/-- What routing has come to: link loads, hops, and the crossings of each channel. -/
structure Routing where
  load : Tab Nat
  hops : Nat
  ways : List (Wire × List (Nat × Nat))

/-- One channel routed (R326, R327). -/
def routeOne (s : State) (folios : List (Nat × Nat)) (placed : Tab Nat) (x : Routing) (w : Wire) : Option Routing :=
  let (d, a) := endSite folios placed w.src
  let (e, b) := endSite folios placed w.dst
  if d = e then
    (routeLeg s folios x.load d a b).map (fun l => { load := l.1, hops := x.hops + l.2, ways := x.ways ++ [(w, [])] })
  else
    let cr := crossingsOf d e
    if !cr.all (crossSound s) then none
    else match routeLeg s folios x.load d a (spinePort folios d) with
      | none => none
      | some (l, m) => (routeLeg s folios l e (spinePort folios e) b).map (fun k =>
          { load := k.1, hops := x.hops + m + k.2, ways := x.ways ++ [(w, cr)] })

/-- Every channel routed, or the failure of cause 3. -/
def routeAll (s : State) (folios : List (Nat × Nat)) (placed : Tab Nat) : List Wire → Routing → Except NoFit Routing
  | [], x => .ok x
  | w :: r, x =>
    match routeOne s folios placed x w with
    | some y => routeAll s folios placed r y
    | none => .error { cause := 3, need := 1, have' := 0, fact := 0xFFFF, fchn := w.rec', lvl := 0, ecl := 4,
                       bound := 64 * placed.length + 8 * x.hops + 20000 }

/-- A bridge as its lower end names it: both directions of one link. -/
def bridgeKey (x : Nat × Nat) : Nat × Nat :=
  match peerBridge x.1 x.2 with
  | some (d, b) => if d < x.1 then (d, b) else x
  | none => x

/-- How often a graph's channels cross a bridge that they cross more than 1,024 times, or with `peer` a peer link (R327). -/
def overCrossed (x : Routing) (peer : Bool) : Option Nat :=
  let keys := ((x.ways.flatMap Prod.snd).filter (fun y => isPeerHop y == peer)).map bridgeKey
  let le (a b : Nat × Nat) : Bool := decide (a.1 < b.1 ∨ (a.1 = b.1 ∧ a.2 ≤ b.2))
  (sortBy le keys.eraseDups).findSome? (fun k =>
    let n := (keys.filter (fun y => y == k)).length
    if 1024 < n then some n else none)

-- The engine (R322, R328) ------------------------------------------------------------------------------------------------------------

/-- A placement: sites by actor, hops, crossings by channel. -/
structure Plan where
  sites : Tab Nat
  hops  : Nat
  ways  : List (Wire × List (Nat × Nat))

/-- A graph placed under a fold choice in a region. -/
def placeGraph (s : State) (o : List Byte) (folios : List (Nat × Nat)) (choice : Nat) : Except NoFit Plan :=
  let g := Obj.of o
  let acts := actorsOf o choice
  match placeAll s folios g acts (placeOrder g acts) [] with
  | .error x => .error x
  | .ok placed =>
    match routeAll s folios placed (wiresOf o choice) { load := [], hops := 0, ways := [] } with
    | .error x => .error x
    | .ok r =>
      let crossed (cause n lvl ecl : Nat) : NoFit :=
        { cause := cause, need := n, have' := 1024, fact := 0xFFFF, fchn := 0xFFFF, lvl := lvl, ecl := ecl,
          bound := 64 * placed.length + 8 * r.hops + 20000 }
      match overCrossed r false, overCrossed r true with
      | some n, _ => .error (crossed 4 n 4 5)
      | none, some n => .error (crossed 5 n 5 6)
      | none, none => .ok { sites := placed, hops := r.hops, ways := r.ways }

/-- The fold choices in turn (R328): the first that places whole, or the failure of the last attempt. -/
def placeFirst (s : State) (o : List Byte) (folios : List (Nat × Nat)) : List Nat → Except (Nat × NoFit) (Nat × Plan)
  | [] => .error (0, { cause := 1, need := 0, have' := 0, fact := 0xFFFF, fchn := 0xFFFF, lvl := 5, ecl := 0, bound := 20000 })
  | c :: r =>
    match placeGraph s o folios c with
    | .ok p => .ok (c, p)
    | .error x => if r = [] then .error (c, x) else placeFirst s o folios r

/-- The choices a launch allows: one named, or every one of the object (R328). -/
def foldChoices (o : List Byte) (fold : Nat) : List Nat := if fold = 0xFF then List.range ((foldRecs o).length + 1) else [fold]

-- Stream numbers (R327) ------------------------------------------------------------------------------------------------------------

/-- The streams in use on a bridge, in either direction. -/
def streamsOn (s : State) (extra : List Hop) (k : Nat × Nat) : List Nat :=
  let own := (extra.filter (fun h => bridgeKey (h.die, h.br) == k)).map Hop.strm
  (allOuts s).foldl (fun l x => match s.outAt x with
    | some o => l ++ (o.via.filter (fun h => bridgeKey (h.die, h.br) == k)).map Hop.strm
    | none => l) own

/-- The lowest stream number that is free on a bridge. -/
def freeStream (s : State) (extra : List Hop) (k : Nat × Nat) : Option Nat :=
  let used := streamsOn s extra k
  (List.range 1024).find? (fun n => !used.contains n)

/-- Stream numbers for the crossings of channels, in order; none where a bridge has none left. -/
def giveStreams (s : State) : List (Wire × List (Nat × Nat)) → List Hop → Option (List (Wire × List Hop))
  | [], _ => some []
  | (w, cr) :: r, extra =>
    let way := cr.foldl (fun (o : Option (List Hop)) x =>
      match o with
      | none => none
      | some l => (freeStream s (extra ++ l) (bridgeKey x)).map (fun n => l ++ [{ die := x.1, br := x.2, strm := n }])) (some [])
    match way with
    | none => none
    | some l => (giveStreams s r (extra ++ l)).map (fun t => (w, l) :: t)

end Sys2Proof.Machine
end

