-- ==== Sys2Proof/Machine/Time.lean ====
section
/-! DEFINITION. Ops 0xB0-0xB4: what programs read from the interval clock and the tick, and waits on stamps (spec 07,
R192-R199). -/
namespace Sys2Proof.Machine

/-- A state register that has a register after it (R194). -/
def pairDst (e : Elem) (d : BitVec 10) : Bool := decide (d.toNat + 1 < e.cls.nState)

def bodyClkr : Body := fun s f e => do
  need (f.var == 0) .instr
  needDes (pairDst e f.d) f.d
  let d := s.die e.clockDie
  done s (putWhole (putWhole e f.d (pair64 d.early) false true) (f.d + 1) (pair64 d.late) false true)

/-- `clkr` (R192, R194). -/
def execClkr (f : Fields) (s : State) : Host.Outcome State Fault Refusal := issue 0xB0 bodyClkr f s

def bodyStmp : Body := fun s f e => do
  checkRaw e f onlyD (f.var == 0) (badReg e f)
  let d := s.die e.clockDie
  needNarrow d
  awaitFree (match e.ag.stamp with | some t => decide (t < d.late) | none => true)
  done s (putWhole { e with ag := { e.ag with stamp := some d.late } } f.d (pair64 d.late) false true)

/-- `stmp` (R193, R195). -/
def execStmp (f : Fields) (s : State) : Host.Outcome State Fault Refusal := issue 0xB1 bodyStmp f s

/-- Whether every `tsts` of the executing agent up to a stamp has dried or been refused (R196). -/
def allDry (s : State) (e : Elem) (st : Nat) : Bool :=
  e.ag.tsts.all (fun t => decide (st < t.stamp)) &&
    match s.cur with
    | .el n => s.wet.all (fun w => w.agent != n || decide (st < w.stamp))
    | .fc _ => true

def bodyCmtw : Body := fun s f e => do
  checkRaw e f onlyA (decide (f.var.toNat ≤ 1)) none
  let a := readDes s e f.a
  let st := stampOf a.pay
  let d := s.die e.clockDie
  needNarrow d
  need (!a.pz) (.poison 0 f.d.toNat 0)
  need (decide (st ≤ d.late + 2 ^ 30)) (.operand f.a.toNat)
  needNoRefusal e
  awaitFree (decide (st < d.early) && (f.var != 1 || allDry s e st))
  done s e

/-- `cmtw` (R172, R193, R196). -/
def execCmtw (f : Fields) (s : State) : Host.Outcome State Fault Refusal := issue 0xB2 bodyCmtw f s

/-- Fields of a queue descriptor (R332). -/
def qdBase (d : BitVec 512) : Nat := bitsAt d.toNat 448 64
def qdOrig (d : BitVec 512) : Nat := bitsAt d.toNat 384 64
def qdPer (d : BitVec 512) : Nat := bitsAt d.toNat 352 32
def qdCtx (d : BitVec 512) : Nat := bitsAt d.toNat 320 32
def qdHead (d : BitVec 512) : Nat := bitsAt d.toNat 288 32
def qdTail (d : BitVec 512) : Nat := bitsAt d.toNat 256 32
def qdSeq (d : BitVec 512) : Nat := bitsAt d.toNat 224 32
def qdWake (d : BitVec 512) : Nat := bitsAt d.toNat 192 32
def qdRlog (d : BitVec 512) : Nat := bitsAt d.toNat 172 4
def qdPri (d : BitVec 512) : Nat := bitsAt d.toNat 169 3
def qdTmod (d : BitVec 512) : Nat := bitsAt d.toNat 167 2
def qdSgn (d : BitVec 512) : Bool := d.getLsbD 166
def qdTcl (d : BitVec 512) : Nat := bitsAt d.toNat 160 5

/-- A descriptor with `n` bits from `lo` replaced. -/
def qdPut (d : BitVec 512) (lo n v : Nat) : BitVec 512 :=
  BitVec.ofNat 512 (d.toNat - bitsAt d.toNat lo n * 2 ^ lo + v % 2 ^ n * 2 ^ lo)

/-- How a queue with a descriptor releases its launches. -/
def Clk.of (d : BitVec 512) : Clk := { tmod := qdTmod d, orig := qdOrig d, per := qdPer d }

/-- The lanes of `tick` (R197) for tick `k`. -/
def tickLanes (c : Clk) (k : Nat) : Payload :=
  if c.tmod = 0 then 0
  else
    let a := c.start k
    let b := c.start (k + 1)
    Payload.ofList [BitVec.ofNat 32 k, BitVec.ofNat 32 a, BitVec.ofNat 32 (a / 2 ^ 32), BitVec.ofNat 32 b,
                    BitVec.ofNat 32 (b / 2 ^ 32), BitVec.ofNat 32 c.per]

def bodyTick : Body := fun s f e => do
  checkRaw e f onlyD (f.var == 0) (badReg e f)
  let x := s.queue (f.imm.toNat % 4096)
  needDes (e.cls != .fc || x.mapped) f.a
  let g := s.region e.rgn
  let (c, k) := if e.cls = .fc then (Clk.of x.desc, x.released) else (g.clk, g.tick)
  done s (putWhole e f.d (tickLanes c k) false (c.tmod == 2))

/-- `tick` (R197, R342). -/
def execTick (f : Fields) (s : State) : Host.Outcome State Fault Refusal := issue 0xB3 bodyTick f s

def bodyIvlm : Body := fun s f e => do
  if f.var = 1 then
    checkRaw e f onlyAB (e.cls == .fc) none
    let n := ((readDes s e f.a).pay.lane 0).toNat % 64
    let lim := ((readDes s e f.b).pay.lane 0).toNat
    needDes (decide (n ≤ 32)) f.a
    needDes (decide (100 ≤ lim ∧ lim ≤ 100000)) f.b
    let d := s.die n
    done (changeDie s n { d with lim := lim }) e
  else
    let fc := e.cls == .fc
    checkRaw e f (if fc then usesA else onlyD) (f.var == 0) (badReg e f)
    let n := if fc then ((readDes s e f.a).pay.lane 0).toNat % 64 else e.die
    needDes (!fc || decide (n ≤ 32)) f.a
    done s (putWhole e f.d ((s.die n).status n) (fc && (readDes s e f.a).pz) true)

/-- `ivlm` (R193, R198, R199). -/
def execIvlm (f : Fields) (s : State) : Host.Outcome State Fault Refusal := issue 0xB4 bodyIvlm f s

end Sys2Proof.Machine
end

