-- ==== Sys2Proof/Machine/Queues.lean ====
section
/-! DEFINITION. Queues and command packets (spec 14, R332-R339, R344): doorbells, mapping, packets as scribes read and check
them, readiness, completion records. -/
namespace Sys2Proof.Machine

/-- Bytes that the device writes at a physical address: in HBM they clear the bits of the granules they cover (R161). -/
def devStore (s : State) (a : Nat) (bytes : List Byte) : State :=
  if isHbm a then hostStore s a bytes else { s with mem := memWrite s.mem a bytes }

/-- The source of a queue's events (R392). -/
def queueSrc (q : Nat) : Nat := srcNum 32 9 q

-- Doorbells (R333, R334) ------------------------------------------------------------------------------------------------------

/-- Packets written and not read. -/
def qdPending (d : BitVec 512) : Nat := (qdTail d + 2 ^ 32 - qdHead d) % 2 ^ 32

/-- Whether `tail` is out of the ring's bounds (R333). -/
def ringBad (d : BitVec 512) : Bool := decide (2 ^ qdRlog d < qdPending d)

/-- The scribes (R406). -/
def scribes : List Nat := (List.range 12).map (fun i => i + 2)

/-- The inbox of a core. -/
def State.inbox (s : State) (c : Nat) : List Nat := Tab.get [] s.work c

/-- The scribe from which another steals: the one of the longest inbox, of the lowest `coreid` among them (R406). An entry that stands
alone is being served and is not stolen (log 136). -/
def stealFrom (s : State) : Option Nat :=
  scribes.foldl (fun b c =>
    let n := (s.inbox c).length
    if n < 2 then b else match b with
      | none => some c
      | some x => if (s.inbox x).length < n then some c else b) none

/-- A scribe with an empty inbox steals the newest entry of the longest other inbox (R406). -/
def steal (s : State) : State :=
  match scribes.find? (fun c => (s.inbox c).isEmpty), stealFrom s with
  | some c, some v =>
    match (s.inbox v).getLast? with
    | some q => addWork { s with work := Tab.set s.work v (s.inbox v).dropLast } c q
    | none => s
  | _, _ => s

/-- The work entry of a queue: in the inbox of its home scribe, or of the canary core (R406, R409). -/
def enterWork (s : State) (q : Nat) : State :=
  if qdPending (s.queue q).desc = 0 ∨ s.work.any (fun w => w.2.contains q) then s
  else steal (addWork s (if s.fw.canary.isSome && s.fw.moved.contains q then 14 else 2 + q % 12) q)

/-- A queue without packets has no work entry. -/
def leaveWork (s : State) (q : Nat) : State := steal { s with work := s.work.map (fun w => (w.1, w.2.filter (fun x => x != q))) }

/-- A wake of a mapped queue (R333). -/
def wakeQueue (s : State) (q : Nat) : State :=
  let x := s.queue q
  if x.halt then s
  else if ringBad x.desc then postEvent (leaveWork (s.setQueue q { x with halt := true }) q) 5 (q + 4096) (queueSrc q)
  else postEvent (enterWork s q) 11 q (queueSrc q)

/-- `n` bytes of a descriptor in memory. -/
def qdStore (s : State) (a off n v : Nat) : State := devStore s (a + off) (littleBytes n v)

/-- A doorbell (R333, R334). -/
def ringBell (s : State) (q tail : Nat) : State :=
  let x := s.queue q
  if x.mapped then
    let s := s.setQueue q { x with desc := qdPut x.desc 256 32 tail }
    wakeQueue (match x.addr with
      | some a => qdStore s a 32 4 tail
      | none => s) q
  else match x.addr with
    | some a => qdStore (qdStore s a 32 4 tail) a 24 4 (memNat s.mem (a + 24) 4 + 1)
    | none => s.setQueue q { x with desc := qdPut (qdPut x.desc 256 32 tail) 192 32 (qdWake x.desc + 1) }

/-- DOORBELL_WRITE (R333, R334): bits 63:32 of the data are ignored. -/
def execDoorbellWrite (q : Nat) (data : BitVec 64) (s : State) : Host.Outcome State Fault Refusal :=
  .next (if 4096 ≤ q ∨ s.linkDown.contains (q / 2048) then s else ringBell s q (data.toNat % 2 ^ 32))

/-- Whether a descriptor is refused at map (R332). -/
def qdRefused (d : BitVec 512) : Bool := qdTmod d == 3 || (qdTmod d != 0 && qdPer d == 0)

/-- Doorbells that came before the device knew the descriptor, written into it (R334). -/
def latchedBells (s : State) (q addr : Nat) : State :=
  let x := s.queue q
  if x.addr.isNone ∧ qdWake x.desc ≠ 0 then
    qdStore (qdStore s addr 32 4 (qdTail x.desc)) addr 24 4 (memNat s.mem (addr + 24) 4 + qdWake x.desc)
  else s

/-- QUEUE_MAP (R332-R334, R406): the state of the queue and its control register live for its context (R332, R386). A map that is refused
changes nothing of them. -/
def execQueueMap (q addr : Nat) (s : State) : Host.Outcome State Fault Refusal :=
  .next (
    let x := s.queue q
    if 4096 ≤ q ∨ x.mapped then s
    else
      if qdRefused (BitVec.ofNat 512 (memNat s.mem addr 64)) then postEvent s 5 (q + 2 * 4096) (queueSrc q)
      else
        let s := latchedBells s q addr
        let d := BitVec.ofNat 512 (memNat s.mem addr 64)
        let mine := x.addr.isNone || qdCtx d == qdCtx x.desc
        let y := if mine then x else { Queue.initial with ep := x.ep + 1 }
        let s := s.setQueue q { y with addr := some addr, desc := qdPut (qdPut d 165 1 1) 192 32 0, mapped := true, seqs := max y.seqs (qdSeq d) }
        if qdWake d ≠ 0 ∨ ringBad d then wakeQueue s q else enterWork s q)

/-- QUEUE_UNMAP (R332): `head`, `seq` and `wake` are written back. -/
def execQueueUnmap (q : Nat) (s : State) : Host.Outcome State Fault Refusal :=
  .next (
    let x := s.queue q
    match x.mapped, x.addr with
    | true, some a =>
      let s := qdStore (qdStore (qdStore s a 36 4 (qdHead x.desc)) a 28 4 (qdSeq x.desc)) a 24 4 (qdWake x.desc)
      leaveWork (s.setQueue q { x with mapped := false, halt := false }) q
    | _, _ => s)

-- Packets (R335-R337) ------------------------------------------------------------------------------------------------------------

def pkIdig (p : BitVec 1536) : Nat := bitsAt p.toNat 1024 512
def pkCrec (p : BitVec 1536) : Nat := bitsAt p.toNat 960 64
def pkBtab (p : BitVec 1536) : Nat := bitsAt p.toNat 896 64
def pkSadr (p : BitVec 1536) : Nat := bitsAt p.toNat 832 64
def pkNsw (p : BitVec 1536) : Nat := bitsAt p.toNat 800 32
def pkTick (p : BitVec 1536) : Nat := bitsAt p.toNat 576 32
def pkCfg (p : BitVec 1536) : Nat := bitsAt p.toNat 544 32
def pkRgn (p : BitVec 1536) : Nat := bitsAt p.toNat 528 16
def pkNfol (p : BitVec 1536) : Nat := bitsAt p.toNat 512 16
def pkMdie (p : BitVec 1536) : Nat := bitsAt p.toNat 504 8
def pkFold (p : BitVec 1536) : Nat := bitsAt p.toNat 496 8
def pkNbnd (p : BitVec 1536) : Nat := bitsAt p.toNat 480 16
def pkMsix (p : BitVec 1536) : Nat := bitsAt p.toNat 469 11
def pkIen (p : BitVec 1536) : Bool := p.getLsbD 468
def pkDbg (p : BitVec 1536) : Bool := p.getLsbD 467
def pkKeep (p : BitVec 1536) : Bool := p.getLsbD 466
def pkSer (p : BitVec 1536) : Bool := p.getLsbD 465
def pkDfl (p : BitVec 1536) : Bool := p.getLsbD 464
def pkPeer (p : BitVec 1536) : Bool := p.getLsbD 463
def pkKind (p : BitVec 1536) : Nat := bitsAt p.toNat 0 8
def pkDep (p : BitVec 1536) (i : Nat) : Nat := bitsAt p.toNat (608 + 48 * i) 48

/-- The valid dependences, as (queue, sequence number). -/
def pkDeps (p : BitVec 1536) : List (Nat × Nat) :=
  (List.range 4).filterMap (fun i => let d := pkDep p i; if d.testBit 47 then some (bitsAt d 32 12, bitsAt d 0 32) else none)

/-- The reserved fields of a packet. -/
def pkClean (p : BitVec 1536) : Bool := bitsAt p.toNat 8 455 == 0 && (List.range 4).all (fun i => bitsAt (pkDep p i) 44 3 == 0)

/-- The binding table a packet names (R336). -/
def pkBinds (s : State) (p : BitVec 1536) : List (BitVec 128) :=
  if pkBtab p = 0 then [] else (List.range (pkNbnd p)).map (fun i => BitVec.ofNat 128 (memNat s.mem (pkBtab p + 16 * i) 16))

def bdGate (b : BitVec 128) : Bool := b.getLsbD 31
def bdIx (b : BitVec 128) : Nat := bitsAt b.toNat 0 16
def bdVal (b : BitVec 128) : Nat := bitsAt b.toNat 32 32
def bdAddr (b : BitVec 128) : Nat := bitsAt b.toNat 64 64

/-- Whether a tensor may be bound to a handle of a context: generation, space, format, rank (R338). -/
def bindOk (s : State) (ctx : Nat) (t : TnsRec) (hdl : Nat) : Bool :=
  let h := heAt s ctx (hdlSlot hdl)
  let r := srAt s (heSrec h)
  handleOk s ctx hdl && heSpc h == t.spc && srCode r == t.fmt && srRank r == t.rank

/-- Whether a binding table is sound for an object (R336, R338). -/
def bindsOk (s : State) (ctx : Nat) (o : List Byte) (l : List (BitVec 128)) : Bool :=
  let gates := (l.filter bdGate).map bdIx
  l.all (fun b =>
    if bdGate b then ((gateRecs o)[bdIx b]?).any GateRec.out
    else match (tnsRecs o)[bdIx b]? with
      | some t => bindOk s ctx t (bdVal b)
      | none => false) && decide gates.Nodup

/-- Whether every output gate is bound. -/
def gatesBound (o : List Byte) (l : List (BitVec 128)) : Bool :=
  ((gateRecs o).zipIdx).all (fun p => !p.1.out || l.any (fun b => bdGate b && bdIx b == p.2))

/-- Whether every tensor is bound. -/
def tensorsBound (o : List Byte) (l : List (BitVec 128)) : Bool :=
  (List.range (sect o 10).cnt).all (fun i => l.any (fun b => !bdGate b && bdIx b == i))

/-- The blocks of a seed area (R337), each a gate and its words; none where the area is malformed. -/
def seedBlocks (s : State) : Nat → Nat → Nat → Option (List (Nat × List CWord))
  | 0, _, left => if left = 0 then some [] else none
  | n + 1, a, left =>
    if left = 0 then some []
    else
      let h := memNat s.mem a 8
      let k := bitsAt h 32 32
      if left < 8 + 72 * k ∨ bitsAt h 16 16 ≠ 0 then none
      else
        let units := (List.range k).map (fun i => memNat s.mem (a + 8 + 72 * i) 72)
        if units.any (fun u => bitsAt u 514 62 != 0) then none
        else (seedBlocks s n (a + 8 + 72 * k) (left - 8 - 72 * k)).map (fun r => (bitsAt h 0 16, units.map (fun u => unitWord u 512)) :: r)

/-- The seeds of a launch by gate (R337): its seed area's, or the object's. -/
def seedsOf (s : State) (o : List Byte) (p : BitVec 1536) : Option (List (List CWord)) :=
  if pkSadr p = 0 then some ((gateRecs o).map GateRec.seeds)
  else (seedBlocks s (pkNsw p / 8 + 1) (pkSadr p) (pkNsw p)).bind (fun bl =>
    let gates := gateRecs o
    let of' (i : Nat) : List CWord := (bl.filter (fun b => b.1 == i)).flatMap Prod.snd
    let ok := bl.all (fun b => (gates[b.1]?).any (fun g => !g.out))
      && (gates.zipIdx).all (fun g => g.1.out || ((of' g.2).getLast?.any (fun w => kindOf w == 3)
            && (of' g.2).all (fun w => !(kindOf w == 4 || kindOf w == 5 || kindOf w == 6))))
    if ok then some ((List.range gates.length).map of') else none)

-- Completion records (R344) ----------------------------------------------------------------------------------------------------------

/-- The fields of a completion record that a completion sets; `cstmp` is taken when it is written. -/
structure Compl where
  st    : Nat
  err   : Nat
  seq   : Nat
  ostmp : Nat
  owds  : Nat
  odrp  : Nat
  rgn   : Nat
  fold  : Nat
  late  : Bool
  shash : Nat
  tkix  : Nat
  cfg   : Nat
  rsig  : Nat
  deriving DecidableEq, Repr

/-- A record with a status, an error and a sequence number, and 0 in every other field. -/
def Compl.plain (st err seq : Nat) : Compl :=
  { st := st, err := err, seq := seq, ostmp := 0, owds := 0, odrp := 0, rgn := 0, fold := 0, late := false, shash := 0, tkix := 0, cfg := 0,
    rsig := 0 }

/-- The record's bytes. -/
def Compl.bytes (c : Compl) (cstmp : Nat) : List Byte :=
  littleBytes 128 (fieldsNat [(512, c.rsig), (448, cstmp % 2 ^ 64), (384, c.ostmp % 2 ^ 64), (352, c.seq % 2 ^ 32), (320, c.owds % 2 ^ 32),
    (288, c.odrp % 2 ^ 32), (272, c.rgn % 2 ^ 16), (264, c.fold % 256), (256, bit c.late), (192, c.shash), (160, c.tkix % 2 ^ 32),
    (128, c.cfg % 2 ^ 32), (16, c.err % 2 ^ 16), (0, c.st % 2 ^ 16)])

/-- A record written at `crec`. -/
def writeRecord (s : State) (p : BitVec 1536) (c : Compl) : State := devStore s (pkCrec p) (c.bytes (s.die 32).late)

/-- The interrupt of a packet that asks for one (R335, R344): a vector of the queue's function. -/
def interrupt (s : State) (q : Nat) (p : BitVec 1536) : State := if pkIen p then { s with msix := s.msix ++ [(q / 2048, pkMsix p)] } else s

/-- A packet that is no launch completes. -/
def finishPacket (s : State) (q : Nat) (p : BitVec 1536) (c : Compl) : State := interrupt (writeRecord s p c) q p

/-- The sequence number of the last launch completed (R332), in the working copy or in the descriptor of its queue's mapping. -/
def noteSeq (s : State) (q ep seq : Nat) : State :=
  let x := s.queue q
  if x.ep ≠ ep then s
  else if x.mapped then s.setQueue q { x with desc := qdPut x.desc 224 32 seq }
  else match x.addr with
    | some a => qdStore s a 28 4 seq
    | none => s

/-- Unregister packets complete when no launch uses their handle any more (R338). -/
def settleDrops (s : State) : State :=
  s.configs.foldl (fun s c =>
    match c.2.drop with
    | some (q, p) =>
      if s.launches.any (fun l => l.phase != 3 && pkCfg l.pkt == c.1) then s
      else finishPacket { s with configs := Tab.del s.configs c.1 } q p (Compl.plain 0 0 0)
    | none => s) s

/-- A launch completes: the record, then the event, then the interrupt (R344, R393, R394). -/
def closeLaunch (s : State) (l : Launch) (c : Compl) : State :=
  let s := noteSeq (writeRecord s l.pkt c) l.q l.ep l.seq
  let s := { s with launches := s.launches.map (fun x =>
    if x.uid = l.uid then { x with phase := 3, status := c.st, held := none } else x) }
  settleDrops (interrupt (postEvent s 10 (l.q + l.seq * 2 ^ 32) (queueSrc l.q)) l.q l.pkt)

-- Readiness (R339) -----------------------------------------------------------------------------------------------------------------------

/-- Whether a launch is the one that a mapping of a queue has counted under a number (R335, R339). -/
def Launch.named (d : Nat × Nat × Nat) (l : Launch) : Bool := l.q == d.1 && l.ep == d.2.1 && l.seq == d.2.2

/-- The status of a launch whose record is written. One that was counted before the device listed the queue's launches is done. -/
def doneStatus (s : State) (d : Nat × Nat × Nat) : Option Nat :=
  match s.launches.find? (Launch.named d) with
  | some l => if l.phase = 3 then some l.status else none
  | none => some 0

/-- Whether a launch waits on nothing more. -/
def readyNow (s : State) (l : Launch) : Bool :=
  l.needs.all (fun d => (doneStatus s d).isSome)
    && (l.clk.tmod != 1 || s.launches.all (fun x => x.q != l.q || x.ep != l.ep || decide (l.seq ≤ x.seq) || x.opened || x.phase == 3))

/-- Whether a dependence of a launch with `dfl` completed with another status than 0. -/
def depFailed (s : State) (l : Launch) : Bool :=
  pkDfl l.pkt && l.needs.any (fun d => match doneStatus s d with
    | some st => st != 0
    | none => false)

/-- Whether a launch waits on one of a list. -/
def waitsOn (s : State) (l : List Launch) (x : Launch) : Bool := x.needs.any (fun d => (doneStatus s d).isNone && l.any (Launch.named d))

/-- Whether no region can ever be granted to a launch that has none: the dies it allows, peer dies among them where `peer` = 1, do not
hold the folios it asks for (R340). -/
def Launch.hopeless (l : Launch) : Bool :=
  l.phase == 0 && pkRgn l.pkt == 0
    && decide (144 * (max 1 (pkMdie l.pkt) + if pkPeer l.pkt then peerDies.length else 0) < pkNfol l.pkt)

/-- The launches of a list that can never be granted or wait on launches of that list: repeated, those in a cycle of dependences
remain, those that can never be granted, and what waits on them (R339). -/
def heldBy (s : State) : Nat → List Launch → List Launch
  | 0, l => l
  | n + 1, l => heldBy s n (l.filter (fun x => x.hopeless || waitsOn s l x))

/-- The launches that wait on a launch that can never complete (R339, R390). -/
def neverReady (s : State) : List Launch :=
  let l := heldBy s s.launches.length (s.launches.filter (fun l => l.phase == 0 && (l.order == 0 || l.hopeless)))
  l.filter (fun x => x.order == 0 && waitsOn s l x)

/-- Launches that have become ready take their place in the order; those whose dependences failed complete with status 7. -/
def markReady : Nat → State → State
  | 0, s => s
  | n + 1, s =>
    let new (l : Launch) : Bool := l.phase == 0 && l.order == 0
    match s.launches.find? (fun l => new l && depFailed s l) with
    | some l => markReady n (closeLaunch s l (Compl.plain 7 0 l.seq))
    | none =>
      if s.launches.any (fun l => new l && readyNow s l) then
        { s with orders := s.orders + 1,
                 launches := s.launches.map (fun l => if new l && readyNow s l then { l with order := s.orders + 1 } else l) }
      else s

/-- Readiness after a change; a launch that waits on one that can never complete is completed with status 5 (R390). -/
def refreshReady (s : State) : State :=
  let s := markReady (s.launches.length + 1) s
  match neverReady s with
  | [] => s
  | l => markReady (s.launches.length + 1) (l.foldl (fun s x => closeLaunch s x (Compl.plain 5 0 x.seq)) s)

/-- A launch completes, and others may become ready. -/
def finishLaunch (s : State) (l : Launch) (c : Compl) : State := refreshReady (closeLaunch s l c)

-- Reading packets (R338) -----------------------------------------------------------------------------------------------------------------

/-- The packet at the head of a mapped queue (R333). -/
def headPacket (s : State) (q : Nat) : Option (BitVec 1536) :=
  let x := s.queue q
  if !x.mapped || x.halt || qdPending x.desc == 0 || ringBad x.desc then none
  else some (BitVec.ofNat 1536 (memNat s.mem (qdBase x.desc + 192 * (qdHead x.desc % 2 ^ qdRlog x.desc)) 192))

/-- The queue past the packet at its head. -/
def pastHead (s : State) (q : Nat) : State :=
  let x := s.queue q
  let s := s.setQueue q { x with desc := qdPut x.desc 288 32 (qdHead x.desc + 1) }
  if qdPending (s.queue q).desc = 0 then leaveWork s q else s

/-- Whether a core has come to the entry of a queue: it takes the entries of its inbox in order, and reads a queue's packets from
`head` to `tail` while it holds the queue's entry (R406). -/
def served (s : State) (q : Nat) : Bool := s.work.any (fun w => w.2.head? == some q)

/-- A packet of some kinds read and handled; where another stands at the head, or no core serves the queue, nothing happens (log 2). -/
def readPacket (s : State) (q : Nat) (kinds : Nat → Bool) (g : State → BitVec 1536 → State) : State :=
  match headPacket s q with
  | some p => if served s q && kinds (pkKind p) then g (pastHead s q) p else s
  | none => s

/-- A configuration handle's object, where a context may use it. -/
def liveConfig (s : State) (ctx cfg : Nat) : Option Config :=
  match Tab.find s.configs cfg with
  | some c => if c.live && c.ctx == ctx then some c else none
  | none => none

/-- A kept region that a context may take (R338). -/
def keptFree (s : State) (ctx rgn : Nat) : Bool :=
  let g := s.region rgn
  g.stt != 0 && g.keep && g.ctx == ctx && s.launches.all (fun l => !(l.rgn == rgn && (l.phase == 1 || l.phase == 2 || l.phase == 4)))

/-- The tick of a strict launch (R342), fixed when its packet is read. -/
def strictTick (s : State) (x : Queue) (p : BitVec 1536) : Nat :=
  if pkTick p ≠ 2 ^ 32 - 1 then pkTick p
  else match x.ticked with
    | some k => k + 1
    | none =>
      let l := (s.die 32).late
      if l < qdOrig x.desc then 0 else (l - qdOrig x.desc) / qdPer x.desc + 1

/-- The first check of R338 that a launch packet fails, or 0. -/
def launchErr (s : State) (q seqs : Nat) (p : BitVec 1536) : Nat :=
  let x := s.queue q
  let ctx := qdCtx x.desc
  if pkKind p ≠ 1 ∨ pkClean p = false then 1
  else match liveConfig s ctx (pkCfg p) with
    | none => 2
    | some c =>
      let l := pkBinds s p
      if qdSgn x.desc && !hdrSigned c.obj then 3
      else if !bindsOk s ctx c.obj l || !gatesBound c.obj l then 4
      else if (pkDeps p).any (fun d => qdCtx (s.queue d.1).desc != ctx || d.2 == 0 || decide ((if d.1 = q then seqs else (s.queue d.1).seqs) < d.2)) then 5
      else if pkRgn p ≠ 0 ∧ keptFree s ctx (pkRgn p) = false then 6
      else if qdTmod x.desc = 1 ∧ pkTick p ≠ 2 ^ 32 - 1 ∧ x.ticked.any (fun k => decide (pkTick p ≤ k)) then 7
      else if pkFold p ≠ 0xFF ∧ (foldRecs c.obj).length < pkFold p then 8
      else if pkNfol p = 0 ∨ 4608 < pkNfol p ∨ pkMdie p = 0 ∨ 32 < pkMdie p then 9
      else if (seedsOf s c.obj p).isNone then 10
      else 0

/-- What a launch depends on when its packet is read, each as queue, mapping and number (R335): its dependences, and with `ser` the previous
launch of its queue. -/
def needsOf (s : State) (q ep seq : Nat) (p : BitVec 1536) : List (Nat × Nat × Nat) :=
  (pkDeps p).map (fun d => (d.1, (s.queue d.1).ep, d.2)) ++ (if pkSer p && decide (1 < seq) then [(q, ep, seq - 1)] else [])

/-- A launch read from a packet, of a queue that is not tick-aligned. -/
def newLaunch (uid q ep seq : Nat) (p : BitVec 1536) (tick : Option Nat) (needs : List (Nat × Nat × Nat)) : Launch :=
  { uid := uid, q := q, ep := ep, seq := seq, pkt := p, needs := needs, phase := 0, clk := Clk.none, tick := tick, order := 0, rgn := 0, held := none, same := false, status := 0, opened := false,
    frec := 0 }

/-- A launch packet, or one of a reserved kind, which takes no sequence number (R335, R338). -/
def takeLaunch (q : Nat) (s : State) (p : BitVec 1536) : State :=
  let x := s.queue q
  let err := launchErr s q x.seqs p
  if pkKind p ≠ 1 then finishPacket s q p (Compl.plain 2 1 0)
  else
    let seq := x.seqs + 1
    let tick := if err = 0 ∧ qdTmod x.desc = 1 then some (strictTick s x p) else none
    let s := s.setQueue q { x with seqs := seq, ticked := if tick.isSome then tick else x.ticked }
    let l := { newLaunch s.launches.length q x.ep seq p tick (needsOf s q x.ep seq p) with clk := Clk.of x.desc }
    let s := { s with launches := s.launches ++ [l] }
    if err ≠ 0 then finishLaunch s l (Compl.plain 2 err seq) else refreshReady s

/-- PACKET_LAUNCH (R335, R338, R339, R342). -/
def execPacketLaunch (q : Nat) (s : State) : Host.Outcome State Fault Refusal :=
  .next (readPacket s q (fun k => !(k == 2 || k == 3 || k == 4)) (takeLaunch q))

/-- The word of a tensor's image at coordinates (R299, R312): 16 lanes of its row; those past the row, and those the image does not
cover, are 0. -/
def imageWord (o : List Byte) (t : TnsRec) (r : ImgRec) (c : List Int) : Payload :=
  let per := perLane t.fmt
  let dim (k : Nat) : Nat := t.dims.getD k 1
  let at' (k : Nat) : Nat := (c.getD k 0).toNat
  let row := (dim 0 + per - 1) / per
  let first := row * sumTo (fun k => at' (k + 1) * prodTo (fun j => dim (j + 1)) k) 5
  Payload.ofList ((List.range 16).map (fun j =>
    let k := at' 0 / per + j
    let n := first + k
    if k < row ∧ (List.range 5).all (fun k => decide (at' (k + 1) < dim (k + 1))) ∧ r.at' ≤ n ∧ n < r.at' + r.nln then
      BitVec.ofNat 32 (r.lane o (n - r.at')) else 0))

/-- A word of an image stored at its tensor's memory: no meta bits, one version at stamp 0 (R171, R299). -/
def imageStore (s : State) (a : Nat) (v : Payload) : State :=
  let s := { s with vers := Tab.del s.vers (a / 128) }
  if isHbm a then landGran s none a v wholeMask true false false else { s with mem := memWrite s.mem a (littleBytes 64 v.toNat) }

/-- A tensor's image written to the handle it is bound to (R299); a word whose tile is not mapped is not written. -/
def writeImage (link ctx : Nat) (o : List Byte) (t : TnsRec) (r : ImgRec) (hdl : Nat) (s : State) : State :=
  let rec' := srAt s (heSrec (heAt s ctx (hdlSlot hdl)))
  let p := { Port.unbound with bind := bindReg hdl (srTsz rec') true, stale := true }
  match tensorFmt (srCode rec') with
  | none => s
  | some f => (List.range (tensorWords rec' f)).foldl (fun s w =>
      match checkAccess s 32 0 link ctx 0 p (wordCoords rec' f w) .engRead with
      | .ok (_, _, x) => imageStore s x.addr (imageWord o t r (wordCoords rec' f w))
      | .error _ => s) s

/-- Every image of an object written (R299). -/
def writeImages (link ctx : Nat) (o : List Byte) (l : List (BitVec 128)) (s : State) : State :=
  ((tnsRecs o).zipIdx).foldl (fun s p =>
    match p.1.img.bind (fun i => (imgRecs o)[i]?) with
    | some r => writeImage link ctx o p.1 r (bindHandle l p.2) s
    | none => s) s

/-- A handle that is not in use: the one the device would give, or the next free one after it (R338). -/
def newHandle (s : State) : Nat :=
  let h := Config.freeHandle s.freeCtr
  (((List.range (s.configs.length + 1)).map (fun i => (h + i) % 2 ^ 32)).find? (fun k => (Tab.find s.configs k).isNone)).getD 0

/-- A register packet (R338): the loader's report stands at `crec` + 128. -/
def takeRegister (q : Nat) (s : State) (p : BitVec 1536) : State :=
  let d := (s.queue q).desc
  let o := memBytes s.mem (pkSadr p) (pkNsw p)
  let l := pkBinds s p
  let refuse (err : Nat) : State := finishPacket s q p (Compl.plain 2 err 0)
  if pkClean p = false then refuse 1
  else if qdSgn d && !hdrSigned o then refuse 3
  else match loaderCheck o (pkNsw p) (qdSgn d) with
    | some r => finishPacket (devStore s (pkCrec p + 128) (littleBytes 32 r.bits.toNat)) q p (Compl.plain 2 11 0)
    | none =>
      if !bindsOk s (qdCtx d) o l || !tensorsBound o l then refuse 4
      else
        let h := newHandle s
        let s := writeImages (q / 2048) (qdCtx d) o l { s with freeCtr := s.freeCtr + 1 }
        let s := { s with configs := Tab.set s.configs h { ctx := qdCtx d, obj := o, binds := l, live := true, drop := none } }
        finishPacket s q p { Compl.plain 0 0 0 with cfg := h }

/-- PACKET_REGISTER (R299, R318, R338). -/
def execPacketRegister (q : Nat) (s : State) : Host.Outcome State Fault Refusal := .next (readPacket s q (fun k => k == 2) (takeRegister q))

/-- An unregister packet (R338): it completes when no launch still uses the handle. -/
def takeUnregister (q : Nat) (s : State) (p : BitVec 1536) : State :=
  if pkClean p = false then finishPacket s q p (Compl.plain 2 1 0)
  else match liveConfig s (qdCtx (s.queue q).desc) (pkCfg p) with
    | none => finishPacket s q p (Compl.plain 2 2 0)
    | some c => settleDrops { s with configs := Tab.set s.configs (pkCfg p) { c with live := false, drop := some (q, p) } }

/-- PACKET_UNREGISTER (R338). -/
def execPacketUnregister (q : Nat) (s : State) : Host.Outcome State Fault Refusal := .next (readPacket s q (fun k => k == 3) (takeUnregister q))

/-- A kind-4 packet (R335, R338): the kept region is released. -/
def takeRelease (q : Nat) (s : State) (p : BitVec 1536) : State :=
  if pkClean p = false then finishPacket s q p (Compl.plain 2 1 0)
  else if keptFree s (qdCtx (s.queue q).desc) (pkRgn p) = false then finishPacket s q p (Compl.plain 2 6 0)
  else finishPacket (freeRegion (returnLease s (pkRgn p)) (pkRgn p)) q p (Compl.plain 0 0 0)

/-- PACKET_RELEASE_KEPT (R335, R344). -/
def execPacketReleaseKept (q : Nat) (s : State) : Host.Outcome State Fault Refusal := .next (readPacket s q (fun k => k == 4) (takeRelease q))

end Sys2Proof.Machine
end

