-- ==== Sys2Proof/Machine/Restore.lean ====
section
/-! DEFINITION. What a restore reads (spec 15, R368-R372): the records of a snapshot area, put over the elements and gates that
they name, and their renumbering where another fold choice is restored (R313, R372). -/
namespace Sys2Proof.Machine

-- The snapshot area (R368, R369) ----------------------------------------------------------------------------------------

/-- An item of a record. -/
structure SnapItem where
  ik    : Nat
  ix    : Nat
  units : List Nat
  deriving DecidableEq, Repr

/-- A record: actor or gate, unit kind, whether a firing is in progress, its items. -/
structure SnapRec where
  act   : Nat
  ek    : Nat
  inf   : Bool
  items : List SnapItem
  deriving DecidableEq, Repr

/-- The items of a record, from the first. -/
def snapItems : Nat → List Byte → List SnapItem
  | 0, _ => []
  | n + 1, l =>
    let h := leNat (l.take 8)
    let k := bitsAt h 32 32
    { ik := bitsAt h 0 8, ix := bitsAt h 16 16, units := (List.range k).map (fun i => leNat ((l.drop (8 + 72 * i)).take 72)) }
      :: snapItems n (l.drop (8 + 72 * k))

/-- The records of a snapshot, from the first. -/
def snapRecs : Nat → List Byte → List SnapRec
  | 0, _ => []
  | n + 1, l =>
    let h := leNat (l.take 32)
    { act := bitsAt h 208 16, ek := bitsAt h 205 3, inf := h.testBit 204, items := snapItems (bitsAt h 192 11) (l.drop 32) }
      :: snapRecs n (l.drop (bitsAt h 224 32))

/-- Its records. -/
def areaRecs (s : State) (ctx : Nat) : List SnapRec :=
  let h := areaHead s ctx
  snapRecs (bitsAt h 768 32) (memBytes s.mem (ctxSarea (s.ctx ctx) + 128) (bitsAt h 800 32 - 128))

-- Items over an element (R369, R371) ----------------------------------------------------------------------------------------

/-- A unit as a register, as a word, and a lane of it. -/
def unitReg (u : Nat) : Reg := { pay := BitVec.ofNat 512 u, tn := u.testBit 512, pz := u.testBit 513 }
def unitCWord (u : Nat) : CWord := CWord.ofBits (BitVec.ofNat 516 u)
def unitLane (u i : Nat) : Nat := bitsAt u (32 * i) 32

/-- Registers written from a place upward. -/
def putRegs {n : Nat} (v : Vector Reg n) (ix : Nat) (l : List Nat) : Vector Reg n :=
  l.zipIdx.foldl (fun v p => v.setIfInBounds (ix + p.2) (unitReg p.1)) v

/-- Item 2: the control state. -/
def putCtl (e : Elem) (u w : Nat) : Elem :=
  let b (j i : Nat) : Bool := (unitLane w j).testBit i
  { e with
    m := Vector.ofFn (fun i : Fin 3 => { bits := BitVec.ofNat 16 (unitLane u i.val), pz := b 0 i.val, tn := b 0 (i.val + 3) }),
    x := Vector.ofFn (fun i : Fin 8 => { ts := BitVec.ofNat 16 (unitLane u (i.val + 3)), pz := b 1 i.val, tn := b 1 (i.val + 8) }),
    sticky := BitVec.ofNat 5 (unitLane u 11), fcnt := BitVec.ofNat 32 (unitLane u 12), invk := BitVec.ofNat 32 (unitLane u 13),
    phnum := BitVec.ofNat 32 (unitLane u 14), armc := unitLane u 15,
    cls4 := e.cls4.mapIdx (fun i c => { c with en := b (i + 2) 31, age := unitLane w (i + 2) % 16 }),
    ve := { e.ve with abank := BitVec.ofNat 64 (bitsAt w 192 50), abPz := b 8 0, abTn := b 8 1 } }

/-- Item 4: a local store. -/
def putGrans (l : List Nat) : Store :=
  { bytes := l.zipIdx.flatMap (fun p => (List.range 64).filterMap (fun i =>
      let b := BitVec.ofNat 8 (bitsAt p.1 (8 * i) 8)
      if b = 0 then none else some (64 * p.2 + i, b))),
    pz := (l.zipIdx.filter (fun p => p.1.testBit 513)).map Prod.snd, tn := (l.zipIdx.filter (fun p => p.1.testBit 512)).map Prod.snd,
    bad := [] }

/-- Item 6: a requantiser. -/
def putRequant (v : VePart) (l : List Nat) : VePart :=
  let last := l.getD 16 0
  { v with rows := (l.take 16).map (fun u => BitVec.ofNat 512 u), wcnt := unitLane last 0, rcnt := unitLane last 1, rqPz := last.testBit 513,
           rqTn := last.testBit 512 }

/-- Item 7: a firing in progress; the loops stand innermost first. -/
def putFiring (ix u : Nat) : Run :=
  { Run.idle with clause := ix, pos := unitLane u 0, fp := (unitLane u 1).testBit 0, ft := (unitLane u 1).testBit 1,
                  loops := ((List.range (min (unitLane u 2) 4)).map (fun i =>
                    { start := unitLane u (3 * i + 3), stop := unitLane u (3 * i + 4), left := unitLane u (3 * i + 5) })).reverse }

/-- A firing in its place among others: the one that is furthest stands first. -/
def runInsert (l : List Run) (r : Run) : List Run :=
  match l with
  | [] => [r]
  | x :: y => if x.pos < r.pos then r :: l else x :: runInsert y r

/-- Item 7: firings of a clause among those of an element, the furthest first. -/
def Elem.putFirings (e : Elem) (l : List Run) : Elem := { e with pipe := l.foldl runInsert e.pipe }

/-- A firing with what its item does not hold as it was recorded. -/
def Run.keptFrom (r old : Run) : Run := { r with cons := old.cons, pubs := old.pubs, eoi := old.eoi, halt := old.halt, held := old.held }

/-- Item 8: each firing takes the slots that it has still to publish, the last one the rest. -/
def Elem.putStaged (e : Elem) (c : Nat) (l : List CWord) : Elem :=
  let bases := slotBases e c e.pipe 0
  { e with pipe := bases.mapIdx (fun i x =>
      let hi := ((bases[i + 1]?).map Prod.snd).getD l.length
      { x.1 with stag := ((l.drop x.2).take (min 4 (hi - x.2))).zipIdx.foldl (fun t p => Tab.set t (4 * c + p.2) p.1) x.1.stag }) }

/-- Item 9: a nest. -/
def putNest (l : List Nat) : Nest :=
  let int (n : Nat) : Int := (BitVec.ofNat 32 n).toInt
  let str (n : Nat) : Int := int (unitLane (l.getD (2 + n / 16) 0) (n % 16))
  { cnt := (List.range 6).map (unitLane (l.getD 0 0)), ctr := (List.range 6).map (fun i => unitLane (l.getD 0 0) (i + 6)),
    base := (List.range 6).map (fun i => int (unitLane (l.getD 1 0) i)),
    str := (List.range 6).map (fun k => (List.range 6).map (fun i => str (6 * k + i))),
    pz := (l.getD 0 0).testBit 513, tn := (l.getD 0 0).testBit 512 }

/-- Item 11: a completion object without its reserved bits (R185, R15). -/
def coClean (c : BitVec 32) : BitVec 32 := BitVec.ofNat 32 (c.toNat / 2 ^ 20 * 2 ^ 20)

/-- Item 10: a port. The stamp of an entry marked too old and of a refusal are not in the item. -/
def putPort (p : Port) (l : List Nat) : Port :=
  let h := l.getD 0 0
  let n := unitLane h 2
  let old (i u : Nat) : Option (Nat × List Nat) := if u.testBit 516 then some (((p.lq[i]?).bind LqEntry.old).getD (0, [])) else none
  { p with bind := BitVec.ofNat 64 (bitsAt h 0 35),
           lq := (((l.drop 1).take n).zipIdx).map (fun x => { word := unitCWord x.1, old := old x.2 x.1 }),
           sq := ((l.drop (1 + n)).take (unitLane h 3)).map unitCWord,
           refused := if unitLane h 4 = 0 then none
                      else some ((p.refused.map Prod.fst).getD 0, (List.range 6).map (fun i => unitLane h (i + 5))) }

/-- Item 12: an engine operation that had stopped. -/
def putOpMem (o : EngOp) (u : Nat) : EngOp :=
  { o with kind := unitLane u 0, args := Payload.ofLanes (fun i => if i < 8 then BitVec.ofNat 32 (unitLane u (i + 1)) else o.args.lane i),
           imm := BitVec.ofNat 24 (unitLane u 9), done := unitLane u 10, fcs := BitVec.ofNat 6 (unitLane u 11) }

/-- Items 14, 15 and 16 of an RA: what differs from the initial values; reserved bits read as zero (R201, R202, R15). -/
def putCells (l : List Nat) : Tab (BitVec 128) :=
  l.zipIdx.flatMap (fun p => (List.range 4).filterMap (fun j =>
    let c := BitVec.ofNat 128 (bitsAt p.1 (128 * j) 128) &&& cellMask
    if c = cellInitial then none else some (4 * p.2 + j, c)))

def putLanes (bits : Nat) (l : List Nat) : Tab Lane :=
  l.zipIdx.flatMap (fun p => (List.range 16).filterMap (fun j =>
    let v := unitLane p.1 j % 2 ^ bits
    if v = 0 then none else some (16 * p.2 + j, BitVec.ofNat 32 v)))

/-- Item 17: an entry of a result queue. -/
def putResult (l : List Nat) : RqEntry :=
  { m := (List.range 64).map (fun c => BitVec.ofNat 64 (bitsAt (l.getD (c / 8) 0) (64 * (c % 8)) 64)), pz := (l.getD 8 0).testBit 513,
    tn := (l.getD 8 0).testBit 512 }

/-- The pairs of item 19, by record number. -/
def putPairs : List Nat → Tab (CWord × CWord)
  | k :: w :: x :: r => (unitLane k 0, (unitCWord w, unitCWord x)) :: putPairs r
  | _ => []

/-- Item 19: a record queue. -/
def putRecq (q : RecqPart) (l : List Nat) : RecqPart :=
  let h := l.getD 0 0
  let dealt (i : Nat) : Option Nat := if unitLane h (i + 3) = 0xFFFFFFFF then none else some (unitLane h (i + 3))
  { q with taken := unitLane h 0, next := unitLane h 1, pub := unitLane h 2, dealt := (List.range q.members).map dealt,
           pairs := putPairs (l.drop 1) }

/-- Item 13: a fault record without its reserved bits (R382, R15). -/
def recordClean (n : Nat) : BitVec 2048 :=
  BitVec.ofNat 2048 ([(1184, 6), (1024, 64), (956, 4), (908, 4), (40, 856), (0, 16)].foldl
    (fun n p => n - bitsAt n p.1 p.2 * 2 ^ p.1) n)

/-- An item of a record put over its element. -/
def putItem (e : Elem) (x : SnapItem) : Elem :=
  match x.ik with
  | 1 => { e with s := putRegs e.s x.ix x.units }
  | 2 => putCtl e (x.units.getD 0 0) (x.units.getD 1 0)
  | 3 => e.setIn x.ix { e.inch x.ix with q := x.units.map unitCWord }
  -- item 19 gives a record queue's pairs
  | 4 => if e.role = .recq then e else { e with store := { putGrans x.units with bad := e.store.bad } }
  | 5 => { e with ve := { e.ve with acc := putRegs e.ve.acc 0 x.units } }
  | 6 => { e with ve := putRequant e.ve x.units }
  | 7 => e.putFirings (x.units.map (putFiring x.ix))
  | 8 => e.putStaged x.ix (x.units.map unitCWord)
  | 9 => { e with ag := { e.ag with nest := putNest x.units } }
  | 10 => e.setPort x.ix (putPort (e.port x.ix) x.units)
  | 11 => { e with ag := { e.ag with cos := e.ag.cos.mapIdx (fun i c => if i < 8 then coClean (BitVec.ofNat 32 (unitLane (x.units.getD 0 0) i)) else c) } }
  | 12 => { e with ag := { e.ag with eng := e.ag.eng.map (fun o => if o.co = x.ix then putOpMem o (x.units.getD 0 0) else o) } }
  | 13 => { e with stop := e.stop.map (fun t => { t with frec := recordClean (fieldsNat (x.units.mapIdx (fun i u => (512 * i, u % 2 ^ 512)))) }) }
  | 14 => { e with ra := { e.ra with cells := putCells x.units } }
  | 15 => { e with ra := { e.ra with descs := putLanes 9 (x.units.take 4), ptr := BitVec.ofNat 14 (unitLane (x.units.getD 4 0) 0) } }
  | 16 => { e with ra := { e.ra with leaves := putLanes 32 x.units } }
  | 17 => { e with ra := { e.ra with rq := e.ra.rq ++ [putResult x.units] } }
  | 19 => { e with rq := putRecq e.rq x.units }
  | _ => e

/-- An element as its record gives it (R369, R371): what no item lists is empty; what no item holds is as it was recorded. -/
def loadElem (recs : List SnapRec) (e : Elem) : Elem :=
  match recs.find? (fun r => r.act == e.act && r.ek == e.ek) with
  | none => e
  | some r =>
    let x := r.items.foldl putItem { e with busy := r.inf, ins := e.ins.map (fun i => { i with q := [] }), run := Run.idle,
                                            pipe := [], ra := { e.ra with rq := [] }, rq := { e.rq with pairs := [] } }
    -- the furthest firing is at work, the others follow it in their stages; `fcnt` goes back to the one at work
    match x.pipe with
    | [] => { x with run := e.run }
    | r :: rest => { x with fcnt := x.fcnt - BitVec.ofNat 32 rest.length, run := r.keptFrom e.run,
                            pipe := rest.mapIdx (fun i r => r.keptFrom (e.pipe.getD i Run.idle)) }

/-- A gate as its record gives it (R369, R371). -/
def loadGate (recs : List SnapRec) (i : Nat) (g : Gate) : Gate :=
  match recs.find? (fun r => r.act == i && r.ek == (if g.isOut then 7 else 6)) with
  | none => g
  | some r =>
    let u := ((r.items.find? (fun x => x.ik == 18)).bind (fun x => x.units.head?)).getD 0
    if g.isOut then { g with written := unitLane u 0, dropped := unitLane u 1 } else { g with admitted := unitLane u 0, drained := unitLane u 1 == 1 }

-- Another fold choice (R313, R372) --------------------------------------------------------------------------------------------

/-- Values moved between two vectors along pairs of places. -/
def moveAlong {α : Type} {n : Nat} (l : List (Nat × Nat)) (src dst : Vector α n) : Vector α n :=
  l.foldl (fun v p => match src[p.1]? with
    | some x => v.setIfInBounds p.2 x
    | none => v) dst

/-- Words and counts of channels moved along pairs of channels. -/
def moveInputs (l : List (Nat × Nat)) (src dst : Elem) : Elem :=
  l.foldl (fun e p => e.setIn p.2 { e.inch p.2 with q := (src.inch p.1).q, wpos := (src.inch p.1).wpos }) dst

/-- Keys of a firing's tables by channel. -/
def moveKeys {α : Type} (l : List (Nat × Nat)) (per : Nat) (t : Tab α) : Tab α :=
  t.foldl (fun r x => match l.find? (fun p => p.1 == x.1 / per) with
    | some p => Tab.set r (p.2 * per + x.1 % per) x.2
    | none => r) []

/-- A firing moved into another body: positions and clause by what stands before it there (R372). -/
def moveRun (ins outs : List (Nat × Nat)) (clause pos : Nat → Nat) (r : Run) : Run :=
  { r with clause := clause r.clause, pos := pos r.pos, loops := r.loops.map (fun l => { l with start := pos l.start, stop := pos l.stop }),
           stag := moveKeys outs 4 r.stag, cons := moveKeys ins 1 r.cons, pubs := moveKeys outs 1 r.pubs }

def swapPairs (l : List (Nat × Nat)) : List (Nat × Nat) := l.map (fun p => (p.2, p.1))

/-- A value that a fold does not renumber: what stands, where the other is as installed. -/
def keepOld {α : Type} [DecidableEq α] (init new old : α) : α := if new = init then old else new

/-- A local store with what another holds beyond its installation put over it. -/
def storeOver (init new old : Store) : Store :=
  let addrs := ((new.bytes ++ init.bytes).map Prod.fst).eraseDups
  { old with
    bytes := addrs.foldl (fun m a => if memGet new.bytes a = memGet init.bytes a then m else memSet m a (memGet new.bytes a)) old.bytes,
    pz := new.pz.foldl granAdd old.pz, tn := new.tn.foldl granAdd old.tn }

/-- Accumulators, requantiser and adapter bank register put over others. -/
def veOver (init new old : VePart) : VePart :=
  let rq (v : VePart) : List Payload × Nat × Nat × Bool × Bool := (v.rows, v.wcnt, v.rcnt, v.rqPz, v.rqTn)
  let r := keepOld (rq init) (rq new) (rq old)
  let b := keepOld (init.abank, init.abPz, init.abTn) (new.abank, new.abPz, new.abTn) (old.abank, old.abPz, old.abTn)
  { old with acc := Vector.ofFn (fun i => keepOld init.acc[i] new.acc[i] old.acc[i]), rows := r.1, wcnt := r.2.1, rcnt := r.2.2.1,
             rqPz := r.2.2.2.1, rqTn := r.2.2.2.2, abank := b.1, abPz := b.2.1, abTn := b.2.2 }

/-- An operation with its ports renumbered. -/
def EngOp.renumber (ports : List (Nat × Nat)) (o : EngOp) : EngOp :=
  let fields : List Nat := if o.kind = 2 then [1, 4, 16] else if o.kind = 4 then [1] else [1, 4]
  { o with imm := BitVec.ofNat 24 (fields.foldl (fun n d =>
      (n - d * (n / d % 4)) + d * ((ports.find? (fun p => p.1 == n / d % 4)).map Prod.snd).getD (n / d % 4)) o.imm.toNat) }

/-- What an AG holds beside its ports put over another's: the nest, the completion objects that `mine` names, with their operations, whose
ports are renumbered, its stores. -/
def agOver (mine : Nat → Bool) (ports : List (Nat × Nat)) (init new old : AgPart) : AgPart :=
  { old with
    nest := keepOld init.nest new.nest old.nest, cos := Vector.ofFn (fun i => if mine i.val then keepOld 0 new.cos[i] old.cos[i] else old.cos[i]),
    eng := old.eng ++ (new.eng.filter (fun o => mine o.co)).map (EngOp.renumber ports), sb := old.sb ++ new.sb, tsts := old.tsts ++ new.tsts, seq := max old.seq new.seq,
    stamp := keepOld init.stamp new.stamp old.stamp }

/-- A member's items put into an element (`into`), or taken out of it: registers and channels renumbered, `en` kept, `age` 0, a firing
in progress with it (R372). What a fold does not renumber is shared in the element: a member brings what it holds beyond its
installation, and takes all of it, the operations of the objects that `mine` names; firing counts go with the actor whose firing is in
progress, else with the host (log 137). -/
def moveMember (g : Obj) (m : Member) (into carry : Bool) (mine : Nat → Bool) (src dst : Elem) : Elem :=
  let dir (l : List (Nat × Nat)) : List (Nat × Nat) := if into then l else swapPairs l
  let ins := dir (chanPairs g m false)
  let outs := dir (chanPairs g m true)
  let n := (g.clauses m.act).length
  let here (c : Nat) : Bool := if into then decide (c < n) else decide (m.cl ≤ c ∧ c < m.cl + n)
  let clause (c : Nat) : Nat := if into then c + m.cl else c - m.cl
  let pos (p : Nat) : Nat := if into then p + m.word else p - m.word
  let busy := src.busy && here src.run.clause
  let own := carry || busy
  let init := loadedElem g.o src.act (fun _ => false) false (fun _ => 0)
  let e := moveInputs ins src dst
  { e with
    s := moveAlong (dir (statePairs g m)) src.s e.s, m := moveAlong (dir (maskPairs g m)) src.m e.m,
    x := moveAlong (dir (scalePairs g m)) src.x e.x, sticky := e.sticky ||| src.sticky,
    cls4 := (List.range 4).foldl (fun v c => if !here c then v else
      match src.cls4.toList[c]?, v.toList[clause c]? with
      | some x, some y => v.setIfInBounds (clause c) { y with en := x.en, age := 0 }
      | _, _ => v) e.cls4,
    busy := e.busy || busy, run := if busy then moveRun ins outs clause pos src.run else e.run,
    pipe := if busy then src.pipe.map (moveRun ins outs clause pos) else e.pipe,
    stop := if busy || (!src.busy && (into || carry)) then (src.stop.map (fun t => { t with pos := pos t.pos })).orElse (fun _ => e.stop) else e.stop,
    fcnt := if own then src.fcnt else e.fcnt, invk := if own then src.invk else e.invk, phnum := if own then src.phnum else e.phnum,
    store := storeOver init.store src.store e.store, ve := veOver init.ve src.ve e.ve,
    ag := { agOver mine (dir (portPairs g m)) init.ag src.ag e.ag with ports := moveAlong (dir (portPairs g m)) src.ag.ports e.ag.ports } }

/-- The saved elements of a fold choice as base actors; an operation goes with the first member whose words name its object, else with
the host. -/
def toBase (g : Obj) (choice : Nat) (l : List Elem) : List Elem :=
  let ms := foldMembers g choice
  let owner (m : Member) (co : Nat) : Bool :=
    match ms.find? (fun x => x.el == m.el && namesObject g x.act co) with
    | some x => x == m
    | none => m.cl == 0
  l.filter (fun e => !ms.any (fun m => m.el == e.act))
    ++ ms.filterMap (fun m => (l.find? (fun e => e.act == m.el)).map (fun e =>
        moveMember g m false (m.cl == 0) (owner m) e (loadedElem g.o m.act (fun _ => false) false (fun _ => 0))))

/-- Whether actors cannot share an element: two have a firing in progress, or a completion object in use (R372). -/
def cannotShare (l : List Elem) : Bool :=
  decide (1 < (l.filter Elem.busy).length)
    || (List.range 8).any (fun co => decide (1 < (l.filter (fun e => e.ag.cos.toList.getD co 0 != 0)).length))

/-- Base actors as the elements of a fold choice: none where two that would share an element cannot (R372). The member whose firing is
in progress comes last, so that what it holds prevails. -/
def fromBase (g : Obj) (choice : Nat) (l : List Elem) : Option (List Elem) :=
  let ms := foldMembers g choice
  let of' (el : Nat) : List (Member × Elem) := (ms.filter (fun m => m.el == el)).filterMap (fun m =>
    (l.find? (fun e => e.act == m.act)).map (fun e => (m, e)))
  let els := (ms.map Member.el).eraseDups
  if els.any (fun el => cannotShare ((of' el).map Prod.snd)) then none
  else some (l.filter (fun e => !ms.any (fun m => m.act == e.act))
    ++ els.map (fun el =>
      let parts := of' el
      (parts.filter (fun p => !p.2.busy) ++ parts.filter (fun p => p.2.busy)).foldl
        (fun e p => moveMember g p.1 true (p.1.cl == 0) (fun _ => true) p.2 e)
        (loadedElem g.o el (fun _ => false) false (fun _ => 0))))

/-- The saved elements of one fold choice as another holds them (R372). -/
def refold (g : Obj) (was now : Nat) (l : List Elem) : Option (List Elem) := if was = now then some l else fromBase g now (toBase g was l)

end Sys2Proof.Machine
end

