-- ==== Sys2Proof/Machine/Grant.lean ====
section
/-! DEFINITION. Launches from grant to completion (spec 14, R340-R347; spec 15, R371, R373, R374): folios, installation, restore,
the wave, the gates, the completion record. -/
namespace Sys2Proof.Machine

-- Folios and ids (R320, R340) ---------------------------------------------------------------------------------------------------

/-- The folios of a die that no region holds; of a peer's die, those that its coordinator gives (R350; log 113). -/
def freeFolios (s : State) (d : Nat) : List (Nat × Nat) :=
  let used := (s.regions.flatMap (fun p => p.2.folios)).filter (fun f => f.1 == d)
  ((List.range 144).map (fun f => (d, f))).filter (fun f => !used.contains f && (decide (d < 64) || Config.peerFolio s.freeCtr d f.2))

/-- The folios a launch is granted (R340): on one die, else on successive dies, not more of this module's than it allows; peer dies
count only where it says so, behind every die of this module. -/
def chooseFolios (s : State) (nfol mdie : Nat) (peer : Bool) : Option (List (Nat × Nat)) :=
  let dies := List.range 32 ++ (if peer then peerDies else [])
  match dies.find? (fun d => decide (nfol ≤ (freeFolios s d).length)) with
  | some d => some ((freeFolios s d).take nfol)
  | none =>
    let l := (dies.flatMap (freeFolios s)).take nfol
    if l.length = nfol ∧ (ownDies l).length ≤ mdie then some l else none

/-- Region ids that are assigned (R320): of regions that are granted, and of launches that keep theirs. -/
def usedIds (s : State) : List Nat :=
  (s.regions.filter (fun p => p.2.stt != 0)).map Prod.fst
    ++ (s.launches.filter (fun l => l.phase == 1 || l.phase == 2 || l.phase == 4)).map Launch.rgn

/-- The lowest free id, where one is left. -/
def freeId (s : State) : Option Nat :=
  let u := usedIds s
  ((List.range (min (u.length + 1) 65535)).map (fun i => i + 1)).find? (fun i => !u.contains i)

-- Installation (R341) ---------------------------------------------------------------------------------------------------------------

/-- What an installation needs: the object, its actors, where the first element stands in the list, the sites, the channels
with their stream numbers, the region, the bindings. -/
structure Build where
  o     : List Byte
  acts  : List Nat
  base  : Nat
  sites : Tab Nat
  ways  : List (Wire × List Hop)
  rgn   : Nat
  binds : List (BitVec 128)

/-- The element of an actor. -/
def Build.ix (b : Build) (i : Nat) : Nat := b.base + b.acts.idxOf i

/-- An end of a channel between elements and gates of the region. -/
def Build.chanEnd (b : Build) (x : ChanEnd) : ChanEnd :=
  match x with
  | .el i c => .el (b.ix i) c
  | .gate _ g => .gate b.rgn g

/-- The words preloaded on an input, head first (R69, R297). -/
def Build.preload (b : Build) (w : Wire) : List CWord := ((preRecs b.o).filter (fun p => p.1 == w.rec')).map Prod.snd

/-- The entry of the input that a channel feeds; a gate's input end holds four slots (R343). -/
def Build.fedEntry (b : Build) (w : Wire) : BitVec 32 :=
  match w.dst with
  | .el i c => (((Obj.of b.o).port i false c).map ChnRec.ent).getD 0
  | .gate _ _ => 0x800C0000

/-- The free count of a channel whose input holds some words (R69, R371). -/
def Build.freeOf (b : Build) (w : Wire) (held : Nat) : Nat := entCap (b.fedEntry w) - held

/-- The input at an end. -/
def Build.inChan (b : Build) (i c : Nat) : InChan :=
  match b.ways.find? (fun w => w.1.dst == .el i c) with
  | some (w, _) => { ent := b.fedEntry w, q := b.preload w, wpos := 0, src := b.chanEnd w.src, mark := none }
  | none => InChan.unbound

/-- The output at an end. -/
def Build.outChan (b : Build) (i c : Nat) : OutChan :=
  match b.ways.find? (fun w => w.1.src == .el i c) with
  | some (w, via) =>
    { ent := (((Obj.of b.o).port i true c).map ChnRec.ent).getD 0, free := b.freeOf w (b.preload w).length, dst := b.chanEnd w.dst,
      flight := [], cred := 0, via := via }
  | none => OutChan.unbound

/-- The element of an actor as installation leaves it (R64, R341): it acts when the wave is complete. -/
def Build.elem (b : Build) (i : Nat) : Elem :=
  let g := Obj.of b.o
  let e := installed b.o i (bindHandle b.binds)
  let code := Tab.get 0 b.sites i
  let idx (l : List Nat) : List Nat := (l.filter b.acts.contains).map b.ix
  { e with
    rgn := b.rgn, site := siteRead code, die := codeDie code, folio := codeFolio code, halted := true,
    ins := e.ins.mapIdx (fun c _ => b.inChan i c), outs := e.outs.mapIdx (fun c _ => b.outChan i c),
    ve := { e.ve with quad := idx (quadSes g i) },
    ag := { e.ag with
            targets := idx ((g.grp.find? (fun x => x.kind == 6 && x.own == i)).elim [] GrpRec.mem),
            colls := (groupsOf g 4 i).map (fun x => (x.cg, idx x.mem)) } }

/-- A gate of a region (R341, R343). -/
def Build.gate (b : Build) (seeds : List (List CWord)) (j : Nat) (x : GateRec) : Gate :=
  let blank : Gate := { isOut := x.out, out := OutChan.unbound, inp := InChan.unbound, seeds := [], admitted := 0, drained := false, held := false,
                        buf := 0, cap := 0, written := 0, dropped := 0, closed := false, passed := false, recd := false }
  if x.out then
    match b.ways.find? (fun w => w.1.dst == .gate 0 j), b.binds.find? (fun y => bdGate y && bdIx y == j) with
    | some (w, _), some y => { blank with inp := { InChan.unbound with ent := b.fedEntry w, src := b.chanEnd w.src }, buf := bdAddr y, cap := bdVal y }
    | _, _ => blank
  else
    match b.ways.find? (fun w => w.1.src == .gate 0 j) with
    | some (w, via) =>
      { blank with seeds := seeds.getD j [],
                   out := { ent := b.fedEntry w, free := b.freeOf w (b.preload w).length, dst := b.chanEnd w.dst, flight := [], cred := 0, via := via } }
    | none => blank

def Build.gates (b : Build) (seeds : List (List CWord)) : List Gate := (gateRecs b.o).mapIdx (fun j x => b.gate seeds j x)

-- Restore (R371) -----------------------------------------------------------------------------------------------------------------------

/-- A port of a restored AG: its shape record is read again (R355). -/
def Port.restored (s : State) (ctx : Nat) (p : Port) : Port :=
  if p.bnd then freshPort s { p with stale := true, tile := none, reqs := [], outst := 0 } ctx else p

/-- The ports through which an operation works, in the order of its fields (R170, R187-R189). -/
def EngOp.fromPorts (o : EngOp) (p : Nat → Port) : List Port :=
  if o.kind = 4 then [p (o.portNo 0)] else if o.kind = 2 then [p (o.portNo 0), p (o.portNo 1), p (o.portNo 2)] else [p (o.portNo 0), p (o.portNo 1)]

/-- An engine operation forked again on an agent's ports as they stand; a core's has none (R371). -/
def EngOp.refork (e : Elem) (o : EngOp) : EngOp := if o.ports = [] then o else { o with ports := o.fromPorts e.port }

/-- The saved state of an actor over its new installation (R368, R371): constants, channel entries, bodies and free counts are the
installation's; stopped operations are forked again on the ports as they are read. -/
def overlay (s : State) (ctx : Nat) (n old0 : Elem) : Elem :=
  let old := { old0 with ag := { old0.ag with ports := old0.ag.ports.map (Port.restored s ctx) } }
  { old with
    act := n.act, rgn := n.rgn, site := n.site, die := n.die, folio := n.folio, k := n.k, body := n.body, halted := n.halted, frozen := false, mark := none,
    dead := false, blot := false,
    ins := n.ins.mapIdx (fun c x => let o := old.ins.toList.getD c InChan.unbound; { x with q := o.q, wpos := o.wpos }),
    outs := n.outs,
    cls4 := n.cls4.mapIdx (fun c x => let o := old.cls4.toList.getD c Clause.unused; { x with en := o.en, age := o.age }),
    store := { old.store with bad := n.store.bad },
    ve := { old.ve with quad := n.ve.quad },
    ag := { old.ag with eng := old.ag.eng.map (EngOp.refork old), targets := n.ag.targets, colls := n.ag.colls } }

/-- The words that wait at the end of a channel in a snapshot. -/
def savedAt (l : List Elem) (w : Wire) : Nat :=
  match w.dst with
  | .el i c => ((l.find? (fun e => e.act == i)).map (fun e => (e.inch c).q.length)).getD 0
  | .gate _ _ => 0

/-- Free counts of an element's outputs from the inputs they feed (R371). -/
def Build.refree (b : Build) (saved : List Elem) (i : Nat) (e : Elem) : Elem :=
  { e with outs := e.outs.mapIdx (fun c o =>
      match b.ways.find? (fun w => w.1.src == .el i c) with
      | some (w, _) => { o with free := b.freeOf w (savedAt saved w) }
      | none => o) }

/-- The element of an actor restored. -/
def Build.restored (b : Build) (s : State) (ctx : Nat) (saved : List Elem) (i : Nat) : Elem :=
  let n := b.elem i
  match saved.find? (fun e => e.act == i) with
  | some old => b.refree saved i (overlay s ctx n old)
  | none => b.refree saved i n

/-- A gate restored: it goes on from its saved counts (R371). -/
def Build.regate (b : Build) (saved : List Elem) (j : Nat) (n old : Gate) : Gate :=
  { n with seeds := old.seeds, admitted := old.admitted, drained := old.drained, buf := old.buf, cap := old.cap, written := old.written,
           dropped := old.dropped, passed := old.passed,
           out := match b.ways.find? (fun w => w.1.src == .gate 0 j) with
             | some (w, _) => { n.out with free := b.freeOf w (savedAt saved w) }
             | none => n.out }

-- The grant (R340, R341) ------------------------------------------------------------------------------------------------------------------

/-- What a launch of a region is, once placed. -/
structure Placed where
  id     : Nat
  folios : List (Nat × Nat)
  fold   : Nat
  sites  : Tab Nat
  hops   : Nat
  ways   : List (Wire × List Hop)

/-- The build of a placed launch; its binding table is read from memory again at the grant, and not checked again (R336; log 29). -/
def buildOf (s : State) (l : Launch) (c : Config) (p : Placed) : Build :=
  { o := c.obj, acts := actorsOf c.obj p.fold, base := s.elems.length, sites := p.sites, ways := p.ways, rgn := p.id,
    binds := pkBinds s l.pkt ++ c.binds }

/-- The launch with its region. -/
def grantedLaunch (s : State) (l : Launch) (id : Nat) : State :=
  { s with launches := s.launches.map (fun x => if x.uid = l.uid then { x with phase := 1, rgn := id, held := none } else x) }

/-- The streams of installed channels start at `seq` 0 at the receiving end of each link (R250, R371). -/
def openStreams (s : State) (ways : List (Wire × List Hop)) : State :=
  (ways.flatMap Prod.snd).foldl (fun s h => match peerBridge h.die h.br with
    | some (m, c) => s.setBridge m c { s.bridge m c with seqIn := Tab.del (s.bridge m c).seqIn h.strm }
    | none => s) s

/-- A region placed and installed for a launch (R341, steps 1 and 2). -/
def installFresh (s : State) (l : Launch) (c : Config) (p : Placed) : State :=
  let s := openStreams (clearElems s p.id) p.ways
  let b := buildOf s l c p
  let seeds := (seedsOf s c.obj l.pkt).getD []
  let old := s.region p.id
  let g : Region := { Region.blank with
    stt := old.stt, err := old.err, ctx := c.ctx, q := l.q, seq := l.seq, cfg := pkCfg l.pkt, fold := p.fold, folios := p.folios,
    gates := b.gates seeds, dbg := pkDbg l.pkt, keep := pkKeep l.pkt, clk := l.clk, tick := l.tick.getD 0,
    shash := shapeHash s p.folios, hops := p.hops, place := p.sites }
  setStt (grantedLaunch ({ s with elems := s.elems ++ b.acts.map b.elem }.setRegion p.id g) l p.id) p.id 1

/-- The lease of a context at the restore of its region (R373): it continues on the same folios and is dropped on others. -/
def restoreLease (s : State) (ctx rgn : Nat) (same : Bool) (old : List (Nat × Nat)) : State :=
  let c := s.ctx ctx
  if ctxLid c = 0 ∨ ctxLrgn c ≠ rgn ∨ ctxLsus c = false then s
  else if same then
    { s.setCtx ctx (setLease c false rgn (ctxLid c) (ctxLrem c)) with leases := Tab.set s.leases ctx (s.now + ctxLrem c) }
  else (unboostAt s old).setCtx ctx (setLease c false 0 0 0)

/-- Whether a bound port of a unit has a handle that may not be used (R352): the fault at its restore. -/
def portFault (s : State) (ctx : Nat) (e : Elem) : Option Trap :=
  (List.range 4).findSome? (fun i =>
    let p := e.port i
    if p.bnd && !handleOk s ctx p.hdl then some (.handle i p.hdl 0) else none)

/-- The AGs of a restored region whose ports do not pass the check of R352 raise its fault. -/
def judgePorts (s : State) (ctx rgn : Nat) : State :=
  (List.range s.elems.length).foldl (fun s n => onElem s n (fun e =>
    if e.dead || e.rgn != rgn || e.cls != .ag then s
    else match portFault s ctx e with
      | some t => raiseFault s n e t 0
      | none => s)) s

/-- A launch restored on a granted region (R371, R372), from the elements and gates that its snapshot area gives; the region keeps its
snapshot as it was taken. -/
def installSaved (s : State) (l : Launch) (c : Config) (p : Placed) (g0 : Region) (sn : Snap) : State :=
  let s := openStreams s p.ways
  let b := buildOf s l c p
  let gates := (b.gates []).mapIdx (fun j n => b.regate sn.elems j n (sn.gates.getD j n))
  let g : Region := { g0 with
    stt := (s.region p.id).stt, err := (s.region p.id).err, rstp := 0, fold := p.fold, folios := p.folios, gates := gates,
    acked := false, hcode := none, status := 0, fault := none, haltBy := none, snap := none, wdHeld := g0.wdHeld + (s.now - g0.since),
    shash := shapeHash s p.folios, hops := p.hops, place := p.sites }
  let s := rdcRegion ({ s with elems := s.elems ++ b.acts.map (b.restored s g.ctx sn.elems) }.setRegion p.id g) p.id
  judgePorts (restoreLease (setStt (grantedLaunch s l p.id) p.id 1) g.ctx p.id (p.folios == sn.folios) sn.folios) g.ctx p.id

/-- The lease that a waiting launch left suspended returns to the pool (R373). -/
def backLease (s : State) (l : Launch) : State :=
  match l.held with
  | some g =>
    let c := s.ctx g.ctx
    if ctxLid c ≠ 0 ∧ ctxLrgn c = l.rgn ∧ ctxLsus c then
      (unboostAt { s with pool := Tab.set s.pool (ctxLid c) (ctxLrem c) } g.folios).setCtx g.ctx (setLease c false 0 0 0)
    else s
  | none => s

/-- The crossings of a kept placement, from the channels of its elements and gates (R341). -/
def keptWays (s : State) (g : Region) (r : Nat) (o : List Byte) : List (Wire × List (Nat × Nat)) :=
  (wiresOf o g.fold).map (fun w =>
    let via : List Hop := match w.src with
      | .el i c => (((s.elemsOf r).find? (fun e => e.act == i)).map (fun e => (e.outch c).via)).getD []
      | .gate _ j => ((g.gates[j]?).map (fun x => x.out.via)).getD []
    (w, via.map (fun h => (h.die, h.br))))

/-- A failure to fit (R330, R341): the region is released and its lease returned (R373), the report stands at `crec` + 128, the launch
completes with status 1. -/
def failFit (s : State) (l : Launch) (c : Config) (folios : List (Nat × Nat)) (fold : Nat) (x : NoFit) (kept : Option Nat) : State :=
  let report := x.bits s folios (hdrGid c.obj) fold
  let s := { s with freeCtr := s.freeCtr + 1 }
  let s := match kept with
    | some r => freeRegion (returnLease s r) r
    | none => backLease s l
  finishLaunch (devStore s (pkCrec l.pkt + 128) (littleBytes 64 report.toNat)) l (Compl.plain 1 0 l.seq)

/-- A placement with its stream numbers installed, where they can be given (R327). -/
def installPlan (s : State) (id : Nat) (folios : List (Nat × Nat)) (fold : Nat) (sites : Tab Nat) (hops : Nat)
    (ways : List (Wire × List (Nat × Nat))) (go : Placed → State) : Option State :=
  (giveStreams s ways []).map (fun w => go { id := id, folios := folios, fold := fold, sites := sites, hops := hops, ways := w })

/-- A launch placed afresh on some folios. -/
def grantOn (s : State) (l : Launch) (c : Config) (id : Nat) (folios : List (Nat × Nat)) (kept : Option Nat) : Option State :=
  match placeFirst s c.obj folios (foldChoices c.obj (pkFold l.pkt)) with
  | .error (ch, x) => some (failFit s l c folios ch x kept)
  | .ok (ch, p) => installPlan s id folios ch p.sites p.hops p.ways (fun p => installFresh s l c p)

/-- A launch on a kept region (R340, R341): its placement is reused where the object and the fold choice are the same. -/
def grantKept (s : State) (l : Launch) (c : Config) : Option State :=
  let r := pkRgn l.pkt
  let g := s.region r
  if keptFree s c.ctx r = false then none
  else if g.cfg = pkCfg l.pkt ∧ (pkFold l.pkt = 0xFF ∨ pkFold l.pkt = g.fold) then
    let ways := keptWays s g r c.obj
    let s := clearElems s r
    installPlan s r g.folios g.fold g.place g.hops ways (fun p => installFresh s l c p)
  else grantOn (clearElems s r) l c r g.folios (some r)

/-- The snapshot of a waiting launch as its area gives it, under a fold choice (R371, R372): none where the area no longer holds it, or
where two firings would share an element. -/
def savedUnder (s : State) (l : Launch) (c : Config) (g : Region) (sn : Snap) (choice : Nat) : Option Snap :=
  if areaHolds s g.ctx l.rgn sn = false then none
  else
    let recs := areaRecs s g.ctx
    (refold (Obj.of c.obj) sn.fold choice (sn.elems.map (loadElem recs))).map (fun es =>
      { sn with elems := es, gates := sn.gates.mapIdx (loadGate recs) })

/-- The fold choices under which a snapshot may be restored: its own, then the others where its launch leaves the choice (R328, R372). -/
def savedChoices (l : Launch) (c : Config) (sn : Snap) : List Nat :=
  sn.fold :: (if pkFold l.pkt = 0xFF then (foldChoices c.obj 0xFF).filter (fun k => k != sn.fold) else [])

/-- What an attempt at a launch comes to: a state in which it has its region or has completed, or one in which it waits. -/
inductive Tried where
  | done (s : State)
  | waits (s : State)

/-- A snapshot restored under the first fold choice that places whole (R371, R372), after the last failure to fit so far. Where none does, a launch that had other choices
has its report and waits for a larger region (R372); one that had not completes with status 1 (R374). -/
def trySaved (s : State) (l : Launch) (c : Config) (g : Region) (sn : Snap) (fs : List (Nat × Nat)) (only : Bool) :
    Option (Nat × NoFit) → List Nat → Tried
  | none, [] => .waits s
  | some (k, x), [] =>
    if only then .done (failFit s l c fs k x none)
    else .waits (devStore s.spend (pkCrec l.pkt + 128) (littleBytes 64 (x.bits s fs (hdrGid c.obj) k).toNat))
  | why, k :: r =>
    match savedUnder s l c g sn k, placeGraph s c.obj fs k with
    | none, _ => trySaved s l c g sn fs only why r
    | some sn', .ok p =>
      match installPlan s l.rgn fs k p.sites p.hops p.ways (fun p => installSaved s l c p g sn') with
      | some s' => .done s'
      | none => .waits s
    | some _, .error x => trySaved s l c g sn fs only (some (k, x)) r

/-- A launch whose snapshot is restored (R371, R387): on the same folios where they are asked for. A region that does not hold it makes
the launch wait. -/
def grantSaved (s : State) (l : Launch) (c : Config) : Tried :=
  match l.held, l.held.bind Region.last with
  | some g, some sn =>
    let folios := if l.same then (if sn.folios.all (fun f => (freeFolios s f.1).contains f) then some sn.folios else none)
                  else chooseFolios s (pkNfol l.pkt) (pkMdie l.pkt) (pkPeer l.pkt)
    (match folios with
    | none => .waits s
    | some fs =>
      let ks := savedChoices l c sn
      trySaved s l c g sn fs (ks.length == 1) none ks)
  | _, _ => .waits s

/-- An attempt that may leave a launch waiting. -/
def Tried.of (s : State) (x : Option State) : Tried :=
  match x with
  | some t => .done t
  | none => .waits s

/-- One ready launch granted a region, where it can be (R340). -/
def tryGrant (s : State) (l : Launch) : Tried :=
  match Tab.find s.configs (pkCfg l.pkt) with
  | none => .waits s
  | some c =>
    if l.phase = 2 then grantSaved s l c
    else if pkRgn l.pkt ≠ 0 then .of s (grantKept s l c)
    else match chooseFolios s (pkNfol l.pkt) (pkMdie l.pkt) (pkPeer l.pkt), freeId s with
      | some fs, some id => .of s (grantOn s l c id fs none)
      | _, _ => .waits s

/-- Launches tried in their order, until one has its region (R340). -/
def grantFirst (s : State) : List Launch → State
  | [] => s
  | l :: r =>
    match tryGrant s l with
    | .done t => t
    | .waits t => grantFirst t r

/-- Ready launches in the order in which the coordinator considers them (R340). -/
def readyOrder (s : State) : List Launch :=
  let key (l : Launch) : List Nat := [qdPri (s.queue l.q).desc, l.order, l.q]
  sortBy (fun a b => lexLe (key a) (key b)) (s.launches.filter (fun l => (l.phase == 0 || l.phase == 2) && l.order != 0))

-- Evicted launches (R370) ---------------------------------------------------------------------------------------------------------------

/-- Whether an access that is tried again stops on the same translation faults: a tile, or a piece of it, without a present entry, a host
page without a translation (R357, R353). -/
def Trap.absent (t : Trap) : Bool := t.cls == (1, 1) || t.cls == (1, 3)

/-- The access that an AG makes at its place in its body: its kind, and whether the nest drives it (R154-R178). -/
def accessAt (e : Elem) : Option (Fields × Kind × Bool) :=
  let w := e.body.getD e.run.pos 0
  let f := fieldsOf w
  let v := f.var.toNat
  match opNo w with
  | 0x83 => some (f, .load, v == 0 || v == 2)
  | 0x84 => some (f, .store, v == 0)
  | 0x85 => some (f, .tlda, v == 0)
  | 0x86 => some (f, .tsts, v == 0)
  | 0x90 | 0x91 => some (f, .atomic, false)
  | 0x95 => some (f, .ldaq, false)
  | 0x96 => some (f, .strl, false)
  | _ => none

/-- Whether the access at which an AG stands stopped would stop so again. -/
def Elem.accessStops (e : Elem) (s : State) : Bool :=
  match accessAt e with
  | none => false
  | some (f, k, nest) =>
    match portAccess s e f.a (imSp f) (coordsOf s e f nest).1 k with
    | .ok _ => false
    | .error (.trap t) => t.absent
    | .error _ => false

/-- Whether a stopped engine operation would stop so again at the word where it stands. -/
def EngOp.stops (o : EngOp) (s : State) (e : Elem) : Bool :=
  let u : UnitId := .el s.elems.length
  let ends (x : EngEnd) : Bool := match x with
    | .stop t => t.absent
    | _ => false
  if o.kind = 3 ∧ o.res.isNone then
    (match contribution u e (o.arg 0) s o with
     | .error x => ends x
     | .ok _ => false)
  else if o.kind = 3 then
    (match engAccess s e o 1 (o.coords 1 o.done) .engWrite with
     | .error x => ends x
     | .ok _ => false)
  else
    match engStep s u e o o.done with
    | .error x => ends x
    | .ok _ => false

/-- Whether every cause for which a saved element stands stopped is gone (R370): what a translation stop needs is present, a die is no
longer too wide (R193). Other stops wait for nothing. -/
def Elem.clearedIn (e : Elem) (s : State) (ctx : Nat) : Bool :=
  let e := { e with ag := { e.ag with ports := e.ag.ports.map (Port.restored s ctx) } }
  e.stop.all (fun x => if x.cls = 5 then !(s.die e.die).tooWide else !(x.cls == 1 && e.accessStops s))
  && e.ag.eng.all (fun o => !coStp (e.co o.co) || !(o.refork e).stops s e)

/-- Whether an evicted launch may be chosen again (R370). -/
def causesGone (s : State) (l : Launch) : Bool :=
  match l.held.bind Region.last, l.held with
  | some sn, some g => sn.elems.all (fun e => e.clearedIn (s.setRegion l.rgn g) g.ctx)
  | _, _ => false

/-- Evicted launches whose causes firmware has removed become ready again (R370). -/
def readyEvicted (s : State) : State :=
  let due (l : Launch) : Bool := l.phase == 2 && l.order == 0 && causesGone s l
  if s.launches.any due then
    { s with orders := s.orders + 1, launches := s.launches.map (fun l => if due l then { l with order := s.orders + 1 } else l) }
  else s

/-- REGION_GRANT (R340, R341, R370, R374): the first launch that can be granted a region; none in the safe state (R407). What a peer's
coordinator answers is asked anew each time. -/
def execRegionGrant (s : State) : Host.Outcome State Fault Refusal :=
  .next (
    if s.safe then s
    else
      let s := readyEvicted s
      let t := grantFirst s (readyOrder s)
      if (readyOrder s).any (fun l => pkPeer l.pkt) then t.spend else t)

-- The wave and the gates (R341, R342) ------------------------------------------------------------------------------------------------------

/-- The first tick whose start is not below a stamp (R342). -/
def catchUpTick (c : Clk) (t : Nat) : Nat := if t ≤ c.orig then 0 else (t - c.orig + c.per - 1) / c.per

/-- The gates of a region open at an instant at which the command die has an interval (R342, R344): a strict launch is late where its
earliest exceeds the start of the tick. The queue released that tick, while it still serves the launch's context. -/
def openGates (s : State) (r now : Nat) (d : Die) : State :=
  let g := s.region r
  let x := s.queue g.q
  let late := g.clk.tmod == 1 && decide (g.clk.start g.tick < d.early)
  let s := s.setRegion r { g with opened := some now, ostmp := d.late, late := late }
  let s := if g.clk.tmod ≠ 0 ∧ s.launches.any (fun l => l.rgn == r && l.phase == 1 && l.ep == x.ep) then s.setQueue g.q { x with released := g.tick } else s
  refreshReady { s with launches := s.launches.map (fun l => if l.rgn = r ∧ l.phase = 1 then { l with opened := true } else l) }

/-- The configuration-complete wave ends (R341, R342): the RDC sectors of the region are invalidated, its elements may act. -/
def waveDone (s : State) (r : Nat) : State :=
  let g := s.region r
  let tick := if g.opened.isNone ∧ g.clk.tmod = 2 then catchUpTick g.clk (s.die 32).early else g.tick
  let s := (rdcRegion s r).mapRegion r (fun e => { e with halted := false })
  let s := setStt (s.setRegion r { g with acked := true, tick := tick }) r 2
  if g.opened.isNone ∧ g.clk.tmod = 0 then openGates s r s.now (s.die 32) else s

/-- CONFIGURATION_COMPLETE_WAVE (R341). -/
def execConfigurationCompleteWave (rgn : Nat) (s : State) : Host.Outcome State Fault Refusal :=
  .next (if (s.region rgn).stt = 1 then waveDone s rgn else s)

/-- Whether a region's gates wait for its tick (R342). -/
def Region.waits (g : Region) : Bool := g.stt == 2 && g.acked && g.opened.isNone && g.clk.tmod != 0

/-- The instant, within some ns, at which a die's earliest first is at least a stamp. -/
def Die.reaches (d : Die) (t ns : Nat) : Option Nat :=
  let n := (t * 20000 - d.ear + 19998) / 19999
  if t ≤ d.early then some 0 else if d.upst = 0 ∨ ns < n then none else some n

/-- The gates that wait open at the first instant at which the command die's earliest has reached their tick (R342), where it comes within
`ns` of an instant at which the die's interval was `d`. Their regions' RDC sectors are invalidated before (R270). -/
def gatesPass (now ns : Nat) (d : Die) (s : State) : State :=
  (s.regions.filter (fun p => p.2.waits)).foldl (fun s p =>
    match d.reaches (p.2.clk.start p.2.tick) ns with
    | some n => openGates (rdcRegion s p.1) p.1 (now + n) (d.pass n)
    | none => s) s

/-- GATES_OPEN (R270, R342): the gates of a region that wait open, where the command die's earliest has reached their tick. -/
def execGatesOpen (rgn : Nat) (s : State) : Host.Outcome State Fault Refusal :=
  .next (
    let g := s.region rgn
    if g.waits ∧ g.clk.start g.tick ≤ (s.die 32).early then openGates (rdcRegion s rgn) rgn s.now (s.die 32) else s)

-- Completion (R270, R344, R347) -----------------------------------------------------------------------------------------------------------

/-- Whether the drain has passed every element of a region (R341). -/
def drainPassed (s : State) (r : Nat) : Bool :=
  let g := s.region r
  g.opened.isSome && g.gates.all (fun x => if x.isOut then x.passed else x.drained) && regionOcc s r == 0
    && (s.elemsOf r).all (fun e => !e.busy && e.rq.passing.isNone)

/-- Every store of a region published at module scope (R270). -/
def publishAll (s : State) (r : Nat) : State :=
  let s := landRegion s.joined r
    (fun e => e.ag.sb ++ (e.ag.eng.flatMap EngOp.writes).map (fun p => { p with ord := s.orders }))
  s.mapRegion r (fun e => { e with ag := { e.ag with sb := [], eng := e.ag.eng.map (fun o => { o with writes := [] }) } })

/-- A seed as the input digest takes it (R347). -/
def seedUnit (w : CWord) : List Byte := littleBytes 72 (w.pay.toNat + bit w.ls * 2 ^ 512 + bit w.lr * 2 ^ 513)

/-- The input digest of a launch (R347). -/
def inputDigest (g : Region) (p : BitVec 1536) : List Byte :=
  sha512 ((g.gates.filter (fun x => !x.isOut)).flatMap (fun x => x.seeds.flatMap seedUnit) ++ littleBytes 64 (pkIdig p))

/-- The reproducibility signature (R347). -/
def signature (gid : Nat) (g : Region) (p : BitVec 1536) : Nat :=
  leNat (sha512 (littleBytes 8 gid ++ littleBytes 8 g.shash.toNat ++ littleBytes 1 g.fold ++ inputDigest g p))

/-- The words written and discarded by the output gates of a region. -/
def outWords (g : Region) : Nat := sumOf Gate.written g.gates
def outDropped (g : Region) : Nat := sumOf Gate.dropped g.gates

/-- The fields of a record that a region gives (R344). -/
def regionCompl (l : Launch) (g : Region) (st : Nat) : Compl :=
  { st := st, err := 0, seq := l.seq, ostmp := g.ostmp, owds := outWords g, odrp := outDropped g, rgn := l.rgn, fold := g.fold, late := g.late,
    shash := g.shash.toNat, tkix := if g.clk.tmod = 0 then 0 else g.tick, cfg := 0, rsig := 0 }

/-- A launch whose drain has passed completes (R344): status 6 where an output gate discarded words. An error that firmware answered
by a restore was transient (R387). -/
def completeRun (s : State) (l : Launch) : State :=
  let r := l.rgn
  let g := s.region r
  let s := publishAll s r
  let s := (g.retry.filter (fun x => !x.anew)).foldl (fun s x => setDisp s r x.frec 3) s
  let c := regionCompl l g (if outDropped g = 0 then 0 else 6)
  let s := finishLaunch s l { c with rsig := if outDropped g = 0 then signature (graphId s r) g l.pkt else 0 }
  if g.keep then s else freeRegion (returnLease s r) r

/-- A removed launch completes (R388, R413): the address of its fault record stands at `crec` + 128 before the record. -/
def completeRemoved (s : State) (l : Launch) : State :=
  let s := if l.frec = 0 ∨ l.status = 4 then s else devStore s (pkCrec l.pkt + 128) (littleBytes 8 l.frec)
  let c := match l.held with
    | some g => if l.status = 5 then { Compl.plain 5 0 l.seq with rgn := l.rgn } else regionCompl l g l.status
    | none => { Compl.plain l.status 0 l.seq with rgn := l.rgn }
  finishLaunch s l c

/-- LAUNCH_COMPLETE (R270, R344, R413). -/
def execLaunchComplete (rgn : Nat) (s : State) : Host.Outcome State Fault Refusal :=
  .next (match s.launches.find? (fun l => l.phase == 4 && l.rgn == rgn) with
    | some l => completeRemoved s l
    | none =>
      match s.launches.find? (fun l => l.phase == 1 && l.rgn == rgn) with
      | some l => if (s.region rgn).stt = 2 ∧ drainPassed s rgn then completeRun s l else s
      | none => s)

/-- REGION_EVICTION (R367, R370): the launch stays in progress, and is ready again when no cause keeps it. What its AGs have stored is
accepted and stands at its homes (R191). -/
def execRegionEviction (rgn : Nat) (s : State) : Host.Outcome State Fault Refusal :=
  .next (
    let g := s.region rgn
    if g.stt = 3 ∧ g.last.any (areaHolds s g.ctx rgn) then
      readyEvicted (freeRegion (holdLaunch (publishAll s rgn) rgn g false false) rgn)
    else s)

end Sys2Proof.Machine
end

