-- ==== Sys2Proof/Machine/Recovery.lean ====
section
/-! DEFINITION. Recovery, power, health and firmware as steps of the device (spec 15, R370, R373; spec 17, R384, R385, R389-R390,
R402-R409, R412), the host's writes to its BARs, and module reset. -/
namespace Sys2Proof.Machine

-- Watchdogs (R384, R385, R412) ------------------------------------------------------------------------------------------------

/-- FIRING_WATCHDOG (R384): a firing has held issue on counts for 2^26 cycles. -/
def execFiringWatchdog (u : Nat) (s : State) : Host.Outcome State Fault Refusal :=
  .next (onElem s u (fun e =>
    if e.active && e.busy && decide (2 ^ 26 ≤ e.run.held) then raiseFault s u e (.watchdog 1 (2 ^ 26)) (e.body.getD e.run.pos 0) else s))

/-- The fault record of a launch watchdog (R412): the command die's earliest, in the ring of die 0. -/
def launchRecord (s : State) (r limit : Nat) : BitVec 2048 :=
  let t : Trap := .watchdog 2 limit
  BitVec.ofNat 2048 (fieldsNat (
    ((t.det 0).mapIdx fun i x => (1536 + 32 * i, x % 2 ^ 32))
    ++ [(1176, 0xFF), (1160, 0xFFFF), (1152, 11), (1088, (s.die 32).early), (976, 0xFFFF)] ++ launchFields s r
    ++ [(32, 2), (24, t.cls.1), (16, t.cls.2)]))

/-- LAUNCH_WATCHDOG (R385, R412): the region halts, then the record, event 1 and event 14. -/
def execLaunchWatchdog (rgn : Nat) (s : State) : Host.Outcome State Fault Refusal :=
  .next (
    let g := s.region rgn
    let wdl := (s.queue g.q).ctl.toNat % 2 ^ 32
    match g.opened with
    | none => s
    | some t =>
      if g.stt ≠ 2 ∨ wdl = 0 ∨ s.now ≤ t + g.wdHeld + 1000 * wdl then s
      else
        let s := noteFault (haltRegion s rgn) rgn 0 (.elem 0) (.watchdog 2 wdl)
        putRecord s 0 (launchRecord s rgn wdl))

/-- The marker number of a snapshot that firmware takes on its own: one after the last complete one. -/
def nextMark (g : Region) : Nat := ((g.last.map Snap.mkn).getD 0 + 1) % 2 ^ 32

/-- Whether an AG has stayed stopped at a restartable fault for 50 us (R370). -/
def stopDue (s : State) (e : Elem) : Bool :=
  e.cls == .ag && !e.frozen && (match e.stop with
    | some x => x.cls != 19 && decide (x.since + 50000 ≤ s.now)
    | none => false)

/-- RESTARTABLE_STOP_TIMEOUT (R370): a snapshot is injected; the eviction follows it (R367). -/
def execRestartableStopTimeout (u : Nat) (s : State) : Host.Outcome State Fault Refusal :=
  .next (onElem s u (fun e =>
    let g := s.region e.rgn
    if stopDue s e && !e.dead && g.stt == 2 && g.snap.isNone then completeSnap (injectSnap s e.rgn (nextMark g)) e.rgn else s))

-- Translation by the host (R353) -------------------------------------------------------------------------------------------

/-- The page that the lanes 3 and 4 of a translation fault's detail lie in. -/
def detPage (lo hi : Nat) : Nat := (lo + hi * 2 ^ 32) / 65536

/-- Whether an element stands stopped for want of a page of host space, or an engine operation of it does. -/
def Elem.wantsPage (e : Elem) (page : Nat) : Bool :=
  e.stop.any (fun x => x.cls == 1 && x.sub == 3 && detPage (bitsAt x.frec.toNat 1632 32) (bitsAt x.frec.toNat 1664 32) == page)
    || e.ag.eng.any (fun o => coStp (e.co o.co) && o.fcs == 0x0B && detPage (o.why.getD 3 0) (o.why.getD 4 0) == page)

/-- Whether it does so in a region of a context whose queue is on a link. -/
def waitsPage (s : State) (link ctx page : Nat) (e : Elem) : Bool :=
  !e.dead && (s.region e.rgn).ctx == ctx && s.linkOf e.rgn == link && e.wantsPage page

/-- The place of the record of a stop. -/
def Elem.stopAt (e : Elem) : Nat := (e.stop.map Stop.addr).getD 0

/-- A page that the host refuses makes the fault lasting (R353): the region of each unit that waits for it halts, to be
removed with status 3. -/
def refusePage (s : State) (e : Elem) : State :=
  let g := s.region e.rgn
  haltRegion (s.setRegion e.rgn { g with status := 3, frec := e.stopAt }) e.rgn

/-- An evicted launch that waits for a refused page is removed with status 3; a suspended lease returns (R353, R373). -/
def refuseEvicted (link ctx page : Nat) (s : State) (l : Launch) : State :=
  match l.held with
  | some g =>
    match (g.last.map Snap.elems).bind (fun es => es.find? (fun e => e.wantsPage page)) with
    | some e =>
      if l.phase = 2 ∧ g.ctx = ctx ∧ g.q / 2048 = link then
        let s := backLease s l
        setDisp { s with launches := s.launches.map (fun x =>
          if x.uid = l.uid then { x with phase := 4, status := 3, frec := e.stopAt } else x) } l.rgn e.stopAt 5
      else s
    | none => s
  | none => s

/-- PRI_RESPONSE (R353, R394). The request it answers is named by its host link and its context, 4096 · link + context, its tile and its
address. -/
def execPriResponse (src tile addr : Nat) (grant : Bool) (s : State) : Host.Outcome State Fault Refusal :=
  .next (
    let link := src / 4096
    let ctx := src % 4096
    let page := (link, ctxPasid (s.ctx ctx), addr / 65536)
    let s := if grant then { s with ats := if s.ats.contains page then s.ats else s.ats ++ [page] }
             else
               let s := (s.elems.filter (waitsPage s link ctx (addr / 65536))).foldl refusePage s
               s.launches.foldl (refuseEvicted link ctx (addr / 65536)) s
    postEvent s 12 (ctx + tile % 2 ^ 32 * 2 ^ 32) (srcNum 32 9 ctx))

-- Region control (R389, R390) ------------------------------------------------------------------------------------------------------

/-- REGION_RESUME (R367, R389). -/
def execRegionResume (rgn : Nat) (s : State) : Host.Outcome State Fault Refusal := .next (cmdResume s rgn)

/-- REGION_HALT_CMD (R389). -/
def execRegionHaltCmd (rgn : Nat) (s : State) : Host.Outcome State Fault Refusal := .next (cmdHalt s rgn)

/-- REGION_RESET (R389, R390). -/
def execRegionReset (rgn : Nat) (s : State) : Host.Outcome State Fault Refusal := .next (cmdReset s rgn)

/-- REGION_BLOT (R389, R390). -/
def execRegionBlot (rgn : Nat) (s : State) : Host.Outcome State Fault Refusal := .next (cmdBlot s rgn)

/-- REGION_RELEASE (R389, R390). -/
def execRegionRelease (rgn : Nat) (s : State) : Host.Outcome State Fault Refusal := .next (cmdRelease s rgn)

/-- BLOT_COMPLETE (R390). -/
def execBlotComplete (rgn : Nat) (s : State) : Host.Outcome State Fault Refusal :=
  .next (if (s.region rgn).stt = 6 ∧ regionOcc s rgn = 0 then setStt s rgn 7 else s)

/-- Whether an AG keeps a reset step waiting. -/
def holdsStep (e : Elem) (step : Nat) : Bool :=
  e.cls == .ag && (if step = 2 then e.ag.cos.toList.any coRunning
    else e.ag.ports.toList.any (fun p => p.reqs != []) || e.ag.sb.any (fun p => !p.acc) || e.ag.tsts != [])

/-- The units of a step that did not come to 0, marked unsound: AGs for steps 1 to 3, bridge units for step 4. -/
def markStep (s : State) (r step : Nat) : State :=
  if step = 4 then
    let hops := ((s.elemsOf r).flatMap (fun e => e.outs.toList) ++ (s.region r).gates.map Gate.out).filter (fun o => decide (o.words ≠ 0)) |>.flatMap OutChan.via
    hops.foldl (fun s h => markUnsound s h.die 4 h.br 0) s
  else (s.elemsOf r).foldl (fun s e => if holdsStep e step then markUnsound s e.die 2 (e.unitNo / 4) (e.unitNo % 4) else s) s

/-- RESET_STEP_TIMEOUT (R390): the step counts as done. -/
def execResetStepTimeout (rgn : Nat) (s : State) : Host.Outcome State Fault Refusal :=
  .next (
    let g := s.region rgn
    if g.stt = 5 ∧ 1 ≤ g.rstp ∧ g.rstp ≤ 4 ∧ g.since + 1000000 ≤ s.now ∧ regionIfl s rgn g.rstp ≠ 0 then
      let s := resetUnits (markStep s rgn g.rstp) rgn g.rstp
      resetPass 5 (s.setRegion rgn { s.region rgn with rstp := g.rstp + 1, since := s.now }) rgn
    else s)

-- Power (R373, R402, R404, R405) ---------------------------------------------------------------------------------------------------

/-- UNDERVOLT_WINDOW (R402, R403): a window of 10 ms judged by its correctable errors. -/
def execUndervoltWindow (die folio errs : Nat) (s : State) : Host.Outcome State Fault Refusal :=
  .next (
    let x := s.supplyOf die folio
    let n := x.reg.toNat
    let uv := bitsAt n 7 1
    let flr := bitsAt n 0 6
    if 32 ≤ die ∨ 144 ≤ folio ∨ uv = 0 ∨ bitsAt n 6 1 = 1 ∨ x.held then s
    else if errs < 4 then
      let v := if flr < x.lvl then x.lvl - 1 else x.lvl
      setSupply s die folio { x with reg := supplyReg v x.lvl uv 0 flr, down := if flr < x.lvl then s.now else x.down }
    else
      let v := if x.lvl < min (x.safe + 2) 20 then x.lvl + 1 else x.lvl
      postEvent (setSupply s die folio { x with reg := supplyReg v x.safe uv 0 flr }) 6 (folio + die * 256) (srcNum die 6 folio))

/-- L2_WAY_GATING (R405): at the end of a window of 2^20 accesses a way is enabled again above a miss rate of 1/16; where the slice's
estimate, which the spec does not give (log 139), says that fewer ways would have served, a way that holds no pin is gated, and its
sectors, with their charges, are gone (R363). The step names what the slice has found; where it has found something else, nothing
happens (log 2). -/
def execL2WayGating (die folio way : Nat) (fewerWays : Bool) (missesPerMi : Nat) (s : State) : Host.Outcome State Fault Refusal :=
  .next (
    let x := s.slice die folio
    let pinned := s.pins.any (fun p => p.die == die && p.folio == folio && p.way.toNat == way)
    let drop (s : State) : State := { s with l2 := s.l2.filter (fun x =>
      !(homeDie (x.sec * 128) == die && homeFolio (x.sec * 128) == folio && x.way == way)) }
    let put (v : BitVec 16) : State :=
      { s.spend with slices := Tab.set s.slices (die * 144 + folio) { x with gated := v, accs := 0, miss := 0 } }
    if 32 ≤ die ∨ 144 ≤ folio ∨ 16 ≤ way ∨ x.accs < 2 ^ 20 ∨ missesPerMi ≠ x.miss ∨ fewerWays ≠ Config.freeSmaller s.freeCtr then s
    else if 65536 < missesPerMi then put (x.gated &&& ~~~(BitVec.ofNat 16 (2 ^ way)))
    else if fewerWays && !pinned then drop (put (x.gated ||| BitVec.ofNat 16 (2 ^ way)))
    else put x.gated)

/-- BOOST_LEASE_GRANT (R351, R373, R400, R404): levels above 20 come only from a lease, up to 60; one that stands in the pool has the
time with which it returned. -/
def execBoostLeaseGrant (rgn lid lvl time : Nat) (s : State) : Host.Outcome State Fault Refusal :=
  .next (
    let g := s.region rgn
    let c := s.ctx g.ctx
    if g.stt = 0 ∨ lid % 2 ^ 16 = 0 ∨ ctxLid c ≠ 0 ∨ lvl ≤ 20 ∨ 60 < lvl then s
    else
      let s := g.folios.foldl (fun s f =>
        let x := s.supplyOf f.1 f.2
        let n := x.reg.toNat
        if x.held then s else setSupply s f.1 f.2 { x with reg := supplyReg lvl x.safe (bitsAt n 7 1) 1 (bitsAt n 0 6) }) s
      let time := Tab.get time s.pool (lid % 2 ^ 16)
      { s.setCtx g.ctx (setLease c false rgn lid time) with leases := Tab.set s.leases g.ctx (s.now + time),
                                                            pool := Tab.del s.pool (lid % 2 ^ 16) })

/-- BOOST_LEASE_EXPIRY (R373): the lease's time has run out. -/
def execBoostLeaseExpiry (ctx : Nat) (s : State) : Host.Outcome State Fault Refusal :=
  .next (match Tab.find s.leases ctx with
    | some t => if t ≤ s.now then endLease s ctx else s
    | none => s)

-- Health (R407, R408) -----------------------------------------------------------------------------------------------------------------

/-- Whether a canary core has missed a heartbeat (R409): its first within 10 ms, then every `hbto`. -/
def canaryMissed (s : State) : Bool :=
  s.fw.canary.isSome && (match (s.cores[14]?).map (fun e => e.fc.beat) with
    | some (some t) => if s.now < s.fw.since + t then decide (s.fw.since + 10000000 < s.now) else decide (s.hbto * 1000 < t)
    | _ => decide (s.fw.since + 10000000 < s.now))

/-- HEARTBEAT_MISSED (R408, R409): the bit of the core has fallen. -/
def execHeartbeatMissed (core : Nat) (s : State) : Host.Outcome State Fault Refusal :=
  .next (
    let gone := match (s.cores[core]?).map (fun e => e.fc.beat) with
      | some (some t) => decide (s.hbto * 1000 < t)
      | _ => false
    let bad := core == 14 && canaryMissed s
    let s := if gone then
        match s.cores[core]? with
        | some e => postEvent (s.setUnit (.fc core) { e with fc := { e.fc with beat := none } }) 9 core (srcNum 32 8 core)
        | none => s
      else s
    if bad then revertCanary s else s)

/-- LOCKSTEP_MISMATCH (R407). -/
def execLockstepMismatch (s : State) : Host.Outcome State Fault Refusal := .next (nibRestart s)

-- Firmware (R409) -------------------------------------------------------------------------------------------------------------------------

/-- Where an image's SIG record stands: behind its segment table. -/
def imageSig (img : List Byte) : Nat := 64 + 16 * leNat ((img.drop 12).take 4)

/-- Whether firmware accepts an image (R305, R409): its magic, the handover version it accepts, its digest and signature. -/
def imageOk (img : List Byte) : Bool :=
  let at' := imageSig img
  let sig := leNat ((img.drop at').take 208)
  let bare := img.take at' ++ List.replicate 208 0 ++ img.drop (at' + 208)
  leNat (img.take 4) == 0x4D494642 && decide (leNat ((img.drop 8).take 4) ≤ Config.handover) && decide (at' + 208 ≤ img.length)
    && leNat (sha512 bare) == bitsAt sig 0 512
    && Config.sigValid (BitVec.ofNat 32 (bitsAt sig 1568 32)) (BitVec.ofNat 512 sig) (BitVec.ofNat 528 (bitsAt sig 512 528))
        (BitVec.ofNat 528 (bitsAt sig 1040 528))

/-- An update starts (R409): the image runs on core 14 and the listed queues move there. One that is refused changes nothing. -/
def startUpdate (s : State) (addr len : Nat) : State :=
  let img := memBytes s.mem (hostKey addr) len
  if s.fw.canary.isSome || !imageOk img then s
  else
    let s := startImage { s with fw := { s.fw with canary := some img, since := s.now } } 14 img
    s.fw.moved.foldl (fun s q => enterWork (leaveWork s q) q) s

/-- FIRMWARE_UPDATE_REQUEST (R409). -/
def execFirmwareUpdateRequest (addr len : Nat) (s : State) : Host.Outcome State Fault Refusal := .next (startUpdate s addr len)

/-- The cores that still run the old image: each scribe restarts once its inbox is empty, the nib pair last (R409). -/
def restartCores (s : State) : State :=
  let due := s.fw.todo.filter (fun c => c != 0 && Tab.get [] s.work c == [])
  let s := due.foldl (fun s c => startImage s c s.fw.image) s
  let rest := s.fw.todo.filter (fun c => !due.contains c)
  if rest = [0] then startImage { s with fw := { s.fw with todo := [] } } 0 s.fw.image
  else { s with fw := { s.fw with todo := rest } }

/-- FIRMWARE_COMMIT (R409): after the canary period the image is written to flash, and the cores restart on it. -/
def execFirmwareCommit (s : State) : Host.Outcome State Fault Refusal :=
  .next (match s.fw.canary with
    | some img =>
      if s.now < s.fw.since + s.fw.period * 1000000000 ∨ canaryMissed s then s
      else
        let back := Tab.get [] s.work 14
        let s := { s with fw := { s.fw with image := img, canary := none, moved := [], todo := (List.range 12).map (fun i => i + 2) ++ [0] },
                          work := Tab.del s.work 14 }
        restartCores (back.foldl (fun s q => addWork s (2 + q % 12) q) s)
    | none => restartCores s)

/-- The measurements of the module (R409), in index order. -/
def measurements (s : State) : List Byte :=
  littleBytes 64 Config.bootRomDigest.toNat ++ sha512 s.fw.image
    ++ (match s.fw.canary with
        | some img => sha512 img
        | none => List.replicate 64 0)
    ++ sha512 (s.sound.flatMap (fun x => littleBytes 8 x.toNat))

/-- Bytes followed by the module's signature of their digest (R399, R409). -/
def signed (l : List Byte) : List Byte := l ++ littleBytes 132 (Config.moduleSign (BitVec.ofNat 512 (leNat (sha512 l)))).toNat

/-- SPDM_GET_MEASUREMENTS (R409). -/
def execSpdmGetMeasurements (link : Nat) (s : State) : Host.Outcome State Fault Refusal :=
  .next (if s.linkDown.contains link then s else { s with spdm := s.spdm ++ [signed (measurements s)] })

/-- SPDM_CHALLENGE (R409): the answer covers the requester's nonce. -/
def execSpdmChallenge (link : Nat) (nonce : BitVec 256) (s : State) : Host.Outcome State Fault Refusal :=
  .next (if s.linkDown.contains link then s else { s with spdm := s.spdm ++ [signed (measurements s ++ littleBytes 32 nonce.toNat)] })

-- The host (R268, R333, R348, R349, R386, R409) ---------------------------------------------------------------------------------------

/-- Where the model names offset 0 of a function's BAR0. -/
def bar0 : Nat := 2 ^ 60

/-- A write of the host to BAR0 of a link's function: doorbells, migration requests, queue control registers, and the update registers. -/
def bar0Write (s : State) (link off : Nat) (bytes : List Byte) : State :=
  let v := leNat bytes
  let q (base : Nat) : Nat := link % 2 * 2048 + (off - base) / 8
  if 0x80000 ≤ off ∧ off < 0x84000 ∧ off % 8 = 0 ∧ bytes.length = 8 then ringBell s (q 0x80000) (v % 2 ^ 32)
  else if 0xA0000 ≤ off ∧ off < 0xA8000 ∧ off % 8 = 0 ∧ bytes.length = 8 then migrate s ((off - 0xA0000) / 8) v
  else if 0xC0000 ≤ off ∧ off < 0xC4000 ∧ off % 8 = 0 ∧ bytes.length = 8 then regWrite s (.queue (q 0xC0000)) v
  else if off = 0xB0000 ∧ bytes.length = 16 then startUpdate s (v % 2 ^ 64) (v / 2 ^ 64)
  else if off = 0xB0010 ∧ bytes.length = 8 then { s with fw := { s.fw with moved := s.fw.moved ++ [v % 4096] } }
  else if off = 0xB0018 ∧ bytes.length = 8 then { s with fw := { s.fw with period := if 1 ≤ v ∧ v ≤ 60 then v else s.fw.period } }
  else s

/-- HOST_MEMORY_WRITE (R268, R348, R349): to host memory, to HBM through BAR2, or to BAR0. -/
def execHostMemoryWrite (link addr : Nat) (bytes : List Byte) (s : State) : Host.Outcome State Fault Refusal :=
  .next (
    if bytes = [] then s
    else if isHost addr && isHost (addr + bytes.length - 1) then { s with mem := memWrite s.mem addr bytes }
    else if s.linkDown.contains link then s
    else if isOwn addr && isOwn (addr + bytes.length - 1) then hostStore s addr bytes
    else if bar0 ≤ addr ∧ addr < bar0 + 2 ^ 20 then bar0Write s link (addr - bar0) bytes
    else s)

-- Module reset (R379, R396, R399, R409) ---------------------------------------------------------------------------------------------------

/-- The module after a reset: what flash and memory hold stays, the soundness map's signature is verified (R399), the cores start on
the committed image. -/
def resetModule (s : State) : State :=
  let z := State.reset
  let z := { z with mem := s.mem, gpz := s.gpz, gtn := s.gtn, bad := s.bad, ats := s.ats, sound := s.sound, mapSig := s.mapSig,
                    mapBad := mapFails s, ctxAt := s.ctxAt,
                    fw := { z.fw with image := s.fw.image }, linkDown := s.linkDown, ptpLink := s.ptpLink, reads := s.reads, msix := s.msix,
                    spdm := s.spdm, agenda := s.agenda, now := s.now, freeCtr := s.freeCtr }
  if s.fw.image = [] then z else (0 :: (List.range 12).map (fun i => i + 2)).foldl (fun s c => startImage s c s.fw.image) z

/-- MODULE_RESET (R379, R396, R401, R408). -/
def execModuleReset (s : State) : Host.Outcome State Fault Refusal := .next (resetModule s)

end Sys2Proof.Machine
end

