-- ==== Sys2Proof/Machine/Dispatch.lean ====
section
/-! DEFINITION. One arm per instruction, each a call of its meaning. -/
namespace Sys2Proof.Machine

def exec (i : Instr) (s : State) : Host.Outcome State Fault Refusal :=
  match i with
  | .nop f => Sys2Proof.Machine.execNop f s
  | .endFiring f => Sys2Proof.Machine.execEndFiring f s
  | .take f => Sys2Proof.Machine.execTake f s
  | .give f => Sys2Proof.Machine.execGive f s
  | .wait f => Sys2Proof.Machine.execWait f s
  | .sbt f => Sys2Proof.Machine.execSbt f s
  | .ctlw f => Sys2Proof.Machine.execCtlw f s
  | .cfwd f => Sys2Proof.Machine.execCfwd f s
  | .cpeek f => Sys2Proof.Machine.execCpeek f s
  | .mskop f => Sys2Proof.Machine.execMskop f s
  | .mskmv f => Sys2Proof.Machine.execMskmv f s
  | .bra f => Sys2Proof.Machine.execBra f s
  | .loop f => Sys2Proof.Machine.execLoop f s
  | .brk f => Sys2Proof.Machine.execBrk f s
  | .add f => Sys2Proof.Machine.execAdd f s
  | .sub f => Sys2Proof.Machine.execSub f s
  | .mul f => Sys2Proof.Machine.execMul f s
  | .mulh f => Sys2Proof.Machine.execMulh f s
  | .mad f => Sys2Proof.Machine.execMad f s
  | .div f => Sys2Proof.Machine.execDiv f s
  | .rem f => Sys2Proof.Machine.execRem f s
  | .abs f => Sys2Proof.Machine.execAbs f s
  | .neg f => Sys2Proof.Machine.execNeg f s
  | .min f => Sys2Proof.Machine.execMin f s
  | .max f => Sys2Proof.Machine.execMax f s
  | .and f => Sys2Proof.Machine.execAnd f s
  | .or f => Sys2Proof.Machine.execOr f s
  | .xor f => Sys2Proof.Machine.execXor f s
  | .andn f => Sys2Proof.Machine.execAndn f s
  | .shl f => Sys2Proof.Machine.execShl f s
  | .shr f => Sys2Proof.Machine.execShr f s
  | .sar f => Sys2Proof.Machine.execSar f s
  | .rot f => Sys2Proof.Machine.execRot f s
  | .clz f => Sys2Proof.Machine.execClz f s
  | .popc f => Sys2Proof.Machine.execPopc f s
  | .bfx f => Sys2Proof.Machine.execBfx f s
  | .bfi f => Sys2Proof.Machine.execBfi f s
  | .cmp f => Sys2Proof.Machine.execCmp f s
  | .sel f => Sys2Proof.Machine.execSel f s
  | .mov f => Sys2Proof.Machine.execMov f s
  | .movi f => Sys2Proof.Machine.execMovi f s
  | .pack f => Sys2Proof.Machine.execPack f s
  | .unpk f => Sys2Proof.Machine.execUnpk f s
  | .shuf f => Sys2Proof.Machine.execShuf f s
  | .bcst f => Sys2Proof.Machine.execBcst f s
  | .lred f => Sys2Proof.Machine.execLred f s
  | .fadd f => Sys2Proof.Machine.execFadd f s
  | .fsub f => Sys2Proof.Machine.execFsub f s
  | .fmul f => Sys2Proof.Machine.execFmul f s
  | .fma f => Sys2Proof.Machine.execFma f s
  | .fmin f => Sys2Proof.Machine.execFmin f s
  | .fmax f => Sys2Proof.Machine.execFmax f s
  | .fabs f => Sys2Proof.Machine.execFabs f s
  | .fneg f => Sys2Proof.Machine.execFneg f s
  | .fcmp f => Sys2Proof.Machine.execFcmp f s
  | .frcp f => Sys2Proof.Machine.execFrcp f s
  | .frsq f => Sys2Proof.Machine.execFrsq f s
  | .fex2 f => Sys2Proof.Machine.execFex2 f s
  | .flg2 f => Sys2Proof.Machine.execFlg2 f s
  | .fcls f => Sys2Proof.Machine.execFcls f s
  | .fsts f => Sys2Proof.Machine.execFsts f s
  | .frnd f => Sys2Proof.Machine.execFrnd f s
  | .cvt f => Sys2Proof.Machine.execCvt f s
  | .dq f => Sys2Proof.Machine.execDq f s
  | .qnt f => Sys2Proof.Machine.execQnt f s
  | .scl f => Sys2Proof.Machine.execScl f s
  | .lscan f => Sys2Proof.Machine.execLscan f s
  | .dot f => Sys2Proof.Machine.execDot f s
  | .mma f => Sys2Proof.Machine.execMma f s
  | .mmag f => Sys2Proof.Machine.execMmag f s
  | .bmm f => Sys2Proof.Machine.execBmm f s
  | .tpq f => Sys2Proof.Machine.execTpq f s
  | .tpqr f => Sys2Proof.Machine.execTpqr f s
  | .accrd f => Sys2Proof.Machine.execAccrd f s
  | .accz f => Sys2Proof.Machine.execAccz f s
  | .wsel f => Sys2Proof.Machine.execWsel f s
  | .rld f => Sys2Proof.Machine.execRld f s
  | .rst f => Sys2Proof.Machine.execRst f s
  | .sld f => Sys2Proof.Machine.execSld f s
  | .sst f => Sys2Proof.Machine.execSst f s
  | .sldv f => Sys2Proof.Machine.execSldv f s
  | .sstv f => Sys2Proof.Machine.execSstv f s
  | .satm f => Sys2Proof.Machine.execSatm f s
  | .nest f => Sys2Proof.Machine.execNest f s
  | .nstr f => Sys2Proof.Machine.execNstr f s
  | .gen f => Sys2Proof.Machine.execGen f s
  | .tld f => Sys2Proof.Machine.execTld f s
  | .tst f => Sys2Proof.Machine.execTst f s
  | .tlda f => Sys2Proof.Machine.execTlda f s
  | .tsts f => Sys2Proof.Machine.execTsts f s
  | .pref f => Sys2Proof.Machine.execPref f s
  | .hbind f => Sys2Proof.Machine.execHbind f s
  | .pgsz f => Sys2Proof.Machine.execPgsz f s
  | .atom f => Sys2Proof.Machine.execAtom f s
  | .cas f => Sys2Proof.Machine.execCas f s
  | .phase f => Sys2Proof.Machine.execPhase f s
  | .fence f => Sys2Proof.Machine.execFence f s
  | .rcfnc f => Sys2Proof.Machine.execRcfnc f s
  | .ldaq f => Sys2Proof.Machine.execLdaq f s
  | .strl f => Sys2Proof.Machine.execStrl f s
  | .qpsh f => Sys2Proof.Machine.execQpsh f s
  | .qpop f => Sys2Proof.Machine.execQpop f s
  | .qwt f => Sys2Proof.Machine.execQwt f s
  | .cpy f => Sys2Proof.Machine.execCpy f s
  | .gth f => Sys2Proof.Machine.execGth f s
  | .coll f => Sys2Proof.Machine.execColl f s
  | .cwt f => Sys2Proof.Machine.execCwt f s
  | .ctst f => Sys2Proof.Machine.execCtst f s
  | .clkr f => Sys2Proof.Machine.execClkr f s
  | .stmp f => Sys2Proof.Machine.execStmp f s
  | .cmtw f => Sys2Proof.Machine.execCmtw f s
  | .tick f => Sys2Proof.Machine.execTick f s
  | .ivlm f => Sys2Proof.Machine.execIvlm f s
  | .tacf f => Sys2Proof.Machine.execTacf f s
  | .tafd f => Sys2Proof.Machine.execTafd f s
  | .tamk f => Sys2Proof.Machine.execTamk f s
  | .talv f => Sys2Proof.Machine.execTalv f s
  | .tach f => Sys2Proof.Machine.execTach f s
  | .tntt f => Sys2Proof.Machine.execTntt f s
  | .tntc f => Sys2Proof.Machine.execTntc f s
  | .pzt f => Sys2Proof.Machine.execPzt f s
  | .snap f => Sys2Proof.Machine.execSnap f s
  | .conf f => Sys2Proof.Machine.execConf f s
  | .confr f => Sys2Proof.Machine.execConfr f s
  | .trap f => Sys2Proof.Machine.execTrap f s
  | .eret f => Sys2Proof.Machine.execEret f s
  | .sysr f => Sys2Proof.Machine.execSysr f s
  | .sysw f => Sys2Proof.Machine.execSysw f s
  | .icacheFlush f => Sys2Proof.Machine.execIcacheFlush f s
  | .heartbeatWrite f => Sys2Proof.Machine.execHeartbeatWrite f s
  | .idle f => Sys2Proof.Machine.execIdle f s
  | .evrd f => Sys2Proof.Machine.execEvrd f s
  | .ldp f => Sys2Proof.Machine.execLdp f s
  | .stp f => Sys2Proof.Machine.execStp f s
  | .bkpt f => Sys2Proof.Machine.execBkpt f s
  | .halt f => Sys2Proof.Machine.execHalt f s
  | .fjmp f => Sys2Proof.Machine.execFjmp f s
  | .fcall f => Sys2Proof.Machine.execFcall f s
  | .fret f => Sys2Proof.Machine.execFret f s
  | .xtrap f => Sys2Proof.Machine.execXtrap f s
  | .firingStart u => Sys2Proof.Machine.execFiringStart u s
  | .channelWordArrive u ch => Sys2Proof.Machine.execChannelWordArrive u ch s
  | .creditReturn src => Sys2Proof.Machine.execCreditReturn src s
  | .drainAction u => Sys2Proof.Machine.execDrainAction u s
  | .switchAction u => Sys2Proof.Machine.execSwitchAction u s
  | .armAction u => Sys2Proof.Machine.execArmAction u s
  | .loadResponse u p => Sys2Proof.Machine.execLoadResponse u p s
  | .storeAccept a => Sys2Proof.Machine.execStoreAccept a s
  | .stampedStoreArrive u => Sys2Proof.Machine.execStampedStoreArrive u s
  | .stampedStoreDry die => Sys2Proof.Machine.execStampedStoreDry die s
  | .tldaHomeServe u p => Sys2Proof.Machine.execTldaHomeServe u p s
  | .engineOpComplete a co => Sys2Proof.Machine.execEngineOpComplete a co s
  | .engineOpStop a co => Sys2Proof.Machine.execEngineOpStop a co s
  | .engineOpFail a co => Sys2Proof.Machine.execEngineOpFail a co s
  | .raResultReady u => Sys2Proof.Machine.execRaResultReady u s
  | .recqBroadcast u m => Sys2Proof.Machine.execRecqBroadcast u m s
  | .recqDeal u => Sys2Proof.Machine.execRecqDeal u s
  | .recqPublishPair u => Sys2Proof.Machine.execRecqPublishPair u s
  | .recqEoi u => Sys2Proof.Machine.execRecqEoi u s
  | .recqDrainFeed u => Sys2Proof.Machine.execRecqDrainFeed u s
  | .recqDrainOut u => Sys2Proof.Machine.execRecqDrainOut u s
  | .seedAdmit rgn g => Sys2Proof.Machine.execSeedAdmit rgn g s
  | .outputGateWord rgn g => Sys2Proof.Machine.execOutputGateWord rgn g s
  | .bridgeFlitReceive die br flit => Sys2Proof.Machine.execBridgeFlitReceive die br flit s
  | .linkRetrain die br => Sys2Proof.Machine.execLinkRetrain die br s
  | .beaconSend die => Sys2Proof.Machine.execBeaconSend die s
  | .beaconReceive die br => Sys2Proof.Machine.execBeaconReceive die br s
  | .beaconHoldTimeout die => Sys2Proof.Machine.execBeaconHoldTimeout die s
  | .ptpSync now unc => Sys2Proof.Machine.execPtpSync now unc s
  | .ptpLockTimeout => Sys2Proof.Machine.execPtpLockTimeout s
  | .firingWatchdog u => Sys2Proof.Machine.execFiringWatchdog u s
  | .launchWatchdog rgn => Sys2Proof.Machine.execLaunchWatchdog rgn s
  | .snapMarkerArrive dst => Sys2Proof.Machine.execSnapMarkerArrive dst s
  | .snapshotRecord u => Sys2Proof.Machine.execSnapshotRecord u s
  | .restartableStopTimeout u => Sys2Proof.Machine.execRestartableStopTimeout u s
  | .doorbellWrite q data => Sys2Proof.Machine.execDoorbellWrite q data s
  | .queueMap q addr => Sys2Proof.Machine.execQueueMap q addr s
  | .queueUnmap q => Sys2Proof.Machine.execQueueUnmap q s
  | .packetLaunch q => Sys2Proof.Machine.execPacketLaunch q s
  | .packetRegister q => Sys2Proof.Machine.execPacketRegister q s
  | .packetUnregister q => Sys2Proof.Machine.execPacketUnregister q s
  | .packetReleaseKept q => Sys2Proof.Machine.execPacketReleaseKept q s
  | .regionGrant => Sys2Proof.Machine.execRegionGrant s
  | .configurationCompleteWave rgn => Sys2Proof.Machine.execConfigurationCompleteWave rgn s
  | .gatesOpen rgn => Sys2Proof.Machine.execGatesOpen rgn s
  | .launchComplete rgn => Sys2Proof.Machine.execLaunchComplete rgn s
  | .hostMemoryWrite link addr bytes => Sys2Proof.Machine.execHostMemoryWrite link addr bytes s
  | .hostMemoryRead link addr size => Sys2Proof.Machine.execHostMemoryRead link addr size s
  | .migrationRequest ctx addr => Sys2Proof.Machine.execMigrationRequest ctx addr s
  | .priResponse src tile addr grant => Sys2Proof.Machine.execPriResponse src tile addr grant s
  | .regionResume rgn => Sys2Proof.Machine.execRegionResume rgn s
  | .regionHaltCmd rgn => Sys2Proof.Machine.execRegionHaltCmd rgn s
  | .regionReset rgn => Sys2Proof.Machine.execRegionReset rgn s
  | .resetStepTimeout rgn => Sys2Proof.Machine.execResetStepTimeout rgn s
  | .regionBlot rgn => Sys2Proof.Machine.execRegionBlot rgn s
  | .blotComplete rgn => Sys2Proof.Machine.execBlotComplete rgn s
  | .regionRelease rgn => Sys2Proof.Machine.execRegionRelease rgn s
  | .tileInvalidate die => Sys2Proof.Machine.execTileInvalidate die s
  | .tileInvalidateDone die => Sys2Proof.Machine.execTileInvalidateDone die s
  | .registerWrite addr size data => Sys2Proof.Machine.execRegisterWrite addr size data s
  | .heartbeatMissed core => Sys2Proof.Machine.execHeartbeatMissed core s
  | .lockstepMismatch => Sys2Proof.Machine.execLockstepMismatch s
  | .firmwareUpdateRequest addr len => Sys2Proof.Machine.execFirmwareUpdateRequest addr len s
  | .firmwareCommit => Sys2Proof.Machine.execFirmwareCommit s
  | .spdmGetMeasurements link => Sys2Proof.Machine.execSpdmGetMeasurements link s
  | .spdmChallenge link nonce => Sys2Proof.Machine.execSpdmChallenge link nonce s
  | .undervoltWindow die folio errs => Sys2Proof.Machine.execUndervoltWindow die folio errs s
  | .l2WayGating die folio way fewerWays missesPerMi => Sys2Proof.Machine.execL2WayGating die folio way fewerWays missesPerMi s
  | .moduleReset => Sys2Proof.Machine.execModuleReset s
  | .intervalDriftTooWide die => Sys2Proof.Machine.execIntervalDriftTooWide die s
  | .rdcSectorEviction die k => Sys2Proof.Machine.execRdcSectorEviction die k s
  | .regionEviction rgn => Sys2Proof.Machine.execRegionEviction rgn s
  | .boostLeaseGrant rgn lid lvl time => Sys2Proof.Machine.execBoostLeaseGrant rgn lid lvl time s
  | .boostLeaseExpiry ctx => Sys2Proof.Machine.execBoostLeaseExpiry ctx s
  | .hostLinkDown link down => Sys2Proof.Machine.execHostLinkDown link down s

end Sys2Proof.Machine
end

