-- ==== Sys2Proof/Machine/Elapse.lean ====
section
/-! DEFINITION. What the passing of time does by itself: intervals widen and are judged (R193), heartbeats age, stamped stores dry (R172), regions halt (R380), gates open at their tick (R342),
firmware sees retried launches past the point of their fault (R387). -/
namespace Sys2Proof.Machine

/-- `ns` of true time pass before a turn. -/
def elapse (ns : Nat) (s : State) : State :=
  if ns = 0 then s
  else gatesPass s.now ns (s.die 32) (settleAll (haltDue (dryDue (judgeDies (passCores (passDies { s with now := s.now + ns } ns) ns)))))

end Sys2Proof.Machine
end

