-- ==== Sys2Proof/Machine/Step.lean ====
section
/-! DEFINITION. One step of the module: a turn of the agenda, or of the current unit where the agenda is empty (log 1). -/
namespace Sys2Proof.Machine

/-- The turn of the current unit. -/
def unitTurn (s : State) : Host.Outcome State Fault Refusal :=
  match fetch s with
  | .run i s' => exec i s'
  | .idle s' => .next s'
  | .missing => .fault .noUnit

/-- The turn of a firing behind the one at work (R78). -/
def stageTurn (s : State) (u k : Nat) : Host.Outcome State Fault Refusal :=
  match fetchStage s u k with
  | none => .next s
  | some (r, i, s') =>
    match exec i s' with
    | .next t => .next (unstage s u k r t)
    | x => x

/-- One step. -/
def step (s : State) : Host.Outcome State Fault Refusal :=
  match s.agenda with
  | [] => unitTurn s
  | t :: r =>
    match t.act with
    | .unit u => unitTurn ((elapse t.ns (upsetAll { s with agenda := r } t.ups)).at u)
    | .stage u k => stageTurn ((elapse t.ns (upsetAll { s with agenda := r } t.ups)).at (.el u)) u k
    | .reconf rgn g cfg => .next (emitSwitch (elapse t.ns (upsetAll { s with agenda := r } t.ups)) rgn g cfg)
    | .dev i => exec i (elapse t.ns (upsetAll { s with agenda := r } t.ups))

/-- The state with an instruction stored where step fetches its next one (log 6). -/
def State.withFetchWord (s : State) (nbits w : Nat) : State := placeWord s (littleBytes 13 (w % 2 ^ nbits))

end Sys2Proof.Machine
end

