-- ==== Sys2Proof/Safety.lean ====
section
/-! DEFINITION. The terms in which statements about the module are made: that an instruction completes and what it leaves,
that its checks and waits pass, what lanes a destination receives, and the canonical form of the stored memories. -/
namespace Sys2Proof.Claim

open Sys2Proof.Machine

-- Completion -----------------------------------------------------------------------------------------------------------

/-- The executing unit. -/
def Runs (s : State) (e : Elem) : Prop := s.unit s.cur = some e

/-- The instruction completes and its unit goes on: `s1` is the module after its effects outside the unit, `e1` the unit
after its effects on it. -/
def EndsBy (fl : Flow) (i : Instr) (s : State) (e : Elem) (s1 : State) (e1 : Elem) : Prop :=
  exec i s = .next (s1.setUnit s.cur ((rejoin s1 s.cur e e1).advance e.nextPos fl))

/-- The instruction completes, and the next word follows (R103). -/
def Completes (i : Instr) (s : State) (e : Elem) (s1 : State) (e1 : Elem) : Prop := EndsBy .seq i s e s1 e1

/-- The effects of the instruction take place, and then it raises a fault at its word (R136). -/
def EndsIn (t : Trap) (w : BitVec 96) (i : Instr) (s : State) (e : Elem) (s1 : State) (e1 : Elem) : Prop :=
  exec i s = .next (takeTrap s1 s.cur ((rejoin s1 s.cur e e1).advance e.nextPos (.fault t)) t w)

/-- The instruction traps, and none of its effects takes place (R76). -/
def Traps (i : Instr) (s : State) (e : Elem) (t : Trap) (w : BitVec 96) : Prop := exec i s = .next (takeTrap s s.cur e t w)

/-- The instruction holds issue: nothing changes but the unit's cycle, the watchdog's count and what it holds on (R73, R384). -/
def Holds (i : Instr) (s : State) (e : Elem) (h : Hold) : Prop := exec i s = .next (s.setUnit s.cur (e.hold h))

-- Steps of the device --------------------------------------------------------------------------------------------------

/-- A step of the device takes place and leaves `t`. -/
def Steps (i : Instr) (s t : State) : Prop := exec i s = .next t

/-- Element `u` may act on the words at its heads: it is an actor without a firing in progress, and its heads raise no fault
(R229, R231). -/
def Idle (s : State) (u : Nat) (e : Elem) : Prop :=
  s.elems[u]? = some e ∧ e.active = true ∧ e.busy = false ∧ e.role = .actor ∧ headFault e = none

/-- Element `u` is a record queue that may act, and the words at its heads raise no fault (R280, R282). -/
def Dealer (s : State) (u : Nat) (e : Elem) : Prop :=
  s.elems[u]? = some e ∧ e.active = true ∧ e.role = .recq ∧ e.parked = false ∧ recqFault e = none

/-- Word `w` is published on an output: it is in flight behind the words published before, and a slot is taken (R69). -/
def Sent (w : CWord) (x y : OutChan) : Prop := y.flight = x.flight ++ [.word w 0] ∧ y.free + 1 = x.free

/-- No region is passing its reset steps (R390). -/
def NoReset (s : State) : Prop := ∀ p ∈ s.regions, p.2.stt ≠ 5

/-- The bytes of 64 from `base` are those of a payload. -/
def Granule (t : State) (base : Nat) (v : Payload) : Prop := ∀ k < 64, memGet t.mem (base + k) = v.extractLsb' (8 * k) 8

-- Checks and waits -------------------------------------------------------------------------------------------------------

/-- The checks of R44 on the operands that an instruction uses pass, no other operand is illegal, and its waits are met
(R71-R73). -/
def Legal (e : Elem) (f : Fields) (u : Uses) (bad : Option (BitVec 10)) : Prop :=
  waitsOk u f = true ∧ badSrc u e f = none ∧ bad = none ∧ ready u e f = true

/-- The resolved type (R29). -/
def typeIn (e : Elem) (f : Fields) (u : Uses) : Nat := resolve e f.ty (usedDes u f)

/-- The class may execute integer and mask instructions (R63). -/
def IntUnit (e : Elem) : Prop := e.cls ≠ .ra

/-- The class may execute float instructions (R63). -/
def FloatUnit (e : Elem) : Prop := e.cls = .ve ∨ e.cls = .fc

/-- The class may execute the instructions of agents (R63). -/
def Agent (e : Elem) : Prop := e.cls = .ag ∨ e.cls = .fc

-- Destinations -----------------------------------------------------------------------------------------------------------

/-- A destination is written lane by lane: an active lane holds a value that `R` allows it, another keeps what it held; PZ
and TN are those of R22, R86 and R87; the flags `fl` are ORed into the sticky register; nothing else changes but the place. -/
def LanesOn (act : Nat → Bool) (whole : Bool) (i : Instr) (s : State) (e : Elem) (f : Fields) (srcs : List Reg) (fl : Flags)
    (R : Nat → Lane → Prop) : Prop :=
  ∃ v : Reg, Completes i s e s (writeDes (e.raise fl) f.d v)
    ∧ (∀ n < 16, if act n then R n (v.pay.lane n) else v.pay.lane n = (readDes s e f.d).pay.lane n)
    ∧ v.pz = destPz e f srcs (readDes s e f.d) whole ∧ v.tn = destTn e f srcs (readDes s e f.d) whole

/-- As `LanesOn`, on the active lanes of R42. -/
def Lanes (i : Instr) (s : State) (e : Elem) (f : Fields) (srcs : List Reg) (fl : Flags) (R : Nat → Lane → Prop) : Prop :=
  LanesOn (laneActive e f) (allActive e f) i s e f srcs fl R

/-- The elements of a lane in a format are given by `g` (R23). -/
def Elems (fm : Fmt) (g : Nat → Nat → Nat) (n : Nat) (x : Lane) : Prop := ∀ j < fm.perLane, elemOf fm x j = g n j

/-- The bits of a mask are written on the active lanes; its PZ and TN are those of R22, R86 and R87. -/
def MaskLanes (i : Instr) (s : State) (e : Elem) (f : Fields) (srcs : List Reg) (fl : Flags) (R : Nat → Bool) : Prop :=
  ∃ m : Mask, Completes i s e s ((e.raise fl).setMask (maskNo f.d) m)
    ∧ (∀ n < 16, m.bits.getLsbD n = if laneActive e f n then R n else (e.mask (maskNo f.d)).bits.getLsbD n)
    ∧ m.pz = (srcs.any Reg.pz || (e.mask f.pm.toNat).pz || (!allActive e f && (e.mask (maskNo f.d)).pz) || e.flowP)
    ∧ m.tn = (srcs.any Reg.tn || (e.mask f.pm.toNat).tn || (!allActive e f && (e.mask (maskNo f.d)).tn) || e.flowT)

/-- Element `j` of lane `n` of an operand. -/
def elAt (r : Reg) (fm : Fmt) (n j : Nat) : Nat := elemOf fm (r.pay.lane n) j

/-- Sixteen values combined by the fixed pairwise tree of R41. -/
def Tree16 {α : Type} (c : α → α → α) (v : Nat → α) : α :=
  let pair := fun (w : Nat → α) k => c (w (2 * k)) (w (2 * k + 1))
  pair (pair (pair (pair v))) 0

-- Memory -------------------------------------------------------------------------------------------------------------------

/-- The canonical form of the memory of the module (log 4). -/
def Canonical (s : State) : Prop := memWf s.mem = true

/-- Every byte of memory reads as before. -/
def SameMemory (s t : State) : Prop := ∀ a, memGet t.mem a = memGet s.mem a

/-- Every byte outside `n` bytes from `base` reads as before. -/
def SameOutside (base n : Nat) (s t : State) : Prop := ∀ a, a < base ∨ base + n ≤ a → memGet t.mem a = memGet s.mem a

end Sys2Proof.Claim
end

