-- ==== Sys2Proof/Certificates/Slice0/Obligations.lean ====
section
/-! DEFINITION. The statements about the model, by the numbered rules of spec/. A statement of several parts names each part in
`Sys2Proof.Claim`. -/

open Sys2Proof Sys2Proof.Machine Sys2Proof.Claim
-- Integer instructions (spec 04) -------------------------------------------------------------------------------------------

/-- R106, R107, R37, R88: an integer instruction leaves in each element of each active lane its function of the elements of
its sources, wrapped to the element width, or clamped in variant 1 of those that have `.sat`. -/
def Obligations.IntegerArithmetic : Prop := ∀ (s : State) (e : Elem) (f : Fields) (fm : Fmt),
  Runs s e → IntUnit e → f.ln ≠ 3 → f.var.toNat ≤ 1 →
  (let k := fun (v : Int) => fm.wrap (if f.var = 1 then fm.clamp v else v)
   let u := decide (f.var = 1)
   let a := srcA s e f
   let b := srcB s e f
   let c := srcC s e f
   let x := fun n j => elemInt fm false (elAt a fm n j)
   let y := fun n j => elemInt fm false (elAt b fm n j)
   let z := fun n j => elemInt fm false (elAt c fm n j)
   let xu := fun n j => elemInt fm u (elAt a fm n j)
   let yu := fun n j => elemInt fm u (elAt b fm n j)
   (Legal e f usesAB (badDst e f) → Fmt.ofCode (typeIn e f usesAB) = some fm → typeIn e f usesAB ≤ 4 →
      Lanes (.add f) s e f [a, b] 0 (Elems fm (fun n j => k (x n j + y n j)))
      ∧ Lanes (.sub f) s e f [a, b] 0 (Elems fm (fun n j => k (x n j - y n j)))
      ∧ Lanes (.mul f) s e f [a, b] 0 (Elems fm (fun n j => k (x n j * y n j)))
      ∧ Lanes (.mulh f) s e f [a, b] 0 (Elems fm (fun n j => fm.wrap (xu n j * yu n j / 2 ^ fm.bits)))
      ∧ Lanes (.div f) s e f [a, b] 0 (Elems fm (fun n j => fm.wrap (if yu n j = 0 then -1 else (xu n j).tdiv (yu n j))))
      ∧ Lanes (.rem f) s e f [a, b] 0 (Elems fm (fun n j => fm.wrap ((xu n j).tmod (yu n j))))
      ∧ Lanes (.min f) s e f [a, b] 0 (Elems fm (fun n j => fm.wrap (min (xu n j) (yu n j))))
      ∧ Lanes (.max f) s e f [a, b] 0 (Elems fm (fun n j => fm.wrap (max (xu n j) (yu n j)))))
   ∧ (Legal e f usesA (badDst e f) → Fmt.ofCode (typeIn e f usesA) = some fm → typeIn e f usesA ≤ 4 →
      Lanes (.abs f) s e f [a] 0 (Elems fm (fun n j => k |x n j|))
      ∧ Lanes (.neg f) s e f [a] 0 (Elems fm (fun n j => k (- x n j))))
   ∧ (Legal e f usesABC (badDst e f) → Fmt.ofCode (typeIn e f usesABC) = some fm → typeIn e f usesABC ≤ 4 →
      Lanes (.mad f) s e f [a, b, c] 0 (Elems fm (fun n j => k (x n j * y n j + z n j)))))

/-- R106, R108: the bitwise instructions act on whole lanes; a shift by the width or more leaves zero, or the sign in `sar`;
the rotation is modulo the width; `clz` and `popc` count within the element. -/
def Obligations.BitsAndShifts : Prop := ∀ (s : State) (e : Elem) (f : Fields) (fm : Fmt),
  Runs s e → IntUnit e → f.ln ≠ 3 →
  (let a := srcA s e f
   let b := srcB s e f
   let x := fun n j => elAt a fm n j
   let w := fm.bits
   let u := if f.var = 1 then usesA else usesAB
   let srcs := if f.var = 1 then [a] else [a, b]
   let q := fun n j => if f.var = 1 then f.imm.toNat % 64 else elAt b fm n j
   (Legal e f usesAB (badDst e f) → f.var = 0 → typeIn e f usesAB ≤ 12 →
      Lanes (.and f) s e f [a, b] 0 (fun n v => ∀ k, v.getLsbD k = ((a.pay.lane n).getLsbD k && (b.pay.lane n).getLsbD k))
      ∧ Lanes (.or f) s e f [a, b] 0 (fun n v => ∀ k, v.getLsbD k = ((a.pay.lane n).getLsbD k || (b.pay.lane n).getLsbD k))
      ∧ Lanes (.xor f) s e f [a, b] 0 (fun n v => ∀ k, v.getLsbD k = ((a.pay.lane n).getLsbD k ^^ (b.pay.lane n).getLsbD k))
      ∧ Lanes (.andn f) s e f [a, b] 0
          (fun n v => ∀ k < 32, v.getLsbD k = ((a.pay.lane n).getLsbD k && !(b.pay.lane n).getLsbD k)))
   ∧ (Legal e f u (badDst e f) → f.var.toNat ≤ 1 → Fmt.ofCode (typeIn e f u) = some fm → typeIn e f u ≤ 4 →
      Lanes (.shl f) s e f srcs 0 (Elems fm (fun n j => if w ≤ q n j then 0 else x n j * 2 ^ q n j % 2 ^ w))
      ∧ Lanes (.shr f) s e f srcs 0 (Elems fm (fun n j => if w ≤ q n j then 0 else x n j / 2 ^ q n j))
      ∧ Lanes (.sar f) s e f srcs 0 (Elems fm (fun n j => fm.wrap (signedOf w (x n j) / 2 ^ min (q n j) w)))
      ∧ Lanes (.rot f) s e f srcs 0
          (Elems fm (fun n j => x n j * 2 ^ (q n j % w) % 2 ^ w + x n j / 2 ^ (w - q n j % w))))
   ∧ (Legal e f usesA (badDst e f) → f.var = 0 → Fmt.ofCode (typeIn e f usesA) = some fm → typeIn e f usesA ≤ 4 →
      Lanes (.clz f) s e f [a] 0 (Elems fm (fun n j => w - bitLen (x n j)))
      ∧ Lanes (.popc f) s e f [a] 0 (Elems fm (fun n j => (List.range w).countP (fun k => (x n j).testBit k))))
   ∧ (2 ≤ f.var.toNat → Traps (.shl f) s e .instr (wordOf 0x2F f) ∧ Traps (.shr f) s e .instr (wordOf 0x30 f)
        ∧ Traps (.sar f) s e .instr (wordOf 0x31 f) ∧ Traps (.rot f) s e .instr (wordOf 0x32 f))
   ∧ (f.var ≠ 0 → Traps (.clz f) s e .instr (wordOf 0x33 f) ∧ Traps (.popc f) s e .instr (wordOf 0x34 f)))

/-- R109, R111 to R115: moves, bit fields, packing and the permutations of lanes. -/
def Obligations.MovesAndLanes : Prop := ∀ (s : State) (e : Elem) (f : Fields),
  Runs s e → IntUnit e → f.ln ≠ 3 →
  (let a := srcA s e f
   let b := srcB s e f
   let old := readDes s e f.d
   let v := f.var.toNat
   let p := f.imm.toNat % 32
   let q := f.imm.toNat / 32 % 64
   (Legal e f usesA (badDst e f) → typeIn e f usesA ≤ 12 →
      (v = 0 → Lanes (.mov f) s e f [a] 0 (fun n x => x = a.pay.lane n))
      ∧ (v = 0 → Lanes (.bcst f) s e f [a] 0 (fun _ x => x = a.pay.lane (f.imm.toNat % 16)))
      ∧ (1 ≤ v ∧ v ≤ 2 → Lanes (.shuf f) s e f [a] 0
          (fun n x => x = a.pay.lane (if v = 1 then (n + f.imm.toNat % 16) % 16 else n ^^^ (f.imm.toNat % 16))))
      ∧ (v ≤ 3 → Lanes (.unpk f) s e f [a] 0 (fun n x =>
          (v = 0 → x.toInt = signedOf 16 (elemAt .i16 a.pay (16 * (f.imm.toNat % 2) + n)))
          ∧ (v = 1 → x.toNat = elemAt .i16 a.pay (16 * (f.imm.toNat % 2) + n))
          ∧ (v = 2 → x.toInt = signedOf 8 (elemAt .i8 a.pay (16 * (f.imm.toNat % 4) + n)))
          ∧ (v = 3 → x.toNat = elemAt .i8 a.pay (16 * (f.imm.toNat % 4) + n)))))
   ∧ (Legal e f usesAB (badDst e f) → typeIn e f usesAB ≤ 12 →
      (v = 0 → Lanes (.shuf f) s e f [a, b] 0 (fun n x => x = a.pay.lane ((b.pay.lane n).toNat % 16)))
      ∧ (v = 0 → isMaskSrc f.c = true → Lanes (.sel f) s e f [a, b, maskReg (e.mask (maskNo f.c))] 0
          (fun n x => x = if (e.mask (maskNo f.c)).bits.getLsbD n then a.pay.lane n else b.pay.lane n))
      ∧ (v ≤ 2 → Lanes (.pack f) s e f [a, b] 0 (Elems .i16 (fun n j =>
          (let x := (if 2 * n + j < 16 then a.pay else b.pay).lane ((2 * n + j) % 16)
           let y : Int := if v = 0 then x.toInt else if v = 1 then max (-32768) (min 32767 x.toInt) else max 0 (min 65535 x.toInt)
           (y % 65536).toNat))))
      ∧ (3 ≤ v ∧ v ≤ 5 → Lanes (.pack f) s e f [a, b] 0 (Elems .i8 (fun n j =>
          (let x := signedOf 16 (elemAt .i16 (if 4 * n + j < 32 then a.pay else b.pay) ((4 * n + j) % 32))
           let y : Int := if v = 3 then x else if v = 4 then max (-128) (min 127 x) else max 0 (min 255 x)
           (y % 256).toNat)))))
   ∧ (Legal e f usesD (badDst e f) → typeIn e f usesD ≤ 12 → v ≤ 2 →
      Lanes (.movi f) s e f (if f.var = 1 then [old] else []) 0 (fun n x =>
        (v = 0 → x.toNat = f.imm.toNat % 65536)
        ∧ (v = 1 → x.toNat = f.imm.toNat % 65536 * 65536 + (old.pay.lane n).toNat % 65536)
        ∧ (v = 2 → x.toInt = f.imm.toInt)))
   ∧ (Legal e f usesA (badDst e f) → 1 ≤ typeIn e f usesA ∧ typeIn e f usesA ≤ 2 → v ≤ 1 → q ≠ 0 → p + q ≤ 32 →
      Lanes (.bfx f) s e f [a] 0 (fun n x => ∀ k < 32, x.getLsbD k =
        if k < q then (a.pay.lane n).getLsbD (p + k) else (v = 1 && (a.pay.lane n).getLsbD (p + q - 1))))
   ∧ (Legal e f usesAB (badDst e f) → 1 ≤ typeIn e f usesAB ∧ typeIn e f usesAB ≤ 2 → v = 0 → q ≠ 0 → p + q ≤ 32 →
      Lanes (.bfi f) s e f [a, b] 0 (fun n x => ∀ k < 32, x.getLsbD k =
        if p ≤ k ∧ k < p + q then (a.pay.lane n).getLsbD (k - p) else (b.pay.lane n).getLsbD k)))

/-- R110, R100, R101, R96: the instructions that write a mask. That `cmp` ignores `wd` is the model's choice (log 66). -/
def Sys2Proof.Claim.MaskInstructions : Prop := ∀ (s : State) (e : Elem) (f : Fields),
  Runs s e → isMask f.d = true →
  (let a := srcA s e f
   let b := srcB s e f
   let v := f.var.toNat
   let ma := e.mask (maskNo f.a)
   let mb := e.mask (maskNo f.b)
   (IntUnit e → f.ln ≠ 3 → Legal e { f with wd := 0 } usesAB (badMask f) → 1 ≤ typeIn e f usesAB ∧ typeIn e f usesAB ≤ 2 → v ≤ 9 →
      MaskLanes (.cmp f) s e f [a, b] 0 (fun n =>
        (let x := a.pay.lane n
         let y := b.pay.lane n
         if v = 0 then x = y else if v = 1 then x ≠ y else if v = 2 then x.toInt < y.toInt else if v = 3 then x.toInt ≤ y.toInt
         else if v = 4 then y.toInt < x.toInt else if v = 5 then y.toInt ≤ x.toInt else if v = 6 then x.toNat < y.toNat
         else if v = 7 then x.toNat ≤ y.toNat else if v = 8 then y.toNat < x.toNat else y.toNat ≤ x.toNat)))
   ∧ (f.ln ≠ 3 → isMaskSrc f.a = true → isMaskSrc f.b = true → v ≤ 3 →
      MaskLanes (.mskop f) s e f [maskReg ma, maskReg mb] 0 (fun n =>
        if v = 0 then ma.bits.getLsbD n && mb.bits.getLsbD n else if v = 1 then ma.bits.getLsbD n || mb.bits.getLsbD n
        else if v = 2 then ma.bits.getLsbD n ^^ mb.bits.getLsbD n else ma.bits.getLsbD n && !mb.bits.getLsbD n))
   ∧ (f.ln ≠ 3 → isMaskSrc f.a = true → v = 4 → MaskLanes (.mskop f) s e f [maskReg ma] 0 (fun n => !ma.bits.getLsbD n))
   ∧ (f.ln ≠ 3 → v = 0 → srcOk e f.a = true → (f.wa = 0 ∨ isSlot f.a = true) → inWait e f.a f.wa = true →
      MaskLanes (.mskmv f) s e f [a] 0 (fun n => a.pay.lane n ≠ 0))
   ∧ (f.ln ≠ 3 → v = 2 → MaskLanes (.mskmv f) s e f [] 0 (fun n => f.imm.getLsbD n))
   ∧ (e.cls ≠ .fc → v ≤ 4 → isSlot f.a = true → slotOk e (desChan f.a) (desOfs f.a) = true → inWait e f.a f.wa = true →
      (let w := e.slot (desChan f.a) (desOfs f.a)
       MaskLanes (.sbt f) s e { f with ln := 0 } [wordReg w] 0 (fun _ =>
        if v = 0 then w.isData && w.lr else if v = 1 then w.isData && w.ls else if v = 2 then w.isCtl
        else if v = 3 then w.isData else w.isCtl && w.kind.toNat == f.imm.toNat))))

/-- R116, R41, R38, R42: a reduction combines sixteen lanes, an inactive one entering as zero, in the fixed pairwise tree, and writes one
value to every active lane: the sum modulo the width, the smaller or the larger of the integer types; of the float types, which a VE
and a core have, a sum rounded at every node, whose flags are raised where some lane is active, and the `fmin` or `fmax` of every
node; `.and`, `.or` and `.xor` work on whole lanes of any type. A float type on an SE or an AG is an illegal type, and a variant above
5 an illegal instruction. -/
def Obligations.IntegerReductions : Prop := ∀ (s : State) (e : Elem) (f : Fields) (fm : Fmt),
  Runs s e → IntUnit e →
  (let a := srcA s e f
   let t := typeIn e f usesA
   let v := f.var.toNat
   let x := fun n => if laneActive e f n then a.pay.lane n else 0
   let num := fun j n => elemInt fm false (elemOf fm (x n) j)
   let codes := fun j n => ((elemOf fm (x n) j, 0) : Nat × Flags)
   let sum := fun (p q : Nat × Flags) => (let r := (fm.decode p.1).add (fm.decode q.1)
                                          let z := roundTo fm r.1 .rne
                                          ((z.1, p.2 ||| q.2 ||| r.2 ||| z.2) : Nat × Flags))
   let fsum := fun j => Tree16 sum (codes j)
   (f.ln ≠ 3 → Legal e f usesA (badDst e f) → Fmt.ofCode t = some fm →
      (1 ≤ t ∧ t ≤ 4 →
        (v = 0 → Lanes (.lred f) s e f [a] 0 (Elems fm (fun _ j => fm.wrap (((List.range 16).map (num j)).sum))))
        ∧ (v = 1 → Lanes (.lred f) s e f [a] 0 (Elems fm (fun _ j => fm.wrap (Tree16 min (num j)))))
        ∧ (v = 2 → Lanes (.lred f) s e f [a] 0 (Elems fm (fun _ j => fm.wrap (Tree16 max (num j))))))
      ∧ (5 ≤ t ∧ t ≤ 7 → FloatUnit e →
        (v = 0 → Lanes (.lred f) s e f [a] (laneFlags (laneActive e f) (fun _ => flagsBelow (fun j => (fsum j).2) fm.perLane))
          (Elems fm (fun _ j => (fsum j).1 % 2 ^ fm.bits)))
        ∧ (v = 1 → Lanes (.lred f) s e f [a] 0
            (Elems fm (fun _ j => Tree16 (pickCode fm false false) (fun n => elemOf fm (x n) j) % 2 ^ fm.bits)))
        ∧ (v = 2 → Lanes (.lred f) s e f [a] 0
            (Elems fm (fun _ j => Tree16 (pickCode fm true false) (fun n => elemOf fm (x n) j) % 2 ^ fm.bits)))))
   ∧ (f.ln ≠ 3 → Legal e f usesA (badDst e f) → 1 ≤ t ∧ t ≤ 12 → (5 ≤ t ∧ t ≤ 7 → FloatUnit e) →
      (v = 3 → Lanes (.lred f) s e f [a] 0 (fun _ r => ∀ k < 32, r.getLsbD k = Tree16 Bool.and (fun n => (x n).getLsbD k)))
      ∧ (v = 4 → Lanes (.lred f) s e f [a] 0 (fun _ r => ∀ k < 32, r.getLsbD k = Tree16 Bool.or (fun n => (x n).getLsbD k)))
      ∧ (v = 5 → Lanes (.lred f) s e f [a] 0 (fun _ r => ∀ k < 32, r.getLsbD k = Tree16 Bool.xor (fun n => (x n).getLsbD k))))
   ∧ (f.ln ≠ 3 → waitsOk usesA f = true → v ≤ 5 → e.cls = .se ∨ e.cls = .ag → 5 ≤ t ∧ t ≤ 7 →
      Traps (.lred f) s e (.type t) (wordOf 0x3F f))
   ∧ (5 < v → Traps (.lred f) s e .instr (wordOf 0x3F f)))

-- Float instructions, conversion and scaling (spec 05) --------------------------------------------------------------------------

/-- R120 to R122, R126, R35, R38: each element of each active lane is the one rounding of the exact function of the source
elements; the flags of the function and of the rounding are ORed into the sticky register for the active lanes only. -/
def Obligations.FloatArithmetic : Prop := ∀ (s : State) (e : Elem) (f : Fields) (fm : Fmt),
  Runs s e → FloatUnit e → f.ln ≠ 3 →
  (let a := srcA s e f
   let b := srcB s e f
   let c := srcC s e f
   let x := fun n j => fm.decode (elAt a fm n j)
   let y := fun n j => fm.decode (elAt b fm n j)
   let z := fun n j => fm.decode (elAt c fm n j)
   let code := fun (r : Nat → Nat → Machine.Num × Flags) n j => (roundTo fm (r n j).1 .rne).1
   let flags := fun (r : Nat → Nat → Machine.Num × Flags) =>
     laneFlags (laneActive e f) (fun n => flagsBelow (fun j => (r n j).2 ||| (roundTo fm (r n j).1 .rne).2) fm.perLane)
   let gives := fun (i : Instr) (srcs : List Reg) (r : Nat → Nat → Machine.Num × Flags) =>
     Lanes i s e f srcs (flags r) (Elems fm (fun n j => code r n j % 2 ^ fm.bits))
   (Legal e f usesAB (badReg e f) → f.var = 0 → Fmt.ofCode (typeIn e f usesAB) = some fm → floatTypes (typeIn e f usesAB) = true →
      gives (.fadd f) [a, b] (fun n j => (x n j).add (y n j))
      ∧ gives (.fsub f) [a, b] (fun n j => (x n j).add (y n j).negate)
      ∧ gives (.fmul f) [a, b] (fun n j => (x n j).mul (y n j)))
   ∧ (Legal e f usesA (badReg e f) → f.var = 0 → Fmt.ofCode (typeIn e f usesA) = some fm → floatTypes (typeIn e f usesA) = true →
      gives (.frcp f) [a] (fun n j => Machine.Num.one.div (x n j))
      ∧ gives (.frsq f) [a] (fun n j => frsqNum (x n j))
      ∧ gives (.fex2 f) [a] (fun n j => fex2Num (x n j))
      ∧ gives (.flg2 f) [a] (fun n j => flg2Num (x n j)))
   ∧ (Legal e { f with wb := 0 } usesABC (badReg e f) → f.var.toNat ≤ 1 → Fmt.ofCode (typeIn e f usesABC) = some fm →
      floatTypes (typeIn e f usesABC) = true →
      gives (.fma f) [a, b, c] (fun n j =>
        (let p := (x n j).mul (y n j)
         let r := (if f.var = 1 then p.1.negate else p.1).add (z n j)
         (r.1, p.2 ||| r.2)))))

/-- R123, R124, R127, R129: minimum, maximum, sign, class and rounding to an integral value. -/
def Sys2Proof.Claim.FloatBits : Prop := ∀ (s : State) (e : Elem) (f : Fields) (fm : Fmt),
  Runs s e → FloatUnit e → f.ln ≠ 3 →
  (let a := srcA s e f
   let b := srcB s e f
   let x := fun n j => elAt a fm n j
   let y := fun n j => elAt b fm n j
   (Legal e f usesAB (badReg e f) → f.var.toNat ≤ 1 → Fmt.ofCode (typeIn e f usesAB) = some fm →
      floatTypes (typeIn e f usesAB) = true →
      Lanes (.fmin f) s e f [a, b] 0 (Elems fm (fun n j => pickCode fm false (f.var == 1) (x n j) (y n j) % 2 ^ fm.bits))
      ∧ Lanes (.fmax f) s e f [a, b] 0 (Elems fm (fun n j => pickCode fm true (f.var == 1) (x n j) (y n j) % 2 ^ fm.bits)))
   ∧ (Legal e f usesA (badReg e f) → f.var = 0 → Fmt.ofCode (typeIn e f usesA) = some fm → floatTypes (typeIn e f usesA) = true →
      Lanes (.fabs f) s e f [a] 0 (Elems fm (fun n j => x n j % 2 ^ (fm.bits - 1)))
      ∧ Lanes (.fneg f) s e f [a] 0
          (Elems fm (fun n j => if x n j < 2 ^ (fm.bits - 1) then x n j + 2 ^ (fm.bits - 1) else x n j - 2 ^ (fm.bits - 1)))
      ∧ Lanes (.fcls f) s e f [a] 0 (Elems fm (fun n j => classBits fm (x n j)))
      ∧ ∀ m, rmode f = some m →
          Lanes (.frnd f) s e f [a]
            (laneFlags (laneActive e f) (fun n => flagsBelow (fun j => (roundIntegral (fm.decode (x n j)) m).2) fm.perLane))
            (Elems fm (fun n j => (roundTo fm (roundIntegral (fm.decode (x n j)) m).1 .rne).1 % 2 ^ fm.bits))))

/-- R125, R128, R134: the float comparison into a mask, the sticky register, and the scale registers. That `fcmp` ignores `wd` (log 66), `fsts` also
`ln`, and `scl` ignores `wa` (log 124) is the model's choice. -/
def Sys2Proof.Claim.FloatCompareAndStatus : Prop := ∀ (s : State) (e : Elem) (f : Fields), Runs s e → FloatUnit e →
  (let g : Fields := { f with ln := 0 }
   let h : Fields := { f with ln := 0, wd := 0 }
   (∀ fm, Fmt.ofCode (typeIn e f usesAB) = some fm → floatTypes (typeIn e f usesAB) = true → isMask f.d = true →
      f.var.toNat ≤ 7 → Legal e h usesAB none →
      (let j := f.imm.toNat % fm.perLane
       let x := fun n => fm.decode (elAt (readDes s e f.a) fm n j)
       let y := fun n => fm.decode (elAt (readDes s e f.b) fm n j)
       let un := fun n => (x n).isNaN || (y n).isNaN
       let v := f.var.toNat
       MaskLanes (.fcmp f) s e g [readDes s e f.a, readDes s e f.b]
         (laneFlags (laneActive e g) (fun n => if 2 ≤ v ∧ v ≤ 5 ∧ un n = true then flNV else 0))
         (fun n => if v = 0 then (x n).eq (y n) else if v = 1 then !(x n).eq (y n) else if v = 2 then (x n).lt (y n)
            else if v = 3 then (x n).lt (y n) || (x n).eq (y n) else if v = 4 then (y n).lt (x n)
            else if v = 5 then (y n).lt (x n) || (x n).eq (y n) else if v = 6 then un n else !un n)))
   ∧ (7 < f.var.toNat → Traps (.fcmp f) s e .instr (wordOf 0x48 f))
   ∧ (f.var.toNat ≤ 7 → isMask f.d = false → waitsOk usesAB h = true → badSrc usesAB e f = none →
      floatTypes (typeIn e f usesAB) = true → Traps (.fcmp f) s e (.operand f.d.toNat) (wordOf 0x48 f))
   ∧ (f.var = 0 → isScale f.d = false → Traps (.scl f) s e (.operand f.d.toNat) (wordOf 0x53 f))
   ∧ (f.var = 1 → isScale f.d = false → (f.wa = 0 ∨ isSlot f.a = true) → srcOk e f.a = true →
      Traps (.scl f) s e (.operand f.d.toNat) (wordOf 0x53 f))
   ∧ (f.var = 2 → Completes (.fsts f) s e s { e with sticky := e.sticky &&& ~~~(f.imm.setWidth 5) })
   ∧ (f.var = 0 → badReg e f = none → outWait e f.d 0 = true →
      Lanes (.fsts f) s e h [] 0 (fun _ x => x.toNat = e.sticky.toNat))
   ∧ (f.var = 1 → badReg e f = none → outWait e f.d 0 = true →
      ∃ v : Reg, Completes (.fsts f) s e s { writeDes e f.d v with sticky := 0 }
        ∧ ∀ n < 16, v.pay.lane n = if laneActive e h n then e.sticky.setWidth 32 else (readDes s e f.d).pay.lane n)
   ∧ (f.var = 0 → isScale f.d = true →
      Completes (.scl f) s e s
        { e with x := e.x.setIfInBounds (f.d.toNat % 8) { ts := f.imm.setWidth 16, pz := e.flowP, tn := e.flowT } })
   ∧ (f.var = 1 → isScale f.d = true → srcOk e f.a = true → inWait e f.a 0 = true →
      (let a := readDes s e f.a
       Completes (.scl f) s e s
        { e with x := e.x.setIfInBounds (f.d.toNat % 8)
                   { ts := (a.pay.lane 0).setWidth 16, pz := a.pz || e.flowP, tn := a.tn || e.flowT } })))

/-- R130 to R133, R135, R39: conversion, dequantisation, quantisation and scans; only the part that `part` names is written, and of it the
active lanes. -/
def Obligations.Conversions : Prop := ∀ (s : State) (e : Elem) (f : Fields) (src dst : Fmt) (m : Mode),
  Runs s e → FloatUnit e →
  (let a := srcA s e f
   let b := srcB s e f
   let u := if f.b = 0x0FF then usesA else usesAB
   let more := if f.b = 0x0FF then [] else [b]
   let bs := fun (i : Nat) => if f.b = 0x0FF then Machine.Num.one else Fmt.decode .e5m2 ((b.pay.lane i).toNat % 256)
   let sc := scalingOf e f.a (typeIn e f usesAB)
   let p := partNo f
   let n := src.perLane
   let k := dst.perLane
   let act := fun i => laneActive e f i && inPart n k p i
   let whole := allActive e f && decide (k ≤ n)
   let el := fun i j => elemAt src a.pay (partElem n k p i j)
   (f.ln ≠ 3 → Legal e f usesA (badReg e f) → Fmt.ofCode (typeIn e f usesA) = some src → typeIn e f usesA ≤ 7 →
      Fmt.ofCode f.var.toNat = some dst → f.var.toNat ≤ 11 → rmode f = some m → partOk n k p = true →
      LanesOn act whole (.cvt f) s e f [a]
        (laneFlags act (fun i => flagsBelow (fun j => (roundTo dst (src.decode (el i j)) m).2) k))
        (Elems dst (fun i j => (roundTo dst (src.decode (el i j)) m).1 % 2 ^ dst.bits)))
   ∧ (f.ln ≠ 3 → (f.wb = 0 ∨ isSlot f.b = true) → Legal e f u (if f.b ≠ 0x0FF ∧ f.var.toNat < 10 then some f.b else badReg e f) →
      Fmt.ofCode (typeIn e f usesAB) = some src → typeIn e f usesAB = 5 ∨ typeIn e f usesAB = 6 →
      Fmt.ofCode f.var.toNat = some dst → [3, 4, 8, 9, 10, 11].contains f.var.toNat = true → rmode f = some m → partOk n k p = true →
      (let r := fun i j => quantElem dst m (src.decode (el i j)) (bs i) (scaleNum e (xsel f))
       LanesOn act whole (.qnt f) s e f ([a, scaleReg e (xsel f)] ++ more)
        (laneFlags act (fun i => flagsBelow (fun j => (r i j).2) k)) (Elems dst (fun i j => (r i j).1 % 2 ^ dst.bits))))
   ∧ (f.ln ≠ 3 → (f.wb = 0 ∨ isSlot f.b = true) → f.var = 0 → dst = .bf16 → awaitCompanion e sc = .ok () →
      Legal e f u (if f.b ≠ 0x0FF ∧ (typeIn e f usesAB < 10 ∨ (isSlot f.a = true ∧ e.hasCmp (desChan f.a) = true)) then some f.b
        else badReg e f) →
      Fmt.ofCode (typeIn e f usesAB) = some src → weightTypes (typeIn e f usesAB) = true → partOk n 2 p = true →
      (let r := fun i j => weightElem e src a.pay sc bs (scaleNum e (xsel f)) (partElem n 2 p i j)
       LanesOn act whole (.dq f) s e f ([a] ++ scalingSrcs e sc [scaleReg e (xsel f)] ++ more)
        (laneFlags act (fun i => flagsBelow (fun j => (r i j).2) k)) (Elems dst (fun i j => (r i j).1 % 2 ^ dst.bits))))
   ∧ (Legal e { f with ln := 0 } usesA (badReg e f) → Fmt.ofCode (typeIn e f usesA) = some src → f.var.toNat ≤ 2 →
      reduceTypes e.cls f.var.toNat (typeIn e f usesA) = true →
      (let g : Fields := { f with ln := 0 }
       let r := scanAt src f.var.toNat (laneActive e g) (readDes s e f.a).pay
       Lanes (.lscan f) s e g [readDes s e f.a]
        (laneFlags (laneActive e g) (fun i => flagsBelow (fun j => (r i j).2) src.perLane))
        (Elems src (fun i j => (r i j).1 % 2 ^ src.bits)))))

-- Tensor instructions (spec 05) ----------------------------------------------------------------------------------------------

/-- R137, R40, R31, R42: `.f32` adds one exact sum of the products of all active lanes and C[0] to every active lane; `.f32r`
one for each lane and C of the lane; the integer variants wrap in 32 bits. b may be a register, or a channel whose weights are
decoded in line, of which `part` names the words. A result with PZ raises poison consumption after it is written (R136). -/
def Obligations.DotProduct : Prop := ∀ (s : State) (e : Elem) (f : Fields) (t : Nat),
  Runs s e → e.cls = .ve → f.ln ≠ 3 → Legal e f usesABC (badReg e f) → typeIn e f usesABC = t →
  (let a := srcA s e f
   let b := srcB s e f
   let c := srcC s e f
   let fm := fmtOf t
   let n := fm.perLane
   let v := f.var.toNat
   let inl := (dotB e f t).2
   let fb := fmtOf (dotB e f t).1
   let off := partNo f * 16 * n
   let sc := if v ≤ 1 ∧ inl = true then scalingOf e f.b (dotB e f t).1 else .named
   let srcs := [a, b, c] ++ scalingSrcs e sc []
   let x := fun el => fm.decode (elemAt fm a.pay el)
   let y : Nat → Machine.Num × Flags := fun el =>
     if inl then (let w := weightElem e fb b.pay sc (fun _ => Machine.Num.one) Machine.Num.one el; (Fmt.decode .bf16 w.1, w.2))
     else (fb.decode (elemAt fb b.pay el), 0)
   let xi := fun el => elemInt fm false (elemAt fm a.pay el)
   let yi := fun el => elemInt fm false (elemAt fm b.pay el)
   let term := fun l j => if laneActive e f l then
       (let p := (x (n * l + j)).mul (y (off + (n * l + j))).1; (p.1, (0 : Flags) ||| (y (off + (n * l + j))).2 ||| p.2))
     else (Machine.Num.zero false, 0)
   let terms := fun l => (List.range n).map (term l)
   let pz := destPz e f srcs (readDes s e f.d) (allActive e f)
   let writes := fun (fl : Flags) (R : Nat → Lane → Prop) =>
     ∃ r : Reg, (if pz then EndsIn (.poison 256 f.d.toNat 0) (wordOf 0x60 f) (.dot f) s e s (writeDes (e.raise fl) f.d r)
        else Completes (.dot f) s e s (writeDes (e.raise fl) f.d r))
       ∧ r.pz = pz ∧ ∀ l < 16, if laneActive e f l then R l (r.pay.lane l) else r.pay.lane l = (readDes s e f.d).pay.lane l
   ((t = 5 ∨ t = 6) → (inl = true ∨ (dotB e f t).1 = 5 ∨ (dotB e f t).1 = 6) → n ≤ fb.perLane → partNo f < fb.perLane / n →
      awaitCompanion e sc = .ok () →
      (v = 0 →
        (let sum := sumTerms (Fmt.decode .fp32 (c.pay.lane 0).toNat) ((List.range 16).flatMap terms)
         writes (if someActive e f then sum.2 else 0) (fun _ q => q = BitVec.ofNat 32 sum.1)))
      ∧ (v = 1 →
        (let sum := fun l => sumTerms (Fmt.decode .fp32 (c.pay.lane l).toNat) (terms l)
         writes (laneFlags (laneActive e f) (fun l => (sum l).2)) (fun l q => q = BitVec.ofNat 32 (sum l).1))))
   ∧ (t = 1 ∨ t = 3 ∨ t = 4 → dotBInt e f t = t → partNo f = 0 →
      (v = 2 → writes 0 (fun _ q => q = BitVec.ofInt 32 ((c.pay.lane 0).toInt +
        ((List.range 16).flatMap (fun l => (List.range n).map (fun j =>
          if laneActive e f l then xi (n * l + j) * yi (n * l + j) else 0))).sum)))
      ∧ (v = 3 → writes 0 (fun l q => q = BitVec.ofInt 32 ((c.pay.lane l).toInt +
        ((List.range n).map (fun j => xi (n * l + j) * yi (n * l + j))).sum)))))

/-- R42, R139, R140, R141, R147, R22, R31, R40: a matrix step reads a tile W of 16 × 8 weights at its address and leaves in active lane
8r + n the exact sum of its partial sum and of A(r, k) × W(k, n) over the k whose element of a stands in an active lane, and +0 for
each other; the partial sum comes from c and the sum goes to d, or with `acm` = 1 both are the accumulator word. `mmag` adds the slot of the adapter bank
register that b names to the address. The granules of the tile are sources. -/
def Sys2Proof.Claim.MatrixStep : Prop := ∀ (s : State) (e : Elem) (f0 : Fields) (base : Nat) (extra : List Reg),
  Runs s e → e.cls = .ve →
  (let f : Fields := { f0 with ln := 0 }
   let v := f.var.toNat
   let fm := (tileFmt v).1
   let bytes := (tileFmt v).2
   let act := laneActive e f
   let u : Uses := { usesABC with b := false }
   let a := srcA s e f
   let c := srcC s e f
   let grans := if someActive e f then tileGrans base bytes else []
   let tile : Reg := { pay := 0, pz := (e.store.bits grans).1, tn := (e.store.bits grans).2 }
   let srcs := [a] ++ extra ++ (if v = 0 then [] else [scaleReg e (wxs f)]) ++ [tile]
   let code := fun k n => (let bit := fm.bits * (8 * k + n)
                           memNat e.store.bytes (base + bit / 8) (max 1 (fm.bits / 8)) / 2 ^ (bit % 8) % 2 ^ fm.bits)
   let weight := fun k n => if v = 0 then (code k n, 0) else dequant fm (code k n) unitScale (scaleNum e (wxs f))
   let term := fun l k => (let w := weight k (l % 8)
                           let p := (Fmt.decode .bf16 (elemAt .bf16 a.pay (16 * (l / 8) + k))).mul (Fmt.decode .bf16 w.1)
                           (p.1, w.2 ||| p.2))
   let sum := fun (p : Reg) l => sumTerms (Fmt.decode .fp32 (p.pay.lane l).toNat)
     ((List.range 16).map (fun k => if act (8 * (l / 8) + k / 2) then term l k else (.zero false, 0)))
   let flags := fun p => laneFlags act (fun l => (sum p l).2)
   let old := e.accReg (aix f)
   let s1 := badEvents s e e.store grans
   let e0 := { e with store := e.store.marked grans }
   let step := fun (i : Instr) (op : BitVec 8) =>
     (acm f = false →
        (destPz e f (c :: srcs) (readDes s e f.d) (allActive e f) = false →
          Lanes i s e f (c :: srcs) (flags c) (fun l x => x = BitVec.ofNat 32 (sum c l).1))
        ∧ (destPz e f (c :: srcs) (readDes s e f.d) (allActive e f) = true → ∃ r : Reg,
          EndsIn (.poison 256 f.d.toNat 0) (wordOf op f0) i s e s1 (writeDes (e0.raise (flags c)) f.d r) ∧ r.pz = true
          ∧ ∀ l < 16, r.pay.lane l = if act l then BitVec.ofNat 32 (sum c l).1 else (readDes s e f.d).pay.lane l))
     ∧ (acm f = true → ∃ r : Reg, r.pz = destPz e f (old :: srcs) old true ∧ r.tn = destTn e f (old :: srcs) old true
        ∧ (∀ l < 16, r.pay.lane l = if act l then BitVec.ofNat 32 (sum old l).1 else old.pay.lane l)
        ∧ (destPz e f (old :: srcs) old true = false → Completes i s e s ((e.raise (flags old)).setAcc (aix f) r))
        ∧ (destPz e f (old :: srcs) old true = true →
            EndsIn (.poison (2 ^ aix f) f.d.toNat 0) (wordOf op f0) i s e s1 ((e0.raise (flags old)).setAcc (aix f) r)))
   let ends := if acm f then f.c = 0x0FF ∧ f.d = 0x0FF else badReg e f = none
   v ≤ 4 → ends →
   (extra = [] → base = tadr f → base % bytes = 0 → Legal e f u none → typeIn e f u = 6 → step (.mma f0) 0x61)
   ∧ (∀ ix, ix = ((srcB s e f).pay.lane 0).toNat % 65536 → ix < bankCnt e.ve.abank →
        base = (bankBase e.ve.abank + ix * bankStrd e.ve.abank + tadr f) % 2 ^ 17 → base % bytes = 0 →
        extra = [srcB s e f, { pay := 0, pz := e.ve.abPz, tn := e.ve.abTn }] → (isSlot f.b || isState e f.b) = true →
        Legal e f usesABC none → typeIn e f usesABC = 6 → step (.mmag f0) 0x62))

/-- R139, R141, R44: a variant above 4 and a wait on an operand that is no channel are illegal instructions, an a that is not BF16 an
illegal type, and an address that is no multiple of the tile's size, a c or a d beside an accumulator word, of `mma` and of `mmag`, a b of
`mmag` that is neither slot nor state register, and an index at or above the count of the adapter bank illegal operands; nothing is
done. -/
def Sys2Proof.Claim.MatrixTraps : Prop := ∀ (s : State) (e : Elem) (f0 : Fields), Runs s e → e.cls = .ve →
  (let f : Fields := { f0 with ln := 0 }
   let v := f.var.toNat
   let bytes := (tileFmt v).2
   let u : Uses := { usesABC with b := false }
   let stops := fun (i : Instr) (op : BitVec 8) (u : Uses) =>
     (4 < v ∨ waitsOk u f = false → Traps i s e .instr (wordOf op f0))
     ∧ (v ≤ 4 → waitsOk u f = true → typeIn e f u ≠ 6 → Traps i s e (.type (typeIn e f u)) (wordOf op f0))
   let ix := ((srcB s e f).pay.lane 0).toNat % 65536
   let base := (bankBase e.ve.abank + ix * bankStrd e.ve.abank + tadr f) % 2 ^ 17
   stops (.mma f0) 0x61 u ∧ stops (.mmag f0) 0x62 usesABC
   ∧ (v ≤ 4 → waitsOk u f = true → typeIn e f u = 6 → badSrc u e f = none → tadr f % bytes ≠ 0 →
      Traps (.mma f0) s e (.operand f.a.toNat) (wordOf 0x61 f0))
   ∧ (v ≤ 4 → waitsOk u f = true → typeIn e f u = 6 → badSrc u e f = none → tadr f % bytes = 0 → acm f = true →
      (f.c ≠ 0x0FF → Traps (.mma f0) s e (.operand f.c.toNat) (wordOf 0x61 f0))
      ∧ (f.c = 0x0FF → f.d ≠ 0x0FF → Traps (.mma f0) s e (.operand f.d.toNat) (wordOf 0x61 f0)))
   ∧ (v ≤ 4 → waitsOk usesABC f = true → typeIn e f usesABC = 6 → badSrc usesABC e f = none →
      ((isSlot f.b || isState e f.b) = false → Traps (.mmag f0) s e (.operand f.b.toNat) (wordOf 0x62 f0))
      ∧ ((isSlot f.b || isState e f.b) = true → acm f = true →
        (f.c ≠ 0x0FF → Traps (.mmag f0) s e (.operand f.c.toNat) (wordOf 0x62 f0))
        ∧ (f.c = 0x0FF → f.d ≠ 0x0FF → Traps (.mmag f0) s e (.operand f.d.toNat) (wordOf 0x62 f0))))
   ∧ (v ≤ 4 → Legal e f usesABC none → typeIn e f usesABC = 6 → (isSlot f.b || isState e f.b) = true →
      (if acm f then f.c = 0x0FF ∧ f.d = 0x0FF else badReg e f = none) → bankCnt e.ve.abank ≤ ix ∨ base % bytes ≠ 0 →
      Traps (.mmag f0) s e (.operand f.b.toNat) (wordOf 0x62 f0)))

/-- R142, R143, R144, R145, R136: `bmm` counts, row by row, the bits in which a and the rows of its tile differ or agree, and adds the
counts to c; the requantiser is filled row by row and read column by column, and a full or an unfilled one holds issue. -/
def Obligations.BitMatrixAndRequantiser : Prop := ∀ (s : State) (e : Elem) (f0 : Fields), Runs s e → e.cls = .ve →
  (let f : Fields := { f0 with ln := 0 }
   let a := srcA s e f
   let c := srcC s e f
   let w := e.ve
   let u : Uses := { usesABC with b := false }
   let uq : Uses := { usesA with d := false }
   let grans := if someActive e f then tileGrans (tadr f) 512 else []
   let srcs := [a, c, { pay := 0, pz := (e.store.bits grans).1, tn := (e.store.bits grans).2 }]
   let pz := destPz e f srcs (readDes s e f.d) (allActive e f)
   let one := fun n l k => (let x := (a.pay.lane l).getLsbD k
                            let y := (memNat e.store.bytes (tadr f + 64 * n + 4 * l) 4).testBit k
                            if f.var = 0 then x ^^ y else x && y)
   let row := fun n => if n < 8 then c.pay.lane n + BitVec.ofNat 32
       ((List.range 16).map (fun l => if laneActive e f l then (List.range 32).countP (one n l) else 0)).sum
     else c.pay.lane n
   (f.var.toNat ≤ 1 → tadr f % 512 = 0 → Legal e f u (badReg e f) → typeIn e f u = 12 →
      (pz = false → Lanes (.bmm f0) s e f srcs 0 (fun n x => x = row n))
      ∧ (pz = true → ∃ r : Reg, EndsIn (.poison 256 f.d.toNat 0) (wordOf 0x63 f0) (.bmm f0) s e (badEvents s e e.store grans)
            (writeDes { e with store := e.store.marked grans } f.d r) ∧ r.pz = true
          ∧ ∀ n < 16, r.pay.lane n = if laneActive e f n then row n else (readDes s e f.d).pay.lane n))
   ∧ (1 < f.var.toNat → Traps (.bmm f0) s e .instr (wordOf 0x63 f0))
   ∧ (f.var.toNat ≤ 1 → waitsOk u f = true → typeIn e f u ≠ 12 → Traps (.bmm f0) s e (.type (typeIn e f u)) (wordOf 0x63 f0))
   ∧ (f.var.toNat ≤ 1 → waitsOk u f = true → typeIn e f u = 12 → badSrc u e f = none → tadr f % 512 ≠ 0 →
      Traps (.bmm f0) s e (.operand f.a.toNat) (wordOf 0x63 f0))
   ∧ (f.var = 0 → Legal e f uq none → typeIn e f uq = 5 → w.wcnt < 16 →
      Completes (.tpq f0) s e s { e with ve := { w with
        rows := w.rows.set w.wcnt (mergeLanes (laneActive e f) a.pay.lane (w.rows.getD w.wcnt 0)), wcnt := w.wcnt + 1,
        rqPz := w.rqPz || a.pz || e.flowP, rqTn := w.rqTn || a.tn || e.flowT } })
   ∧ (f.var = 0 → Legal e f uq none → typeIn e f uq = 5 → 16 ≤ w.wcnt → Holds (.tpq f0) s e .count)
   ∧ (f.var = 0 → waitsOk uq f = true → typeIn e f uq ≠ 5 → Traps (.tpq f0) s e (.type (typeIn e f uq)) (wordOf 0x64 f0))
   ∧ (∀ r m, [4, 5, 6, 8, 9].contains f0.var.toNat = true → Fmt.ofCode f0.var.toNat = some r → rmode f0 = some m →
      f0.ln ≠ 3 → (f0.wd = 0 ∨ isOut f0.d = true) →
      (w.wcnt = 16 → 16 < w.rcnt + r.perLane → Traps (.tpqr f0) s e .instr (wordOf 0x65 f0))
      ∧ (badReg e f0 = none → outWait e f0.d f0.wd = true → w.wcnt ≠ 16 → Holds (.tpqr f0) s e .count)
      ∧ (badReg e f0 = none → outWait e f0.d f0.wd = true → w.wcnt = 16 → w.rcnt + r.perLane ≤ 16 →
        (let q := fun i j => quantElem r m (Fmt.decode .fp32
            (Payload.lane (w.rows.getD ((r.perLane * i + j) % 16) 0) (w.rcnt + (r.perLane * i + j) / 16)).toNat) Machine.Num.one
            (scaleNum e (xsel f0))
         let from' : List Reg := [{ pay := 0, pz := w.rqPz, tn := w.rqTn }, scaleReg e (xsel f0)]
         ∃ x : Reg, Completes (.tpqr f0) s e s { writeDes (e.raise (laneFlags (laneActive e f0)
              (fun i => flagsBelow (fun j => (q i j).2) r.perLane))) f0.d x with
              ve := if w.rcnt + r.perLane = 16 then { w with rows := List.replicate 16 0, wcnt := 0, rcnt := 0, rqPz := false, rqTn := false }
                    else { w with rcnt := w.rcnt + r.perLane } }
            ∧ x.pz = destPz e f0 from' (readDes s e f0.d) (allActive e f0) ∧ x.tn = destTn e f0 from' (readDes s e f0.d) (allActive e f0)
            ∧ ∀ n < 16, if laneActive e f0 n then Elems r (fun i j => (q i j).1 % 2 ^ r.bits) n (x.pay.lane n)
                else x.pay.lane n = (readDes s e f0.d).pay.lane n))))

/-- R140, R146: accumulators read and zeroed, and the adapter bank register written. That `accrd` and `accz` ignore `ln` and `wd`, and `wsel`
ignores `wa`, is the model's choice (log 124). -/
def Obligations.Accumulators : Prop := ∀ (s : State) (e : Elem) (f : Fields), Runs s e → e.cls = .ve →
  (let g : Fields := { f with ln := 0, wd := 0 }
   let k := f.imm.toNat % 8
   let act := laneActive e g
   let whole := allActive e g
   let zeroed := fun (r : Reg) => ({ pay := mergeLanes act (fun _ => 0) r.pay, pz := r.pz && !whole, tn := r.tn && !whole } : Reg)
   (f.var = 0 → badReg e f = none → outWait e f.d 0 = true →
      Lanes (.accrd f) s e g [e.accReg k] 0 (fun n x => x = (e.accReg k).pay.lane n))
   ∧ (f.var = 1 → badReg e f = none → outWait e f.d 0 = true →
      ∃ v : Reg, Completes (.accrd f) s e s ((writeDes e f.d v).setAcc k (zeroed (e.accReg k)))
        ∧ ∀ n < 16, v.pay.lane n = if act n then (e.accReg k).pay.lane n else (readDes s e f.d).pay.lane n)
   ∧ (f.var = 0 → Completes (.accz f) s e s (e.setAcc k (zeroed (e.accReg k))))
   ∧ (f.var = 1 → Completes (.accz f) s e s { e with ve := { e.ve with acc := e.ve.acc.map zeroed } })
   ∧ (f.var = 0 → srcOk e f.a = true → inWait e f.a 0 = true →
      ∃ b : BitVec 64, bankBase b = ((readDes s e f.a).pay.lane 0).toNat % 2 ^ 17
        ∧ bankStrd b = ((readDes s e f.a).pay.lane 1).toNat % 2 ^ 17 ∧ bankCnt b = ((readDes s e f.a).pay.lane 2).toNat % 2 ^ 16
        ∧ Completes (.wsel f) s e s { e with ve := { e.ve with abank := b, abPz := (readDes s e f.a).pz || e.flowP,
                                                               abTn := (readDes s e f.a).tn || e.flowT } }))

-- Local stores (spec 05) -----------------------------------------------------------------------------------------------------

/-- R42, R147 to R149, R151, R152, R81: a load from a local store leaves in each active lane the little-endian bytes at the lane's
address, rounded down to the access size, in the resident store or in the scratchpad that R151 names, with the bits of the granules
read; a granule whose cells are defective brings poison, is marked and recorded. A poisoned address makes the destination poisoned,
and its payload a free value (log 7). That `rld` and `sldv` honour `ln`, `wa` and `wd` is the model's choice (log 124). A scratchpad that the element may not reach is an illegal operand. -/
def Obligations.LocalLoads : Prop := ∀ (s : State) (e : Elem) (f : Fields), Runs s e → f.ln ≠ 3 → badReg e f = none →
  Legal e f usesA none →
  (let a := srcA s e f
   let addr := fun size n => ((a.pay.lane n).toNat + f.imm.toNat % 2 ^ 17) % 2 ^ 17 / size * size
   let row := fun n => addr 64 0 + 4 * n
   let loads := fun (i : Instr) (r : Reach) (at' : Nat → Nat) (size : Nat) (ext : Nat → Lane) =>
     (let own := reachElem s e r
      let st := own.store
      let grans := ((List.range 16).filter (laneActive e f)).map (fun n => at' n % 2 ^ 17 / 64)
      let after := putStore (badEvents s own st grans) e r (st.marked grans)
      let meta' : Reg := { pay := 0, pz := grans.any (fun g => st.pz.contains g || st.bad.contains g), tn := grans.any (fun g => st.tn.contains g) }
      (a.pz = false → ∃ v : Reg, Completes i s e after.1 (writeDes after.2 f.d v)
          ∧ (∀ n < 16, v.pay.lane n = if laneActive e f n then ext (memNat st.bytes (at' n % 2 ^ 17) size)
              else (readDes s e f.d).pay.lane n)
          ∧ v.pz = destPz e f [a, meta'] (readDes s e f.d) (allActive e f)
          ∧ v.tn = destTn e f [a, meta'] (readDes s e f.d) (allActive e f))
      ∧ (a.pz = true → ∃ v : Reg, Completes i s e { s with freeCtr := s.freeCtr + 1 } (writeDes e f.d v)
          ∧ v.pz = true ∧ v.tn = destTn e f [a] (readDes s e f.d) (allActive e f)
          ∧ ∀ n < 16, laneActive e f n = false → v.pay.lane n = (readDes s e f.d).pay.lane n))
   (e.cls = .ve → f.var = 0 → loads (.rld f) .own row 4 (fun x => BitVec.ofNat 32 x))
   ∧ (e.cls = .ve → f.var = 1 → loads (.rld f) .own (addr 4) 4 (fun x => BitVec.ofNat 32 x))
   ∧ (∀ r, reachOf s e f = some r →
      (f.var = 0 → loads (.sld f) r (addr 4) 4 (fun x => BitVec.ofNat 32 x) ∧ loads (.sldv f) r row 4 (fun x => BitVec.ofNat 32 x))
      ∧ (f.var = 1 → loads (.sld f) r (addr 2) 2 (fun x => BitVec.ofNat 32 x))
      ∧ (f.var = 2 → loads (.sld f) r (addr 2) 2 (fun x => BitVec.ofInt 32 (signedOf 16 x)))
      ∧ (f.var = 3 → loads (.sld f) r (addr 1) 1 (fun x => BitVec.ofNat 32 x))
      ∧ (f.var = 4 → loads (.sld f) r (addr 1) 1 (fun x => BitVec.ofInt 32 (signedOf 8 x))))
   ∧ (e.cls = .ve → reachOf s e f = none →
      (f.var.toNat ≤ 4 → Traps (.sld f) s e (.operand f.a.toNat) (wordOf 0x72 f))
      ∧ (f.var = 0 → Traps (.sldv f) s e (.operand f.a.toNat) (wordOf 0x74 f))))

/-- R42, R83, R147 to R149, R151, R152: a store to a local store changes only the bytes of its active lanes; where lanes meet, the
highest lane's bytes stand; every other byte of the store, the rest of the unit and of the module stay as they were. The bits of a
granule written whole become those of the data, the address and the firing, those of one written in part are ORed with them. Whether
a defect of a granule written whole goes is a free value (log 5), which only the counter of free values shows. That `rst` ignores `ln` is the
model's choice (log 124). -/
def Sys2Proof.Claim.LocalStores : Prop := ∀ (s : State) (e : Elem) (f0 : Fields), Runs s e →
  (let f : Fields := { f0 with ln := 0 }
   let a := srcA s e f
   let b := srcB s e f
   let lanes := (List.range 16).filter (laneActive e f)
   let addr := fun size n => ((a.pay.lane n).toNat + f.imm.toNat % 2 ^ 17) % 2 ^ 17 / size * size
   let row := fun n => addr 64 0 + 4 * n
   let stores := fun (i : Instr) (r : Reach) (at' : Nat → Nat) (size : Nat) =>
     (let own := (reachElem s e r).store
      let by' := fun n x => at' n % 2 ^ 17 ≤ x ∧ x < at' n % 2 ^ 17 + size
      let tn := a.tn || b.tn || e.flowT
      memWf own.bytes = true → ∃ (k : Nat) (st : Store), Completes i s e (putStore { s with freeCtr := s.freeCtr + k } e r st).1
          (putStore { s with freeCtr := s.freeCtr + k } e r st).2
        ∧ (∀ x < 2 ^ 17, memGet st.bytes x =
            (match lanes.reverse.find? (fun n => decide (by' n x)) with
             | some n => BitVec.ofNat 8 ((b.pay.lane n).toNat / 2 ^ (8 * (x - at' n % 2 ^ 17)))
             | none => memGet own.bytes x))
        ∧ (own.pz.Pairwise (· < ·) → own.tn.Pairwise (· < ·) → ∀ g,
            ((∀ x, x / 64 = g → ∃ n ∈ lanes, by' n x) → st.pz.contains g = b.pz ∧ st.tn.contains g = tn)
            ∧ ((∃ x, x / 64 = g ∧ ∀ n ∈ lanes, ¬ by' n x) → (∃ x n, x / 64 = g ∧ n ∈ lanes ∧ by' n x) →
                st.pz.contains g = (own.pz.contains g || b.pz) ∧ st.tn.contains g = (own.tn.contains g || tn))
            ∧ ((∀ x n, x / 64 = g → n ∈ lanes → ¬ by' n x) → st.pz.contains g = own.pz.contains g ∧ st.tn.contains g = own.tn.contains g)))
   Legal e f usesStore none → (lanes = [] ∨ (a.pz = false ∧ e.flowP = false)) →
   (e.cls = .ve → f.var = 0 → stores (.rst f0) .own row 4) ∧ (e.cls = .ve → f.var = 1 → stores (.rst f0) .own (addr 4) 4)
   ∧ ∀ r, reachOf s e f = some r →
      (f.var = 0 → stores (.sst f0) r (addr 4) 4 ∧ stores (.sstv f0) r row 4)
      ∧ (f.var = 1 → stores (.sst f0) r (addr 2) 2) ∧ (f.var = 2 → stores (.sst f0) r (addr 1) 1))

/-- R148, R151: a store to a local store through a poisoned address, or under FP, stores nothing and raises poison consumption, where
some lane is active; a scratchpad that the element may not reach is an illegal operand, whatever its lanes. -/
def Sys2Proof.Claim.PoisonedLocalStore : Prop := ∀ (s : State) (e : Elem) (f0 : Fields), Runs s e →
  (let f : Fields := { f0 with ln := 0 }
   let a := srcA s e f
   Legal e f usesStore none →
   ((a.pz = true ∨ e.flowP = true) → ((List.range 16).any (laneActive e f)) = true →
     (e.cls = .ve → f.var.toNat ≤ 1 → ∃ x, Traps (.rst f0) s e (.poison 0 f.d.toNat x) (wordOf 0x71 f0))
     ∧ ((reachOf s e f).isSome = true → f.var.toNat ≤ 2 → ∃ x, Traps (.sst f0) s e (.poison 0 f.d.toNat x) (wordOf 0x73 f0))
     ∧ ((reachOf s e f).isSome = true → f.var = 0 → ∃ x, Traps (.sstv f0) s e (.poison 0 f.d.toNat x) (wordOf 0x75 f0)))
   ∧ (e.cls = .ve → reachOf s e f = none →
      (f.var.toNat ≤ 2 → Traps (.sst f0) s e (.operand f.a.toNat) (wordOf 0x73 f0))
      ∧ (f.var = 0 → Traps (.sstv f0) s e (.operand f.a.toNat) (wordOf 0x75 f0))))

/-- R153, R83, R147, R148: `satm` updates 4 bytes at each active lane's address, lane after lane in ascending order, and leaves the value
each lane found there in the destination, which is tainted; the granules take the poison and the taint of the sources, and with
`.exch` and `.cas` the taint always. A poisoned address raises poison consumption and nothing is accessed. -/
def Obligations.LocalAtomics : Prop := ∀ (s : State) (e : Elem) (f0 : Fields) (r : Reach), Runs s e →
  (let f : Fields := { f0 with ln := 0 }
   let a := srcA s e f
   let b := srcB s e f
   let c := srcC s e f
   let v := f.var.toNat
   let addr := fun n => ((a.pay.lane n).toNat + f.imm.toNat % 2 ^ 17) % 2 ^ 17 / 4 * 4
   let lanes := (List.range 16).filter (laneActive e f)
   let whose := reachElem s e r
   let own := whose.store
   let grans := lanes.map (fun n => addr n / 64)
   let new := fun (n : Nat) (old : Lane) =>
     (let x := b.pay.lane n
      if v = 0 then old + x else if v = 1 then (if x.toInt < old.toInt then x else old)
      else if v = 2 then (if old.toInt < x.toInt then x else old) else if v = 3 then (if x.toNat < old.toNat then x else old)
      else if v = 4 then (if old.toNat < x.toNat then x else old) else if v = 5 then old &&& x else if v = 6 then old ||| x
      else if v = 7 then old ^^^ x else if v = 8 then x else (if old = c.pay.lane n then x else old))
   let m := e.mask f.pm.toNat
   let pz := b.pz || c.pz || m.pz
   let tn := decide (8 ≤ v) || a.tn || b.tn || c.tn || m.tn || e.flowT
   let read : Reg := { pay := 0, pz := grans.any (fun g => own.pz.contains g || own.bad.contains g), tn := true }
   reachOf s e f = some r → Legal e f usesABC (badDst e f) → v ≤ 9 →
   ((lanes = [] ∨ (a.pz = false ∧ e.flowP = false)) → ∃ (st : Store) (old : Nat → Lane) (w : Reg) (mem : Nat → List Host.Cell),
     (let after := putStore (badEvents s whose own grans) e r st
      Completes (.satm f0) s e after.1 (writeDes after.2 f.d w))
     ∧ mem 0 = own.bytes ∧ mem lanes.length = st.bytes
     ∧ (∀ k (h : k < lanes.length), old lanes[k] = BitVec.ofNat 32 (memNat (mem k) (addr lanes[k]) 4)
          ∧ mem (k + 1) = memWrite (mem k) (addr lanes[k]) (littleBytes 4 (new lanes[k] (old lanes[k])).toNat))
     ∧ (∀ n < 16, w.pay.lane n = if laneActive e f n then old n else (readDes s e f.d).pay.lane n) ∧ w.tn = true
     ∧ w.pz = destPz e f [a, b, c, read] (readDes s e f.d) (allActive e f)
     ∧ (own.pz.Pairwise (· < ·) → own.tn.Pairwise (· < ·) → ∀ g,
          st.pz.contains g = (own.pz.contains g || (grans.contains g && (own.bad.contains g || pz)))
          ∧ st.tn.contains g = (own.tn.contains g || (grans.contains g && tn))))
   ∧ ((a.pz = true ∨ e.flowP = true) → lanes ≠ [] → ∃ x, Traps (.satm f0) s e (.poison 0 f.d.toNat x) (wordOf 0x76 f0)))

-- Agents (spec 06) -------------------------------------------------------------------------------------------------------------

/-- R157, R158, R162 to R164: the loop nest is written and rewound, and `gen` leaves its coordinates; `gen.adv` then advances it, its
innermost counter first, and leaves in lane 6 how many levels wrapped. That a write ORs the flow bits into the nest beside the bits of
the register is the model's reading (log 15). A count of 0 and a variant that the tables lack are illegal instructions. -/
def Sys2Proof.Claim.LoopNest : Prop := ∀ (s : State) (e : Elem) (f : Fields), Runs s e → e.cls = .ag →
  (let n := e.ag.nest
   let v := f.var.toNat
   let r := readDes s e f.a
   let tainted := fun (m : Nest) (r : Reg) =>
     ({ m with ctr := List.replicate 6 0, pz := m.pz || r.pz || e.flowP, tn := m.tn || r.tn || e.flowT } : Nest)
   let sets := fun (i : Instr) (m : Nest) => Completes i s e s { e with ag := { e.ag with nest := m } }
   let co := fun k => n.base.getD k 0 + ((List.range 6).map (fun l => (n.ctr.getD l 0 : Int) * (n.str.getD l []).getD k 0)).sum
   (v ≤ 5 → f.imm ≠ 0 → sets (.nest f) (tainted { n with cnt := n.cnt.set v f.imm.toNat } Reg.zero))
   ∧ (v = 6 → Legal e f onlyA none → sets (.nest f) (tainted { n with base := laneCoords r.pay } r))
   ∧ (v = 7 → sets (.nest f) { cnt := List.replicate 6 1, ctr := List.replicate 6 0, base := List.replicate 6 0,
                               str := List.replicate 6 (List.replicate 6 0), pz := false, tn := false })
   ∧ (7 < v ∨ (v ≤ 5 ∧ f.imm = 0) → Traps (.nest f) s e .instr (wordOf 0x80 f))
   ∧ (5 < v → Traps (.nstr f) s e .instr (wordOf 0x81 f))
   ∧ (1 < v → Traps (.gen f) s e .instr (wordOf 0x82 f))
   ∧ (v ≤ 5 → Legal e f onlyA none → sets (.nstr f) (tainted { n with str := n.str.set v (laneCoords r.pay) } r))
   ∧ (v ≤ 1 → Legal e { f with ln := 0 } onlyD (badReg e f) →
      ∃ x : Reg, Completes (.gen f) s e s
          (let y := writeDes e f.d x; if v = 0 then { y with ag := { y.ag with nest := { n with ctr := (advanceFrom n.cnt n.ctr 0).1 } } } else y)
        ∧ (∀ k < 16, x.pay.lane k = if laneActive e { f with ln := 0 } k then
              (if k ≤ 5 then BitVec.ofInt 32 (co k) else if k = 6 ∧ v = 0 then BitVec.ofNat 32 (advanceFrom n.cnt n.ctr 0).2 else 0)
            else (readDes s e f.d).pay.lane k)
        ∧ x.pz = destPz e f [n.bits] (readDes s e f.d) (allActive e { f with ln := 0 })
        ∧ x.tn = destTn e f [n.bits] (readDes s e f.d) (allActive e { f with ln := 0 })))

/-- R154, R155, R165, R166: `hbind` binds a port to a handle that R352 lets it use, and reads its records; `pgsz` sets the tile
size. Both hold issue while requests of the port are outstanding; `hbind` of a handle that may not be used, or of a poisoned one, traps
and leaves the binding. That the flow bits join the nest's bits is the model's reading (log 15). -/
def Sys2Proof.Claim.PortBinding : Prop := ∀ (s : State) (e : Elem) (f : Fields), Runs s e → e.cls = .ag →
  (let p := e.port (f.imm.toNat % 4)
   let r := readDes s e f.a
   let hdl := (r.pay.lane 0).toNat
   let ctx := (s.region e.rgn).ctx
   let h := heAt s ctx (hdl / 1024 % 2 ^ 22)
   (f.var = 0 → Legal e f onlyA none → p.outst = 0 → r.pz = false → handleOk s ctx hdl = true →
      ∃ q : Port, q.hdl = hdl ∧ q.bnd = true ∧ q.tsz = p.tsz ∧ q.hent = h ∧ q.srec = srAt s (heSrec h) ∧ q.tile = none ∧ q.stale = false
        ∧ q.lq = p.lq ∧ q.sq = p.sq ∧ q.reqs = p.reqs ∧ q.outst = 0
        ∧ Completes (.hbind f) s e s ((e.setPort (f.imm.toNat % 4) q).setNest
            { e.ag.nest with pz := e.ag.nest.pz || e.flowP, tn := e.ag.nest.tn || r.tn || e.flowT }))
   ∧ (f.var = 0 → Legal e f onlyA none → p.outst = 0 → r.pz = false → handleOk s ctx hdl = false →
      Traps (.hbind f) s e (.handle (f.imm.toNat % 4) hdl 0) (wordOf 0x88 f))
   ∧ (f.var = 0 → Legal e f onlyA none → p.outst = 0 → r.pz = true → Traps (.hbind f) s e (.poison 0 f.d.toNat 0) (wordOf 0x88 f))
   ∧ (f.var = 0 → Legal e f onlyA none → p.outst ≠ 0 → Holds (.hbind f) s e .free)
   ∧ (f.var = 0 → f.imm.toNat / 4 % 4 ≠ 3 → p.outst ≠ 0 → Holds (.pgsz f) s e .free)
   ∧ (f.imm.toNat / 4 % 4 = 3 → Traps (.pgsz f) s e .instr (wordOf 0x89 f))
   ∧ (f.var ≠ 0 → Traps (.hbind f) s e .instr (wordOf 0x88 f) ∧ Traps (.pgsz f) s e .instr (wordOf 0x89 f))
   ∧ (f.var = 0 → f.imm.toNat / 4 % 4 ≠ 3 → p.outst = 0 →
      ∃ q : Port, q.hdl = p.hdl ∧ q.bnd = p.bnd ∧ q.tsz = f.imm.toNat / 4 % 4 ∧ q.hent = p.hent ∧ q.srec = p.srec
        ∧ q.tile = p.tile ∧ q.stale = p.stale ∧ q.lq = p.lq ∧ q.sq = p.sq ∧ q.reqs = p.reqs ∧ q.outst = 0
        ∧ Completes (.pgsz f) s e s (e.setPort (f.imm.toNat % 4) q)))

/-- R159, R160, R154: the checks of an access through a port, in their order, each with its fault: a port that is bound; at a tile
crossing a handle that R352 lets the context use; coordinates inside a well-formed tensor, at the start of a word, below the handle's
tile limit, no write through a read-only handle; a kind of access that the space allows; the tile size; a translation. That a frame
outside the memory of its space is a bounds fault is the model's choice (log 81). What passes has
the address of its first element and the number of its elements inside the tensor. -/
def Sys2Proof.Claim.AccessChecks : Prop := ∀ (s : State) (e : Elem) (d : BitVec 10) (k : Nat) (c : List Int) (kd : Kind),
  kd ≠ .engRead → kd ≠ .engWrite →
  (let ctx := (s.region e.rgn).ctx
   let p := freshPort s (e.port k) ctx
   let t := (tileOf p.srec c).getD 0
   let crossing := tileOf p.srec c = none ∨ p.tile ≠ tileOf p.srec c
   let h := if crossing then heAt s ctx (hdlSlot p.hdl) else p.hent
   let off := fun (fm : Fmt) => inTile p.srec c * fm.bits / 8
   let c0 := (c.getD 0 0).toNat
   let sync := kd = .ldaq ∨ kd = .strl ∨ kd = .atomic
   let writes := kd = .store ∨ kd = .tsts ∨ kd = .strl ∨ kd = .atomic
   let inside := fun (fm : Fmt) => tensorFmt (srCode p.srec) = some fm ∧ shapeOk p.srec = true
     ∧ (∀ j < 6, if j < srRank p.srec then 0 ≤ c.getD j 0 ∧ c.getD j 0 < (srDim p.srec j : Int) else c.getD j 0 = 0)
     ∧ (sync ∨ c0 % (16 * fm.perLane) = 0) ∧ t < heLim h ∧ t < 2 ^ 32 ∧ ¬ (writes ∧ heRo h = true)
   let sub := if kd = .tsts ∨ kd = .tlda then (if heSpc h = 1 then none else some 6)
     else if (kd = .store ∨ kd = .atomic ∨ kd = .strl) ∧ heSpc h = 1 then some 4 else if sync ∧ 2 ≤ heSpc h then some 5 else none
   let frame := fun fm => findFrame s e.die e.agFolio { ctx := ctx, slot := hdlSlot p.hdl, tile := t } (hdlGen p.hdl) p.tsz (srTtab p.srec) (off fm)
   let key := fun s' a => spaceKey s' ((s.region e.rgn).q / 2048) ctx (heSpc h) (hePlk h) a
   let stops := fun (x : Trap) => portAccess s e d k c kd = .error (.trap x)
   ((e.port k).bnd = false → stops (.operand d.toNat))
   ∧ ((e.port k).bnd = true →
      (crossing → handleOk s ctx p.hdl = false → stops (.handle k p.hdl t))
      ∧ ((crossing → handleOk s ctx p.hdl = true) →
        ((∀ fm, ¬ inside fm) → stops (.bounds k p.hdl t 0))
        ∧ (∀ fm, inside fm →
            (∀ b, sub = some b → stops (.transl b k p.hdl t 0))
            ∧ (sub = none → p.tsz ≠ srTsz p.srec → stops (.transl 2 k p.hdl t 0))
            ∧ (sub = none → p.tsz = srTsz p.srec →
                (frame fm = .error none → stops (.bounds k p.hdl t 0))
                ∧ (∀ b, frame fm = .error (some b) → stops (.transl b k p.hdl t 0))
                ∧ (∀ s' a, frame fm = .ok (s', a) → key s' a = none → stops (.transl 3 k p.hdl t a))
                ∧ (∀ s' a y, frame fm = .ok (s', a) → key s' a = some y → offSpace (heSpc h) y = true → stops (.bounds k p.hdl t a))
                ∧ (∀ s' a y, frame fm = .ok (s', a) → key s' a = some y → offSpace (heSpc h) y = false → ∃ x : Access,
                    portAccess s e d k c kd = .ok (s', { p with hent := h, tile := some t }, x) ∧ x.addr = y ∧ x.fmt = fm ∧ x.hent = h
                    ∧ x.valid = min (16 * fm.perLane) (srDim p.srec 0 - c0)))))))

/-- R159, R161, R167, R173: a load whose access passes the checks of R159 reserves the next entry of its port's load queue and
sends a request that carries the address, the words inside the tensor and the bits of its coordinates; a poisoned coordinate
sends none, and its entry will be poisoned; one that fails traps. While the queue has no room the load holds issue. `tlda` carries its
stamp and is issued once the die's earliest exceeds it, with poisoned coordinates too; that it traps on a die too wide before it holds is
the model's choice (log 79), and so is what a poisoned stamp holds for (log 78). -/
def Sys2Proof.Claim.TensorLoad : Prop := ∀ (s s' : State) (e : Elem) (f : Fields) (p : Port) (x : Access), Runs s e → e.cls = .ag →
  (f.wa = 0 ∨ isSlot f.a = true) →
  (let k := f.imm.toNat % 4
   let q := e.port k
   let v := f.var.toNat
   let c := coordsOf s e f (v == 0 || v == 2)
   let ca := coordsOf s e f (v == 0)
   let b := readDes s e f.b
   let st := stampOf b.pay
   let d := s.die e.die
   let legal := v ≤ 3 ∧ Legal e f (if v = 0 ∨ v = 2 then noUses else onlyA) none
   let legala := v ≤ 1 ∧ Legal e f (if v = 0 then onlyB else onlyAB) none
   let room := q.lq.length + q.reqs.length < 32
   let sent := fun (nest : Bool) (y : State) (z : Port) (r : Req) (i : Instr) =>
     Completes i s e { y with orders := y.orders + 1 }
       (stepNest (e.setPort k { z with reqs := z.reqs ++ [r], outst := z.outst + 1 }) nest)
   (legal → room → c.2.pz = false → portAccess s e f.a k c.1 .load = .ok (s', p, x) →
      ∃ r : Req, sent (v == 0 || v == 2) s' p r (.tld f) ∧ r.addr = x.addr ∧ r.valid = x.valid * x.fmt.bits ∧ r.skip = false
        ∧ r.stamp = none ∧ r.pz = e.flowP ∧ r.tn = (c.2.tn || e.flowT) ∧ r.before = e.ag.seq
        ∧ r.pol = (if 2 ≤ v then 2 else hePol x.hent) ∧ r.ctr = e.ag.nest.ctr)
   ∧ (legal → room → c.2.pz = true → q.bnd = true →
      ∃ r : Req, sent (v == 0 || v == 2) s q r (.tld f) ∧ r.skip = true ∧ r.pz = true)
   ∧ (∀ t, legal → room → c.2.pz = false → portAccess s e f.a k c.1 .load = .error (.trap t) → Traps (.tld f) s e t (wordOf 0x83 f))
   ∧ (legal → ¬ room → Holds (.tld f) s e .count)
   ∧ (legala → d.tooWide = false → room → ca.2.pz = false → b.pz = false →
      st < d.early → portAccess s e f.a k ca.1 .tlda = .ok (s', p, x) →
      ∃ r : Req, sent (v == 0) s' p r (.tlda f) ∧ r.addr = x.addr ∧ r.stamp = some st ∧ r.skip = false ∧ r.pz = e.flowP
        ∧ r.tn = (ca.2.tn || b.tn || e.flowT) ∧ r.pol = hePol x.hent ∧ r.tcl = heTcl x.hent)
   ∧ (legala → d.tooWide = false → room → (ca.2.pz || b.pz) = true → (b.pz = true ∨ st < d.early) → q.bnd = true →
      ∃ r : Req, sent (v == 0) s q r (.tlda f) ∧ r.skip = true ∧ r.pz = true)
   ∧ (∀ t, legala → d.tooWide = false → room → ca.2.pz = false → b.pz = false → st < d.early →
      portAccess s e f.a k ca.1 .tlda = .error (.trap t) → Traps (.tlda f) s e t (wordOf 0x85 f))
   ∧ (legala → d.tooWide = false → ¬ room → Holds (.tlda f) s e .count)
   ∧ (legala → d.tooWide = false → room → b.pz = false → d.early ≤ st → Holds (.tlda f) s e .free)
   ∧ (legala → d.tooWide = true → Traps (.tlda f) s e (.widen d.width d.lim) (wordOf 0x85 f)))

/-- R159, R161, R169, R171, R193: a store takes the head of its port's store queue and becomes one of the agent's stores, which no
memory shows yet; a stamped store is sent with its stamp, which must lie above the die's earliest and not above its latest + 2^30.
An empty queue holds issue, and an access that fails traps and leaves the queue. Poison of the data, the coordinates, the stamp or the
firing raises poison consumption, and nothing is stored; that poison is found before the access and the stamp are judged is the
model's reading (log 78). -/
def Obligations.TensorStores : Prop := ∀ (s s' : State) (e : Elem) (f : Fields) (p : Port) (x : Access), Runs s e → e.cls = .ag →
  (f.wa = 0 ∨ isSlot f.a = true) →
  (let k := f.imm.toNat % 4
   let q := e.port k
   let v := f.var.toNat
   let c := coordsOf s e f (v == 0)
   let w := q.sq.headD CWord.zero
   let b := readDes s e f.b
   let st := stampOf b.pay
   let d := s.die e.die
   let legal := v ≤ 1 ∧ Legal e f (if v = 0 then noUses else onlyA) none
   let legals := v ≤ 1 ∧ Legal e f (if v = 0 then onlyB else onlyAB) none
   let pz := c.2.pz || w.pz || e.flowP
   let took := e.setPort k { p with sq := p.sq.drop 1, outst := p.outst + 1 }
   (legal → q.sq ≠ [] → pz = false → portAccess s e f.a k c.1 .store = .ok (s', p, x) →
      ∃ y : PStore, Completes (.tst f) s e { s' with orders := s'.orders + 1 }
            (stepNest { took with ag := { took.ag with sb := e.ag.sb ++ [y], seq := e.ag.seq + 1 } } (v == 0))
        ∧ y.seq = e.ag.seq ∧ y.base = x.addr ∧ y.data = w.pay ∧ y.mask = x.mask ∧ y.pz = false ∧ y.tn = (c.2.tn || w.tn || e.flowT)
        ∧ y.port = some k ∧ y.acc = false ∧ y.rel = false)
   ∧ (legal → q.sq ≠ [] → pz = true → ∃ a, Traps (.tst f) s e (.poison 0 f.d.toNat a) (wordOf 0x84 f))
   ∧ (∀ t, legal → q.sq ≠ [] → pz = false → portAccess s e f.a k c.1 .store = .error (.trap t) → Traps (.tst f) s e t (wordOf 0x84 f))
   ∧ (legal → q.sq = [] → Holds (.tst f) s e .count)
   ∧ (legals → q.sq ≠ [] → d.tooWide = false → (pz || b.pz) = false →
      d.early < st → st ≤ d.late + 2 ^ 30 → portAccess s e f.a k c.1 .tsts = .ok (s', p, x) →
      ∃ y : Tsts, Completes (.tsts f) s e s' (stepNest { took with ag := { took.ag with tsts := e.ag.tsts ++ [y] } } (v == 0))
        ∧ y.port = k ∧ y.base = x.addr ∧ y.data = w.pay ∧ y.mask = x.mask ∧ y.stamp = st ∧ y.pz = false
        ∧ y.tn = (c.2.tn || w.tn || b.tn || e.flowT) ∧ y.ctr = e.ag.nest.ctr ∧ y.pol = hePol x.hent ∧ y.tcl = heTcl x.hent)
   ∧ (legals → q.sq ≠ [] → d.tooWide = false → (pz || b.pz) = true → ∃ a, Traps (.tsts f) s e (.poison 0 f.d.toNat a) (wordOf 0x86 f))
   ∧ (legals → q.sq ≠ [] → d.tooWide = false → (pz || b.pz) = false →
      st ≤ d.early → Traps (.tsts f) s e (.tooOld st k none) (wordOf 0x86 f))
   ∧ (legals → q.sq ≠ [] → d.tooWide = false → (pz || b.pz) = false → d.early < st → d.late + 2 ^ 30 < st →
      Traps (.tsts f) s e (.operand f.b.toNat) (wordOf 0x86 f))
   ∧ (∀ t, legals → q.sq ≠ [] → d.tooWide = false → (pz || b.pz) = false → d.early < st → st ≤ d.late + 2 ^ 30 →
      portAccess s e f.a k c.1 .tsts = .error (.trap t) → Traps (.tsts f) s e t (wordOf 0x86 f))
   ∧ (legals → q.sq ≠ [] → d.tooWide = true → Traps (.tsts f) s e (.widen d.width d.lim) (wordOf 0x86 f))
   ∧ (legals → q.sq = [] → Holds (.tsts f) s e .count))

/-- R170, R185 to R189: an engine operation forks when its completion object is idle: the object is busy, the operation sees the
agent's stores so far, and the agent goes on; an operation of no words is done at once. An object that is not idle, an unbound port,
tensors or ranges that do not fit, are illegal operands and nothing is forked (of `gth` and `coll` the model's choice, log 142 and 143; of a
core's `cpy` of a part of 64 bytes, log 144). A record that was discarded is read again. A prefetch into the caches never faults and moves only
copies; one whose access would fault does nothing. That a poisoned operand or firing raises poison consumption is the model's reading
(log 16). -/
def Sys2Proof.Claim.EngineForks : Prop := ∀ (s : State) (e : Elem) (f : Fields), Runs s e →
  (let n := if e.cls = .fc then f.imm.toNat / 64 % 32 else f.imm.toNat / 64 % 8
   let c := e.co n
   let a := readDes s e f.a
   let b := readDes s e f.b
   let fresh := fun k => freshPort s (e.port k) (s.region e.rgn).ctx
   let p0 := f.imm.toNat % 4
   let p1 := f.imm.toNat / 4 % 4
   let p2 := f.imm.toNat / 16 % 4
   let x := fun (l : List Nat) => l.foldl (fun (x : Elem) k => x.setPort k (freshPort s (x.port k) (s.region e.rgn).ctx)) e
   let forked := fun (i : Instr) (kind : Nat) (bb : Reg) (l : List Nat) (ports : List Port) =>
     ∃ o : EngOp, Completes i s e s (let y := (x l).setCo n (coMake 1 0 kind 0); { y with ag := { y.ag with eng := e.ag.eng ++ [o] } })
       ∧ o.co = n ∧ o.kind = kind ∧ o.args = a.pay ∧ o.argb = bb.pay ∧ o.done = 0 ∧ o.before = e.ag.seq ∧ o.ports = ports
       ∧ o.writes = [] ∧ o.ran = false ∧ o.spoilt = none
   let done := fun (i : Instr) (kind : Nat) (l : List Nat) =>
     ∃ o : EngOp, Completes i s e s (let y := (x l).setCo n (coMake 1 0 kind 0)
        ({ y with ag := { y.ag with eng := e.ag.eng ++ [o] } } : Elem).setCo n (coMake 2 0 kind 0)) ∧ o.co = n
   let idle := coSt c = 0
   let clean := a.pz = false ∧ e.flowP = false
   let both := (e.port p0).bnd = true ∧ (e.port p1).bnd = true
   let len := (b.pay.lane 0).toNat
   let fits := (b.pay.lane 1).toNat % 8 < e.ag.targets.length ∧ (b.pay.lane 2).toNat % 64 = 0
     ∧ (b.pay.lane 2).toNat + 64 * len ≤ 2 ^ 17 ∧ 1 ≤ len ∧ len ≤ 2048
   let refused := fun (i : Instr) (op : BitVec 8) => Traps i s e (.operand f.a.toNat) (wordOf op f)
   let poisoned := fun (i : Instr) (op : BitVec 8) => Traps i s e (.poison 0 f.d.toNat 0) (wordOf op f)
   Legal e f onlyA none →
   (f.var = 0 → idle → clean → e.cls = .ag → both →
      copyOk (fresh p0) (fresh p1) (a.pay.lane 0).toNat (a.pay.lane 1).toNat (a.pay.lane 2).toNat = true →
      if a.pay.lane 2 = 0 then done (.cpy f) 1 [p0, p1] else forked (.cpy f) 1 Reg.zero [p0, p1] [fresh p0, fresh p1])
   ∧ (f.var = 0 → idle → clean → e.cls = .fc → (a.pay.lane 4).toNat % 64 = 0 →
      if a.pay.lane 4 = 0 then done (.cpy f) 1 [] else forked (.cpy f) 1 Reg.zero [] [])
   ∧ (f.var = 0 → idle → clean → e.cls = .ag → both → (e.port p2).bnd = true →
      gatherOk (fresh p0) (fresh p1) (fresh p2) = true →
      if a.pay.lane 1 = 0 then done (.gth f) 2 [p0, p1, p2] else forked (.gth f) 2 Reg.zero [p0, p1, p2] [fresh p0, fresh p1, fresh p2])
   ∧ (f.var = 0 → idle → clean → e.cls = .fc → if a.pay.lane 7 = 0 then done (.gth f) 2 [] else forked (.gth f) 2 Reg.zero [] [])
   ∧ (∀ l, e.cls = .ag → f.var.toNat ≤ 3 → idle → clean → both →
      collMembers e (f.imm.toNat / 1024 % 64) = some l →
      collOk (fresh p0) (fresh p1) f.var.toNat (a.pay.lane 0).toNat l.length = true →
      forked (.coll f) 3 Reg.zero [p0, p1] [fresh p0, fresh p1])
   ∧ (Agent e → f.var = 0 → ¬ idle → refused (.cpy f) 0xA3 ∧ refused (.gth f) 0xA4)
   ∧ (e.cls = .ag → f.var.toNat ≤ 3 → ¬ idle → refused (.coll f) 0xA5)
   ∧ (Agent e → f.var = 0 → idle → ¬ clean → poisoned (.cpy f) 0xA3 ∧ poisoned (.gth f) 0xA4)
   ∧ (e.cls = .ag → f.var.toNat ≤ 3 → idle → ¬ clean → poisoned (.coll f) 0xA5)
   ∧ (e.cls = .ag → idle → clean → ¬ both → (f.var = 0 → refused (.cpy f) 0xA3 ∧ refused (.gth f) 0xA4)
        ∧ (f.var.toNat ≤ 3 → refused (.coll f) 0xA5))
   ∧ (e.cls = .ag → f.var = 0 → idle → clean → both →
      (copyOk (fresh p0) (fresh p1) (a.pay.lane 0).toNat (a.pay.lane 1).toNat (a.pay.lane 2).toNat = false → refused (.cpy f) 0xA3)
      ∧ ((e.port p2).bnd = false ∨ gatherOk (fresh p0) (fresh p1) (fresh p2) = false → refused (.gth f) 0xA4))
   ∧ (e.cls = .fc → f.var = 0 → idle → clean → (a.pay.lane 4).toNat % 64 ≠ 0 → refused (.cpy f) 0xA3)
   ∧ (e.cls = .ag → f.var.toNat ≤ 3 → idle → clean → both →
      (∀ l, collMembers e (f.imm.toNat / 1024 % 64) = some l →
        collOk (fresh p0) (fresh p1) f.var.toNat (a.pay.lane 0).toNat l.length = false) → refused (.coll f) 0xA5)
   ∧ (e.cls = .fc → Traps (.coll f) s e .instr (wordOf 0xA5 f))
   ∧ (Agent e → f.var ≠ 0 → Traps (.cpy f) s e .instr (wordOf 0xA3 f) ∧ Traps (.gth f) s e .instr (wordOf 0xA4 f))
   ∧ (e.cls = .ag → 3 < f.var.toNat → Traps (.coll f) s e .instr (wordOf 0xA5 f))
   ∧ (e.cls = .ag → 1 < f.var.toNat → Traps (.pref f) s e .instr (wordOf 0x87 f))
   ∧ (e.cls = .ag → f.var = 1 → Legal e f onlyAB none → (fits → (e.port p0).bnd = true → idle →
        (clean → b.pz = false → forked (.pref f) 4 b [p0] [fresh p0])
        ∧ ((a.pz || b.pz || e.flowP) = true → poisoned (.pref f) 0x87))
      ∧ (¬ (fits ∧ (e.port p0).bnd = true ∧ idle) → ∃ d, Traps (.pref f) s e (.operand d) (wordOf 0x87 f)))
   ∧ (e.cls = .ag → f.var = 0 → ∃ (s' : State) (e' : Elem), Completes (.pref f) s e s' e' ∧ s'.mem = s.mem ∧ s'.elems = s.elems
        ∧ s'.cores = s.cores ∧ e'.ag.sb = e.ag.sb ∧ e'.ag.cos = e.ag.cos ∧ e'.ag.nest = e.ag.nest ∧ e'.s = e.s
        ∧ (∀ k, (e'.port k).lq = (e.port k).lq)
        ∧ (∀ t, portAccess s e f.a p0 (laneCoords a.pay) .load = .error t → s' = s ∧ e' = e)
        ∧ (∀ t p x, portAccess s e f.a p0 (laneCoords a.pay) .load = .ok (t, p, x) → a.pz = false →
             s' = prefetch t e x ∧ e' = e.setPort p0 p)))

/-- R174 to R177, R264, R180: a synchronising access waits until every earlier store of its agent is accepted, and one that reads
until no earlier load of the granule is open (log 131); it then makes its agent's stores visible, and reads and replaces bytes at their
home in one step. The result is tainted by an atomic; poison among the operands raises poison consumption and nothing is accessed
(of `ldaq` the free payload comes, log 5); a variant or a scope that the tables lack is an illegal instruction. The model's own choices
beside the rules: that the poison of the compare operand of `cas` raises too (log 83), and that `strl` waits for its agent's earlier
stores as an atomic does (log 85). -/
def Sys2Proof.Claim.SynchronisingAccesses : Prop := ∀ (s s1 : State) (e e1 : Elem) (f : Fields) (addr : Nat), Runs s e → Agent e →
  (let v := f.var.toNat
   let size := if f.imm.getLsbD 9 then 8 else 4
   let sz := 2 ^ v
   let scp := f.imm.toNat / 4 % 4
   let a := readDes s e f.a
   let b := readDes s e f.b
   let c := readDes s e f.c
   let low := fun (p : Payload) n => ((p.lane 0).toNat + (p.lane 1).toNat * 2 ^ 32) % 2 ^ (8 * n)
   let rel := release s1 e1
   let home := fun n => homeRead rel.1 rel.2 addr n
   let put := fun (n x : Nat) (tn : Bool) => landStore (home n).1 (agentDie e1) (smallStore rel.2 (home n).1.orders addr n x tn)
   let result := fun (i : Instr) (n : Nat) (y : State) =>
     ∃ w : Reg, Completes i s e (acquire y rel.2 scp) (writeDes rel.2 f.d w)
       ∧ w.pay = Payload.ofList [BitVec.ofNat 32 (home n).2.1, BitVec.ofNat 32 ((home n).2.1 / 2 ^ 32)] ∧ w.tn = true
       ∧ w.pz = ((home n).2.2.pz || rel.2.flowP)
   let atomOk := v ≤ 9 ∧ ¬ (v = 7 ∧ size = 8) ∧ scp ≠ 3
   let legal := atomOk ∧ Legal e f usesAB (badReg e f)
   let legalc := f.var = 0 ∧ scp ≠ 3 ∧ Legal e f usesABC (badReg e f)
   let legall := v ≤ 3 ∧ scp ≠ 3 ∧ Legal e f usesA (badReg e f)
   let legals := v ≤ 3 ∧ scp ≠ 3 ∧ Legal e f onlyAB none
   let pz := a.pz || b.pz || e.flowP
   let accepted := allAccepted e = true
   let found := fun n k => syncAddr s e f n k = .ok (s1, e1, addr)
   (legal → accepted → pz = false → found size .atomic → openHere e1 addr = false →
      result (.atom f) size (put size (atomFn v (8 * size) (home size).2.1 (low b.pay size)) (v == 6 || v == 7 || a.tn || b.tn || e1.flowT)))
   ∧ (legalc → accepted → (pz || c.pz) = false → found size .atomic → openHere e1 addr = false →
      ((home size).2.1 = low c.pay size → result (.cas f) size (put size (low b.pay size) true))
      ∧ ((home size).2.1 ≠ low c.pay size → ∃ y : State, result (.cas f) size y ∧ y.mem = (home size).1.mem))
   ∧ (legal → accepted → pz = true → Traps (.atom f) s e (.poison 0 f.d.toNat 0) (wordOf 0x90 f))
   ∧ (legalc → accepted → (pz || c.pz) = true → Traps (.cas f) s e (.poison 0 f.d.toNat 0) (wordOf 0x91 f))
   ∧ (legals → accepted → pz = true → Traps (.strl f) s e (.poison 0 f.d.toNat 0) (wordOf 0x96 f))
   ∧ (allAccepted e = false → (legal → Holds (.atom f) s e .free) ∧ (legalc → Holds (.cas f) s e .free) ∧ (legals → Holds (.strl f) s e .free))
   ∧ (openHere e1 addr = true →
      (legal → accepted → pz = false → found size .atomic → Holds (.atom f) s e .free)
      ∧ (legalc → accepted → (pz || c.pz) = false → found size .atomic → Holds (.cas f) s e .free)
      ∧ (legall → a.pz = false → found sz .ldaq → Holds (.ldaq f) s e .free))
   ∧ (legall → a.pz = false → found sz .ldaq → openHere e1 addr = false →
      (let h := homeRead s1 e1 addr sz
       ∃ w : Reg, Completes (.ldaq f) s e (acquire h.1 e1 scp) (writeDes e1 f.d w)
         ∧ w.pay = Payload.ofList [BitVec.ofNat 32 h.2.1, BitVec.ofNat 32 (h.2.1 / 2 ^ 32)]
         ∧ w.tn = (h.2.2.tn || a.tn || e1.flowT) ∧ w.pz = (h.2.2.pz || e1.flowP)))
   ∧ (legall → a.pz = true → ∃ (n : Nat) (w : Reg), w.pz = true ∧ Completes (.ldaq f) s e (acquire { s with freeCtr := n } e scp) (writeDes e f.d w))
   ∧ (legals → accepted → pz = false → found sz .strl →
      Completes (.strl f) s e
        (landStore rel.1 (agentDie rel.2) (smallStore rel.2 rel.1.orders addr sz (low b.pay sz) (a.tn || b.tn || rel.2.flowT))) rel.2)
   ∧ (¬ atomOk → Traps (.atom f) s e .instr (wordOf 0x90 f))
   ∧ (f.var ≠ 0 ∨ scp = 3 → Traps (.cas f) s e .instr (wordOf 0x91 f))
   ∧ (3 < v ∨ scp = 3 → Traps (.ldaq f) s e .instr (wordOf 0x95 f) ∧ Traps (.strl f) s e .instr (wordOf 0x96 f)))

/-- R174, R159, R220, R271: the address of a synchronising access is the element's in its tensor plus `ofs`, or on a core a physical
address of this module's HBM that is not in a frame of a stamped tensor. An access that fails, and an address that is not a multiple of
the size, traps, and nothing is accessed: bounds on an AG, an illegal operand on a core. The access takes its sector into the level 2 of
its home by the handle's policy and class, a `strl` without a pin (log 129 for the way), and waits while the slice or the port it goes through is held by a
record its full ring has not taken (log 145). -/
def Sys2Proof.Claim.SynchronisingAddresses : Prop := ∀ (s : State) (e : Elem) (f : Fields), Runs s e → Agent e →
  (let v := f.var.toNat
   let size := if f.imm.getLsbD 9 then 8 else 4
   let scp := f.imm.toNat / 4 % 4
   let a := readDes s e f.a
   let b := readDes s e f.b
   let c := readDes s e f.c
   let phys := (a.pay.lane 0).toNat + (a.pay.lane 1).toNat * 2 ^ 32
   let k := f.imm.toNat % 4
   let faults := fun (n : Nat) (kd : Kind) (t : Trap) =>
     (e.cls = .fc ∧ (isOwn phys = false ∨ stampedFrame s phys = true) ∧ t = .phys phys)
     ∨ (e.cls = .fc ∧ isOwn phys = true ∧ stampedFrame s phys = false ∧ phys % n ≠ 0 ∧ t = .operand f.a.toNat)
     ∨ (e.cls = .ag ∧ portAccess s e f.a k (laneCoords a.pay) kd = .error (.trap t))
     ∨ (e.cls = .ag ∧ ∃ (s' : State) (p : Port) (x : Access), portAccess s e f.a k (laneCoords a.pay) kd = .ok (s', p, x)
          ∧ (x.addr + f.imm.toNat / 1024 % 64) % n ≠ 0 ∧ t = .bounds k p.hdl x.via.tile (x.addr + f.imm.toNat / 1024 % 64))
   scp ≠ 3 →
   (∀ n kd, (e.cls = .fc → isOwn phys = true → stampedFrame s phys = false → phys % n = 0 →
        syncAddr s e f n kd = if homeHeld s 32 phys then .error (.hold .free) else .ok (l2Fill s phys 0, e, phys))
      ∧ (e.cls = .ag → ∀ s' p x, portAccess s e f.a k (laneCoords a.pay) kd = .ok (s', p, x) → (x.addr + f.imm.toNat / 1024 % 64) % n = 0 →
          (let addr := x.addr + f.imm.toNat / 1024 % 64
           syncAddr s e f n kd = if homeHeld s' e.die addr then .error (.hold .free)
             else .ok ((if kd = .strl then l2Serve s' addr (hePol p.hent) (heTcl p.hent)
                        else agentFill s' s'.cur e.die addr (hePol p.hent) (heTcl p.hent)), e.setPort k p, addr))))
   ∧ (∀ t, v ≤ 9 → ¬ (v = 7 ∧ size = 8) → Legal e f usesAB (badReg e f) → allAccepted e = true → (a.pz || b.pz || e.flowP) = false →
      faults size .atomic t → Traps (.atom f) s e t (wordOf 0x90 f))
   ∧ (∀ t, f.var = 0 → Legal e f usesABC (badReg e f) → allAccepted e = true → (a.pz || b.pz || c.pz || e.flowP) = false →
      faults size .atomic t → Traps (.cas f) s e t (wordOf 0x91 f))
   ∧ (∀ t, v ≤ 3 → Legal e f usesA (badReg e f) → a.pz = false → faults (2 ^ v) .ldaq t → Traps (.ldaq f) s e t (wordOf 0x95 f))
   ∧ (∀ t, v ≤ 3 → Legal e f onlyAB none → allAccepted e = true → (a.pz || b.pz || e.flowP) = false →
      faults (2 ^ v) .strl t → Traps (.strl f) s e t (wordOf 0x96 f)))

/-- R179, R180, R172: a phase waits until every store of its agent is accepted and every request answered, makes its stores visible
and then acquires at its scope; `fence.rel` makes accepted stores visible, `fence.acq` acquires, `fence.full` waits for the loads and
does both, and `fence.eng` waits for the stores and the engines, and traps with the fault of the lowest object that has stopped. A
refused stamped store is reported instead. That `fence.full` holds issue for the loads is the model's reading (log 131). -/
def Sys2Proof.Claim.PhasesAndFences : Prop := ∀ (s : State) (e : Elem) (f : Fields), Runs s e → Agent e →
  (let v := f.var.toNat
   let rel := release s e
   let scp := f.imm.toNat / 4 % 4
   let answered := ∀ p ∈ e.ag.ports.toList, p.reqs = []
   let quiet := allAccepted e = true ∧ e.ag.tsts = [] ∧ answered
   let still := allAccepted e = true ∧ e.ag.tsts = [] ∧ (∀ c ∈ e.ag.cos.toList, coSt c ≠ 1)
   let stopped := ∃ n < 32, coStp (e.co n) = true
   (v ≤ 2 → quiet → refusal e = none → Completes (.phase f) s e (acquire rel.1 rel.2 v) rel.2)
   ∧ (v ≤ 2 → ¬ quiet → Holds (.phase f) s e .free)
   ∧ (2 < v → Traps (.phase f) s e .instr (wordOf 0x92 f))
   ∧ (∀ p st c, v ≤ 2 → quiet → refusal e = some (p, st, c) → Traps (.phase f) s e (.tooOld st p (some c)) (wordOf 0x92 f))
   ∧ (v = 0 → scp ≠ 3 → refusal e = none → Completes (.fence f) s e rel.1 rel.2)
   ∧ (v = 1 → scp ≠ 3 → refusal e = none → Completes (.fence f) s e (acquire s e scp) e)
   ∧ (v = 2 → scp ≠ 3 → refusal e = none → answered → Completes (.fence f) s e (acquire rel.1 rel.2 scp) rel.2)
   ∧ (v = 2 → scp ≠ 3 → ¬ answered → Holds (.fence f) s e .free)
   ∧ (v = 3 → refusal e = none → ¬ stopped → still → Completes (.fence f) s e s e)
   ∧ (v = 3 → ¬ stopped → ¬ still → Holds (.fence f) s e .free)
   ∧ (∀ n < 32, v = 3 → coStp (e.co n) = true → (∀ m < n, coStp (e.co m) = false) →
      Traps (.fence f) s e (engineTrap e n) (wordOf 0x93 f))
   ∧ (∀ p st c, refusal e = some (p, st, c) →
      ((v ≤ 1 ∨ v = 2 ∧ answered) ∧ scp ≠ 3) ∨ (v = 3 ∧ ¬ stopped ∧ still) → Traps (.fence f) s e (.tooOld st p (some c)) (wordOf 0x93 f))
   ∧ (3 < v ∨ v ≤ 2 ∧ scp = 3 → Traps (.fence f) s e .instr (wordOf 0x93 f)))

/-- R181, R355: `rcfnc` discards the cached records of one port, of all ports, or on a core those of every AG of a die, and those that the
AG's engine operations work through with them: what is discarded is marked to be read again; registers, queues and memory stay as they
are. -/
def Sys2Proof.Claim.RecordFence : Prop := ∀ (s : State) (e : Elem) (f : Fields), Runs s e →
  (let k := f.imm.toNat % 4
   let dropped := fun (a : AgPart) (named : Nat → Bool) =>
     { a with ports := a.ports.mapIdx (fun i p => if named i then { p with stale := true } else p),
              eng := a.eng.map (fun o => { o with ports := o.ports.mapIdx (fun i p => if named (o.portNo i) then { p with stale := true } else p) }) }
   (e.cls = .ag → f.var = 0 → Completes (.rcfnc f) s e s { e with ag := dropped e.ag (fun i => i == k) })
   ∧ (e.cls = .ag → f.var = 1 → Completes (.rcfnc f) s e s { e with ag := dropped e.ag (fun i => i < 4) })
   ∧ (e.cls = .fc → f.var = 2 → Legal e f onlyA none →
      Completes (.rcfnc f) s e { s with elems := s.elems.map (fun x =>
          if x.cls = .ag ∧ x.die = ((readDes s e f.a).pay.lane 0).toNat % 32 then
            { x with ag := dropped x.ag (fun i => i < 4) } else x) } e))

/-- R182 to R184: on an AG `qpsh` appends to a store queue, `qpop` takes the head of a load queue and `qwt` waits for counts; on a core
they work on message queue 0 to 63 of the command die. A word marked too old traps at `qpop`; an empty or a full queue holds issue. -/
def Obligations.Queues : Prop := ∀ (s : State) (e : Elem) (f : Fields), Runs s e →
  (let k := f.imm.toNat % 4
   let p := e.port k
   let m := f.imm.toNat % 64
   let r := readDes s e f.a
   let g : Fields := { f with ln := 0 }
   let cnt := if f.imm.toNat / 1024 % 64 = 0 then 1 else f.imm.toNat / 1024 % 64
   let mcnt := if f.imm.toNat / 1024 % 128 = 0 then 1 else f.imm.toNat / 1024 % 128
   (e.cls = .ag → f.var = 0 → Legal e f onlyA none → p.sq.length < 32 →
      ∃ w : CWord, Completes (.qpsh f) s e s (e.setPort k { p with sq := p.sq ++ [w] })
        ∧ w.pay = r.pay ∧ w.pz = (r.pz || e.flowP) ∧ w.tn = (r.tn || e.flowT))
   ∧ (e.cls = .ag → f.var = 0 → Legal e f onlyA none → 32 ≤ p.sq.length → Holds (.qpsh f) s e .count)
   ∧ (e.cls = .fc → f.var = 0 → Legal e f onlyA none → (s.mq m).length < 64 →
      Completes (.qpsh f) s e { s with mqs := Tab.set s.mqs m (s.mq m ++ [r]) } e)
   ∧ (e.cls = .fc → f.var = 0 → Legal e f onlyA none → 64 ≤ (s.mq m).length → Holds (.qpsh f) s e .count)
   ∧ (∀ x l, e.cls = .ag → f.var = 0 → Legal e g onlyD (badReg e f) → p.lq = x :: l → x.old = none →
      ∃ w : Reg, Completes (.qpop f) s e s ((writeDes e f.d w).setPort k { p with lq := l })
        ∧ (∀ n < 16, w.pay.lane n = if laneActive e g n then x.word.pay.lane n else (readDes s e f.d).pay.lane n)
        ∧ w.pz = destPz e f [{ pay := 0, pz := x.word.pz, tn := false }] (readDes s e f.d) (allActive e g)
        ∧ w.tn = destTn e f [{ pay := 0, pz := false, tn := x.word.tn }] (readDes s e f.d) (allActive e g))
   ∧ (∀ x l st c, e.cls = .ag → f.var = 0 → Legal e g onlyD (badReg e f) → p.lq = x :: l → x.old = some (st, c) →
      Traps (.qpop f) s e (.tooOld st k (some c)) (wordOf 0xA1 f))
   ∧ (e.cls = .ag → f.var = 0 → Legal e g onlyD (badReg e f) → p.lq = [] → Holds (.qpop f) s e .count)
   ∧ (∀ x l, e.cls = .fc → f.var = 0 → Legal e g onlyD (badReg e f) → s.mq m = x :: l →
      ∃ w : Reg, Completes (.qpop f) s e { s with mqs := Tab.set s.mqs m l } (writeDes e f.d w)
        ∧ ∀ n < 16, w.pay.lane n = if laneActive e g n then x.pay.lane n else (readDes s e f.d).pay.lane n)
   ∧ (e.cls = .fc → f.var = 0 → Legal e g onlyD (badReg e f) → s.mq m = [] → Holds (.qpop f) s e .count)
   ∧ (Agent e → f.var ≠ 0 → Traps (.qpsh f) s e .instr (wordOf 0xA0 f) ∧ Traps (.qpop f) s e .instr (wordOf 0xA1 f))
   ∧ (e.cls = .ag → f.var = 0 → cnt ≤ 32 → if cnt ≤ p.lq.length then Completes (.qwt f) s e s e else Holds (.qwt f) s e .count)
   ∧ (e.cls = .ag → f.var = 1 → cnt ≤ 32 → if p.sq.length + cnt ≤ 32 then Completes (.qwt f) s e s e else Holds (.qwt f) s e .count)
   ∧ (e.cls = .ag → f.var = 2 → p.sq = [] → if p.outst = 0 then Completes (.qwt f) s e s e else Holds (.qwt f) s e .free)
   ∧ (e.cls = .ag → f.var = 2 → p.sq ≠ [] → Holds (.qwt f) s e .count)
   ∧ (e.cls = .ag → 2 < f.var.toNat ∨ (f.var.toNat ≤ 1 ∧ 32 < cnt) → Traps (.qwt f) s e .instr (wordOf 0xA2 f))
   ∧ (e.cls = .fc → f.var = 0 → mcnt ≤ 64 → if mcnt ≤ (s.mq m).length then Completes (.qwt f) s e s e else Holds (.qwt f) s e .count)
   ∧ (e.cls = .fc → f.var = 1 → mcnt ≤ 64 →
        if (s.mq m).length + mcnt ≤ 64 then Completes (.qwt f) s e s e else Holds (.qwt f) s e .count)
   ∧ (e.cls = .fc → 1 < f.var.toNat ∨ 64 < mcnt → Traps (.qwt f) s e .instr (wordOf 0xA2 f)))

/-- R190, R186: `cwt` joins an operation that is done and holds issue while it is busy; `ctst` writes a tainted mask that says whether
it was done; of an object that is idle both are an illegal operand, and of one that has stopped or failed the engine's fault, which a failed
one joins first. A joined operation's stores are older than every store its agent issues afterwards (R263). -/
def Sys2Proof.Claim.EngineJoins : Prop := ∀ (s : State) (e : Elem) (f : Fields), Runs s e → Agent e → f.var = 0 →
  (let n := if e.cls = .fc then f.imm.toNat / 64 % 32 else f.imm.toNat / 64 % 8
   let c := e.co n
   let g : Fields := { f with ln := 0 }
   let taint : Reg := { pay := 0, pz := false, tn := true }
   let joined := e.join n s.orders
   let after : State := { s with orders := s.orders + 1 }
   let stopped := coStp c = true
   let failed := coStp c = false ∧ coSt c = 3
   (coStp c = false → coSt c = 2 → Completes (.cwt f) s e after joined)
   ∧ (coStp c = false → coSt c = 1 → Holds (.cwt f) s e .free)
   ∧ (coStp c = false → coSt c = 0 → Traps (.cwt f) s e (.operand f.a.toNat) (wordOf 0xA6 f))
   ∧ (stopped → Traps (.cwt f) s e (engineTrap e n) (wordOf 0xA6 f))
   ∧ (failed → EndsIn (engineTrap e n) (wordOf 0xA6 f) (.cwt f) s e after joined)
   ∧ (isMask f.d = true →
      (coStp c = false → coSt c = 1 → MaskLanes (.ctst f) s e g [taint] 0 (fun _ => false))
      ∧ (coStp c = false → coSt c = 2 →
        ∃ m : Mask, Completes (.ctst f) s e after (joined.setMask (maskNo f.d) m) ∧ m.tn = true
          ∧ ∀ k < 16, m.bits.getLsbD k = (laneActive e g k || (e.mask (maskNo f.d)).bits.getLsbD k))
      ∧ (coStp c = false → coSt c = 0 → Traps (.ctst f) s e (.operand f.d.toNat) (wordOf 0xA7 f))
      ∧ (stopped → Traps (.ctst f) s e (engineTrap e n) (wordOf 0xA7 f))
      ∧ (failed → EndsIn (engineTrap e n) (wordOf 0xA7 f) (.ctst f) s e after joined))
   ∧ (isMask f.d = false → Traps (.ctst f) s e (.operand f.d.toNat) (wordOf 0xA7 f))
   ∧ (engineTrap e n).ecause = 11 ∧ (engineTrap e n).restartable = coStp c
   ∧ joined.co n = 0 ∧ (∀ o ∈ joined.ag.eng, o.co ≠ n)
   ∧ (∀ k, k ≠ n → joined.co k = e.co k))

-- Time (spec 07) -----------------------------------------------------------------------------------------------------------------

/-- R192, R194 to R198: the interval clock is read into two registers, a stamp is the die's latest, and `stmp` waits until it is above
the last one; `cmtw` waits until the die's earliest exceeds its stamp; `tick` and `ivlm` read the tick of the launch and the status
of the interval. What is read of time is tainted; of the tick only under catch-up (R197). A die too wide traps (R193), and so do a stamp too far ahead, a poisoned one and a refusal recorded at
`cmtw`. That poison is judged before the value of the stamp (log 78), that on a core a queue which is not mapped is no queue (log 86), and that
a launch keeps the mode, origin and period that its queue had when its packet was read (log 158) are the model's readings. -/
def Obligations.ClockInstructions : Prop := ∀ (s : State) (e : Elem) (f : Fields), Runs s e → Agent e →
  (let n := if e.cls = .fc then 32 else e.die
   let d := s.die n
   let two := fun x => Payload.ofList [BitVec.ofNat 32 x, BitVec.ofNat 32 (x / 2 ^ 32)]
   let whole := fun (e : Elem) (r : BitVec 10) (p : Payload) (tn : Bool) =>
     writeDes e r { pay := p, pz := e.flowP, tn := tn || e.flowT }
   let a := readDes s e f.a
   let st := (a.pay.lane 0).toNat + (a.pay.lane 1).toNat * 2 ^ 32
   (f.var = 0 → f.d.toNat + 1 < e.cls.nState →
      Completes (.clkr f) s e s (whole (whole e f.d (two d.early) true) (f.d + 1) (two d.late) true))
   ∧ (f.var = 0 → e.cls.nState ≤ f.d.toNat + 1 → Traps (.clkr f) s e (.operand f.d.toNat) (wordOf 0xB0 f))
   ∧ (f.var = 0 → Legal e f onlyD (badReg e f) → d.tooWide = false → (∀ t, e.ag.stamp = some t → t < d.late) →
      Completes (.stmp f) s e s (whole { e with ag := { e.ag with stamp := some d.late } } f.d (two d.late) true))
   ∧ (∀ t, f.var = 0 → Legal e f onlyD (badReg e f) → d.tooWide = false → e.ag.stamp = some t → d.late ≤ t → Holds (.stmp f) s e .free)
   ∧ (f.var = 0 → Legal e f onlyD (badReg e f) → d.tooWide = true → Traps (.stmp f) s e (.widen d.width d.lim) (wordOf 0xB1 f))
   ∧ (f.var.toNat ≤ 1 → Legal e f onlyA none → d.tooWide = false → a.pz = false → st ≤ d.late + 2 ^ 30 →
      (refusal e = none → if st < d.early ∧ (f.var = 1 → allDry s e st = true) then Completes (.cmtw f) s e s e else Holds (.cmtw f) s e .free)
      ∧ (∀ p t c, refusal e = some (p, t, c) → Traps (.cmtw f) s e (.tooOld t p (some c)) (wordOf 0xB2 f)))
   ∧ (f.var.toNat ≤ 1 → Legal e f onlyA none →
      (d.tooWide = true → Traps (.cmtw f) s e (.widen d.width d.lim) (wordOf 0xB2 f))
      ∧ (d.tooWide = false → a.pz = true → Traps (.cmtw f) s e (.poison 0 f.d.toNat 0) (wordOf 0xB2 f))
      ∧ (d.tooWide = false → a.pz = false → d.late + 2 ^ 30 < st → Traps (.cmtw f) s e (.operand f.a.toNat) (wordOf 0xB2 f)))
   ∧ (f.var ≠ 0 → Traps (.clkr f) s e .instr (wordOf 0xB0 f) ∧ Traps (.stmp f) s e .instr (wordOf 0xB1 f)
        ∧ Traps (.tick f) s e .instr (wordOf 0xB3 f))
   ∧ (1 < f.var.toNat → Traps (.cmtw f) s e .instr (wordOf 0xB2 f) ∧ Traps (.ivlm f) s e .instr (wordOf 0xB4 f))
   ∧ (f.var = 1 → e.cls = .ag → Traps (.ivlm f) s e .instr (wordOf 0xB4 f))
   ∧ (f.var = 0 → Legal e f onlyD (badReg e f) → e.cls = .ag →
      (let g := s.region e.rgn
       Completes (.tick f) s e s (whole e f.d (tickLanes g.clk g.tick) (g.clk.tmod == 2))))
   ∧ (f.var = 0 → Legal e f onlyD (badReg e f) → e.cls = .fc → (s.queue (f.imm.toNat % 4096)).mapped = true →
      (let q := s.queue (f.imm.toNat % 4096)
       Completes (.tick f) s e s (whole e f.d (tickLanes (Clk.of q.desc) q.released) (qdTmod q.desc == 2))))
   ∧ (f.var = 0 → Legal e f onlyD (badReg e f) → e.cls = .fc → (s.queue (f.imm.toNat % 4096)).mapped = false →
      Traps (.tick f) s e (.operand f.a.toNat) (wordOf 0xB3 f))
   ∧ (f.var = 0 → Legal e f onlyD (badReg e f) → e.cls = .ag →
      Completes (.ivlm f) s e s (whole e f.d ((s.die e.die).status e.die) true))
   ∧ (f.var = 0 → Legal e f usesA (badReg e f) → e.cls = .fc → (a.pay.lane 0).toNat % 64 ≤ 32 →
      (let k := (a.pay.lane 0).toNat % 64
       Completes (.ivlm f) s e s
         (writeDes e f.d { pay := (s.die k).status k, pz := a.pz || e.flowP, tn := true })))
   ∧ (e.cls = .fc → 32 < (a.pay.lane 0).toNat % 64 → (f.var = 0 → Legal e f usesA (badReg e f) → Traps (.ivlm f) s e (.operand f.a.toNat) (wordOf 0xB4 f))
        ∧ (f.var = 1 → Legal e f onlyAB none → Traps (.ivlm f) s e (.operand f.a.toNat) (wordOf 0xB4 f)))
   ∧ (e.cls = .fc → f.var = 1 → Legal e f onlyAB none → (a.pay.lane 0).toNat % 64 ≤ 32 →
      ((readDes s e f.b).pay.lane 0).toNat < 100 ∨ 100000 < ((readDes s e f.b).pay.lane 0).toNat →
      Traps (.ivlm f) s e (.operand f.b.toNat) (wordOf 0xB4 f))
   ∧ (f.var = 1 → Legal e f onlyAB none → e.cls = .fc → (a.pay.lane 0).toNat % 64 ≤ 32 →
      100 ≤ ((readDes s e f.b).pay.lane 0).toNat → ((readDes s e f.b).pay.lane 0).toNat ≤ 100000 →
      (let k := (a.pay.lane 0).toNat % 64
       Completes (.ivlm f) s e (changeDie s k { s.die k with lim := ((readDes s e f.b).pay.lane 0).toNat }) e)))

-- Ruling arrays (spec 07) -----------------------------------------------------------------------------------------------------------

/-- R200 to R205, R208: the configuration pointer, the three forms of a write at it, the clearing of an array, and the chaining of a
pair; a record is scored when it is fed, and its result stands in the array until it is ready: bit b of a column's mask remains where the
column, or the head of its chained pair, is on, b is below its leaf count, and each enabled cell of the column that fails has bit b in its
mask; a cell fails by its missing direction where its feature is a NaN, and else where the feature is not below its threshold. A pointer, a column or a word that
breaks its rule is an illegal operand; a control word and a poisoned word raise their faults, and nothing is written; while a record is in
the array or a result waits, the configuration holds issue. -/
def Sys2Proof.Claim.RulingConfiguration : Prop := ∀ (s : State) (e : Elem) (f : Fields), Runs s e → e.cls = .ra →
  (let v := f.var.toNat
   let r := e.ra
   let p : BitVec 14 := f.imm.extractLsb' 0 14
   let ix := r.ptr.toNat % 4096
   let a := readDes s e f.a
   let c := f.imm.toNat % 64
   let ch := desChan f.a
   let x := e.slot ch 0
   let y := e.slot ch 1
   let still := r.rq = [] ∧ r.pipe = []
   let sets := fun (i : Instr) (q : RaPart) => Completes i s e s { e with ra := q }
   let source := 1 ≤ v ∧ v ≤ 3 ∧ (f.wa = 0 ∨ isSlot f.a = true) ∧ ruleSrc e f.a = true ∧ r.ptr.toNat / 4096 + 1 = v ∧ inWait e f.a f.wa = true
   let word := (e.slot ch (desOfs f.a))
   let isWord := isSlot f.a = true → word.isData = true
   let fits := (v = 1 → ∀ j < 4, cellOk (wordCell a.pay j) = true) ∧ (v = 2 → ∀ j < 16, descOk (a.pay.lane j) = true)
   let operand := fun (i : Instr) (op : BitVec 8) => Traps i s e (.operand f.a.toNat) (wordOf op f)
   let fed := isSlot f.a = true ∧ desOfs f.a = 0 ∧ slotOk e ch 0 = true ∧ entFmt (e.inch ch).ent = 19
   let full := r.rq.length + r.pipe.length < 8 ∧ 2 ≤ r.since
   let fails := fun (cell : BitVec 128) =>
     (let fix := cell.toNat % 64
      let q := Fmt.decode .bf16 (if fix < 32 then elemAt .bf16 x.pay fix else elemAt .bf16 y.pay (fix - 32))
      if q.isNaN then cell.getLsbD 14 else !(q.lt (Fmt.decode .bf16 (cell.toNat / 2 ^ 16 % 2 ^ 16))))
   let record := x.isData = true ∧ x.lr = false ∧ y.isData = true ∧ y.lr = true
   (v = 0 → if ptrOk p = true then sets (.tacf f) { r with ptr := p } else operand (.tacf f) 0xC0)
   ∧ (v = 4 → still → sets (.tacf f) { r with cells := [], descs := [], leaves := [], ptr := 0 })
   ∧ (v = 4 ∨ source → ¬ still → Holds (.tacf f) s e .free)
   ∧ (4 < v → Traps (.tacf f) s e .instr (wordOf 0xC0 f))
   ∧ (1 ≤ v → v ≤ 3 → (f.wa = 0 ∨ isSlot f.a = true) → ruleSrc e f.a = false ∨ r.ptr.toNat / 4096 + 1 ≠ v → operand (.tacf f) 0xC0)
   ∧ (source → still → ¬ isWord → ∃ k, Traps (.tacf f) s e (.align ch none k) (wordOf 0xC0 f))
   ∧ (source → still → isWord → a.pz = true → Traps (.tacf f) s e (.poison 0 f.d.toNat 0) (wordOf 0xC0 f))
   ∧ (source → still → isWord → a.pz = false → ¬ fits → operand (.tacf f) 0xC0)
   ∧ (source → still → isWord → a.pz = false →
      (v = 1 → (∀ j < 4, cellOk (wordCell a.pay j) = true) → sets (.tacf f)
        { r with cells := (List.range 4).foldl (fun t j => Tab.set t (ix + j) (wordCell a.pay j)) r.cells,
                 ptr := BitVec.ofNat 14 ((ix + 4) % 4096) })
      ∧ (v = 2 → (∀ j < 16, descOk (a.pay.lane j) = true) → sets (.tacf f)
        { r with descs := (List.range 16).foldl (fun t j => Tab.set t (ix + j) (a.pay.lane j)) r.descs,
                 ptr := BitVec.ofNat 14 (4096 + (ix + 16) % 64) })
      ∧ (v = 3 → sets (.tacf f)
        { r with leaves := (List.range 16).foldl (fun t j => Tab.set t (ix + j) (a.pay.lane j)) r.leaves,
                 ptr := BitVec.ofNat 14 (8192 + (ix + 16) % 4096) }))
   ∧ (1 < v → Traps (.tach f) s e .instr (wordOf 0xC4 f))
   ∧ (v ≤ 1 → c % 2 = 1 → operand (.tach f) 0xC4)
   ∧ (v ≤ 1 → c % 2 = 0 → ¬ still → Holds (.tach f) s e .free)
   ∧ (v ≤ 1 → c % 2 = 0 → still → ∃ d : BitVec 32, sets (.tach f) { r with descs := Tab.set r.descs c d }
        ∧ ∀ k, k < 32 → d.getLsbD k = if k = 8 then v = 0 else (r.desc c).getLsbD k)
   ∧ (f.var ≠ 0 → Traps (.tafd f) s e .instr (wordOf 0xC1 f))
   ∧ (f.var = 0 → (f.wa = 0 ∨ isSlot f.a = true) → ¬ fed → operand (.tafd f) 0xC1)
   ∧ (f.var = 0 → fed → (e.inch ch).q.length < max 2 f.wa.toNat → Holds (.tafd f) s e .slots)
   ∧ (f.var = 0 → fed → max 2 f.wa.toNat ≤ (e.inch ch).q.length → ¬ full → Holds (.tafd f) s e .free)
   ∧ (f.var = 0 → fed → max 2 f.wa.toNat ≤ (e.inch ch).q.length → full → ¬ record →
      ∃ k, Traps (.tafd f) s e (.align ch none k) (wordOf 0xC1 f))
   ∧ (f.var = 0 → fed → max 2 f.wa.toNat ≤ (e.inch ch).q.length → full → record →
      ∃ z : RqEntry, sets (.tafd f) { r with pipe := r.pipe ++ [z], since := 0 }
        ∧ (∀ k < 64, ∀ b < 64, (z.m.getD k 0).getLsbD b = true ↔
            ((r.desc (if (r.desc (k / 2 * 2)).getLsbD 8 then k / 2 * 2 else k)).getLsbD 7 = true ∧ b < (r.desc k).toNat % 128
              ∧ ∀ row < 64, (r.cell row k).getLsbD 15 = true → fails (r.cell row k) = true → (r.cell row k).getLsbD (64 + b) = true))
        ∧ z.pz = (x.pz || y.pz || e.flowP) ∧ z.tn = (x.tn || y.tn || e.flowT)))

/-- R203, R206 to R208: the oldest result is read as masks or as codes, or its leaf values are summed in column order after C[0]: the exit
of a column is the lowest bit of its mask, for the head of a chained pair else 64 and the lowest bit of the next column's, and an empty
column counts as a NaN. `talv.pop` removes it, and an empty result queue holds issue. A group of masks that starts at no multiple of 8, and a base that is no state
register, constant or slot, are illegal operands. -/
def Sys2Proof.Claim.RulingResults : Prop := ∀ (s : State) (e : Elem) (f : Fields), Runs s e → e.cls = .ra → badReg e f = none →
  (let v := f.var.toNat
   let r := e.ra
   let c := f.imm.toNat % 64
   let cc := readDes s e f.c
   let head := fun k => (r.desc (k / 2 * 2)).getLsbD 8
   let scores := fun k => (r.desc (if head k then k / 2 * 2 else k)).getLsbD 7
   let upper := fun k => head k && k % 2 == 1
   let cols := (List.range 64).filter (fun k => scores k && !upper k)
   let lowest := fun (m : BitVec 64) b => b < 64 ∧ m.getLsbD b = true ∧ ∀ j < b, m.getLsbD j = false
   let exits := fun (m : List (BitVec 64)) k b => lowest (m.getD k 0) b
     ∨ (head k = true ∧ m.getD k 0 = 0 ∧ 64 ≤ b ∧ lowest (m.getD (k + 1) 0) (b - 64))
   let empty := fun (m : List (BitVec 64)) k => m.getD k 0 = 0 ∧ (head k = true → m.getD (k + 1) 0 = 0)
   let from_ := f.c = 0x0FF ∨ isState e f.c = true ∨ f.c.toNat / 256 = 1 ∨ isSlot f.c = true
   let reads := Legal e f onlyD none
   let sums := Legal e f { a := false, b := false, c := f.c != 0x0FF, d := true } none
   (1 < v → Traps (.tamk f) s e .instr (wordOf 0xC2 f) ∧ Traps (.talv f) s e .instr (wordOf 0xC3 f))
   ∧ (v = 0 → reads → c % 8 ≠ 0 → Traps (.tamk f) s e (.operand f.a.toNat) (wordOf 0xC2 f))
   ∧ (v ≤ 1 → reads → (v = 0 → c % 8 = 0) → r.rq = [] → Holds (.tamk f) s e .free)
   ∧ (v ≤ 1 → sums → from_ → r.rq = [] → Holds (.talv f) s e .free)
   ∧ (v ≤ 1 → sums → ¬ from_ → Traps (.talv f) s e (.operand f.c.toNat) (wordOf 0xC3 f))
   ∧ (∀ z l, v ≤ 1 → reads → r.rq = z :: l →
      (v = 0 → c % 8 = 0 → ∃ w : Reg, Completes (.tamk f) s e s (writeDes e f.d w) ∧ w.pz = (z.pz || e.flowP) ∧ w.tn = (z.tn || e.flowT)
        ∧ ∀ n < 16, w.pay.lane n = (z.m.getD (c + n / 2) 0).extractLsb' (32 * (n % 2)) 32)
      ∧ (v = 1 → ∃ w : Reg, Completes (.tamk f) s e s (writeDes e f.d w)
        ∧ w.pz = (z.pz || e.flowP) ∧ w.tn = (z.tn || e.flowT)
        ∧ ∀ k < 64, (let x := w.pay.toNat / 2 ^ (8 * k) % 256
            (upper k = true → x = 0xFE) ∧ (upper k = false → scores k = false → x = 0xFD)
            ∧ (upper k = false → scores k = true → (∀ b, exits z.m k b → x = b) ∧ (empty z.m k → x = 0xFF)))))
   ∧ (∀ z l, v ≤ 1 → sums → from_ → r.rq = z :: l →
      ∃ (w : Reg) (leaf : Nat → Nat), Completes (.talv f) s e s
          (let y := writeDes e f.d w; if v = 0 then { y with ra := { r with rq := l } } else y)
        ∧ (∀ k ∈ cols, (∀ b, exits z.m k b → leaf k = (r.leaf (k + b / 64) (b % 64)).toNat) ∧ (empty z.m k → leaf k = 0x7FC00000))
        ∧ w.pay.lane 0 = BitVec.ofNat 32 (cols.foldl (fun t k => sum32 t (leaf k)) (cc.pay.lane 0).toNat)
        ∧ w.pay.lane 1 = BitVec.ofNat 32 cols.length ∧ (∀ k < 16, 2 ≤ k → w.pay.lane k = 0)
        ∧ w.pz = (z.pz || cc.pz || e.flowP) ∧ w.tn = (z.tn || cc.tn || e.flowT)))

-- Taint, poison, traps and the system (spec 07) ---------------------------------------------------------------------------------------

/-- R209 to R211: the taint and the poison of an operand are tested into a mask that does not carry the bit tested, and `tntc` clears
the taint of a word, of a mask or of the firing. The mask of `pzt` has the taint of its operand, whatever the flow bits and `pm` say; that
`.fl`, which reads none, leaves 0 there is the model's reading (log 123). -/
def Sys2Proof.Claim.TaintAndPoison : Prop := ∀ (s : State) (e : Elem) (f : Fields), Runs s e → IntUnit e →
  (let a := srcA s e f
   let k := maskNo f.d
   (f.var = 0 → f.ln ≠ 3 → isMask f.d = true → Legal e f onlyA none →
      MaskLanes (.tntt f) s e f [{ a with tn := false }] 0 (fun _ => a.tn))
   ∧ (f.var = 0 → f.ln ≠ 3 → Legal e f usesA (badReg e f) →
      ∃ w : Reg, Completes (.tntc f) s e s (writeDes (writeDes e f.d w) f.d { w with tn := false })
        ∧ (∀ n < 16, w.pay.lane n = if laneActive e f n then a.pay.lane n else (readDes s e f.d).pay.lane n)
        ∧ w.pz = destPz e f [a] (readDes s e f.d) (allActive e f))
   ∧ (f.var = 1 → isMask f.d = true → Completes (.tntc f) s e s (e.setMask k { e.mask k with tn := false }))
   ∧ (f.var = 2 → Completes (.tntc f) s e s { e with run := { e.run with ft := false } })
   ∧ (f.ln ≠ 3 → isMask f.d = true → f.var.toNat ≤ 1 → (f.var = 0 → Legal e f onlyA none) → (f.var = 1 → Legal e f noUses none) →
      ∃ m : Mask, Completes (.pzt f) s e s (e.setMask k m) ∧ m.pz = false ∧ m.tn = (if f.var = 1 then false else a.tn)
        ∧ ∀ n < 16, m.bits.getLsbD n = if laneActive e f n then (if f.var = 1 then e.flowP else a.pz) else (e.mask k).bits.getLsbD n)
   ∧ (isMask f.d = false → (f.var = 1 → Traps (.tntc f) s e (.operand f.d.toNat) (wordOf 0xD1 f))
        ∧ (f.ln ≠ 3 → f.var = 0 → Legal e f onlyA none → Traps (.tntt f) s e (.operand f.d.toNat) (wordOf 0xD0 f)
             ∧ Traps (.pzt f) s e (.operand f.d.toNat) (wordOf 0xD2 f)))
   ∧ (f.var ≠ 0 → Traps (.tntt f) s e .instr (wordOf 0xD0 f))
   ∧ (2 < f.var.toNat → Traps (.tntc f) s e .instr (wordOf 0xD1 f))
   ∧ (1 < f.var.toNat → Traps (.pzt f) s e .instr (wordOf 0xD2 f)))

/-- R212, R213: a core's access to regions and to the configuration: `snap.st` and `confr` read, `conf` writes the item that A names of
an element whose region is stopped, and `snap.inj` starts a snapshot of a region that takes none. A region or an item that is not there,
an element that is not stopped, a value the item does not take, and a second snapshot are illegal operands, and nothing is written. -/
def Sys2Proof.Claim.ConfigurationAccess : Prop := ∀ (s : State) (e : Elem) (f : Fields), Runs s e → e.cls = .fc →
  (let a := readDes s e f.a
   let b := readDes s e f.b
   let r := (a.pay.lane 0).toNat
   let whole := fun (p : Payload) (pz tn : Bool) => writeDes e f.d { pay := p, pz := pz, tn := tn }
   (f.var = 1 → Legal e f usesA (badReg e f) → regionNamed s r = true → Completes (.snap f) s e s (whole (Payload.ofList
        [BitVec.ofNat 32 (toRecord s r), BitVec.ofNat 32 (((s.region r).last.map Snap.mkn).getD 0)]) a.pz true))
   ∧ (f.var = 0 → Legal e f onlyA none → regionNamed s r = true → (s.region r).snap = none →
      Completes (.snap f) s e (completeSnap (injectSnap s r (a.pay.lane 1).toNat) r) e)
   ∧ (∀ n x i, f.var = 0 → Legal e f usesA (badReg e f) → confTarget s e f = some (n, x, i) →
      Completes (.confr f) s e s (whole (itemGet x i).pay (itemGet x i).pz (itemGet x i).tn))
   ∧ (∀ n x i y, f.var = 0 → Legal e f onlyAB none → confTarget s e f = some (n, x, i) → confStopped s x = true → itemPut x b i = some y →
      Completes (.conf f) s e (s.setUnit (.el n) y) e)
   ∧ (f.var = 0 → Legal e f onlyAB none →
      confTarget s e f = none ∨ (∃ n x i, confTarget s e f = some (n, x, i) ∧ (confStopped s x = false ∨ itemPut x b i = none)) →
      Traps (.conf f) s e (.operand f.a.toNat) (wordOf 0xD4 f))
   ∧ (f.var = 0 → Legal e f usesA (badReg e f) → confTarget s e f = none → Traps (.confr f) s e (.operand f.a.toNat) (wordOf 0xD5 f))
   ∧ (f.var = 0 → Legal e f onlyA none → regionNamed s r = false ∨ (s.region r).snap ≠ none →
      Traps (.snap f) s e (.operand f.a.toNat) (wordOf 0xD3 f))
   ∧ (f.var = 1 → Legal e f usesA (badReg e f) → regionNamed s r = false → Traps (.snap f) s e (.operand f.a.toNat) (wordOf 0xD3 f))
   ∧ (1 < f.var.toNat → Traps (.snap f) s e .instr (wordOf 0xD3 f))
   ∧ (f.var ≠ 0 → Traps (.conf f) s e .instr (wordOf 0xD4 f) ∧ Traps (.confr f) s e .instr (wordOf 0xD5 f)))

/-- R214, R221, R224, R52, R215, R217: `trap`, `xtrap` and, in debug, `bkpt` are taken by a core whose handler is not running: the
saved address is the next word's for `trap` and `bkpt`, the word's own for `xtrap`; cause and value as R217 gives. -/
def Sys2Proof.Claim.CoreTrapInstructions : Prop := ∀ (s : State) (e : Elem) (f : Fields) (n : Nat), s.cur = .fc n → Runs s e → e.cls = .fc →
  e.fc.inh = false →
  (let enters := fun (i : Instr) (epc cause value : Nat) =>
     exec i s = .next (s.setUnit (.fc n) { e with
       fc := { e.fc with epc := BitVec.ofNat 32 epc, ecause := BitVec.ofNat 32 cause, eval := BitVec.ofNat 64 value, estat := e.fc.cstat,
                         cstat := e.fc.cstat ||| 1 },
       run := { e.run with pos := e.fc.tvec.toNat } })
   (f.var = 0 → enters (.trap f) e.nextPos 5 (f.imm.toNat % 65536))
   ∧ (f.var = 0 → e.fc.dbg = true → enters (.bkpt f) e.nextPos 6 0)
   ∧ (f.var = 0 → e.fc.dbg = false → Completes (.bkpt f) s e s e)
   ∧ enters (.xtrap f) e.run.pos 4 (f.imm.toNat + f.var.toNat * 2 ^ 24 + f.d.toNat * 2 ^ 28))

/-- R214, R221, R380: on an element `trap` and `xtrap` raise a fault that halts the region, and `bkpt` one that stops the element and
may be resumed, where its launch asks for debugging; otherwise it does nothing. -/
def Sys2Proof.Claim.ElementTrapInstructions : Prop := ∀ (s : State) (e : Elem) (f : Fields), Runs s e → e.cls ≠ .fc →
  (IntUnit e → f.var = 0 → Traps (.trap f) s e (.soft (f.imm.toNat % 65536)) (wordOf 0xE0 f))
  ∧ Traps (.xtrap f) s e (.xtrap f.var.toNat f.d.toNat f.imm.toNat) (wordOf 0xFF f)
  ∧ (IntUnit e → f.var = 0 → (s.region e.rgn).dbg = true → Traps (.bkpt f) s e .brk (wordOf 0xE8 f))
  ∧ (IntUnit e → f.var = 0 → (s.region e.rgn).dbg = false → Completes (.bkpt f) s e s e)

/-- R215, R407, R409: a trap while traps are inhibited stops the core and posts event 4. Of core 14 it ends an update under way, and its core
stays stopped; of the nib pair it restarts the pair from the image and is counted, and the third within 1 s puts the module into its safe
state. -/
def Sys2Proof.Claim.TrapWhileInhibited : Prop := ∀ (s : State) (e : Elem) (f : Fields) (n : Nat), s.cur = .fc n → Runs s e → e.cls = .fc →
  e.fc.inh = true → f.var = 0 →
  (let recent := s.misAt.filter (fun t => decide (s.now < t + 1000000000))
   (n ≠ 0 → n ≠ 14 ∨ s.fw.canary = none →
      exec (.trap f) s = .next (postEvent (s.setUnit (.fc n) { e with fc := { e.fc with halted := true } }) 4 n (srcNum 32 8 n)))
   ∧ (n = 14 → ∀ x, s.fw.canary = some x → ∃ t e', exec (.trap f) s = .next t ∧ t.fw.canary = none ∧ t.fw.image = s.fw.image
      ∧ t.cores[14]? = some e' ∧ e'.fc.halted = true)
   ∧ (n = 0 → ∃ t e', exec (.trap f) s = .next t ∧ t.cmis = (s.cmis + 1) % 65536 ∧ (t.safe = true ↔ s.safe = true ∨ 2 ≤ recent.length)
      ∧ t.cores[0]? = some e' ∧ e'.fc.halted = false ∧ e'.run.pos = leNat ((s.fw.image.drop 16).take 4)))

/-- R216, R53, R408: the system registers that may be read or written, each as its row gives it. Every other number, and a read of a
write-only or a write of a read-only register, traps. -/
def Sys2Proof.Claim.SystemRegisters : Prop := ∀ (s : State) (e : Elem) (f : Fields), Runs s e → e.cls = .fc → f.var = 0 →
  (let n := f.imm.toNat % 4096
   let p := (readDes s e f.a).pay
   let lo := p.lane 0
   let reads := fun (x : Nat) (tn : Bool) => Completes (.sysr f) s e s (writeDes e f.d
      { pay := Payload.ofList [BitVec.ofNat 32 x, BitVec.ofNat 32 (x / 2 ^ 32)], pz := false, tn := tn })
   let writes := fun (c : FcPart) => Completes (.sysw f) s e s { e with fc := c }
   let c := e.fc
   (Legal e f onlyD (badReg e f) →
      (n = 0x000 → reads c.cstat.toNat false) ∧ (n = 0x001 → reads c.tvec.toNat false) ∧ (n = 0x002 → reads c.epc.toNat false)
      ∧ (n = 0x003 → reads c.ecause.toNat false) ∧ (n = 0x004 → reads c.eval.toNat false) ∧ (n = 0x005 → reads c.estat.toNat false)
      ∧ (n = 0x010 → reads e.act false) ∧ (n = 0x011 → reads c.cycl.toNat true) ∧ (n = 0x030 → reads c.evq.length true)
      ∧ (n = 0x020 ∨ n = 0x021 → Traps (.sysr f) s e .instr (wordOf 0xE2 f))
      ∧ (sysListed n = false → Traps (.sysr f) s e (.operand f.a.toNat) (wordOf 0xE2 f)))
   ∧ (Legal e f onlyA none →
      (n = 0x000 → writes { c with cstat := lo &&& 3 }) ∧ (n = 0x001 → writes { c with tvec := lo }) ∧ (n = 0x002 → writes { c with epc := lo })
      ∧ (n = 0x003 → writes { c with ecause := lo }) ∧ (n = 0x004 → writes { c with eval := p.lane 1 ++ lo })
      ∧ (n = 0x005 → writes { c with estat := lo &&& 3 })
      ∧ (n = 0x010 ∨ n = 0x011 ∨ n = 0x030 → Traps (.sysw f) s e .instr (wordOf 0xE3 f))
      ∧ (sysListed n = false → Traps (.sysw f) s e (.operand f.a.toNat) (wordOf 0xE3 f))
      ∧ Completes (.icacheFlush f) s e s { e with fc := { c with icache := [] } }
      ∧ Completes (.heartbeatWrite f) s e s { e with fc := { c with beat := some 0 } }))

/-- R219: `idle` goes on when an event stands in the core's queue or its time has passed, and otherwise stays; `evrd` takes the oldest
event, or leaves zero; an event that waited for room enters. What it leaves is tainted. -/
def Sys2Proof.Claim.EventInstructions : Prop := ∀ (s : State) (e : Elem) (f : Fields), Runs s e → e.cls = .fc → f.var = 0 →
  (let t := f.imm.toNat
   let past := ∃ at', e.fc.idleAt = some at' ∧ t ≠ 0 ∧ at' + 1000 * t ≤ s.now
   let waits := fun (i : Instr) => EndsBy .stay i s e s { e with fc := { e.fc with idleAt := some (e.fc.idleAt.getD s.now) } }
   (e.fc.evq ≠ [] ∨ past → Completes (.idle f) s e s { e with fc := { e.fc with idleAt := none } })
   ∧ (e.fc.evq = [] → ¬ past → waits (.idle f))
   ∧ (Legal e f onlyD (badReg e f) → e.fc.evq = [] → Completes (.evrd f) s e s (writeDes e f.d { pay := 0, pz := false, tn := true }))
   ∧ (∀ ev l w, Legal e f onlyD (badReg e f) → e.fc.evq = ev :: l → s.evwait.find? (fun w => w.1 == e.act) = some w →
      Completes (.evrd f) s e { s with evwait := s.evwait.erase w }
        (writeDes { e with fc := { e.fc with evq := l ++ [w.2] } } f.d { pay := ev.setWidth 512, pz := false, tn := true }))
   ∧ (∀ ev l, Legal e f onlyD (badReg e f) → e.fc.evq = ev :: l → (∀ w ∈ s.evwait, w.1 ≠ e.act) →
      Completes (.evrd f) s e s (writeDes { e with fc := { e.fc with evq := l } } f.d { pay := ev.setWidth 512, pz := false, tn := true })))

/-- R220, R161, R174, R262, R379, R411: `ldp` reads 4, 8 or 64 bytes of memory as the core's own stores leave them, or a register;
`stp` becomes one of the core's stores, published by its next release. A place that is not mapped, or a write of flash, is a bounds
trap; poison of the data or of the address is poison consumption. A read waits while the slice it goes to is held by a record that its
full ring has not taken (log 145). -/
def Obligations.PhysicalMemory : Prop := ∀ (s : State) (e : Elem) (f : Fields), Runs s e → e.cls = .fc → f.var.toNat ≤ 2 →
  (let a := readDes s e f.a
   let b := readDes s e f.b
   let addr := (a.pay.lane 0).toNat + (a.pay.lane 1).toNat * 2 ^ 32
   let size := if f.var = 0 then 64 else if f.var = 1 then 4 else 8
   let home := homeRead (l2Fill s addr 0) e addr size
   let whole := fun (p : Payload) (pz tn : Bool) => writeDes e f.d { pay := p, pz := pz, tn := tn }
   (Legal e f usesA (badReg e f) → a.pz = false → placeOf s addr size = some .memory ∨ placeOf s addr size = some .flash →
      if homeHeld s 32 addr then Holds (.ldp f) s e .free
      else Completes (.ldp f) s e home.1 (whole (BitVec.ofNat 512 home.2.1) home.2.2.pz (home.2.2.tn || a.tn)))
   ∧ (∀ r, Legal e f usesA (badReg e f) → a.pz = false → placeOf s addr size = some (.register r) →
      Completes (.ldp f) s e s (whole (BitVec.ofNat 512 (regRead s r)) false a.tn))
   ∧ (Legal e f usesA (badReg e f) → a.pz = false → placeOf s addr size = none → Traps (.ldp f) s e (.phys addr) (wordOf 0xE6 f))
   ∧ (Legal e f usesA (badReg e f) → a.pz = true →
      ∃ p, Completes (.ldp f) s e { s with freeCtr := s.freeCtr + 1 } (whole p true a.tn))
   ∧ (addr % size ≠ 0 ∨ (isOwn addr = true ∧ stampedFrame s addr = true)
        ∨ (isOwn addr = false ∧ isHost addr = false ∧ isFlash addr = false ∧ (isRegAddr addr = true → regAt addr size = none)) →
      placeOf s addr size = none)
   ∧ (addr % size = 0 → (isOwn addr = true ∧ stampedFrame s addr = false) ∨ (isOwn addr = false ∧ isHost addr = true) →
      placeOf s addr size = some .memory)
   ∧ (∀ p, Legal e f onlyAB none → a.pz = false → b.pz = false → placeOf s addr size = some p → p ≠ .flash →
      ∃ y : PStore, Completes (.stp f) s e { s with orders := s.orders + 1 } { e with ag := { e.ag with sb := e.ag.sb ++ [y], seq := e.ag.seq + 1 } }
        ∧ y.base = addr / 64 * 64 ∧ y.mask = byteMask (addr % 64) size ∧ y.acc = false ∧ y.rel = false ∧ y.tn = (a.tn || b.tn)
        ∧ y.data = BitVec.ofNat 512 (b.pay.toNat % 2 ^ (8 * size) * 2 ^ (8 * (addr % 64)))
        ∧ (y.reg = none ↔ p = .memory))
   ∧ (Legal e f onlyAB none → a.pz = false → b.pz = false → placeOf s addr size = none ∨ placeOf s addr size = some .flash →
      Traps (.stp f) s e (.phys addr) (wordOf 0xE7 f))
   ∧ (Legal e f onlyAB none → (a.pz || b.pz) = true → Traps (.stp f) s e (.poison 0 f.d.toNat addr) (wordOf 0xE7 f)))

/-- R223, R218, R222, R53: jumps, calls and returns of firmware, the return from a trap, and `halt`; a core at an address that is no
lead byte traps there, and a trap neither pushes nor pops a return address. -/
def Sys2Proof.Claim.FirmwareFlow : Prop := ∀ (s : State) (e : Elem) (f : Fields), Runs s e → e.cls = .fc →
  (let near := ((e.run.pos : Int) + f.imm.toInt) % 2 ^ 32
   let far := ((readDes s e f.a).pay.lane 0).toNat
   (f.var = 0 → EndsBy (.goto near.toNat) (.fjmp f) s e s e)
   ∧ (f.var = 1 → Legal e f onlyA none → EndsBy (.goto far) (.fjmp f) s e s e)
   ∧ (f.var = 0 → e.fc.rstack.length < 32 → EndsBy (.goto near.toNat) (.fcall f) s e s
        { e with fc := { e.fc with rstack := BitVec.ofNat 32 e.nextPos :: e.fc.rstack } })
   ∧ (f.var = 1 → Legal e f onlyA none → e.fc.rstack.length < 32 → EndsBy (.goto far) (.fcall f) s e s
        { e with fc := { e.fc with rstack := BitVec.ofNat 32 e.nextPos :: e.fc.rstack } })
   ∧ (32 ≤ e.fc.rstack.length → Traps (.fcall f) s e .instr (wordOf 0xEB f))
   ∧ (2 ≤ f.var.toNat → Traps (.fjmp f) s e .instr (wordOf 0xEA f) ∧ Traps (.fcall f) s e .instr (wordOf 0xEB f)
        ∧ Traps (.fret f) s e .instr (wordOf 0xEC f))
   ∧ (∀ r l, f.var = 0 → e.fc.rstack = r :: l → EndsBy (.goto r.toNat) (.fret f) s e s { e with fc := { e.fc with rstack := l } })
   ∧ (e.fc.rstack = [] → Traps (.fret f) s e .instr (wordOf 0xEC f))
   ∧ (f.var = 0 → e.fc.inh = true → EndsBy (.goto e.fc.epc.toNat) (.eret f) s e s
        { e with fc := { e.fc with cstat := e.fc.estat }, run := { e.run with pos := e.fc.epc.toNat } })
   ∧ (f.var = 0 → e.fc.inh = false → Traps (.eret f) s e .instr (wordOf 0xE1 f))
   ∧ (∀ n : Nat, s.cur = .fc n → (e.fc.halted || e.fc.dead) = false → e.fc.icache ≠ [] →
        e.fc.icache.find? (fun x => x.addr == e.run.pos) = none → unitTurn s = .next (takeTrap s s.cur e .instr 0))
   ∧ (∀ (n : Nat) (t : Trap) (w : BitVec 96), s.cur = .fc n → e.fc.inh = false →
        ∃ x : Elem, (takeTrap s s.cur e t w).unit s.cur = some x ∧ x.fc.rstack = e.fc.rstack)
   ∧ (f.var = 0 → Completes (.halt f) s e s { e with fc := { e.fc with halted := true } })
   ∧ (f.var ≠ 0 → Traps (.eret f) s e .instr (wordOf 0xE1 f) ∧ Traps (.halt f) s e .instr (wordOf 0xE9 f)))

/-- R222, R394, R395: `halt` on an element completes, halts every element of its region, whose state becomes 4, and posts the event
"region halted" with the code and the halting element's site: it is the next in the queue of the core that the route of its kind names,
where that has room. -/
def Sys2Proof.Claim.HaltOnElement : Prop := ∀ (s : State) (e : Elem) (f : Fields), Runs s e → IntUnit e → e.cls ≠ .fc → f.var = 0 →
  ∃ s1, Completes (.halt f) s e s1 e ∧ s1.mem = s.mem ∧ (∀ x ∈ s1.elems, x.rgn = e.rgn → x.halted = true)
    ∧ s1.elems.length = s.elems.length ∧ (e.rgn ≠ 0 → (s.region e.rgn).stt < 5 → (s1.region e.rgn).stt = 4)
    ∧ (s1.region e.rgn).hcode = some (f.imm.toNat % 65536)
    ∧ (∀ core x, core = (Tab.get (BitVec.ofNat 64 (defaultRoute 3)) s.routes 3).toNat % 32 → core ≠ 16 → s.cores[core]? = some x →
        x.fc.evq.length < 256 → (∀ w ∈ s.evwait, w.1 ≠ core) →
        ∃ (y : Elem) (ev : BitVec 256) (more : List (BitVec 256)), s1.cores[core]? = some y ∧ y.fc.evq = x.fc.evq ++ ev :: more
          ∧ ev.toNat / 2 ^ 32 % 2 ^ 16 = 3 ∧ ev.toNat % 2 ^ 32 = e.src
          ∧ ev.toNat / 2 ^ 96 % 2 ^ 64 = f.imm.toNat % 65536 + e.site.toNat * 65536
          ∧ ev.toNat / 2 ^ 160 % 2 ^ 32 = Tab.get 0 s.evseq e.src % 2 ^ 32)

-- Channels and flow within a firing (spec 03, 04) -----------------------------------------------------------------------------------------

/-- R90, R95, R99: `nop` does nothing, `wait` holds until its counts are met and does nothing else, and `cpeek` looks at a word without
consuming it. -/
def Obligations.WaitingAndPeeking : Prop := ∀ (s : State) (e : Elem) (f : Fields), Runs s e →
  (let inOk := fun (d : BitVec 10) => d = 0x0FF ∨ (isSlot d = true ∧ slotOk e (desChan d) (desOfs d) = true)
   let outs := f.d = 0x0FF ∨ (isOut f.d = true ∧ outOk e (desChan f.d) (desOfs f.d) = true)
   let kinds := (f.wa = 0 ∨ isSlot f.a = true) ∧ (f.wb = 0 ∨ isSlot f.b = true) ∧ (f.wd = 0 ∨ isOut f.d = true)
   let met := inWait e f.a f.wa = true ∧ inWait e f.b f.wb = true ∧ outWait e f.d f.wd = true
   let w := e.slot (desChan f.a) (desOfs f.a)
   Completes (.nop f) s e s e
   ∧ (e.cls ≠ .fc → f.var = 0 → kinds → inOk f.a → inOk f.b → outs → met → Completes (.wait f) s e s e)
   ∧ (e.cls ≠ .fc → (f.var ≠ 0 ∨ ¬ kinds → Traps (.wait f) s e .instr (wordOf 0x04 f))
        ∧ (f.var = 0 → kinds → ¬ (inOk f.a ∧ inOk f.b ∧ outs) → ∃ d, Traps (.wait f) s e (.operand d) (wordOf 0x04 f)))
   ∧ (e.cls = .fc → Traps (.wait f) s e .instr (wordOf 0x04 f) ∧ Traps (.cpeek f) s e .instr (wordOf 0x08 f))
   ∧ (e.cls ≠ .fc → f.var = 0 → kinds → inOk f.a → inOk f.b → outs → ¬ met → Holds (.wait f) s e .slots)
   ∧ (e.cls ≠ .fc → f.var = 0 → f.ln ≠ 3 → resolve e f.ty [f.a, f.d] ≤ 12 → isSlot f.a = true →
      Legal e f usesA none → regOrOut e f.d = true →
      Lanes (.cpeek f) s e f [wordReg w] 0 (fun n x =>
        x = if n = 0 then (if w.isCtl then w.pay.lane 0 else 0) else if n = 1 then (if w.isCtl then w.pay.lane 1 else 0)
            else if n = 2 then BitVec.ofNat 32 ((if w.lr then 2 else 0) + (if w.ls then 1 else 0)) else 0)))

/-- R101: a mask moved into a register leaves 1 in the lanes of its set bits and 0 in the others. -/
def Sys2Proof.Claim.MaskToLanes : Prop := ∀ (s : State) (e : Elem) (f : Fields), Runs s e → f.ln ≠ 3 → f.var = 1 →
  isMaskSrc f.a = true → regOrOut e f.d = true → (f.wd = 0 ∨ isOut f.d = true) → outWait e f.d f.wd = true →
  Lanes (.mskmv f) s e f [maskReg (e.mask (maskNo f.a))] 0 (fun n x => x = if (e.mask (maskNo f.a)).bits.getLsbD n then 1 else 0)

/-- R94, R97, R98, R72, R87: words are published in order on an output, which loses as many free slots; `give` gives the last word the
sideband its variant names, `ctlw` makes a control word and `cfwd` passes one on, to one output or to every output. An output without
room holds issue; a malformed argument is an illegal instruction, a data word where a control word is asked raises control misalignment,
and an `eoi` is not published while a refused stamped store is unreported (R172). -/
def Obligations.Publishing : Prop := ∀ (s : State) (e : Elem) (f : Fields), Runs s e → e.cls ≠ .fc →
  (let v := f.var.toNat
   let c := desChan f.d
   let n := if f.imm.toNat % 8 = 0 then 1 else f.imm.toNat % 8
   let src := e.slot (desChan f.a) (desOfs f.a)
   let outHead := isOut f.d = true ∧ desOfs f.d = 0 ∧ outOk e c 0 = true
   let inHere := isSlot f.a = true ∧ slotOk e (desChan f.a) (desOfs f.a) = true ∧ inWait e f.a f.wa = true
   let word := fun j (lr ls : Bool) => ({ pay := (e.staging c j).pay, lr := lr, ls := ls, pz := (e.staging c j).pz || e.flowP,
                                          tn := (e.staging c j).tn || e.flowT } : CWord)
   let sent := fun (x : OutChan) (l : List CWord) => x.flight = (e.outch c).flight ++ l.map (fun w => Flight.word w 0)
     ∧ x.free + l.length = (e.outch c).free
   (v ≤ 3 → n ≤ 4 → (f.wd = 0 ∨ isOut f.d = true) → outHead → (v = 3 → (f.wa = 0 ∨ isSlot f.a = true) ∧ inHere) →
      (e.outch c).free < max n f.wd.toNat → Holds (.give f) s e .slots)
   ∧ (v = 3 → n ≤ 4 → outHead → max n f.wd.toNat ≤ (e.outch c).free → inHere → src.isCtl = true →
      ∃ k, Traps (.give f) s e (.align (desChan f.a) none k) (wordOf 0x03 f))
   ∧ (3 < v ∨ 4 < n → Traps (.give f) s e .instr (wordOf 0x03 f))
   ∧ (v ≤ 3 → n ≤ 4 → (f.wd = 0 ∨ isOut f.d = true) → (v = 3 → f.wa = 0 ∨ isSlot f.a = true) → ¬ outHead →
      Traps (.give f) s e (.operand f.d.toNat) (wordOf 0x03 f))
   ∧ (v ≤ 3 → n ≤ 4 → outHead → n ≤ (e.outch c).free → f.wd.toNat ≤ (e.outch c).free → (v = 3 → inHere ∧ src.isData = true) →
      ∃ e1, Completes (.give f) s e s e1
        ∧ sent (e1.outch c) ((List.range n).map (fun j =>
            if j + 1 = n then word j (if v = 3 then src.lr else v ≠ 0) (if v = 3 then src.ls else v = 2) else word j false false))
        ∧ e1.s = e.s ∧ e1.ins = e.ins ∧ e1.m = e.m ∧ e1.store = e.store ∧ (∀ k, k ≠ c → e1.outch k = e.outch k)
        ∧ Tab.get 0 e1.run.pubs c = Tab.get 0 e.run.pubs c + n)
   ∧ ([1, 2, 3, 7, 8, 9].contains v = true → (f.wa = 0 ∨ isSlot f.a = true) → (f.a = 0x0FF ∨ srcOk e f.a = true) →
      inWait e f.a f.wa = true → ctlArgBad v (ctlArg s e f) = false → outHead → outWait e f.d f.wd = true → (v = 3 → refusal e = none) →
      Completes (.ctlw f) s e (eoiSide s e v) (e.send c (CWord.ctl (BitVec.ofNat 32 v) (BitVec.ofNat 32
        (if f.a = 0x0FF then f.imm.toNat else ((readDes s e f.a).pay.lane 0).toNat)))))
   ∧ ([1, 2, 3, 7, 8, 9].contains v = true → (f.wa = 0 ∨ isSlot f.a = true) → (f.a = 0x0FF ∨ srcOk e f.a = true) → outHead →
      (inWait e f.a f.wa = true → ctlArgBad v (ctlArg s e f) = false) → inWait e f.a f.wa = false ∨ outWait e f.d f.wd = false →
      Holds (.ctlw f) s e .slots)
   ∧ ([1, 2, 3, 7, 8, 9].contains v = false → Traps (.ctlw f) s e .instr (wordOf 0x06 f))
   ∧ ([1, 2, 3, 7, 8, 9].contains v = true → (f.a = 0x0FF ∨ srcOk e f.a = true) → inWait e f.a f.wa = true →
      (v = 2 ∧ ¬ (2 ≤ ctlArg s e f ∧ ctlArg s e f ≤ 15)) ∨ (v = 7 ∧ ctlArg s e f = 0) → Traps (.ctlw f) s e .instr (wordOf 0x06 f))
   ∧ (∀ p t k, refusal e = some (p, t, k) → outHead → (f.wa = 0 ∨ isSlot f.a = true) →
      (v = 3 → (f.a = 0x0FF ∨ srcOk e f.a = true) → inWait e f.a f.wa = true → outWait e f.d f.wd = true →
        Traps (.ctlw f) s e (.tooOld t p (some k)) (wordOf 0x06 f))
      ∧ (v = 0 → inHere → outWait e f.d f.wd = true → src.isCtl = true → src.kind = 3 →
        Traps (.cfwd f) s e (.tooOld t p (some k)) (wordOf 0x07 f)))
   ∧ (v ≤ 1 → isSlot f.a = true → slotOk e (desChan f.a) (desOfs f.a) = true → (v = 0 → outHead) →
      inWait e f.a f.wa = false ∨ (v = 0 ∧ outWait e f.d f.wd = false) ∨ (v = 1 ∧ ∃ k ∈ e.boundOuts, (e.outch k).free = 0) →
      Holds (.cfwd f) s e .slots)
   ∧ (1 < v → Traps (.cfwd f) s e .instr (wordOf 0x07 f))
   ∧ (v = 1 → inHere → e.boundOuts = [] → src.isCtl = true → Completes (.cfwd f) s e s e)
   ∧ (v = 0 → inHere → outHead → outWait e f.d f.wd = true → src.isCtl = true → (src.kind = 3 → refusal e = none) →
      Completes (.cfwd f) s e (eoiSide s e src.kind.toNat) (e.send c (CWord.ctl src.kind src.arg)))
   ∧ (v = 1 → inHere → (∀ k ∈ e.boundOuts, 1 ≤ (e.outch k).free) → e.boundOuts ≠ [] → src.isCtl = true → (src.kind = 3 → refusal e = none) →
      Completes (.cfwd f) s e (eoiSide s e src.kind.toNat)
        (e.boundOuts.foldl (fun (x : Elem) k => x.send k (CWord.ctl src.kind src.arg)) e))
   ∧ (v = 0 → (f.wd = 0 ∨ isOut f.d = true) → inHere → outHead → outWait e f.d f.wd = true → src.isData = true →
      ∃ k, Traps (.cfwd f) s e (.align (desChan f.a) none k) (wordOf 0x07 f))
   ∧ (v = 1 → inHere → (∀ k ∈ e.boundOuts, 1 ≤ (e.outch k).free) → src.isData = true →
      ∃ k, Traps (.cfwd f) s e (.align (desChan f.a) none k) (wordOf 0x07 f)))

/-- R92, R93, R69, R78, R381, R32, R231: `take` consumes the same number of words at the head of one to three channels, with their
companion words, and the slots go back to the producers. It holds issue for words that are missing, and a position at which the words do
not agree raises its fault before anything is consumed; a word that thereby reaches a head and that no clause accepts raises its fault in
that cycle. `end` ends a firing that has met its rates, which leaves no staging slots, loops or flow bits, counts an invocation that moved
an `eoi`, and retires an actor that consumed a `halt`; the firing of a stream actor that started behind it goes on in its place (R78). -/
def Obligations.ConsumingAndEnding : Prop := ∀ (s : State) (e : Elem) (f : Fields), Runs s e → e.cls ≠ .fc →
  (let n := if f.imm.toNat % 8 = 0 then 1 else f.imm.toNat % 8
   let chans := (takeChans f n).map Prod.fst
   let kind := fun c k => if (e.slot c k).isCtl then (e.slot c k).kind.toNat else 0
   let bad := fun k => ∃ c ∈ chans, malformed (e.slot c k) = true
   let agree := fun k => ¬ bad k ∧ ∀ c ∈ chans, ∀ d ∈ chans, kind c k = kind d k
   let legal := f.var = 0 ∧ n ≤ 4 ∧ (f.wa = 0 ∨ isSlot f.a = true) ∧ (f.wb = 0 ∨ isSlot f.b = true)
   let filled := ∀ p ∈ takeChans f n, p.2 ≤ (e.inch p.1).q.length
   let after := consumeAll n chans (s, e)
   (legal → takeBad e f = none → filled → (∀ k < n, agree k) → (∀ c ∈ chans, cmpHere e c n = true ∧ cmpRight e c n = true) →
      (strayHead after.2 = none → Completes (.take f) s e after.1 after.2)
      ∧ (∀ t, strayHead after.2 = some t → EndsIn t (wordOf 0x02 f) (.take f) s e after.1 after.2))
   ∧ (legal → takeBad e f = none → ¬ filled → Holds (.take f) s e .slots)
   ∧ (∀ k < n, legal → takeBad e f = none → filled → (∀ j < k, agree j) → ¬ agree k →
      ∃ t, Traps (.take f) s e t (wordOf 0x02 f)
        ∧ (bad k → ∃ c ∈ chans, malformed (e.slot c k) = true ∧ ∃ h, t = .align c none h)
        ∧ (¬ bad k → ∃ c ∈ chans, ∃ d ∈ chans, kind c k ≠ kind d k ∧
             if ∃ x ∈ chans, kind x k = 6 then kind c k = 6 ∧ t = .unbal c d (e.inch c).q.length (e.inch d).q.length 6
             else ∃ h, t = .align c (some d) h))
   ∧ (legal → takeBad e f = none → filled → (∀ k < n, agree k) → (∃ c ∈ chans, cmpHere e c n = false) → Holds (.take f) s e .slots)
   ∧ (legal → takeBad e f = none → filled → (∀ k < n, agree k) → (∀ c ∈ chans, cmpHere e c n = true) → (∃ c ∈ chans, cmpRight e c n = false) →
      ∃ c ∈ chans, ∃ h, Traps (.take f) s e (.align c (some (entCmp (e.inch c).ent)) h) (wordOf 0x02 f))
   ∧ (∀ d, legal → takeBad e f = some d → Traps (.take f) s e (.operand d.toNat) (wordOf 0x02 f))
   ∧ (f.var ≠ 0 ∨ 4 < n → Traps (.take f) s e .instr (wordOf 0x02 f))
   ∧ (∀ c, chans = [c] → e.hasCmp c = false → n ≤ (e.inch c).q.length →
      (after.2.inch c).q = (e.inch c).q.drop n ∧ after.1.mem = s.mem ∧ after.2.s = e.s
      ∧ Tab.get 0 after.2.run.cons c = Tab.get 0 e.run.cons c + n
      ∧ (∀ r g, (e.inch c).src = .gate r g → after.1 = giveCredit s (.gate r g) n)
      ∧ (∀ u k, (e.inch c).src = .el u k → s.cur ≠ .el u → after.1 = giveCredit s (.el u k) n))
   ∧ (f.var = 0 → rateMiss e = none →
      (let y : Elem := { e with invk := if e.run.eoi then e.invk + 1 else e.invk,
                                cls4 := if e.run.halt then e.cls4.map (fun x => { x with en := false }) else e.cls4 }
       (e.pipe = [] → EndsBy .stay (.endFiring f) s e s { y with busy := false, run := Run.idle })
       ∧ (∀ r l, e.pipe = r :: l → EndsBy .stay (.endFiring f) s e s { y with run := r, pipe := l, fcnt := e.fcnt + 1 })))
   ∧ (∀ ch d x y, f.var = 0 → rateMiss e = some (ch, d, x, y) → Traps (.endFiring f) s e (.rate ch d x y) (wordOf 0x01 f))
   ∧ (f.var ≠ 0 → Traps (.endFiring f) s e .instr (wordOf 0x01 f)))

/-- R102 to R105, R87, R53: a branch is decided by all 16 bits of the mask that `pm` names, takes the mask's bits into the flow bits but
for `.al`, and pops every loop that does not hold its target with all loops inside it; on a core it stays in its code segment. A loop
whose count, immediate or from a register, is 0 is skipped; one that does not fit its body, its segment or the loop around it, or is the
fifth, is an illegal instruction. `brk` leaves the innermost loop. -/
def Obligations.BranchesAndLoops : Prop := ∀ (s : State) (e : Elem) (f : Fields), Runs s e →
  (let v := f.var.toNat
   let m := e.mask f.pm.toNat
   let taken := v = 0 ∨ (v = 1 ∧ m.bits ≠ 0) ∨ (v = 2 ∧ m.bits = 0xFFFF) ∨ (v = 3 ∧ m.bits = 0)
   let dest := if e.cls = .fc then (((e.run.pos : Int) + f.imm.toInt) % 2 ^ 32).toNat else f.imm.toNat
   let here := if e.cls = .fc then sameSegment e dest = true else dest < e.body.length
   let inside := fun (l : LoopLvl) p => l.start ≤ p ∧ p ≤ l.stop
   let e1 := if v = 0 then e else e.addFlow m.pz m.tn
   let len := f.imm.toNat % 256
   let after := fun q => if e.cls = .fc then codeAfter e.fc.icache q else q + 1
   let room := match e.run.loops with
     | l :: _ => fun q => q ≤ l.stop
     | [] => fun _ => True
   let x := readDes s e f.a
   let imd := f.a = 0x0FF
   let cnt := if imd then f.imm.toNat / 256 else (x.pay.lane 0).toNat % 65536
   let el := if imd then e else e.addFlow x.pz x.tn
   let src := (f.wa = 0 ∨ isSlot f.a = true) ∧ (imd ∨ srcOk e f.a = true)
   let fits := fun q => posAfter e len = some q ∧ 0 < len ∧ e.run.loops.length < 4 ∧ room q
   (v ≤ 3 → taken → here → ∃ pre kept, e.run.loops = pre ++ kept ∧ (∀ l ∈ kept, inside l dest) ∧ (∀ l, pre.getLast? = some l → ¬ inside l dest)
      ∧ EndsBy (.goto dest) (.bra f) s e s { e1 with run := { e1.run with loops := kept } })
   ∧ (v ≤ 3 → ¬ taken → Completes (.bra f) s e s e1)
   ∧ (3 < v ∨ (taken ∧ ¬ here) → Traps (.bra f) s e .instr (wordOf 0x10 f))
   ∧ (∀ q, f.var = 0 → src → inWait e f.a f.wa = true → fits q →
      (cnt = 0 → EndsBy (.goto (after q)) (.loop f) s e s el)
      ∧ (cnt ≠ 0 → EndsBy (.goto e.nextPos) (.loop f) s e s
          { el with run := { el.run with loops := { start := e.nextPos, stop := q, left := cnt } :: e.run.loops } }))
   ∧ (∀ q, f.var = 0 → src → inWait e f.a f.wa = false → fits q → Holds (.loop f) s e .slots)
   ∧ (f.var ≠ 0 ∨ (∀ q, ¬ fits q) → Traps (.loop f) s e .instr (wordOf 0x11 f))
   ∧ (∀ l r, v ≤ 3 → e.run.loops = l :: r → taken →
      ∃ lv p, closeLoops r l.stop (after l.stop) = (lv, p) ∧ EndsBy (.goto p) (.brk f) s e s { e1 with run := { e1.run with loops := lv } })
   ∧ (v ≤ 3 → e.run.loops ≠ [] → ¬ taken → Completes (.brk f) s e s e1)
   ∧ (3 < v ∨ e.run.loops = [] → Traps (.brk f) s e .instr (wordOf 0x12 f)))

-- Channels at work (spec 07, 08) ---------------------------------------------------------------------------------------------------------

/-- R69, R70, R231, R21: a word that has crossed the bridges on its way reaches the consuming end's queue; a control word that is malformed
or that no clause accepts raises its fault in the cycle it comes to the head, also while a firing is in progress; credits on their way
reach the producer's free count. -/
def Sys2Proof.Claim.ChannelTraffic : Prop := ∀ (s : State),
  (∀ u ch e o w k rest, s.elems[u]? = some e → e.dead = false → entEn (e.inch ch).ent = true → s.outAt (e.inch ch).src = some o →
    o.flight = .word w k :: rest → o.via.length ≤ k →
    Steps (.channelWordArrive u ch) s (judgeHeads ((s.setOutAt (e.inch ch).src { o with flight := rest }).updElem u
      (fun x => x.setIn ch { x.inch ch with q := (x.inch ch).q ++ [w] })) u))
  ∧ (∀ u ch e o, s.elems[u]? = some e → s.outAt (e.inch ch).src = some o →
    e.dead = true ∨ entEn (e.inch ch).ent = false ∨ o.flight = [] ∨ (∃ w k rest, o.flight = .word w k :: rest ∧ k < o.via.length) →
    Steps (.channelWordArrive u ch) s s)
  ∧ (∀ u e, s.elems[u]? = some e → e.active = false ∨ headFault e = none → judgeHeads s u = s)
  ∧ (∀ u e c w q, s.elems[u]? = some e → e.active = true → e.role = .actor → c < 32 → entEn (e.inch c).ent = true →
    (e.inch c).q = w :: q → w.isCtl = true → malformed w = true ∨ ((∀ k ∈ [4, 5, 6], w.kind ≠ k) ∧ someAccepts e c w.kind.toNat = false) →
    (∀ b < c, entEn (e.inch b).ent = false ∨ (e.inch b).q = [] ∨ (e.slot b 0).isData = true) →
    judgeHeads s u = raiseFault s u e (.align c none w.kind.toNat) 0)
  ∧ (∀ x o, s.outAt x = some o → Steps (.creditReturn x) s (s.setOutAt x { o with free := o.free + o.cred, cred := 0 }))

/-- R228, R229, R46, R87, R244, R251: an element with no firing in progress and no system action due starts a firing of the clause of
lowest `pri` among those passed over eight times, or else among all that are runnable; the others age; where none is runnable every age
becomes 0 and nothing starts. Where an action is due, and at its stop point behind a marker, no firing starts. -/
def Sys2Proof.Claim.FiringChoice : Prop := ∀ (s : State) (u : Nat) (e : Elem), Idle s u e →
  (e.parked = true ∨ armDue e = true ∨ allHeads e 4 = true ∨ allHeads e 6 = true → Steps (.firingStart u) s s)
  ∧ (e.parked = false → armDue e = false → allHeads e 4 = false → allHeads e 6 = false →
  (let cl := fun i => e.cls4.toList.getD i Clause.unused
   let may := fun i => i < 4 ∧ runnable e (cl i) = true
   let aged := fun (x : Elem) (g : Nat → Nat) => ∀ j < 4, x.cls4.toList.getD j Clause.unused =
     if (cl j).used then { cl j with age := g j } else cl j
   ((∀ i, ¬ may i) → ∃ x : Vector Clause 4, Steps (.firingStart u) s (s.setUnit (.el u) { e with cls4 := x })
      ∧ aged { e with cls4 := x } (fun _ => 0))
   ∧ ((∃ i, may i) → ∃ (i : Nat) (x : Vector Clause 4), may i
      ∧ (∀ j, may j → (cl j).age = 8 → (cl i).age = 8 ∧ (cl i).pri ≤ (cl j).pri)
      ∧ (∀ j, may j → (∀ k, may k → (cl k).age ≠ 8) → (cl i).pri ≤ (cl j).pri)
      ∧ aged { e with cls4 := x } (fun j => if j = i then 0 else if runnable e (cl j) then min ((cl j).age + 1) 8 else 0)
      ∧ Steps (.firingStart u) s (s.setUnit (.el u)
          { e with cls4 := x, busy := true, fcnt := e.fcnt + 1, armc := if e.sect && (cl i).strm then e.armc - 1 else e.armc,
                   run := { Run.idle with clause := i, pos := (cl i).entry, ft := (cl i).aof && !e.merge } }))))

/-- R78, R80, R228, R229: behind the firings at work in a stream actor, once the youngest has left S1 and none of them waits, one more may
start: that of the clause of lowest `pri` that is runnable on the words and the slots which the rest of them leave (log 141). Where a system
action or a fault is due on those words, behind a marker, and in every other actor at work, nothing starts. -/
def Sys2Proof.Claim.StreamFollows : Prop := ∀ (s : State) (u : Nat) (e : Elem), s.elems[u]? = some e → e.active = true → e.role = .actor →
  e.busy = true →
  (let x := e.ahead s
   let cl := fun i => e.cls4.toList.getD i Clause.unused
   let may := fun i => i < 4 ∧ runnable x (cl i) = true
   let youngest := e.pipe.getLast?.getD e.run
   let free := e.strm = true ∧ (∀ r ∈ e.run :: e.pipe, r.wait = none) ∧ e.parked = false ∧ headFault x = none ∧ armDue x = false
     ∧ allHeads x 4 = false ∧ allHeads x 6 = false
   (¬ free ∨ (∀ i, ¬ may i) → Steps (.firingStart u) s s)
   ∧ (free → (∃ i, may i) → ∃ (i : Nat) (y : Vector Clause 4), may i
      ∧ (∀ j, may j → (cl j).age = 8 → (cl i).age = 8 ∧ (cl i).pri ≤ (cl j).pri)
      ∧ (∀ j, may j → (∀ k, may k → (cl k).age ≠ 8) → (cl i).pri ≤ (cl j).pri)
      ∧ (∀ j < 4, y.toList.getD j Clause.unused = if (cl j).used then
          { cl j with age := if j = i then 0 else if runnable x (cl j) then min ((cl j).age + 1) 8 else 0 } else cl j)
      ∧ (youngest.pos ≤ (cl i).entry → Steps (.firingStart u) s s)
      ∧ ((cl i).entry < youngest.pos → Steps (.firingStart u) s (s.setUnit (.el u)
          { e with cls4 := y, armc := if e.sect && (cl i).strm then e.armc - 1 else e.armc,
                   pipe := e.pipe ++ [{ Run.idle with clause := i, pos := (cl i).entry, ft := (cl i).aof && !e.merge }] }))))

/-- R78, R80: behind the firing at work, a firing of a stream actor executes its next word, in its own stage, while the firing in front is
past the next stage and no firing in front of it waits; the firings in front stay where they are, and what the word does to registers and to
memory is done. A firing whose stage is not free, or behind one that waits, does nothing. It works on the words and the slots that those in
front leave, and a word on what they still use waits for them; both are the model's reading (log 141). -/
def Sys2Proof.Claim.StagesAdvance : Prop := ∀ (s : State) (u k : Nat) (e : Elem) (o r : Run), s.elems[u]? = some e →
  (e.run :: e.pipe)[k]? = some r → (e.run :: e.pipe)[k - 1]? = some o →
  (let front := (e.run :: e.pipe).take k
   let view := e.staged s k r
   let left := front.flatMap (fun x => e.body.drop x.pos)
   (k = 0 ∨ o.pos < r.pos + 2 ∨ (∃ x ∈ front, x.wait ≠ none) ∨ e.strm = false ∨ e.busy = false ∨ e.parked = true → stageTurn s u k = .next s)
   ∧ (view.run = r ∧ view.s = e.s ∧ view.body = e.body ∧ view.fcnt = e.fcnt + BitVec.ofNat 32 k)
   ∧ (∀ w i t x, 0 < k → r.pos + 2 ≤ o.pos → (∀ y ∈ front, y.wait = none) → e.strm = true → e.busy = true → e.parked = false →
      e.active = true → e.role = .actor → e.body[r.pos]? = some w → decodeWord w = some i → stageHolds e view left w = false →
      exec i (s.setUnit (.el u) view) = .next t → t.elems[u]? = some x →
      ∃ t' y, stageTurn s u k = .next t' ∧ t'.elems[u]? = some y ∧ y.run = e.run ∧ y.pipe = e.pipe.set (k - 1) x.run ∧ y.fcnt = e.fcnt
        ∧ y.cls4 = e.cls4 ∧ y.s = x.s ∧ y.m = x.m ∧ y.ve.acc = x.ve.acc ∧ t'.mem = t.mem
        ∧ (∀ c < 16, (y.outch c).flight = (x.outch c).flight)))

/-- R231, R235, R236, R21, R32: the fault of the words at the heads of an element without a firing goes before each of its actions. -/
def Sys2Proof.Claim.HeadFaults : Prop := ∀ (s : State) (u : Nat) (e : Elem) (t : Trap), s.elems[u]? = some e → e.active = true → e.busy = false →
  e.role = .actor → e.parked = false →
  (headFault e = some t → ∀ i ∈ [Instr.firingStart u, .armAction u, .drainAction u, .switchAction u], Steps i s (raiseFault s u e t 0))
  ∧ (∀ a b, strayHead e = none → pairFault e = none → (∀ c ∈ e.clauses, runnable e c = false) → a ∈ e.mainIns → b ∈ e.mainIns →
      (∀ k, e.headOf a = some 6 → e.headOf b = some k → k ≠ 6 →
        ∃ x y, headFault e = some (.unbal x y (e.inch x).q.length (e.inch y).q.length 6) ∧ e.headOf x = some 6 ∧ e.headOf y ≠ some 6)
      ∧ (∀ k, (∀ c ∈ e.mainIns, e.headOf c ≠ some 6) → e.headOf a = some 4 → e.headOf b = some k → k ≠ 4 →
        ∃ x y, headFault e = some (.align x (some y) 4) ∧ e.headOf x = some 4 ∧ e.headOf y ≠ some 4))

/-- R251: an element of a section whose count is 0 takes the `arm` at its arm input: the count becomes the argument, the word is
consumed, and it is published on the arm output if one is bound, for whose free slot the action waits. -/
def Sys2Proof.Claim.ArmsSection : Prop := ∀ (s : State) (u : Nat) (e : Elem), Idle s u e → armDue e = true → e.parked = false →
  (let w := e.slot e.armIn 0
   let bound := fun o => e.armOut = some o ∧ entEn (e.outch o).ent = true
   (e.armIn < 32 → entEn (e.inch e.armIn).ent = true → w.arg ≠ 0) ∧ ((∀ o, bound o → 1 ≤ (e.outch o).free) → ∃ t0 e1, Steps (.armAction u) s (judgeHeads t0 u) ∧ t0.elems[u]? = some e1
      ∧ e1.armc = w.arg.toNat
      ∧ (¬ (e.hasCmp e.armIn = true ∧ entCmp (e.inch e.armIn).ent = e.armIn) → (e1.inch e.armIn).q = (e.inch e.armIn).q.drop 1)
      ∧ (∀ o, bound o → Sent (CWord.ctl 7 w.arg) (e.outch o) (e1.outch o))
      ∧ e1.s = e.s ∧ e1.cls4 = e.cls4 ∧ e1.busy = false ∧ t0.mem = s.mem)
   ∧ ((∃ o, bound o ∧ (e.outch o).free = 0) → Steps (.armAction u) s s))

/-- R235, R236, R179: with a `drain` at the head of every bound input, an element publishes one on every bound output and consumes them,
once every bound output has a free slot; an AG first performs the effect of `phase.rgn`, waits for what that waits for, and has then
published, whether or not the outputs have room. With `switch` words it does the same and then installs the configuration that they
name; that its argument is that of the word at the lowest-numbered input, that it is the handle of a configuration, and that a handle which
names none installs nothing, is the model's choice (log 20). A companion's words go with those of its weight channel (R32). -/
def Sys2Proof.Claim.DrainAndSwitch : Prop := ∀ (s : State) (u : Nat) (e : Elem), Idle s u e → e.parked = false →
  (let arg := (e.slot (e.mainIns.headD 0) 0).arg
   let passed := fun (k : Lane) (t0 : State) => ∃ e1, t0.elems[u]? = some e1
     ∧ (∀ c ∈ e.mainIns, (e1.inch c).q = (e.inch c).q.drop 1) ∧ (∀ c ∈ e.boundOuts, Sent (CWord.ctl k arg) (e.outch c) (e1.outch c))
     ∧ e1.s = e.s ∧ e1.cls4 = e.cls4 ∧ (e.cls = .ag → e1.ag.sb = [])
     ∧ (e.cls ≠ .ag → t0.mem = s.mem)
   let room := ∀ c ∈ e.boundOuts, 1 ≤ (e.outch c).free
   let quiet := phaseHolds e = false ∧ (e.cls = .ag → refusal e = none)
   (allHeads e 4 = true → quiet → room → ∃ t0, Steps (.drainAction u) s (judgeHeads t0 u) ∧ passed 4 t0)
   ∧ (allHeads e 6 = true → quiet → room → ∃ t0, passed 6 t0
      ∧ (∀ c, Tab.find t0.configs arg.toNat = some c → c.live = true →
          Steps (.switchAction u) s (judgeHeads (t0.updElem u (switched c)) u))
      ∧ (Tab.find t0.configs arg.toNat = none → Steps (.switchAction u) s (judgeHeads t0 u)))
   ∧ (∀ i k, (i = Instr.drainAction u ∧ k = 4) ∨ (i = Instr.switchAction u ∧ k = 6) → allHeads e k = true →
      (phaseHolds e = true → Steps i s s)
      ∧ (quiet → ¬ room → Steps i s (phaseEffect s u e))
      ∧ (∀ p st c, e.cls = .ag → phaseHolds e = false → refusal e = some (p, st, c) → Steps i s (raiseFault s u e (.tooOld st p (some c)) 0)))
   ∧ (e.cls ≠ .ag → phaseEffect s u e = s)
   ∧ (allHeads e 4 = false → Steps (.drainAction u) s s) ∧ (allHeads e 6 = false → Steps (.switchAction u) s s)
   ∧ (∀ k, allHeads e k = true → (∀ c ∈ e.boundIns, e.hasCmp c = false) →
      e.mainIns = e.boundIns ∧ ∀ c ∈ e.boundIns, ∃ w, (e.inch c).q.head? = some w ∧ kindOf w = k))

/-- R205: the oldest record in an array becomes the last entry of its result queue. -/
def Sys2Proof.Claim.ArrayResult : Prop := ∀ (s : State) (u : Nat) (e : Elem) (x : RqEntry) (r : List RqEntry), s.elems[u]? = some e →
  e.ra.pipe = x :: r → Steps (.raResultReady u) s (s.setUnit (.el u) { e with ra := { e.ra with pipe := r, rq := e.ra.rq ++ [x] } })

/-- R341, R253, R232: the seeds of an input gate enter in order, each where the channel has a free slot, once the gates are open, and one
`drain` follows the last; nothing enters before. A `switch` that the device emits at a reconfiguration enters the same way; at which gate and
instant it does is the model's own plan (log 155). -/
def Sys2Proof.Claim.SeedsEnter : Prop := ∀ (s : State) (r g : Nat) (x : Gate), (s.region r).gates[g]? = some x → x.isOut = false →
  (let y := s.region r
   let may := x.held = false ∧ x.closed = false ∧ y.stt = 2 ∧ y.opened ≠ none ∧ 1 ≤ x.out.free
   let sent := fun (w : CWord) => { x.out with
     flight := x.out.flight ++ [.word (if w.isCtl then CWord.ctl w.kind w.arg else w) 0], free := x.out.free - 1 }
   let after := fun (w : CWord) (z : Gate) => s.setRegion r { y with gates := y.gates.set g { z with out := sent w } }
   (∀ w, may → x.seeds[x.admitted]? = some w → Steps (.seedAdmit r g) s (after w { x with admitted := x.admitted + 1 }))
   ∧ (may → x.seeds.length ≤ x.admitted → x.drained = false → Steps (.seedAdmit r g) s (after (CWord.ctl 4 0) { x with drained := true }))
   ∧ (∀ cfg, may → emitSwitch s r g cfg = after (CWord.ctl 6 cfg) x) ∧ (∀ cfg, ¬ may → emitSwitch s r g cfg = s)
   ∧ (¬ may ∨ (x.seeds.length ≤ x.admitted ∧ x.drained = true) → Steps (.seedAdmit r g) s s))

/-- R343, R237: an output gate writes a word as a word unit of 72 bytes behind the units before it, or counts it as discarded where the
buffer is full, and returns its slot; the `drain` is not written; a `halt` halts the region. -/
def Sys2Proof.Claim.GateWritesWord : Prop := ∀ (s : State) (r g : Nat) (x : Gate) (w : CWord) (s1 : State), memWf s.mem = true →
  (s.region r).gates[g]? = some x → x.isOut = true → x.closed = false → takeWord s x.inp.src = some (w, s1) →
  (s1.region r).gates[g]? = some x →
  (let v := if w.isCtl then CWord.ctl w.kind w.arg else w
   ∃ t, Steps (.outputGateWord r g) s t
    ∧ (¬ (w.isCtl = true ∧ w.kind = 4) → x.written < x.cap → SameOutside (x.buf + 72 * x.written) 72 s t
        ∧ ∀ k < 72, memGet t.mem (x.buf + 72 * x.written + k)
            = BitVec.ofNat 8 ((v.pay.toNat + (if v.ls then 2 ^ 512 else 0) + (if v.lr then 2 ^ 513 else 0) + (if v.pz then 2 ^ 514 else 0)
                + (if v.tn then 2 ^ 515 else 0)) / 2 ^ (8 * k)))
    ∧ (x.cap ≤ x.written ∨ (w.isCtl = true ∧ w.kind = 4) → SameMemory s t)
    ∧ ((t.region r).gates[g]?).map Gate.written = some (if (w.isCtl = true ∧ w.kind = 4) ∨ x.cap ≤ x.written then x.written else x.written + 1)
    ∧ ((t.region r).gates[g]?).map Gate.dropped
        = some (if (w.isCtl = true ∧ w.kind = 4) ∨ x.written < x.cap then x.dropped else x.dropped + 1)
    ∧ (w.isCtl = true → w.kind = 9 → r ≠ 0 → (s1.region r).stt < 5 → (t.region r).stt = 4 ∧ (t.region r).hcode = some (w.arg.toNat % 65536))
    ∧ (w.isCtl = true → w.kind = 4 → ((t.region r).gates[g]?).map Gate.passed = some true))

-- Record queues (spec 09) ---------------------------------------------------------------------------------------------------------------

/-- R280, R282, R20: a record queue sends an `arm` with the words that follow it, and an `eoi`, to every member in order, each as its feed
has a free slot; a word that every member has been sent is consumed, and a member that has been sent an `eoi` owes one at its return. -/
def Sys2Proof.Claim.RecordBroadcast : Prop := ∀ (s : State) (u m : Nat) (e : Elem) (w : CWord), Dealer s u e → m < e.rq.members →
  (e.outch m).free ≠ 0 →
  (let k := e.rq.sent.getD m 0
   let heads := fun (x : RecqPart) (i : Nat) => (e.inch 0).q[i]? = some w ∧ i < x.left ∧ (w.isCtl = true → x.lead = true ∧ i = 0)
   let owed := if w.isCtl = true ∧ w.kind = 3 then e.rq.owed.modify m (fun l => l ++ [Owed.eoi]) else e.rq.owed
   let went := fun (x : RecqPart) (i : Nat) => ∃ t e1, Steps (.recqBroadcast u m) s (judgeHeads t u) ∧ t.elems[u]? = some e1
     ∧ e1.rq.owed = owed ∧ Sent (if w.isCtl then CWord.ctl w.kind w.arg else w) (e.outch m) (e1.outch m) ∧ (∀ c, c ≠ m → (e1.outch c).flight = (e.outch c).flight) ∧ t.mem = s.mem
     ∧ (let sent := x.sent.set m (i + 1)
        if sent.all (fun n => n != 0) then (e1.inch 0).q = (e.inch 0).q.drop 1 ∧ e1.rq.left = x.left - 1
          ∧ e1.rq.sent = sent.map (fun n => n - 1)
        else (e1.inch 0).q = (e.inch 0).q ∧ e1.rq.left = x.left ∧ e1.rq.sent = sent)
   (e.rq.left ≠ 0 → heads e.rq k → went e.rq k)
   ∧ (e.rq.left = 0 → e.rq.passing = none → (e.inch 0).q.head? = some w → w.isCtl = true → w.kind = 7 ∨ w.kind = 3 →
        went { e.rq with left := if w.kind = 7 then w.arg.toNat + 1 else 1, lead := true, sent := List.replicate e.rq.members 0 } 0)
   ∧ ((e.rq.left ≠ 0 ∧ e.rq.left ≤ k) ∨ (e.rq.left = 0 ∧ e.rq.passing ≠ none) → Steps (.recqBroadcast u m) s s))

/-- R281, R282: a record is dealt, both its words in one step, to the idle member that has gone longest without one, and those that have
had none come first in member order; it takes the next record number, and the member's return owes its pair; while 1,024 pairs are
stored, and while a broadcast, a `drain` or a `switch` is not finished, nothing is dealt. -/
def Sys2Proof.Claim.RecordDeal : Prop := ∀ (s : State) (u : Nat) (e : Elem) (w x : CWord) (r : List CWord), Dealer s u e →
  (e.inch 0).q = w :: x :: r → w.isCtl = false →
  (let idle := fun i => i < e.rq.members ∧ (e.outch i).free = entCap (e.outch i).ent
   let last := fun i => e.rq.dealt.getD i none
   (e.rq.left = 0 → e.rq.passing = none → e.rq.pairs.length < 1024 → (∃ i, idle i) → ∃ i t e1, idle i
      ∧ (∀ j, idle j → j ≠ i → (last i = none ∧ (last j = none → i < j)) ∨ (∃ a b, last i = some a ∧ last j = some b ∧ a ≤ b))
      ∧ Steps (.recqDeal u) s (judgeHeads t u) ∧ t.elems[u]? = some e1 ∧ (e1.outch i).flight = (e.outch i).flight ++ [.word w 0, .word x 0]
      ∧ (e1.inch 0).q = r ∧ e1.rq.next = e.rq.next + 1 ∧ e1.rq.dealt = e.rq.dealt.set i (some e.rq.next)
      ∧ e1.rq.owed = e.rq.owed.modify i (fun l => l ++ [.pair e.rq.next]) ∧ e1.rq.pairs = e.rq.pairs
      ∧ (∀ c, c ≠ i → (e1.outch c).flight = (e.outch c).flight) ∧ t.mem = s.mem)
   ∧ (e.rq.left ≠ 0 ∨ e.rq.passing ≠ none ∨ 1024 ≤ e.rq.pairs.length ∨ (∀ i, ¬ idle i) → Steps (.recqDeal u) s s))

/-- R282: a pair that stands at the return that owes it is stored under its record number while the store has room for it (that of the
record to be published next needs none), and the pair of the next record in order is published, both its words, once the output has two free slots, with the sideband, PZ and TN it came with. That a full store still lets the next record's pair pass
from its return to the output, and takes no other, is the model's choice (log 99). -/
def Sys2Proof.Claim.RecordPublish : Prop := ∀ (s : State) (u : Nat) (e : Elem), Dealer s u e →
  (let out := e.outch e.rq.members
   let order := fun (st : Tab (CWord × CWord)) (e1 : Elem) =>
     (∀ y z, Tab.find st e.rq.pub = some (y, z) → 2 ≤ out.free → e1.rq.pairs = Tab.del st e.rq.pub ∧ e1.rq.pub = e.rq.pub + 1
        ∧ (e1.outch e.rq.members).flight = out.flight ++ [.word y 0, .word z 0] ∧ (e1.outch e.rq.members).free + 2 = out.free)
     ∧ (Tab.find st e.rq.pub = none ∨ out.free < 2 →
        e1.rq.pairs = st ∧ e1.rq.pub = e.rq.pub ∧ (e1.outch e.rq.members).flight = out.flight)
   (∀ m k w x r l, m < e.rq.members → e.rq.owed.getD m [] = .pair k :: l → (e.inch (m + 1)).q = w :: x :: r →
      (∀ j < e.rq.members, j ≠ m → (e.inch (j + 1)).q = []) →
      ∃ t e1, Steps (.recqPublishPair u) s (judgeHeads t u) ∧ t.elems[u]? = some e1 ∧ t.mem = s.mem
        ∧ (e.rq.pairs.length < 1024 → (e1.inch (m + 1)).q = r ∧ e1.rq.owed = e.rq.owed.set m l ∧ order (Tab.set e.rq.pairs k (w, x)) e1)
        ∧ (1024 ≤ e.rq.pairs.length → k = e.rq.pub → 2 ≤ out.free → (e1.inch (m + 1)).q = r ∧ e1.rq.owed = e.rq.owed.set m l
             ∧ ∃ more, (e1.outch e.rq.members).flight = out.flight ++ [.word w 0, .word x 0] ++ more)
        ∧ (1024 ≤ e.rq.pairs.length → k ≠ e.rq.pub ∨ out.free < 2 → (e1.inch (m + 1)).q = w :: x :: r ∧ e1.rq.owed = e.rq.owed ∧ order e.rq.pairs e1))
   ∧ ((∀ j < e.rq.members, (e.inch (j + 1)).q = []) → ∃ t e1, Steps (.recqPublishPair u) s (judgeHeads t u) ∧ t.elems[u]? = some e1
        ∧ e1.rq.owed = e.rq.owed ∧ order e.rq.pairs e1 ∧ t.mem = s.mem))

/-- R282, R416, R236: an `eoi` at every return, once nothing waits to be published, becomes one `eoi` on the output; a `drain` or a
`switch` at c0 goes to every member at once, when every feed has a free slot, and from every return to the output; a `switch` then installs the configuration of its argument's handle, or nothing where the handle
names none, which is the model's choice (log 20). -/
def Sys2Proof.Claim.RecordQueuePasses : Prop := ∀ (s : State) (u : Nat) (e : Elem), Dealer s u e → e.rq.members ≠ 0 →
  (let out := e.rq.members
   let all := fun (x : Owed) (k : Lane) => ∀ m < e.rq.members, (e.rq.owed.getD m []).head? = some x
     ∧ ∃ w, (e.inch (m + 1)).q.head? = some w ∧ w.isCtl = true ∧ w.kind = k
   let cleared := fun (t : State) (e1 : Elem) (w : CWord) => t.elems[u]? = some e1 ∧ Sent w (e.outch out) (e1.outch out)
     ∧ (∀ m < e.rq.members, (e1.inch (m + 1)).q = (e.inch (m + 1)).q.drop 1 ∧ e1.rq.owed.getD m [] = (e.rq.owed.getD m []).drop 1)
     ∧ t.mem = s.mem
   let w := e.slot 0 0
   (all .eoi 3 → e.rq.pairs = [] → (e.outch out).free ≠ 0 → ∃ t e1, Steps (.recqEoi u) s (judgeHeads t u) ∧ cleared t e1 (CWord.ctl 3 0))
   ∧ ((e.inch 0).q ≠ [] → w.isCtl = true → w.kind = 4 ∨ w.kind = 6 → e.rq.left = 0 → e.rq.passing = none →
      (∀ m < e.rq.members, (e.outch m).free ≠ 0) → ∃ t e1, Steps (.recqDrainFeed u) s (judgeHeads t u) ∧ t.elems[u]? = some e1
        ∧ (∀ m < e.rq.members, Sent (CWord.ctl w.kind w.arg) (e.outch m) (e1.outch m)) ∧ (e1.inch 0).q = (e.inch 0).q.drop 1
        ∧ e1.rq.passing = some w.kind.toNat ∧ e1.rq.passArg = w.arg ∧ e1.rq.owed = e.rq.owed.map (fun l => l ++ [.pass])
        ∧ t.mem = s.mem)
   ∧ ((∃ m < e.rq.members, (e.outch m).free = 0) → Steps (.recqDrainFeed u) s s)
   ∧ (all .pass 4 → e.rq.passing = some 4 → e.rq.pairs = [] → (e.outch out).free ≠ 0 →
      ∃ t e1, Steps (.recqDrainOut u) s (judgeHeads t u) ∧ cleared t e1 (CWord.ctl 4 e.rq.passArg) ∧ e1.rq.passing = none)
   ∧ (all .pass 6 → e.rq.passing = some 6 → e.rq.pairs = [] → (e.outch out).free ≠ 0 →
      ∃ t0 e1, cleared t0 e1 (CWord.ctl 6 e.rq.passArg) ∧ e1.rq.passing = none
        ∧ (∀ c, Tab.find t0.configs e.rq.passArg.toNat = some c → c.live = true →
            Steps (.recqDrainOut u) s (judgeHeads (t0.updElem u (switched c)) u))
        ∧ (Tab.find t0.configs e.rq.passArg.toNat = none → Steps (.recqDrainOut u) s (judgeHeads t0 u)))
   ∧ (e.rq.pairs ≠ [] ∨ (e.outch out).free = 0 → Steps (.recqEoi u) s s ∧ Steps (.recqDrainOut u) s s)
   ∧ (e.rq.passing = none → Steps (.recqDrainOut u) s s))

-- Homes and engines (spec 06, 09) ---------------------------------------------------------------------------------------------------

/-- R161, R167, R169, R257, R258, R263: a load is answered with its granule as the agent sees it: the agent's own earlier stores over the
bytes at the home, or over the copy that its die's remote-data cache holds for its region, of which the bypass policy makes no use; what
lies outside the tensor reads as 0. The answer fills the load queue behind those before it, a remote one under the normal or the pin
policy leaves the sector in the remote-data cache, and one at a home whose policy is not stream-no-allocate leaves it in the L2 slice
where the class has a way. A load of poisoned coordinates brings a poisoned word of no stated bytes. The model's own choices beside the
rules: that an older open load of the granule is answered first (logs 112 and 131), which way a sector takes (log 129), and that a load
waits while its slice or its port is held by a record that its full ring has not taken (log 145). -/
def Sys2Proof.Claim.LoadsAnswered : Prop := ∀ (s : State) (u p : Nat) (e : Elem) (r : Req) (rest : List Req), s.elems[u]? = some e →
  (e.port p).reqs = r :: rest → r.stamp = none → (s.region e.rgn).stt < 5 → s.bad.contains (r.addr / 64) = false →
  l2Bad s (r.addr / 64 * 64) = false →
  (let base := r.addr / 64 * 64
   let bypass := r.home = true ∨ r.pol = 3
   let ways := fillWays s base r.tcl
   let kept := rdcFind s e.die e.rgn base
   let got := fun (w : CWord) (Q : State → Prop) => ∃ t e1, Steps (.loadResponse u p) s t ∧ t.elems[u]? = some e1 ∧ (e1.port p).reqs = rest
     ∧ (e1.port p).lq = (e.port p).lq ++ [{ word := w, old := none }] ∧ (e1.port p).outst = (e.port p).outst - 1
     ∧ (∀ q, q ≠ p → e1.port q = e.port q) ∧ e1.s = e.s ∧ Q t
   let word := fun (g : Reg) => let v := ownView e.ag.sb r.before base g
     ({ pay := v.pay &&& BitVec.ofNat 512 (2 ^ min r.valid 512 - 1), lr := false, ls := false, pz := v.pz || r.pz, tn := v.tn || r.tn } : CWord)
   let copied := fun (t : State) => rdcFind t e.die e.rgn base ≠ none
   let direct := isLocal e.die base = true ∨ bypass ∨ kept = none
   let served := r.skip = false ∧ olderHere e r = false ∧ homeHeld s e.die r.addr = false
   (served → direct → got (word (homeGran s base)) (fun t => t.mem = s.mem
        ∧ (isLocal e.die base = false → r.pol = 0 ∨ r.pol = 2 → ¬ bypass → copied t)
        ∧ (isLocal e.die base = false → r.pol = 1 ∨ bypass → ¬ copied t)
        ∧ (r.pol ≠ 1 → isHbm base = true → (∀ w, lineWay s base = some w → w ∈ ways) → ways ≠ [] → l2Find t base ≠ none)))
   ∧ (∀ x, served → ¬ direct → kept = some x → x.bad = false → got (word (x.gran base)) (fun t => t.mem = s.mem))
   ∧ (∀ x, served → ¬ direct → kept = some x → x.bad = true →
        got { word (x.gran base) with pz := (ownView e.ag.sb r.before base { x.gran base with pz := true }).pz || r.pz } (fun _ => True))
   ∧ (r.skip = true → ∃ v, got { CWord.zero with pay := v, pz := true, tn := r.tn } (fun t => t.mem = s.mem))
   ∧ (r.skip = false → olderHere e r = true ∨ homeHeld s e.die r.addr = true → Steps (.loadResponse u p) s s))

/-- R169, R262: a granule as its agent sees it holds in each bit what the agent's last earlier store to that bit wrote, or what memory
answered where there is none. -/
def Sys2Proof.Claim.OwnStoresSeen : Prop := ∀ (sb : List PStore) (before base : Nat) (r : Reg) (i : Nat), i < 512 →
  (let mine := fun (p : PStore) => p.base = base ∧ p.seq < before ∧ p.reg = none ∧ p.mask.getLsbD i = true
   ((∀ p ∈ sb, ¬ mine p) → (ownView sb before base r).pay.getLsbD i = r.pay.getLsbD i)
   ∧ (∀ l p l', sb = l ++ p :: l' → mine p → (∀ q ∈ l', ¬ mine q) → (ownView sb before base r).pay.getLsbD i = p.data.getLsbD i))

/-- R173: a stamped load waits until the earliest of its home die exceeds its stamp, and then receives the version of greatest stamp not
above it, or, where neither version qualifies, an entry marked too old with the stamp and the nest counters. -/
def Sys2Proof.Claim.StampedLoads : Prop := ∀ (s : State) (u p st : Nat) (e : Elem) (r : Req) (rest : List Req), s.elems[u]? = some e →
  (e.port p).reqs = r :: rest → r.stamp = some st → (s.region e.rgn).stt < 5 →
  (let base := r.addr / 64 * 64
   let d := homeDie r.addr
   let s1 := dryDie s d
   let v := s1.verOf base
   let word := fun (g : Reg) => ({ pay := g.pay &&& BitVec.ofNat 512 (2 ^ min r.valid 512 - 1), lr := false, ls := false,
                                   pz := g.pz || r.pz, tn := g.tn || r.tn } : CWord)
   let got := fun (x : LqEntry) => ∃ t e1, Steps (.tldaHomeServe u p) s t ∧ t.elems[u]? = some e1 ∧ (e1.port p).reqs = rest
     ∧ (e1.port p).lq = (e.port p).lq ++ [x] ∧ (e1.port p).outst = (e.port p).outst - 1 ∧ t.mem = s1.mem
   ((s.die d).early ≤ st ∨ homeHeld s e.die r.addr = true → Steps (.tldaHomeServe u p) s s)
   ∧ (st < (s.die d).early → homeHeld s e.die r.addr = false → s1.bad.contains (r.addr / 64) = false → l2Bad s1 base = false →
      (v.stamp ≤ st → got { word := word (homeGran s1 base), old := none })
      ∧ (∀ o, st < v.stamp → v.prev = some o → o.stamp ≤ st →
          got { word := word { pay := o.data.extractLsb' (512 * (base / 64 % 2)) 512, pz := o.pz.getLsbD (base / 64 % 2),
                               tn := o.tn.getLsbD (base / 64 % 2) }, old := none })
      ∧ (st < v.stamp → (∀ o, v.prev = some o → st < o.stamp) →
          got { word := { CWord.zero with pz := r.pz, tn := r.tn }, old := some (st, r.ctr) })))

/-- R179, R180, R255, R258, R262, R263, R266: the oldest store of an agent that was not accepted is accepted; where it has been released it
takes its place in memory: the bits of its mask, no other byte, and no copy of its sector stays in the cache of the agent's die, also where later
stores have taken all its bytes. It sets the granule's bits anew where it was made as a whole granule, with those of later partial stores
that no memory shows yet, else ORs its own in; a store that a later whole one has overtaken changes none. Stores of other agents to its bytes that stand before it in their order and that no memory shows yet
lose those bytes (log 131). A store waits while its slice or its port is held by a record (log 145). -/
def Sys2Proof.Claim.StoresAccepted : Prop := ∀ (s : State) (a : UnitId) (e : Elem) (p : PStore), s.unit a = some e → NoReset s →
  s.migr = [] → memWf s.mem = true → e.ag.sb.find? (fun q => !q.acc) = some p →
  (let freed := fun (e1 : Elem) => ∀ n, p.port = some n → (e1.port n).outst = (e.port n).outst - 1
   let held := homeHeld s e.die p.base
   (held = true → Steps (.storeAccept a) s s)
   ∧ (held = false → p.rel = false → ∃ t e1, Steps (.storeAccept a) s t ∧ t.unit a = some e1 ∧ t.mem = s.mem ∧ freed e1
      ∧ e1.ag.sb = e.ag.sb.map (fun q => if q.seq = p.seq then { q with acc := true } else q))
   ∧ (held = false → p.rel = true → p.reg = none → ∃ t e1, Steps (.storeAccept a) s t ∧ t.unit a = some e1 ∧ freed e1
      ∧ e1.ag.sb = (e.ag.sb.filter (fun q => q.seq != p.seq)).map p.under ∧ SameOutside p.base 64 s t
      ∧ (∀ v x, v ≠ a → s.unit v = some x → ∃ y, t.unit v = some y ∧ y.ag.sb = x.ag.sb.map p.under)
      ∧ Granule t p.base ((memPay s.mem p.base &&& ~~~p.mask) ||| (p.data &&& p.mask))
      ∧ (p.base % 64 = 0 → isHbm p.base = true →
          (let g := p.base / 64
           let bit := fun (old own late : Bool) => own || (if p.made = wholeMask then late else old)
           (p.made ≠ 0 → p.lost = false → t.gpz.contains g = bit (s.gpz.contains g) p.pz p.lpz ∧ t.gtn.contains g = bit (s.gtn.contains g) p.tn p.ltn)
           ∧ (p.made = 0 ∨ p.lost = true → t.gpz = s.gpz ∧ t.gtn = s.gtn)))
      ∧ (∀ x ∈ t.rdc, agentDie e = some x.die → x.addr ≠ p.base / 128 * 128)))

/-- R172: a stamped store that arrives is refused where its stamp does not exceed the earliest of its home die, and the port keeps the
first refusal; else it is held wet, of which a slice holds 4,096; memory does not change. It waits while its slice or its port is held by
a record (log 145). -/
def Sys2Proof.Claim.StampedStoresArrive : Prop := ∀ (s : State) (u : Nat) (e : Elem) (x : Tsts) (rest : List Tsts), s.elems[u]? = some e →
  NoReset s → e.ag.tsts = x :: rest → x.port < 4 →
  (let d := homeDie x.base
   let q := e.port x.port
   (x.stamp ≤ (s.die d).early → ∃ t e1, Steps (.stampedStoreArrive u) s t ∧ t.elems[u]? = some e1 ∧ e1.ag.tsts = rest ∧ t.wet = s.wet
      ∧ t.mem = s.mem ∧ (e1.port x.port).refused = (if q.refused = none then some (x.stamp, x.ctr) else q.refused))
   ∧ ((s.die d).early < x.stamp → (wetOf s x.base).length < 4096 → homeHeld s e.die x.base = false → ∃ t e1 w, Steps (.stampedStoreArrive u) s t ∧ t.elems[u]? = some e1
      ∧ e1.ag.tsts = rest ∧ (e1.port x.port).refused = q.refused ∧ t.mem = s.mem ∧ w ∈ t.wet ∧ t.wet.length = s.wet.length + 1
      ∧ (∀ y ∈ s.wet, y ∈ t.wet) ∧ w.die = d ∧ w.base = x.base ∧ w.data = x.data ∧ w.mask = x.mask ∧ w.stamp = x.stamp
      ∧ w.pz = x.pz ∧ w.tn = x.tn)
   ∧ ((s.die d).early < x.stamp → 4096 ≤ (wetOf s x.base).length ∨ homeHeld s e.die x.base = true → Steps (.stampedStoreArrive u) s s))

/-- R171, R172: a wet store dries once the earliest of its die exceeds its stamp, and not before: its bytes come into memory, the version
before it becomes the previous one, and the current one carries its stamp; two of equal stamp taint the sector. -/
def Sys2Proof.Claim.StampedStoresDry : Prop := ∀ (s : State) (die : Nat), memWf s.mem = true →
  (let due := s.wet.filter (fun w => w.die == die && decide (w.stamp < (s.die die).early))
   (due = [] → Steps (.stampedStoreDry die) s s)
   ∧ (∀ w, due = [w] → w.base % 64 = 0 → ∃ t, Steps (.stampedStoreDry die) s t ∧ SameOutside w.base 64 s t
      ∧ Granule t w.base ((memPay s.mem w.base &&& ~~~w.mask) ||| (w.data &&& w.mask))
      ∧ t.wet = s.wet.filter (fun x => x.die != die || decide ((s.die die).early ≤ x.stamp))
      ∧ (t.verOf w.base).stamp = w.stamp
      ∧ (∃ o, (t.verOf w.base).prev = some o ∧ o.stamp = (s.verOf w.base).stamp
          ∧ ∀ h < 2, o.data.extractLsb' (512 * h) 512 = memPay s.mem (w.base / 128 * 128 + 64 * h))
      ∧ ((s.verOf w.base).stamp = w.stamp → ∀ h < 2, t.gtn.contains (w.base / 128 * 2 + h) = true))
   ∧ ∃ t, Steps (.stampedStoreDry die) s t ∧ (∀ w ∈ t.wet, w.die = die → (s.die die).early ≤ w.stamp)
      ∧ (∀ w ∈ s.wet, w.die ≠ die ∨ (s.die die).early ≤ w.stamp → w ∈ t.wet) ∧ t.elems = s.elems)

/-- R258: a sector may leave a remote-data cache at any time, and nothing else changes. -/
def Sys2Proof.Claim.SectorEvicted : Prop := ∀ (s : State) (die i : Nat) (x : RdcSec), (s.rdc.filter (fun y => y.die == die))[i]? = some x →
  Steps (.rdcSectorEviction die i) s { s with rdc := s.rdc.erase x }

/-- R185, R187, R160, R267, R189, R380: an engine works through its operation unit by unit, from the first that is not done; where none
meets a fault the step leaves its object done; a unit that meets one leaves its object stopped, where the fault is restartable, or failed,
with class and subcause, and the units before it stand. A step that is not due, and one on an object without a running operation, does
nothing; a collective waits for its members. -/
def Sys2Proof.Claim.EngineSteps : Prop := ∀ (s : State) (u : UnitId) (e : Elem) (c : Nat), s.unit u = some e → NoReset s → c < 32 →
  (let events := [Instr.engineOpComplete u c, .engineOpStop u c, .engineOpFail u c]
   (coRunning (e.co c) = false ∨ e.ag.eng.find? (fun x => x.co == c) = none → ∀ i ∈ events, Steps i s s)
   ∧ (∀ o, e.ag.eng.find? (fun x => x.co == c) = some o → coRunning (e.co c) = true → o.kind = 3 → o.res = none →
      (∀ l, collMembers e (o.imm.toNat / 1024 % 64) = some l → ∃ m ∈ l, memberOp s (o.imm.toNat / 1024 % 64) m = none) →
      ∀ i ∈ events, Steps i s s)
   ∧ (∀ o, e.ag.eng.find? (fun x => x.co == c) = some o → coRunning (e.co c) = true → o.kind ≠ 3 →
      ∀ (n : Nat) (st : Nat → State) (op : Nat → EngOp), st 0 = s → op 0 = o → o.done + n ≤ o.total (e.cls == .fc) →
      (∀ k < n, ∃ x, engStep (st k) u e (op k) (o.done + k) = .ok (st (k + 1), x) ∧ op (k + 1) = { x with done := o.done + k + 1 }) →
      (st n).unit u = some e → NoReset (st n) → (op n).co = c → (op n).kind = o.kind → (op n).spoilt = none → (op n).done = o.done + n →
      (let ends := fun (i : Instr) (v : BitVec 32) (g : EngOp → Prop) => ∃ t e1 x, Steps i s t ∧ t.mem = (st n).mem ∧ t.unit u = some e1
         ∧ e1.co c = v ∧ e1.ag.eng.find? (fun y => y.co == c) = some x ∧ x.writes = (op n).writes ∧ x.done = o.done + n ∧ g x
       let next := engStep (st n) u e (op n) (o.done + n)
       let more := o.done + n < o.total (e.cls == .fc)
       (o.total (e.cls == .fc) = o.done + n → ends (.engineOpComplete u c) (coMake 2 0 o.kind 0) (fun x => x.ran = true)
          ∧ Steps (.engineOpStop u c) s s ∧ Steps (.engineOpFail u c) s s)
       ∧ (∀ k, more → next = .error (.stop k) → ends (.engineOpStop u c) (coMake 1 1 o.kind (engineFcs k)) (fun x => x.why = k.det 0)
          ∧ Steps (.engineOpComplete u c) s s ∧ Steps (.engineOpFail u c) s s)
       ∧ (∀ k, more → next = .error (.fail k) → ends (.engineOpFail u c) (coMake 3 0 o.kind (engineFcs k)) (fun x => x.why = k.det 0)
          ∧ Steps (.engineOpComplete u c) s s ∧ Steps (.engineOpStop u c) s s))))

/-- R185, R187, R190, R220, R254, R271, R380: a core's copy of n words of 64 bytes completes where both its ranges lie in memory that a
core reaches (log 144), no word read is defective or written, and no poisoned word goes to host memory: its object is done, every word stands as a
write of the operation with the poison and the taint it was read with, until the join; memory does not change before. A poisoned word for
host memory is not sent, and the core takes a poison fault (log 132). A copy whose first word is out of reach fails with bounds. -/
def Sys2Proof.Claim.CoreCopyEnds : Prop := ∀ (s : State) (u : UnitId) (e : Elem) (c : Nat) (o : EngOp), s.unit u = some e → NoReset s →
  e.cls = .fc → e.ag.eng.find? (fun x => x.co == c) = some o → coRunning (e.co c) = true → o.kind = 1 → o.done = 0 → o.writes = [] →
  o.spoilt = none →
  (let n := (o.args.lane 4).toNat / 64
   let src := fun k => (o.args.lane 0).toNat + (o.args.lane 1).toNat * 2 ^ 32 + 64 * k
   let dst := fun k => (o.args.lane 2).toNat + (o.args.lane 3).toNat * 2 ^ 32 + 64 * k
   let seen := fun k => ownView e.ag.sb o.before (src k) (homeGran s (src k))
   let reached := fun k => src k % 64 = 0 ∧ dst k % 64 = 0 ∧ coreReach s (src k) 64 = true ∧ coreReach s (dst k) 64 = true
     ∧ homeHeld s 32 (src k) = false ∧ homeHeld s 32 (dst k) = false ∧ s.bad.contains (src k / 64) = false ∧ l2Bad s (src k) = false
   ((∀ k < n, reached k ∧ (isHost (dst k) = true → (seen k).pz = false) ∧ ∀ j < n, dst j ≠ src k) →
      ∃ t e1 x, Steps (.engineOpComplete u c) s t ∧ t.mem = s.mem ∧ t.unit u = some e1 ∧ e1.co c = coMake 2 0 1 0
        ∧ e1.ag.eng.find? (fun y => y.co == c) = some x ∧ x.ran = true ∧ x.done = n ∧ x.writes.length = n
        ∧ ∀ k < n, ∃ y, x.writes[k]? = some y ∧ y.base = dst k ∧ y.data = (seen k).pay ∧ y.mask = BitVec.allOnes 512
          ∧ y.pz = (seen k).pz ∧ y.tn = ((seen k).tn || o.tn))
   ∧ (n = 1 → reached 0 → isHost (dst 0) = true → (seen 0).pz = true → ∃ (s1 : State) (e1 : Elem), s1.mem = s.mem ∧ e1.co c = coMake 2 0 1 0
        ∧ (∀ x ∈ e1.ag.eng, x.co = c → x.writes = []) ∧ Steps (.engineOpComplete u c) s (resetAll (takeTrap s1 u e1 (.poison 0 0 (dst 0)) 0)))
   ∧ (0 < n → coreReach s (src 0) 64 = false ∨ coreReach s (dst 0) 64 = false →
      ∃ t e1, Steps (.engineOpFail u c) s t ∧ t.mem = s.mem ∧ t.unit u = some e1 ∧ e1.co c = coMake 3 0 1 24))

/-- R160, R185, R187, R190, R267, R357: a copy of an AG whose next source word lies on a tile that is not present stops, with translation
and subcause 1 in its object, and one whose next source word lies outside its tensor, or in a tile at or above the limit of its handle, fails with bounds; what was done
before stands. A
collective that has all its words and has written them is done. -/
def Sys2Proof.Claim.AgentCopyEnds : Prop := ∀ (s : State) (u : UnitId) (e : Elem) (c : Nat) (o : EngOp), s.unit u = some e → NoReset s →
  e.cls = .ag → e.ag.eng.find? (fun x => x.co == c) = some o → coRunning (e.co c) = true →
  (let ctx := (s.region e.rgn).ctx
   let q := o.port 0
   let p := freshPort s q ctx
   let at' := (o.args.lane 0).toNat + o.done
   let ends := fun (i : Instr) (v : BitVec 32) => ∃ t e1 x, Steps i s t ∧ t.mem = s.mem ∧ t.unit u = some e1 ∧ e1.co c = v
     ∧ e1.ag.eng.find? (fun y => y.co == c) = some x ∧ x.writes = o.writes ∧ x.done = o.done
   let copies := o.kind = 1 ∧ o.done < (o.args.lane 2).toNat ∧ o.spoilt = none
   (∀ fm, copies → tensorFmt (srCode q.srec) = some fm → p = q →
      (let cs := wordCoords q.srec fm at'
       let t := (tileOf q.srec cs).getD 0
       let h := heAt s ctx (hdlSlot q.hdl)
       handleOk s ctx q.hdl = true → q.tile = none → shapeOk q.srec = true →
       (insideTensor q.srec cs = false ∨ heLim h ≤ t → ends (.engineOpFail u c) (coMake 3 0 1 24))
       ∧ (insideTensor q.srec cs = true → t < heLim h → t < 2 ^ 32 → q.tsz = srTsz q.srec →
          findFrame s e.die e.agFolio { ctx := ctx, slot := hdlSlot q.hdl, tile := t } (hdlGen q.hdl) q.tsz (srTtab q.srec)
            (inTile q.srec cs * fm.bits / 8) = .error (some 1) →
          ends (.engineOpStop u c) (coMake 1 1 1 9))))
   ∧ (∀ n l, u = .el n → o.kind = 3 → o.res = some l → l.length ≤ o.done → o.spoilt = none → ends (.engineOpComplete u c) (coMake 2 0 3 0)))

/-- R189: a sum, and a maximum, combine the members' words in pairs by rank: level 0 is the members' words, each next level the results of
pairs, an unpaired last word passing on, until one is left; poison and taint of any member's word are the result's. A broadcast gives the
root's words and a gather every member's in rank order. Lanes are added as FP32, rounded once, or as integers, and compared as `fmax`
or `max` compares them. -/
def Sys2Proof.Claim.CollectiveResult : Prop := ∀ (code root len k : Nat) (all : List (List Reg)), k < len → all ≠ [] →
  (∀ l ∈ all, l.length = len) →
  (let n := all.length
   let left := fun m => (n + 2 ^ m - 1) / 2 ^ m
   (∀ (v m : Nat) (T : Nat → Nat → Reg), v ≤ 1 → n ≤ 2 ^ m → (∀ j < n, T 0 j = (all.getD j []).getD k Reg.zero) →
      (∀ i j, j < left (i + 1) →
        if 2 * j + 1 < left i then (T (i + 1) j).pay = Payload.ofLanes (fun x => collLane v code ((T i (2 * j)).pay.lane x) ((T i (2 * j + 1)).pay.lane x))
            ∧ (T (i + 1) j).pz = ((T i (2 * j)).pz || (T i (2 * j + 1)).pz) ∧ (T (i + 1) j).tn = ((T i (2 * j)).tn || (T i (2 * j + 1)).tn)
        else T (i + 1) j = T i (2 * j)) →
      (collResult v code root len all).getD k Reg.zero = T m 0)
   ∧ collResult 2 code root len all = all.getD root [] ∧ collResult 3 code root len all = all.flatten
   ∧ (∀ x y : Lane, (code ≠ 5 → collLane 0 code x y = x + y)
      ∧ (code = 5 → collLane 0 code x y
            = BitVec.ofNat 32 (roundTo .fp32 ((Fmt.decode .fp32 x.toNat).add (Fmt.decode .fp32 y.toNat)).1 .rne).1)
      ∧ (code ≠ 5 → collLane 1 code x y = if x.toInt < y.toInt then y else x)
      ∧ (code = 5 → collLane 1 code x y = BitVec.ofNat 32 (pickCode .fp32 true false x.toNat y.toNat))))

-- Bridges and time (spec 07, 08, 17) -------------------------------------------------------------------------------------------------------

/-- R250, R249, R20: a word flit of the expected sequence number takes its word over the bridge, a data word with PZ where its `crc` does
not cover it, which is recorded; one out of sequence is the fault of its link; the credits of a flit, of a word flit too, reach the producer's
free count; a beacon goes to those that have arrived; a flit of kind 3 is discarded and counted. The model's own choices beside the rules: that
a beacon of wrong `crc` is discarded, that the fault is of a bridge unit, and that credits return over the first hop of a channel (log 103);
the instant a beacon was sent, which is its minimum delay before its arrival (log 133); and that a bridge held by a record which its full
ring has not taken passes nothing (log 145), and the number under which its records name it (log 153). -/
def Obligations.BridgeFlits : Prop := ∀ (s : State) (die br : Nat) (f : BitVec 640), NoReset s →
  (let kind := f.extractLsb' 96 2
   let strm := (f.extractLsb' 114 10).toNat
   let seq := (f.extractLsb' 98 16).toNat
   let ccnt := (f.extractLsb' 84 12).toNat
   let b := s.bridge die br
   let want := Tab.get 0 b.seqIn strm
   let data := f.getLsbD 127 = true ∨ f.getLsbD 126 = false
   let word := ({ pay := f.extractLsb' 128 512, lr := f.getLsbD 127, ls := f.getLsbD 126, pz := f.getLsbD 125 || (decide data && !flSound f),
                  tn := f.getLsbD 124 } : CWord)
   let credited := fun (t : State) => if ccnt = 0 ∨ flSound f = false then t else
     (match streamAt t die br (f.extractLsb' 74 10).toNat with
      | some (x, 0) => (match t.outAt x with
        | some o => t.setOutAt x { o with free := o.free + min ccnt o.cred, cred := o.cred - min ccnt o.cred }
        | none => t)
      | _ => t)
   let go := fun (t : State) => unitHeld s die 10 (bridgeNo die br) = false → Steps (.bridgeFlitReceive die br f) s t
   let goes := fun (t : State) => go (resetAll (credited t))
   (unitHeld s die 10 (bridgeNo die br) = true → Steps (.bridgeFlitReceive die br f) s s)
   ∧ (kind = 3 → go (s.setBridge die br { b with dropped := b.dropped + 1 }))
   ∧ (kind = 2 → flSound f = true → go (s.setBridge die br { b with beacons := b.beacons ++ [(s.now - (f.extractLsb' 256 32).toNat, f.extractLsb' 128 512)] }))
   ∧ (kind = 2 → flSound f = false → go s)
   ∧ (∀ m c x i, kind = 0 → peerBridge die br = some (m, c) → streamAt s m c strm = some (x, i) → seq ≠ want →
      goes (raiseUnitFault s die 10 (bridgeNo die br) (endRegion s x) (.link die br) (.flits strm die br)))
   ∧ (∀ m c x i o pre w post, kind = 0 → peerBridge die br = some (m, c) → streamAt s m c strm = some (x, i) → seq = want →
      s.outAt x = some o → o.flight = pre ++ .word w i :: post → (∀ y k, Flight.word y k ∈ pre → k ≠ i) →
      (let s1 := (s.setOutAt x { o with flight := pre ++ .word word (i + 1) :: post }).setBridge die br
          { b with seqIn := Tab.set b.seqIn strm ((want + 1) % 65536) }
       if flSound f then goes s1 else goes (raiseUnitFault s1 die 10 (bridgeNo die br) (endRegion s x) (.link die br) (.ecc 5 0 none))))
   ∧ (kind = 1 → goes s)
   ∧ (∀ x o, kind = 1 → flSound f = true → streamAt s die br (f.extractLsb' 74 10).toNat = some (x, 0) → s.outAt x = some o → 1 ≤ ccnt →
      go (s.setOutAt x { o with free := o.free + min ccnt o.cred, cred := o.cred - min ccnt o.cred })))

/-- R397: a die sends on each of its bridges a beacon of its interval, its rungs, its sequence number and the link's minimum delay, which
says whether the link has retrained since the last one; a retrain is noted at both ends of the link, whose minimum delay it measures. -/
def Sys2Proof.Claim.BeaconsSent : Prop := ∀ (s : State) (die : Nat),
  (let d := s.die die
   (die ≤ 32 → ∃ t, Steps (.beaconSend die) s t ∧ (t.die die).bseq = (d.bseq + 1) % 2 ^ 32 ∧ (t.die die).ear = d.ear
      ∧ (t.die die).lat = d.lat ∧ t.mem = s.mem ∧ t.elems = s.elems
      ∧ ∀ b m c, b < 12 → peerBridge die b = some (m, c) → (t.bridge die b).rtr = false
        ∧ ∃ x : BitVec 512, (t.bridge m c).beacons = (s.bridge m c).beacons ++ [(s.now, x)]
          ∧ (x.extractLsb' 0 64).toNat = d.early % 2 ^ 64 ∧ (x.extractLsb' 64 64).toNat = d.late % 2 ^ 64
          ∧ (x.extractLsb' 128 32).toNat = (s.bridge die b).dmin % 2 ^ 32 ∧ (x.extractLsb' 160 32).toNat = d.bseq % 2 ^ 32
          ∧ (x.extractLsb' 192 7).toNat = d.hops % 128 ∧ x.getLsbD 199 = (s.bridge die b).rtr)
   ∧ (∀ br m c, peerBridge die br = some (m, c) → ∃ t, Steps (.linkRetrain die br) s t ∧ (t.bridge die br).rtr = true
      ∧ (t.bridge die br).wideB = true ∧ (t.bridge m c).rtr = true ∧ (t.bridge m c).wideB = true ∧ t.mem = s.mem
      ∧ (t.bridge die br).rtAt = s.now ∧ (t.bridge m c).rtAt = s.now ∧ (t.bridge die br).dmin = (t.bridge m c).dmin))

/-- R397, R192, R193, R199, R396: a beacon from the upstream bridge sets the interval: latest is intersected, or set anew after a retrain or
a change of bridge, never below the earliest; earliest never moves back; the rungs, the age and the marks follow, and stamped stores that
have passed dry at once. One from another bridge changes no interval, and one of a die that no synchronisation has reached says nothing
of time. That a beacon takes between the minimum delay it carries and the maximum, and is lost after it, and that the wider bound of a
retrain stands until the first beacon sent after it arrives (log 133), and that a fabric die is locked once it has applied a beacon (log 14),
are the model's readings. -/
def Sys2Proof.Claim.BeaconsApplied : Prop := ∀ (s : State) (die br sent : Nat) (x : BitVec 512) (rest : List (Nat × BitVec 512)), die < 32 →
  (s.bridge die br).beacons = (sent, x) :: rest →
  (let d := s.die die
   let b := s.bridge die br
   let dmin := (x.extractLsb' 128 32).toNat
   let be := (x.extractLsb' 0 64).toNat
   let bl := (x.extractLsb' 64 64).toNat
   let early := (be + dmin) * 20000
   let late := (bl + dmin) * 20000 + (if b.wideB then 50000000 else 50000)
   let longest := dmin + (if b.wideB then 2500 else 2)
   (s.now < sent + dmin → Steps (.beaconReceive die br) s s)
   ∧ (sent + longest < s.now → Steps (.beaconReceive die br) s (s.setBridge die br { b with beacons := rest }))
   ∧ (sent + dmin ≤ s.now → s.now ≤ sent + longest → ∃ t, Steps (.beaconReceive die br) s t ∧ (t.bridge die br).beacons = rest
     ∧ (t.bridge die br).wideB = (b.wideB && decide (sent < b.rtAt))
     ∧ (br = upstream s die → (t.die die).hops = (x.extractLsb' 192 7).toNat + 1 ∧ (t.die die).bage = 0 ∧ (t.die die).hold = false
          ∧ (∀ w ∈ t.wet, w.die = die → (t.die die).early ≤ w.stamp)
          ∧ (¬ (be = 0 ∧ bl = 2 ^ 64 - 1) → (t.die die).ear = max d.ear early
            ∧ (t.die die).lat = (if x.getLsbD 199 ∨ (d.upst ≠ 0 ∧ d.upst ≠ br + 1) then max late d.ear else max (min d.lat late) d.ear)
            ∧ (t.die die).lock = true
            ∧ (t.die die).wide = (if d.lim < (t.die die).width then true else if 2 * (t.die die).width < d.lim then false else d.wide))
          ∧ (be = 0 → bl = 2 ^ 64 - 1 → (t.die die).ear = d.ear ∧ (t.die die).lat = d.lat ∧ (t.die die).lock = d.lock))
     ∧ (br ≠ upstream s die → (t.die die).ear = d.ear ∧ (t.die die).lat = d.lat ∧ (t.die die).bage = d.bage ∧ t.mem = s.mem)))

/-- R199, R193, R396: a die without a beacon for more than 100 us holds, one whose width exceeds its limit is too wide; a synchronisation
sets the reference to its time and uncertainty, not back, and locks the command die; without one for 2 s it is no longer locked; the
reference moves to link 1 while link 0 is down. That a fabric die's lock goes with the hold is the model's reading (log 14). -/
def Sys2Proof.Claim.TimeMarks : Prop := ∀ (s : State) (die now unc link : Nat),
  (let d := s.die die
   let r := s.die 32
   (die < 32 → 100000 < d.bage → d.hold = false →
      ∃ t, Steps (.beaconHoldTimeout die) s t ∧ (t.die die).hold = true ∧ (t.die die).lock = false ∧ (t.die die).ear = d.ear)
   ∧ (die < 32 → d.bage ≤ 100000 → Steps (.beaconHoldTimeout die) s s)
   ∧ (die ≤ 32 → d.lim < d.width → d.wide = false →
      ∃ t, Steps (.intervalDriftTooWide die) s t ∧ (t.die die).wide = true ∧ (t.die die).ear = d.ear ∧ (t.die die).lat = d.lat)
   ∧ (s.linkDown.contains s.ptpLink = false → ∃ t, Steps (.ptpSync now unc) s t ∧ (t.die 32).ear = max r.ear ((now - unc) * 20000)
      ∧ (t.die 32).lat = max ((now + unc) * 20000) (t.die 32).ear ∧ (t.die 32).bage = 0 ∧ (t.die 32).lock = true)
   ∧ (s.linkDown.contains s.ptpLink = true → Steps (.ptpSync now unc) s s)
   ∧ (r.lock = true → 2000000000 < r.bage → ∃ t, Steps .ptpLockTimeout s t ∧ (t.die 32).lock = false ∧ (t.die 32).ear = r.ear)
   ∧ (∃ t, Steps (.hostLinkDown link true) s t ∧ link ∈ t.linkDown ∧ (t.ptpLink = if 0 ∈ t.linkDown then 1 else 0)
        ∧ ∀ l, l ≠ link → (l ∈ t.linkDown ↔ l ∈ s.linkDown))
   ∧ (∃ t, Steps (.hostLinkDown link false) s t ∧ link ∉ t.linkDown ∧ (t.ptpLink = if 0 ∈ t.linkDown then 1 else 0)
        ∧ ∀ l, l ≠ link → (l ∈ t.linkDown ↔ l ∈ s.linkDown)))

/-- R397, R192, R193, R172: between beacons a disciplined die's earliest advances at 1 - 50 ppm and its latest at 1 + 50 ppm of the local count, in
units of 1/20,000 ns, and a die that no synchronisation has reached keeps its interval; widths are judged, and no stamped store stays wet
whose stamp the earliest of its home die has passed. -/
def Sys2Proof.Claim.TimePasses : Prop := ∀ (s : State) (ns die : Nat), die ≤ 32 → 0 < ns →
  (let d := s.die die
   let t := elapse ns s
   t.now = s.now + ns ∧ (t.die die).bage = d.bage + ns
   ∧ (d.upst ≠ 0 → (t.die die).ear = d.ear + ns * 19999 ∧ (t.die die).lat = min (d.lat + ns * 20001) ((2 ^ 64 - 1) * 20000))
   ∧ (d.upst = 0 → (t.die die).ear = d.ear ∧ (t.die die).lat = d.lat)
   ∧ (t.die die).wide = (if d.lim < (t.die die).width then true else if 2 * (t.die die).width < d.lim then false else d.wide)
   ∧ (∀ w ∈ t.wet, (t.die w.die).early ≤ w.stamp))

-- Queues and launches (spec 14) --------------------------------------------------------------------------------------------------------------

/-- R333, R334, R332: a doorbell sets the tail of a mapped queue and enters its work, or stops a queue whose tail is out of bounds; while
the queue is unmapped the tail stands in the descriptor and the wake is counted there. That both are kept by the device while it knows no
descriptor of the queue is the model's choice (log 22), and so is that a down link passes no doorbell (log 82). -/
def Sys2Proof.Claim.Doorbells : Prop := ∀ (s : State) (q : Nat) (data : BitVec 64), q < 4096 → memWf s.mem = true →
  (let x := s.queue q
   let tail := data.toNat % 2 ^ 32
   let pending := (tail + 2 ^ 32 - (x.desc.extractLsb' 288 32).toNat) % 2 ^ 32
   let ring := 2 ^ (x.desc.extractLsb' 172 4).toNat
   let told := fun (y : Queue) => (y.desc.extractLsb' 256 32).toNat = tail
     ∧ ∀ i < 512, (i < 256 ∨ 288 ≤ i) → y.desc.getLsbD i = x.desc.getLsbD i
   let up := s.linkDown.contains (q / 2048) = false
   (¬ up → Steps (.doorbellWrite q data) s s)
   ∧ (up → x.mapped = true → x.halt = false → pending ≤ ring → ∃ t, Steps (.doorbellWrite q data) s t ∧ told (t.queue q)
      ∧ (t.queue q).halt = false ∧ (pending ≠ 0 → ∃ w ∈ t.work, q ∈ w.2))
   ∧ (up → x.mapped = true → x.halt = false → ring < pending → ∃ t, Steps (.doorbellWrite q data) s t ∧ told (t.queue q)
      ∧ (t.queue q).halt = true ∧ ∀ w ∈ t.work, q ∉ w.2)
   ∧ (∀ a, up → x.mapped = false → x.addr = some a → a % 64 = 0 → ∃ t, Steps (.doorbellWrite q data) s t
      ∧ memNat t.mem (a + 32) 4 = tail ∧ memNat t.mem (a + 24) 4 = (memNat s.mem (a + 24) 4 + 1) % 2 ^ 32 ∧ SameOutside (a + 24) 12 s t
      ∧ memNat t.mem (a + 28) 4 = memNat s.mem (a + 28) 4 ∧ t.queue q = x)
   ∧ (up → x.mapped = true → x.halt = true → ∃ t, Steps (.doorbellWrite q data) s t ∧ told (t.queue q) ∧ (t.queue q).halt = true ∧ t.work = s.work)
   ∧ (up → x.mapped = false → x.addr = none → ∃ t, Steps (.doorbellWrite q data) s t ∧ t.mem = s.mem ∧ (t.queue q).mapped = false
      ∧ (t.queue q).desc.extractLsb' 256 32 = BitVec.ofNat 32 tail
      ∧ (t.queue q).desc.extractLsb' 192 32 = x.desc.extractLsb' 192 32 + 1))

/-- R332, R333, R334, R386: a queue is mapped from the descriptor at its address, whose wake is cleared and treated as a wake, and whose
tail is judged, and its packets are its work; with the descriptor of another context its state and its control register begin anew; one with a
reserved tick mode or no period is refused, and the queue stays as it is; an unmap writes head, sequence number and wake back and takes the
queue out of the work. That a map of a mapped queue changes nothing, and that the sequence numbers go on from the larger of those counted and
the descriptor's, is the model's choice (log 23). -/
def Sys2Proof.Claim.QueueMapping : Prop := ∀ (s : State) (q addr : Nat), q < 4096 → memWf s.mem = true →
  (let x := s.queue q
   let d := BitVec.ofNat 512 (memNat s.mem addr 64)
   let tmod := (d.extractLsb' 167 2).toNat
   let refused := tmod = 3 ∨ (tmod ≠ 0 ∧ d.extractLsb' 352 32 = 0)
   let pending := ((d.extractLsb' 256 32).toNat + 2 ^ 32 - (d.extractLsb' 288 32).toNat) % 2 ^ 32
   let known := (x.addr ≠ none ∨ x.desc.extractLsb' 192 32 = 0) ∧ x.halt = false
   let mine := x.addr = none ∨ qdCtx d = qdCtx x.desc
   (x.mapped = true → Steps (.queueMap q addr) s s)
   ∧ (x.mapped = false → refused → ∃ t, Steps (.queueMap q addr) s t ∧ t.queues = s.queues ∧ t.mem = s.mem ∧ t.work = s.work)
   ∧ (x.mapped = false → known → ¬ refused → ∃ t, Steps (.queueMap q addr) s t ∧ (t.queue q).mapped = true ∧ (t.queue q).addr = some addr
      ∧ t.mem = s.mem ∧ (t.queue q).desc.extractLsb' 192 32 = 0 ∧ (t.queue q).desc.getLsbD 165 = true
      ∧ (∀ i < 512, i ≠ 165 → (i < 192 ∨ 224 ≤ i) → (t.queue q).desc.getLsbD i = d.getLsbD i)
      ∧ ((t.queue q).halt = true ↔ 2 ^ (d.extractLsb' 172 4).toNat < pending)
      ∧ (mine → (t.queue q).seqs = max x.seqs (d.extractLsb' 224 32).toNat ∧ (t.queue q).ctl = x.ctl ∧ (t.queue q).ep = x.ep)
      ∧ (¬ mine → (t.queue q).seqs = max Queue.initial.seqs (d.extractLsb' 224 32).toNat ∧ (t.queue q).ctl = Queue.initial.ctl
           ∧ (t.queue q).ep = x.ep + 1)
      ∧ ((t.queue q).halt = false → pending ≠ 0 → ∃ w ∈ t.work, q ∈ w.2))
   ∧ (∀ a, x.mapped = true → x.addr = some a → a % 64 = 0 → ∃ t, Steps (.queueUnmap q) s t ∧ (t.queue q).mapped = false
      ∧ memNat t.mem (a + 36) 4 = (x.desc.extractLsb' 288 32).toNat ∧ memNat t.mem (a + 28) 4 = (x.desc.extractLsb' 224 32).toNat
      ∧ memNat t.mem (a + 24) 4 = (x.desc.extractLsb' 192 32).toNat ∧ (∀ w ∈ t.work, q ∉ w.2)
      ∧ SameOutside (a + 24) 16 s t ∧ memNat t.mem (a + 32) 4 = memNat s.mem (a + 32) 4))

/-- R344: a completion record is the 128 bytes at `crec`, each field at its place; a packet that asks for it interrupts. -/
def Sys2Proof.Claim.CompletionRecord : Prop := ∀ (s : State) (q : Nat) (p : BitVec 1536) (c : Compl), memWf s.mem = true →
  c.shash < 2 ^ 64 → c.rsig < 2 ^ 512 →
  (let a := (p.extractLsb' 960 64).toNat
   let t := finishPacket s q p c
   let v := fun (off n : Nat) => memNat t.mem (a + off) n
   (isHbm a = true → a % 64 = 0) →
   v 0 2 = c.st % 2 ^ 16 ∧ v 2 2 = c.err % 2 ^ 16 ∧ v 16 4 = c.cfg % 2 ^ 32 ∧ v 20 4 = c.tkix % 2 ^ 32 ∧ v 24 8 = c.shash
   ∧ v 32 1 = (if c.late then 1 else 0) ∧ v 33 1 = c.fold % 256 ∧ v 34 2 = c.rgn % 2 ^ 16 ∧ v 36 4 = c.odrp % 2 ^ 32
   ∧ v 40 4 = c.owds % 2 ^ 32 ∧ v 44 4 = c.seq % 2 ^ 32 ∧ v 48 8 = c.ostmp % 2 ^ 64 ∧ v 56 8 = (s.die 32).late % 2 ^ 64 ∧ v 64 64 = c.rsig
   ∧ v 4 12 = 0 ∧ SameOutside a 128 s t
   ∧ t.msix = (if p.getLsbD 468 then s.msix ++ [(q / 2048, (p.extractLsb' 469 11).toNat)] else s.msix) ∧ t.queues = s.queues)

/-- R338: the checks of a launch packet, by what each error says. That error 1 goes before the others and error 2 before the rest is the
model's choice (log 26). -/
def Sys2Proof.Claim.PacketChecks : Prop := ∀ (s : State) (q seqs : Nat) (p : BitVec 1536),
  (let x := s.queue q
   let ctx := qdCtx x.desc
   let e := launchErr s q seqs p
   let nfol := (p.extractLsb' 512 16).toNat
   let mdie := (p.extractLsb' 504 8).toNat
   let tick := (p.extractLsb' 576 32).toNat
   let late := qdTmod x.desc = 1 ∧ tick ≠ 2 ^ 32 - 1 ∧ ∃ k, x.ticked = some k ∧ tick ≤ k
   let badDep := ∃ d ∈ pkDeps p, qdCtx (s.queue d.1).desc ≠ ctx ∨ d.2 = 0 ∨ (if d.1 = q then seqs else (s.queue d.1).seqs) < d.2
   let badRegion := p.extractLsb' 528 16 ≠ 0 ∧ keptFree s ctx (pkRgn p) = false
   let badSize := nfol = 0 ∨ 4608 < nfol ∨ mdie = 0 ∨ 32 < mdie
   let badFold := fun (c : Machine.Config) => p.extractLsb' 496 8 ≠ 0xFF ∧ (foldRecs c.obj).length < (p.extractLsb' 496 8).toNat
   let badBinds := fun (c : Machine.Config) => bindsOk s ctx c.obj (pkBinds s p) = false ∨ gatesBound c.obj (pkBinds s p) = false
   let unsigned := fun (c : Machine.Config) => x.desc.getLsbD 166 = true ∧ hdrSigned c.obj = false
   e ≤ 10 ∧ (e = 1 ↔ p.extractLsb' 0 8 ≠ 1 ∨ pkClean p = false)
   ∧ (e = 2 → liveConfig s ctx (pkCfg p) = none) ∧ (liveConfig s ctx (pkCfg p) = none → e = 1 ∨ e = 2)
   ∧ (∀ c, liveConfig s ctx (pkCfg p) = some c → (e = 3 → unsigned c) ∧ (e = 4 → badBinds c) ∧ (e = 5 → badDep) ∧ (e = 6 → badRegion)
      ∧ (e = 7 → late) ∧ (e = 8 → badFold c) ∧ (e = 9 → badSize) ∧ (e = 10 → seedsOf s c.obj p = none)
      ∧ (e = 0 ↔ p.extractLsb' 0 8 = 1 ∧ pkClean p = true ∧ ¬ unsigned c ∧ ¬ badBinds c ∧ ¬ badDep ∧ ¬ badRegion ∧ ¬ late ∧ ¬ badFold c
          ∧ ¬ badSize ∧ seedsOf s c.obj p ≠ none)))

/-- R335, R338, R339, R299, R406: a packet at the head of a queue is read, and the head moves on. A launch takes the next sequence number, and
completes with status 2 where a check fails, or else becomes ready; a packet of a reserved kind completes with error 1. A register packet
runs the loader and gives a handle that is not in use; an unregister packet completes, with a record of status 0, when no launch uses the
handle; a kept region is released. A launch depends on the launches its packet names, by queue and number as they stand when it is read, and with `ser` on the
one before it, and keeps the mode, origin and period of its queue (log 158). A packet is read while a core serves its queue (R406): the queue's entry is the first of an inbox. The order of the errors
of a packet that is no launch is the model's choice (log 26). -/
def Sys2Proof.Claim.PacketsTaken : Prop := ∀ (s : State) (q : Nat) (p : BitVec 1536), headPacket s q = some p →
  ((∀ w ∈ s.work, w.2.head? ≠ some q) → ∀ i ∈ [Instr.packetLaunch q, .packetRegister q, .packetUnregister q, .packetReleaseKept q], Steps i s s) ∧
  ((∃ w ∈ s.work, w.2.head? = some q) →
   let kind := p.extractLsb' 0 8
   let s1 := pastHead s q
   let n := (s.queue q).seqs + 1
   let d := (s1.queue q).desc
   let object := memBytes s1.mem (pkSadr p) (pkNsw p)
   let ends := fun (i : Instr) (s2 : State) (st err : Nat) => Steps i s (finishPacket s2 q p (Compl.plain st err 0))
   ((s1.queue q).desc.extractLsb' 288 32 = (s.queue q).desc.extractLsb' 288 32 + 1)
   ∧ (kind ≠ 1 → kind ≠ 2 → kind ≠ 3 → kind ≠ 4 → ends (.packetLaunch q) s1 2 1)
   ∧ (kind = 1 → (∀ l ∈ s.launches, l.phase ≠ 0 ∨ l.order ≠ 0) → ∃ t l, Steps (.packetLaunch q) s t ∧ (t.queue q).seqs = n ∧ l ∈ t.launches
      ∧ l.q = q ∧ l.seq = n ∧ l.pkt = p ∧ l.clk = { tmod := qdTmod d, orig := qdOrig d, per := qdPer d }
      ∧ l.needs = (pkDeps p).map (fun d => (d.1, (s1.queue d.1).ep, d.2)) ++ (if p.getLsbD 465 = true ∧ 1 < n then [(q, (s.queue q).ep, n - 1)] else [])
      ∧ (launchErr s1 q (s1.queue q).seqs p ≠ 0 → l.phase = 3 ∧ l.status = 2)
      ∧ (launchErr s1 q (s1.queue q).seqs p = 0 → pkDeps p = [] → p.getLsbD 465 = false → qdTmod d ≠ 1 → l.phase = 0 ∧ l.order = s.orders + 1))
   ∧ (kind = 2 → pkClean p = false → ends (.packetRegister q) s1 2 1)
   ∧ (kind = 2 → pkClean p = true → qdSgn d = true → hdrSigned object = false → ends (.packetRegister q) s1 2 3)
   ∧ (∀ r, kind = 2 → pkClean p = true → (qdSgn d = true → hdrSigned object = true) → loaderCheck object (pkNsw p) (qdSgn d) = some r →
      ends (.packetRegister q) (devStore s1 (pkCrec p + 128) (littleBytes 32 r.bits.toNat)) 2 11)
   ∧ (kind = 2 → pkClean p = true → (qdSgn d = true → hdrSigned object = true) → loaderCheck object (pkNsw p) (qdSgn d) = none →
      bindsOk s1 (qdCtx d) object (pkBinds s1 p) = false ∨ tensorsBound object (pkBinds s1 p) = false → ends (.packetRegister q) s1 2 4)
   ∧ (kind = 2 → pkClean p = true → (qdSgn d = true → hdrSigned object = true) → loaderCheck object (pkNsw p) (qdSgn d) = none →
      bindsOk s1 (qdCtx d) object (pkBinds s1 p) = true → tensorsBound object (pkBinds s1 p) = true → s.configs.length < 2 ^ 32 →
      ∃ s2 h, Steps (.packetRegister q) s (finishPacket s2 q p { Compl.plain 0 0 0 with cfg := h }) ∧ Tab.find s.configs h = none
        ∧ Tab.find s2.configs h = some { ctx := qdCtx d, obj := object, binds := pkBinds s1 p, live := true, drop := none }
        ∧ ∀ k, k ≠ h → Tab.find s2.configs k = Tab.find s.configs k)
   ∧ (kind = 3 → pkClean p = false → ends (.packetUnregister q) s1 2 1)
   ∧ (kind = 3 → pkClean p = true → liveConfig s1 (qdCtx d) (pkCfg p) = none → ends (.packetUnregister q) s1 2 2)
   ∧ (∀ c, kind = 3 → pkClean p = true → liveConfig s1 (qdCtx d) (pkCfg p) = some c → ∃ t, Steps (.packetUnregister q) s t
      ∧ (if ∀ l ∈ s.launches, l.phase = 3 ∨ pkCfg l.pkt ≠ pkCfg p then Tab.find t.configs (pkCfg p) = none
         else Tab.find t.configs (pkCfg p) = some { c with live := false, drop := some (q, p) }))
   ∧ (∀ c, kind = 3 → pkClean p = true → liveConfig s1 (qdCtx d) (pkCfg p) = some c → (∀ x ∈ s.configs, x.2.drop = none) →
      (∀ l ∈ s.launches, l.phase = 3 ∨ pkCfg l.pkt ≠ pkCfg p) → ∃ cs : Tab Machine.Config,
        Steps (.packetUnregister q) s (finishPacket { s1 with configs := cs } q p (Compl.plain 0 0 0))
        ∧ Tab.find cs (pkCfg p) = none ∧ ∀ k, k ≠ pkCfg p → Tab.find cs k = Tab.find s.configs k)
   ∧ (kind = 4 → pkClean p = false → ends (.packetReleaseKept q) s1 2 1)
   ∧ (kind = 4 → pkClean p = true → keptFree s1 (qdCtx d) (pkRgn p) = false → ends (.packetReleaseKept q) s1 2 6)
   ∧ (kind = 4 → pkClean p = true → keptFree s1 (qdCtx d) (pkRgn p) = true →
      ends (.packetReleaseKept q) (freeRegion (returnLease s1 (pkRgn p)) (pkRgn p)) 0 0))

/-- R340, R320, R350: the folios that a launch is granted are free, as many as it asks for, on no more dies of this module than it allows,
and on a peer module's dies only where it says so; one die is taken where it has them all. -/
def Sys2Proof.Claim.FoliosGranted : Prop := ∀ (s : State) (nfol mdie : Nat) (peer : Bool) (l : List (Nat × Nat)),
  chooseFolios s nfol mdie peer = some l →
  l.length = nfol ∧ l.Nodup ∧ (∀ f ∈ l, (f.1 < 32 ∨ (peer = true ∧ f.1 ∈ peerDies)) ∧ f.2 < 144 ∧ ∀ g ∈ s.regions, f ∉ g.2.folios)
  ∧ ((ownDies l).length ≤ mdie ∨ (diesOf l).length ≤ 1)
  ∧ (∀ d < 32, nfol ≤ (freeFolios s d).length → (diesOf l).length ≤ 1)

/-- R340, R341, R330, R407: the ready launch that comes first and can be placed is granted its region: free folios, a free id, its elements
installed and held until the wave is complete; one that does not fit completes with status 1; in the safe state none is granted. -/
def Sys2Proof.Claim.RegionGranted : Prop := ∀ (s : State),
  (s.safe = true → Steps .regionGrant s s)
  ∧ (s.safe = false → (∀ l ∈ s.launches, l.phase ≠ 2 ∧ (l.phase ≠ 0 ∨ l.order = 0)) → Steps .regionGrant s s)
  ∧ (∀ (l : Launch) (rest : List Launch) (c : Machine.Config) (fs : List (Nat × Nat)) (id : Nat), s.safe = false → readyOrder s = l :: rest →
      (∀ x ∈ s.launches, x.phase = 2 → x.order ≠ 0) → l.phase = 0 → pkRgn l.pkt = 0 → Tab.find s.configs (pkCfg l.pkt) = some c →
      chooseFolios s (pkNfol l.pkt) (pkMdie l.pkt) (pkPeer l.pkt) = some fs → freeId s = some id →
      (let place := placeFirst s c.obj fs (foldChoices c.obj (pkFold l.pkt))
       (∀ ch p w, place = .ok (ch, p) → giveStreams s p.ways [] = some w → ∃ t, Steps .regionGrant s t ∧ (t.region id).stt = 1
          ∧ (t.region id).folios = fs ∧ (t.region id).q = l.q ∧ (t.region id).seq = l.seq ∧ (t.region id).fold = ch
          ∧ (t.region id).gates.length = (gateRecs c.obj).length ∧ t.elems.length = s.elems.length + (actorsOf c.obj ch).length
          ∧ (∀ (k : Nat) (e : Elem), s.elems.length ≤ k → t.elems[k]? = some e → e.rgn = id ∧ e.halted = true ∧ e.dead = false)
          ∧ (∀ x ∈ t.launches, x.uid = l.uid → x.phase = 1 ∧ x.rgn = id) ∧ t.mem = s.mem)
       ∧ (∀ ch x, place = .error (ch, x) → ∃ t, Steps .regionGrant s t
          ∧ (∀ y ∈ t.launches, y.uid = l.uid → y.phase = 3 ∧ y.status = 1) ∧ t.elems.length = s.elems.length ∧ t.regions = s.regions)))

/-- R320: the id that a new region gets is the lowest from 1 to 65,535 that no region and no launch holds. -/
def Sys2Proof.Claim.RegionIdFree : Prop := ∀ (s : State),
  (let held := fun (i : Nat) => (∃ p ∈ s.regions, p.1 = i ∧ p.2.stt ≠ 0) ∨ ∃ l ∈ s.launches, (l.phase = 1 ∨ l.phase = 2 ∨ l.phase = 4) ∧ l.rgn = i
   (∀ id, freeId s = some id → 1 ≤ id ∧ id ≤ 65535 ∧ ¬ held id ∧ (s.region id).stt = 0 ∧ ∀ i, 1 ≤ i → i < id → held i)
   ∧ (freeId s = none → ∀ i, 1 ≤ i → i ≤ 65535 → held i))

/-- R340, R341, R344, R371: a launch on a kept region of its context that names the same configuration and fold choice reuses its placement:
the old elements go, and fresh ones stand on the same sites, held until the wave is complete; a launch whose region is not free waits. -/
def Sys2Proof.Claim.RegionReused : Prop := ∀ (s : State) (l : Launch) (rest : List Launch) (c : Machine.Config), s.safe = false →
  readyOrder s = l :: rest → (∀ x ∈ s.launches, x.phase = 2 → x.order ≠ 0) → l.phase = 0 → pkRgn l.pkt ≠ 0 →
  Tab.find s.configs (pkCfg l.pkt) = some c →
  (let r := pkRgn l.pkt
   let g := s.region r
   let ways := keptWays s g r c.obj
   (∀ w, keptFree s c.ctx r = true → g.cfg = pkCfg l.pkt → pkFold l.pkt = 0xFF ∨ pkFold l.pkt = g.fold →
      giveStreams (clearElems s r) ways [] = some w → ∃ t, Steps .regionGrant s t ∧ (t.region r).stt = 1 ∧ (t.region r).folios = g.folios
        ∧ (t.region r).fold = g.fold ∧ (t.region r).place = g.place ∧ (t.region r).hops = g.hops ∧ (t.region r).q = l.q
        ∧ (t.region r).seq = l.seq ∧ (t.region r).opened = none ∧ t.elems.length = s.elems.length + (actorsOf c.obj g.fold).length
        ∧ (∀ (k : Nat) (e : Elem), k < s.elems.length → t.elems[k]? = some e → e.rgn ≠ r ∨ e.dead = true)
        ∧ (∀ (k : Nat) (e : Elem), s.elems.length ≤ k → t.elems[k]? = some e → e.rgn = r ∧ e.halted = true ∧ e.dead = false)
        ∧ (∀ x ∈ t.launches, x.uid = l.uid → x.phase = 1 ∧ x.rgn = r) ∧ t.mem = s.mem)
   ∧ (keptFree s c.ctx r = false → rest = [] → pkPeer l.pkt = false → Steps .regionGrant s s))

/-- R370 to R372, R328, R374, R387: an evicted launch in its turn is restored under the first of its fold choices that places whole, its
own first, on free folios, or on the same ones where a retry asks for them: its region has its id, its tick and its gates' counts, and each
actor the registers, the firings, the queues, the store and the words that its snapshot gives, its bound ports read again and with no
request; one that has no other choice and does not fit completes with status 1; while its area does not hold its snapshot it waits. The
model's own choices beside the rules: that its own fold choice comes first and that one without another completes with status 1 (log 35), and
that it waits for its area (log 96). -/
def Sys2Proof.Claim.RegionRestored : Prop := ∀ (s : State) (l : Launch) (rest : List Launch) (c : Machine.Config) (g : Region) (sn : Snap)
  (fs : List (Nat × Nat)), s.safe = false → readyOrder s = l :: rest → (∀ x ∈ s.launches, x.phase = 2 → x.order ≠ 0) → l.phase = 2 →
  l.held = some g → g.last = some sn → Tab.find s.configs (pkCfg l.pkt) = some c →
  (if l.same then fs = sn.folios ∧ ∀ f ∈ fs, f ∈ freeFolios s f.1
   else chooseFolios s (pkNfol l.pkt) (pkMdie l.pkt) (pkPeer l.pkt) = some fs) →
  (let under := savedUnder s l c g sn
   let place := placeGraph s c.obj fs
   let unleased := ctxLid (s.ctx g.ctx) = 0 ∨ ctxLrgn (s.ctx g.ctx) ≠ l.rgn ∨ ctxLsus (s.ctx g.ctx) = false
   (∀ pre k post sn' p w, savedChoices l c sn = pre ++ k :: post → (∀ j ∈ pre, under j = none ∨ ∃ x, place j = .error x) →
      under k = some sn' → place k = .ok p → giveStreams s p.ways [] = some w →
      (∀ e ∈ sn'.elems, ∀ i < 4, (e.port i).bnd = true → handleOk s g.ctx (e.port i).hdl = true ∧ unleased) →
      (∀ i ∈ actorsOf c.obj k, ∃ old, sn'.elems.find? (fun e => e.act == i) = some old) → (∀ e ∈ s.elems, e.rgn = l.rgn → e.dead = true) →
      ∃ t, Steps .regionGrant s t ∧ (t.region l.rgn).stt = 1 ∧ (t.region l.rgn).folios = fs ∧ (t.region l.rgn).fold = k
        ∧ (t.region l.rgn).tick = g.tick ∧ (t.region l.rgn).opened = g.opened ∧ (t.region l.rgn).last = g.last
        ∧ (∀ x ∈ t.launches, x.uid = l.uid → x.phase = 1 ∧ x.rgn = l.rgn)
        ∧ (∀ (j : Nat) (y o : Gate), (t.region l.rgn).gates[j]? = some y → sn'.gates[j]? = some o → y.admitted = o.admitted ∧ y.seeds = o.seeds
            ∧ y.drained = o.drained ∧ y.written = o.written ∧ y.dropped = o.dropped ∧ y.passed = o.passed)
        ∧ t.elems.length = s.elems.length + (actorsOf c.obj k).length
        ∧ (∀ j i old, (actorsOf c.obj k)[j]? = some i → sn'.elems.find? (fun e => e.act == i) = some old →
            ∃ x, t.elems[s.elems.length + j]? = some x ∧ x.rgn = l.rgn ∧ x.act = i ∧ x.halted = true ∧ x.dead = false ∧ x.s = old.s ∧ x.m = old.m
              ∧ x.run = old.run ∧ x.pipe = old.pipe ∧ x.busy = old.busy ∧ x.fcnt = old.fcnt ∧ x.rq = old.rq ∧ x.ra = old.ra
              ∧ x.store.bytes = old.store.bytes ∧ (∀ ch < 32, (x.inch ch).q = (old.inch ch).q)
              ∧ ∀ i < 4, (x.port i).bnd = true → (x.port i).reqs = [] ∧ (x.port i).stale = false))
   ∧ (∀ x, savedChoices l c sn = [sn.fold] → under sn.fold ≠ none → place sn.fold = .error x → ∃ t, Steps .regionGrant s t
        ∧ ∀ y ∈ t.launches, y.uid = l.uid → y.phase = 3 ∧ y.status = 1)
   ∧ (areaHolds s g.ctx l.rgn sn = false → rest = [] → pkPeer l.pkt = false → Steps .regionGrant s s))

/-- R342, R192: while time passes, gates that wait open at the first instant at which the command die's earliest is at least the start of
their tick, and not before: the stamp of their opening is the latest of that instant, and a strict launch is late where the earliest then
exceeds that start. -/
def Sys2Proof.Claim.GatesOnTime : Prop :=
  (∀ (d : Die) (t ns : Nat),
    (∀ n, d.reaches t ns = some n → n ≤ ns ∧ t ≤ (d.pass n).early ∧ ∀ m < n, (d.pass m).early < t)
    ∧ (d.reaches t ns = none → ∀ m ≤ ns, (d.pass m).early < t))
  ∧ (∀ (s : State) (now ns r : Nat) (d : Die) (g : Region), (s.regions.map Prod.fst).Nodup → (r, g) ∈ s.regions →
    (let t := gatesPass now ns d s
     let start := g.clk.orig + g.tick * g.clk.per
     let waits := g.stt = 2 ∧ g.acked = true ∧ g.opened = none ∧ g.clk.tmod ≠ 0
     (∀ n, waits → d.reaches start ns = some n → (t.region r).opened = some (now + n) ∧ (t.region r).ostmp = (d.pass n).late
        ∧ ((t.region r).late = true ↔ g.clk.tmod = 1 ∧ start < (d.pass n).early) ∧ (t.region r).tick = g.tick)
     ∧ (¬ waits ∨ d.reaches start ns = none → t.region r = g)))
  ∧ (∀ (s : State) (ns : Nat), 0 < ns → ∃ t : State, t.now = s.now + ns ∧ elapse ns s = gatesPass s.now ns (s.die 32) t)

/-- R341, R342, R270, R344, R367: when the configuration wave is complete the region runs, and its gates open, at once or when the command
die's earliest has reached the tick; when the drain has passed the launch completes and its region is released, or kept; a removed launch
completes with its status; an evicted region is released and its launch stays. That a region whose area does not hold its snapshot is not
evicted is the model's choice (log 96). -/
def Sys2Proof.Claim.LaunchRuns : Prop := ∀ (s : State) (r : Nat), 1 ≤ r →
  (let g := s.region r
   let tmod := g.clk.tmod
   let start := g.clk.orig + g.tick * g.clk.per
   let opens := fun (t : State) => (t.region r).opened = some s.now ∧ (t.region r).ostmp = (s.die 32).late
     ∧ (∀ x ∈ t.launches, x.rgn = r → x.phase = 1 → x.opened = true)
   (g.stt = 1 → ∃ t, Steps (.configurationCompleteWave r) s t ∧ (t.region r).stt = 2 ∧ (t.region r).acked = true
      ∧ (∀ e ∈ t.elems, e.rgn = r → e.dead = false → e.halted = false) ∧ (∀ x ∈ t.rdc, x.rgn ≠ r) ∧ (g.opened = none → tmod = 0 → opens t)
      ∧ (g.opened = none → tmod = 2 → (t.region r).opened = none))
   ∧ (g.stt ≠ 1 → Steps (.configurationCompleteWave r) s s)
   ∧ (g.stt = 2 → g.acked = true → g.opened = none → tmod ≠ 0 → start ≤ (s.die 32).early → ∃ t, Steps (.gatesOpen r) s t ∧ opens t ∧ (∀ x ∈ t.rdc, x.rgn ≠ r)
      ∧ ((t.region r).late = true ↔ tmod = 1 ∧ start < (s.die 32).early)
      ∧ ((∃ l ∈ s.launches, l.rgn = r ∧ l.phase = 1 ∧ l.ep = (s.queue g.q).ep) → (t.queue g.q).released = g.tick))
   ∧ ((s.die 32).early < start → tmod ≠ 0 → Steps (.gatesOpen r) s s)
   ∧ (∀ l, s.launches.find? (fun x => x.phase == 4 && x.rgn == r) = none → s.launches.find? (fun x => x.phase == 1 && x.rgn == r) = some l →
      (g.stt = 2 → drainPassed s r = true → ∃ t, Steps (.launchComplete r) s t
        ∧ (∀ x ∈ t.launches, x.uid = l.uid → x.phase = 3 ∧ x.status = if outDropped g = 0 then 0 else 6)
        ∧ (t.region r).stt = if g.keep then 2 else 0)
      ∧ (drainPassed s r = false → Steps (.launchComplete r) s s))
   ∧ (∀ l, s.launches.find? (fun x => x.phase == 4 && x.rgn == r) = some l → ∃ t, Steps (.launchComplete r) s t
      ∧ (∀ x ∈ t.launches, x.uid = l.uid → x.phase = 3 ∧ x.status = l.status) ∧ t.regions = s.regions)
   ∧ (∀ sn, g.stt = 3 → g.last = some sn → areaHolds s g.ctx r sn = true → ∃ t, Steps (.regionEviction r) s t ∧ (t.region r).stt = 0 ∧ (t.region r).folios = []
      ∧ (∀ e ∈ t.elems, e.rgn ≠ r ∨ e.dead = true) ∧ t.launches.length = s.launches.length
      ∧ (∀ (k : Nat) (l : Launch), s.launches[k]? = some l → l.rgn = r → l.phase = 1 → ∃ l' : Launch, t.launches[k]? = some l' ∧ l'.phase = 2 ∧ l'.held = some g
          ∧ l'.rgn = r ∧ l'.same = false))
   ∧ (g.stt ≠ 3 ∨ g.last = none ∨ (∃ sn, g.last = some sn ∧ areaHolds s g.ctx r sn = false) → Steps (.regionEviction r) s s)
   ∧ (s.launches.find? (fun x => x.phase == 4 && x.rgn == r) = none → s.launches.find? (fun x => x.phase == 1 && x.rgn == r) = none →
      Steps (.launchComplete r) s s))

-- Regions under firmware's control (spec 15, 17) --------------------------------------------------------------------------------------------------

/-- Element by element, `t` holds what `R` allows of the elements of a region that are not removed. -/
def Sys2Proof.Claim.EachElem (r : Nat) (s t : State) (R : Elem → Elem → Prop) : Prop :=
  ∀ (k : Nat) (e : Elem), s.elems[k]? = some e → e.rgn = r → e.dead = false → ∃ e', t.elems[k]? = some e' ∧ R e e'

/-- Launch by launch, `t` holds what `R` allows of the launches that run in a region. -/
def Sys2Proof.Claim.EachLaunch (r : Nat) (s t : State) (R : Launch → Launch → Prop) : Prop :=
  ∀ (k : Nat) (l : Launch), s.launches[k]? = some l → l.rgn = r → l.phase = 1 → ∃ l', t.launches[k]? = some l' ∧ R l l'

/-- R389, R367, R160, R373, R382, R385: resume lets a frozen region, or the stopped units of a running one, go on, but for a unit whose
fault record still waits for room; markers are discarded, what reached the output gates stays, the time it stood does not count for the
launch watchdog, a suspended lease goes on with its remaining time; halt stops a running region; a command that does not apply sets `err`,
and one that does clears it; the register of a free id stays as it is. -/
def Sys2Proof.Claim.ResumeAndHalt : Prop := ∀ (s : State) (r : Nat), 1 ≤ r →
  (let g := s.region r
   let refused := if g.stt = 0 then s else s.setRegion r { g with err := true }
   let lease := s.ctx g.ctx
   (g.stt = 3 → ∃ t, Steps (.regionResume r) s t ∧ (t.region r).stt = 2 ∧ (t.region r).err = false
      ∧ EachElem r s t (fun e e' => e'.frozen = false ∧ e'.mark = none ∧ e'.s = e.s ∧ e'.run = e.run ∧ e'.halted = e.halted
          ∧ (recordWaits s e = true → e'.stop = e.stop) ∧ (recordWaits s e = false → e'.stop = e.stop.filter (fun x => x.cls != 19))
          ∧ (∀ c < 32, (e'.inch c).q = (e.inch c).q ∧ (e'.inch c).mark = none))
      ∧ (∀ x ∈ (t.region r).gates, x.held = false) ∧ (t.region r).gates.map Gate.passed = g.gates.map Gate.passed
      ∧ (t.region r).wdHeld = g.wdHeld + (s.now - g.since)
      ∧ (ctxLsus lease = true → ctxLrgn lease = r → Tab.find t.leases g.ctx = some (s.now + ctxLrem lease)
          ∧ SameOutside (s.ctxAddr g.ctx) 64 s t)
      ∧ (ctxLsus lease = false ∨ ctxLrgn lease ≠ r → t.mem = s.mem ∧ t.leases = s.leases))
   ∧ (g.stt = 2 → anyStop s r = true → ∃ t, Steps (.regionResume r) s t ∧ (t.region r).stt = 2 ∧ (t.region r).err = false
      ∧ EachElem r s t (fun e e' => (recordWaits s e = true → e' = e) ∧ (recordWaits s e = false → e'.stop = none ∧ e'.s = e.s
          ∧ ((∀ x, e.stop = some x → x.cls ≠ 18) → e'.run = e.run)
          ∧ (∀ n < 32, coStp (e.co n) = true → coStp (e'.co n) = false ∧ coSt (e'.co n) = coSt (e.co n))
          ∧ (∀ n < 32, coStp (e.co n) = false → e'.co n = e.co n))) ∧ t.mem = s.mem)
   ∧ (g.stt ≠ 3 → ¬ (g.stt = 2 ∧ anyStop s r = true) → Steps (.regionResume r) s refused)
   ∧ (g.stt = 2 → ∃ t, Steps (.regionHaltCmd r) s t ∧ (t.region r).stt = 4 ∧ (t.region r).err = false
      ∧ EachElem r s t (fun e e' => e'.halted = true ∧ e'.s = e.s ∧ e'.run = e.run) ∧ t.mem = s.mem)
   ∧ (g.stt ≠ 2 → Steps (.regionHaltCmd r) s refused))

/-- R389, R390, R373: reset closes the gates of a halted region, discards its AGs' queues, drops their pins and passes the steps whose count
is 0; a step that waits longer than 1 ms counts as done; behind the third no tile entry of the region's context is left in a port's cache; once the steps are done no accepted store of the region's agents is left unpublished;
blot makes every element discard, and the lease returns to the pool with its time; with no token left the region is blotted. -/
def Sys2Proof.Claim.ResetAndBlot : Prop := ∀ (s : State) (r : Nat), 1 ≤ r →
  (let g := s.region r
   let refused := if g.stt = 0 then s else s.setRegion r { g with err := true }
   let lease := s.ctx g.ctx
   let stands := fun (t : State) (k : Nat) => (t.region r).stt = 5 ∧ k ≤ (t.region r).rstp ∧ (t.region r).rstp ≤ 5
     ∧ ((t.region r).rstp ≤ 4 → regionIfl t r (t.region r).rstp ≠ 0)
     ∧ ((t.region r).rstp = 5 → EachElem r s t (fun _ e' => ∀ p ∈ e'.ag.sb, p.acc = false))
     ∧ (g.rstp ≤ 2 → 3 ≤ (t.region r).rstp → EachElem r s t (fun _ e' => ∀ n < 32, e'.co n = 0))
     ∧ (g.rstp ≤ 3 → 4 ≤ (t.region r).rstp → ∀ x ∈ t.tiles, x.ctx ≠ g.ctx)
   (g.stt = 4 → ∃ t, Steps (.regionReset r) s t ∧ stands t 2 ∧ (t.region r).err = false ∧ (∀ x ∈ (t.region r).gates, x.closed = true)
      ∧ EachElem r s t (fun _ e' => ∀ p < 4, (e'.port p).lq = [] ∧ (e'.port p).sq = [])
      ∧ (∀ p ∈ t.pins, ∀ e, s.elems[p.agent]? = some e → e.rgn ≠ r))
   ∧ (g.stt ≠ 4 → Steps (.regionReset r) s refused)
   ∧ (g.stt = 5 → 1 ≤ g.rstp → g.rstp ≤ 4 → g.since + 1000000 ≤ s.now → regionIfl s r g.rstp ≠ 0 →
      ∃ t, Steps (.resetStepTimeout r) s t ∧ stands t (g.rstp + 1))
   ∧ (g.stt ≠ 5 ∨ s.now < g.since + 1000000 ∨ regionIfl s r g.rstp = 0 → Steps (.resetStepTimeout r) s s)
   ∧ (g.stt = 5 → g.rstp = 5 → ∃ t, Steps (.regionBlot r) s t ∧ (t.region r).stt = 6 ∧ (t.region r).err = false
      ∧ EachElem r s t (fun e e' => e'.blot = true ∧ e'.busy = false ∧ e'.run = Run.idle ∧ e'.ins = e.ins)
      ∧ (ctxLid lease ≠ 0 → ctxLrgn lease = r → Tab.find t.pool (ctxLid lease) = some (leaseLeft s g.ctx) ∧ Tab.find t.leases g.ctx = none)
      ∧ (ctxLid lease = 0 ∨ ctxLrgn lease ≠ r → t.mem = s.mem ∧ t.pool = s.pool))
   ∧ (g.stt ≠ 5 ∨ g.rstp ≠ 5 → Steps (.regionBlot r) s refused)
   ∧ (g.stt = 6 → regionOcc s r = 0 → ∃ t, Steps (.blotComplete r) s t ∧ (t.region r).stt = 7 ∧ t.elems = s.elems ∧ t.mem = s.mem)
   ∧ (g.stt ≠ 6 ∨ regionOcc s r ≠ 0 → Steps (.blotComplete r) s s))

/-- R389, R258, R387, R388, R413: release gives a blotted region back. Its launch completes with the status of its fault, `disp` 5; for a
fault of class 13, 14 or 15 on a queue that retries it is restored on the same folios, where its context's area still holds its snapshot; the
same class at the same unit a second time marks the unit unsound, sets `disp` 4 in both records and restores it under the new map; a third time
removes it. What an error attributed to a
supply left behind is judged afresh (R403). A record that waits for room in its ring takes its `disp` where it waits (R382). The model's own
choices beside the rules: one entry stands per class and unit, `disp` 4 is set in both records, and the restore under the new map is on folios
chosen anew (log 36). -/
def Sys2Proof.Claim.Release : Prop := ∀ (s : State) (r : Nat), 1 ≤ r → memWf s.mem = true →
  (let g := s.region r
   let rtry := (s.queue g.q).ctl.getLsbD 32
   let unit := fun (u v : FaultUnit) => u = v ∨ ∃ d f w y, u = .slice d f w ∧ v = .slice d f y
   let same := fun (c : Nat) (u : FaultUnit) (x : Retry) => x.cls = c ∧ unit x.unit u ∧ x.blamed = false
   let gone := fun (t : State) => Steps (.regionRelease r) s t ∧ (t.region r).stt = 0 ∧ (t.region r).err = false ∧ (t.region r).folios = []
     ∧ (∀ e ∈ t.elems, e.rgn ≠ r ∨ e.dead = true) ∧ (∀ x ∈ t.rdc, x.rgn ≠ r)
   let waits := fun (a : Nat) (d : Nat × Die) => d.2.waiting.zipIdx.any (fun p => d.2.waitsAt r a p.1 p.2)
   let disp := fun (t : State) (a v : Nat) => a ≠ 0 →
     (s.dies.find? (waits a) = none → memGet t.mem (a + 4) = BitVec.ofNat 8 v)
     ∧ (∀ n y i x, s.dies.find? (waits a) = some (n, y) → y.waiting[i]? = some x → y.waitsAt r a x i = true →
         ∃ z : BitVec 2048, (t.die n).waiting[i]? = some z ∧ z.extractLsb' 32 8 = BitVec.ofNat 8 v)
   let removed := ∃ t, gone t ∧ disp t g.frec 5 ∧ EachLaunch r s t (fun _ l => l.phase = 4 ∧ l.held = some g ∧ l.frec = g.frec
     ∧ l.status = if g.hcode ≠ none then 4 else if g.status = 0 then 5 else g.status)
   let restored := fun (same : Bool) (retry : List Retry) (P : State → Prop) => ∃ t, gone t ∧ P t ∧ EachLaunch r s t (fun _ l => l.phase = 2
     ∧ l.same = same ∧ l.rgn = r ∧ l.held = some { g with retry := retry })
   let saved := ∃ sn, g.last = some sn ∧ areaHolds s g.ctx r sn = true
   let judged := fun (c : Nat) => 13 ≤ c ∧ c ≤ 15 ∧ g.hcode = none
   (g.stt = 7 → g.fault = none → removed)
   ∧ (∀ c u b, g.stt = 7 → g.fault = some (c, u, b) → ¬ judged c → removed)
   ∧ (∀ c u b, g.stt = 7 → g.fault = some (c, u, b) → judged c → rtry = false ∨ ¬ saved → removed
      ∧ (b = true → ∀ t, Steps (.regionRelease r) s t → t.sound = s.sound))
   ∧ (∀ c u b, g.stt = 7 → g.fault = some (c, u, b) → judged c → rtry = true → saved → (∀ x ∈ g.retry, ¬ same c u x) →
      restored true (g.retry ++ [{ cls := c, unit := u, anew := false, blamed := b, frec := g.frec, point := g.point }]) (fun t => t.sound = s.sound ∧ t.mem = s.mem))
   ∧ (∀ c u b x l l', g.stt = 7 → g.fault = some (c, u, b) → judged c → rtry = true → saved → g.retry = l ++ x :: l' →
      (∀ y ∈ l, ¬ same c u y) → same c u x →
      (x.anew = true → removed)
      ∧ (x.anew = false → b = true →
          restored true (g.retry ++ [{ cls := c, unit := u, anew := false, blamed := true, frec := g.frec, point := g.point }]) (fun t => t.sound = s.sound))
      ∧ (x.anew = false → b = false → restored false (l ++ l' ++ [{ x with anew := true }]) (fun t => disp t g.frec 4 ∧ disp t x.frec 4
          ∧ (∀ d k a b, unitEntry u = some (d, k, a, b) → d < 32 → a < 256 → b < 256 → unsound t d k a b = true)
          ∧ (unitEntry u = none → t.sound = s.sound))))
   ∧ (g.stt = 0 → Steps (.regionRelease r) s s)
   ∧ (g.stt ≠ 7 → g.stt ≠ 0 → Steps (.regionRelease r) s (s.setRegion r { g with err := true })))

/-- R384, R385, R412, R382, R370: a firing that has held issue for 2^26 cycles raises a watchdog fault; a launch whose gates have stood open
longer than its queue's limit halts, then its record is written to the ring of die 0, then events 1 and 14 are posted, which wait with the
record where the ring is full; an AG stopped for 50 us makes firmware take a snapshot, whose number is the last marker's plus 1, modulo
2^32, which is the model's choice (log 43). -/
def Sys2Proof.Claim.Watchdogs : Prop := ∀ (s : State) (u r : Nat) (e : Elem), memWf s.mem = true →
  (let g := s.region r
   let limit := (s.queue g.q).ctl.toNat % 2 ^ 32
   let h := s.region e.rgn
   let ring := s.die 0
   let at' := ring.ringBase + 256 * (ring.ringTail % 2 ^ (ring.ringSize + 4))
   let posted := fun (t : State) (n : Nat) => Tab.get 0 t.evseq (regionSrc r) = (Tab.get 0 s.evseq (regionSrc r) + n) % 2 ^ 32
   let mark := ((h.last.map Snap.mkn).getD 0 + 1) % 2 ^ 32
   (s.elems[u]? = some e → e.active = true → e.busy = true → 2 ^ 26 ≤ e.run.held → ∃ t, Steps (.firingWatchdog u) s t
      ∧ (∃ e', t.elems[u]? = some e' ∧ e'.halted = true ∧ e'.s = e.s ∧ e'.run = e.run)
      ∧ (e.rgn ≠ 0 → h.stt < 5 → (t.region e.rgn).stt = 4) ∧ (e.rgn ≠ 0 → h.fault = none → (t.region e.rgn).status = 5))
   ∧ (s.elems[u]? = some e → e.run.held < 2 ^ 26 → Steps (.firingWatchdog u) s s)
   ∧ (∀ x, g.opened = some x → g.stt = 2 → limit ≠ 0 → x + g.wdHeld + 1000 * limit < s.now → 1 ≤ r → ∃ t, Steps (.launchWatchdog r) s t
      ∧ (t.region r).stt = 4 ∧ (g.fault = none → (t.region r).status = 5) ∧ EachElem r s t (fun _ e' => e'.halted = true)
      ∧ (ring.waiting = [] → (ring.ringTail + 2 ^ 32 - ring.ringHead) % 2 ^ 32 < 2 ^ (ring.ringSize + 4) → r < 65536 → posted t 3 ∧ (t.die 0).waiting = []
          ∧ (t.die 0).ringTail = (ring.ringTail + 1) % 2 ^ 32
          ∧ memNat t.mem (at' + 2) 2 = 16 * 256 + 2 ∧ memNat t.mem (at' + 144) 1 = 11 ∧ memNat t.mem (at' + 120) 2 = r % 65536)
      ∧ (2 ^ (ring.ringSize + 4) ≤ (ring.ringTail + 2 ^ 32 - ring.ringHead) % 2 ^ 32 → posted t 1 ∧ t.mem = s.mem
          ∧ (t.die 0).waiting.length = ring.waiting.length + 1))
   ∧ (g.opened = none ∨ limit = 0 ∨ g.stt ≠ 2 → Steps (.launchWatchdog r) s s)
   ∧ (∀ x, g.opened = some x → s.now ≤ x + g.wdHeld + 1000 * limit → Steps (.launchWatchdog r) s s)
   ∧ (∀ x, s.elems[u]? = some e → e.cls = .ag → e.role = .actor → e.dead = false → e.frozen = false → e.stop = some x →
      x.cls ≠ 19 → x.since + 50000 ≤ s.now → h.stt = 2 → h.snap = none → ∃ t, Steps (.restartableStopTimeout u) s t
        ∧ (t.region e.rgn).snap = some mark ∧ (∃ e', t.elems[u]? = some e' ∧ e'.mark = some mark ∧ e'.stop = e.stop ∧ e'.s = e.s)
        ∧ (∀ y ∈ (t.region e.rgn).gates, y.isOut = false → y.held = true ∧ ∃ l, y.out.flight = l ++ [.mark mark]))
   ∧ (∀ x, s.elems[u]? = some e → e.stop = some x → s.now < x.since + 50000 → Steps (.restartableStopTimeout u) s s))

/-- R364, R365, R366, R168: a marker behind the words of its channel comes to the element, and is held outside its slots; at its stop point
the element records, publishes the marker on every output and is frozen; an output gate records as the marker comes. A stream actor may stop
in any cycle, and its firings in flight stay as they are. -/
def Sys2Proof.Claim.SnapshotMarkers : Prop := ∀ (s : State),
  (∀ (u c k : Nat) (e : Elem) (s1 : State), s.elems[u]? = some e → e.dead = false → c < 32 → takeMark s (e.inch c).src = some (k, s1) →
    ∃ t0 e1, Steps (.snapMarkerArrive (.el u c)) s (completeSnap t0 e.rgn) ∧ t0.elems[u]? = some e1 ∧ (e1.inch c).mark = some k
      ∧ (e1.inch c).q = (e.inch c).q ∧ (e.frozen = false → e.mark = none → e1.mark = some k) ∧ (e.mark ≠ none → e1.mark = e.mark)
      ∧ e1.frozen = e.frozen ∧ e1.s = e.s ∧ t0.mem = s.mem)
  ∧ (∀ (r g k : Nat) (x : Gate) (s1 : State), (s.region r).gates[g]? = some x → x.isOut = true → takeMark s x.inp.src = some (k, s1) →
    ∃ t0 y, Steps (.snapMarkerArrive (.gate r g)) s (completeSnap t0 r) ∧ (t0.region r).gates[g]? = some y ∧ y.recd = true
      ∧ y.written = x.written ∧ t0.mem = s.mem)
  ∧ (∀ (u k : Nat) (e : Elem), s.elems[u]? = some e → e.mark = some k → e.dead = false → e.frozen = false → e.blot = false →
    (e.role ≠ .recq → (atStop e = true ↔ (e.busy = false ∨ e.stop ≠ none ∨ e.strm = true ∨ e.run.wait = some .slots)
        ∧ (e.cls = .ag → agQuiet e = true)))
    ∧ (atStop e = false → Steps (.snapshotRecord u) s s)
    ∧ (atStop e = true → ¬ (e.cls = .ag ∧ e.busy = true ∧ e.stop = none) → ∃ t0 e1, Steps (.snapshotRecord u) s (completeSnap t0 e.rgn)
        ∧ t0.elems[u]? = some e1 ∧ e1.frozen = true ∧ (∀ c ∈ e.boundOuts, (e1.outch c).flight = (e.outch c).flight ++ [.mark k])
        ∧ (∀ c ∈ e.boundOuts, (e1.outch c).free = (e.outch c).free) ∧ e1.ins = e.ins ∧ e1.s = e.s ∧ e1.run = e.run ∧ e1.pipe = e.pipe
        ∧ (e.cls = .ag → ∀ p ∈ t0.pins, p.agent ≠ u) ∧ t0.mem = s.mem)
    ∧ (atStop e = true → e.cls = .ag → e.busy = true → e.stop = none → ∃ t0 e1 x, Steps (.snapshotRecord u) s (completeSnap t0 e.rgn)
        ∧ t0.elems[u]? = some e1 ∧ e1.frozen = true ∧ e1.stop = some x ∧ x.cls = 19 ∧ x.pos = e.run.pos ∧ e1.s = e.s))

/-- R366, R367, R369, R373, R212: when every record is complete the snapshot stands in the context's area, the region is frozen and a lease of it is suspended with its remaining time; before, nothing
happens; an area that cannot hold it makes firmware remove the region with status 5. That a halted region keeps its state is the model's
choice (log 95). -/
def Sys2Proof.Claim.SnapshotComplete : Prop := ∀ (s : State) (r mkn : Nat), 1 ≤ r → memWf s.mem = true → (s.region r).snap = some mkn →
  (let g := s.region r
   let c := s.ctx g.ctx
   let bytes := snapBytes s r mkn (graphId s r)
   let base := (c.extractLsb' 384 64).toNat
   let size := 1024 * (c.extractLsb' 352 32).toNat
   let t := completeSnap s r
   let leased := ctxLid c ≠ 0 ∧ ctxLrgn c = r ∧ ctxLsus c = false
   let rec' := s.ctxAddr g.ctx
   let apart := rec' + 64 ≤ base ∨ base + bytes.length ≤ rec'
   (snapReady s r = false → t = s)
   ∧ (snapReady s r = true → bytes.length ≤ size → ¬ leased → apart → memBytes t.mem base bytes.length = bytes ∧ SameOutside base bytes.length s t)
   ∧ (snapReady s r = true → bytes.length ≤ size → leased → apart → memBytes t.mem base bytes.length = bytes
      ∧ (∀ a, a < base ∨ base + bytes.length ≤ a → a < rec' ∨ rec' + 64 ≤ a → memGet t.mem a = memGet s.mem a)
      ∧ ctxLsus (t.ctx g.ctx) = true ∧ ctxLrem (t.ctx g.ctx) = (Tab.get s.now s.leases g.ctx - s.now) % 2 ^ 64
      ∧ ctxLid (t.ctx g.ctx) = ctxLid c ∧ Tab.find t.leases g.ctx = none)
   ∧ (snapReady s r = true → bytes.length ≤ size → (t.region r).snap = none ∧ (t.region r).last.map Snap.mkn = some mkn ∧ (t.region r).stt = (if g.stt = 2 then 3 else g.stt))
   ∧ (snapReady s r = true → size < bytes.length → g.stt < 5 → (t.region r).stt = 5 ∧ (t.region r).status = 5))

-- The host, registers, firmware and power (spec 14, 15, 17) -----------------------------------------------------------------------------------

/-- R268, R161, R348, R349: the host's writes reach host memory and, through its links, HBM, each byte at its address, and leave the granules
they cover with zero meta bits; its reads return the bytes
that stand there; that through a link which is down nothing reaches HBM is the model's choice (log 82). -/
def Sys2Proof.Claim.HostAccess : Prop := ∀ (s : State) (link addr size : Nat) (bytes : List Byte), memWf s.mem = true →
  (let last := addr + bytes.length - 1
   let up := s.linkDown.contains link = false
   let host := isHost addr = true ∧ isHost last = true
   let hbm := isOwn addr = true ∧ isOwn last = true
   (bytes ≠ [] → host → ∃ t, Steps (.hostMemoryWrite link addr bytes) s t ∧ memBytes t.mem addr bytes.length = bytes
      ∧ SameOutside addr bytes.length s t ∧ t.elems = s.elems ∧ t.cores = s.cores)
   ∧ (bytes ≠ [] → hbm → up → ∃ t, Steps (.hostMemoryWrite link addr bytes) s t ∧ memBytes t.mem addr bytes.length = bytes
      ∧ SameOutside addr bytes.length s t
      ∧ (∀ g, addr ≤ 64 * g → 64 * g + 64 ≤ addr + bytes.length → g ∉ t.gpz ∧ g ∉ t.gtn)
      ∧ (∀ (k : Nat) (e : Elem), s.elems[k]? = some e → ∃ e', t.elems[k]? = some e' ∧ e'.s = e.s ∧ e'.run = e.run ∧ e'.ag.sb.length = e.ag.sb.length))
   ∧ (bytes = [] ∨ (hbm ∧ ¬ host ∧ ¬ up) → Steps (.hostMemoryWrite link addr bytes) s s)
   ∧ (isHost addr = true ∨ (isOwn addr = true ∧ up) →
      Steps (.hostMemoryRead link addr size) s { s with reads := s.reads ++ [memBytes s.mem addr size] })
   ∧ (isHost addr = false → ¬ (isOwn addr = true ∧ up) → Steps (.hostMemoryRead link addr size) s s))

/-- R379, R411, R362, R382, R386, R395, R401, R408, R358, R389: a store to a register changes the fields that are not read only; one to a
ring's head makes room for a record that waits; one to a region control register is its command. That a store to an address that names none
changes nothing (log 114), and that commands 0 and 6 to 15 change nothing (log 13), is the model's choice. -/
def Sys2Proof.Claim.RegisterStores : Prop := ∀ (s : State) (a size d f k : Nat) (data : BitVec 64),
  (let v := data.toNat % 2 ^ (8 * size)
   let go := fun (R : State → Prop) => ∃ t, Steps (.registerWrite a size data) s t ∧ R t ∧ t.mem = s.mem
   (regAt a size = none → Steps (.registerWrite a size data) s s)
   ∧ (regAt a size = some (.interval d) ∨ regAt a size = some (.ringTail d) → Steps (.registerWrite a size data) s s)
   ∧ (regAt a size = some (.tenant d f k) → go (fun t => (Tab.get 0xFFFF (t.slice d f).wmsk k).toNat = v % 2 ^ 16
      ∧ ∀ j, j ≠ k → Tab.get 0xFFFF (t.slice d f).wmsk j = Tab.get 0xFFFF (s.slice d f).wmsk j))
   ∧ (regAt a size = some (.tileInv d true) → go (fun t => (t.die d).inv.extractLsb' 64 64 = BitVec.ofNat 64 v
      ∧ (t.die d).inv.extractLsb' 0 64 = (s.die d).inv.extractLsb' 0 64 ∧ (t.die d).invBusy = (s.die d).invBusy))
   ∧ (regAt a size = some (.tileInv d false) → go (fun t => (t.die d).invBusy = true ∧ (t.die d).inv.extractLsb' 0 30 = 0
      ∧ (t.die d).inv.extractLsb' 30 34 = BitVec.ofNat 34 (v / 2 ^ 30) ∧ (t.die d).inv.extractLsb' 64 64 = (s.die d).inv.extractLsb' 64 64))
   ∧ (regAt a size = some (.supply d f) → go (fun t =>
      (let x := (s.supplyOf d f).reg
       let y := (t.supplyOf d f).reg
       y.extractLsb' 16 8 = x.extractLsb' 16 8 ∧ y.getLsbD 6 = x.getLsbD 6 ∧ (y.extractLsb' 8 8).toNat = v / 256 % 256
       ∧ y.getLsbD 7 = v.testBit 7 ∧ (y.extractLsb' 0 6).toNat = v % 64)))
   ∧ (regAt a size = some (.route k) → go (fun t =>
      (let old := Tab.get (BitVec.ofNat 64 (defaultRoute k)) s.routes k
       Tab.get (BitVec.ofNat 64 (defaultRoute k)) t.routes k = if v % 32 = 1 ∨ 17 ≤ v % 32 then old else BitVec.ofNat 64 (v % 32))))
   ∧ (regAt a size = some .health → go (fun t => t.hbto = v / 2 ^ 16 % 2 ^ 16 ∧ t.cmis = s.cmis))
   ∧ (regAt a size = some (.queue k) → go (fun t => (t.queue k).ctl = BitVec.ofNat 64 (v % 2 ^ 34) ∧ (t.queue k).desc = (s.queue k).desc))
   ∧ (regAt a size = some (.ringBase d) → go (fun t => (t.die d).ringBase = v / 256 * 256 % 2 ^ 64))
   ∧ (memWf s.mem = true → regAt a size = some (.ringHead d) →
      (let x := s.die d
       ∃ t, Steps (.registerWrite a size data) s t ∧ (t.die d).ringHead = v / 2 ^ 32 % 2 ^ 32 ∧ (t.die d).ringSize = v % 16
         ∧ (x.waiting = [] → t.mem = s.mem ∧ (t.die d).ringTail = x.ringTail)
         ∧ (∀ w, x.waiting = [w] → (x.ringTail + 2 ^ 32 - v / 2 ^ 32 % 2 ^ 32) % 2 ^ 32 < 2 ^ (v % 16 + 4) → (t.die d).waiting = []
             ∧ memBytes t.mem (x.ringBase + 256 * (x.ringTail % 2 ^ (v % 16 + 4))) 256 = littleBytes 256 w.toNat)))
   ∧ (regAt a size = some (.region k false) → 1 ≤ k → v % 16 = 2 → (s.region k).stt = 2 → go (fun t => (t.region k).stt = 4))
   ∧ (regAt a size = some (.region k false) → 1 ≤ k →
      (v % 16 = 1 → exec (.registerWrite a size data) s = exec (.regionResume k) s)
      ∧ (v % 16 = 2 → exec (.registerWrite a size data) s = exec (.regionHaltCmd k) s)
      ∧ (v % 16 = 3 → exec (.registerWrite a size data) s = exec (.regionReset k) s)
      ∧ (v % 16 = 4 → exec (.registerWrite a size data) s = exec (.regionBlot k) s)
      ∧ (v % 16 = 5 → exec (.registerWrite a size data) s = exec (.regionRelease k) s))
   ∧ (∀ h, regAt a size = some (.region k h) → h = true ∨ k = 0 ∨ v % 16 = 0 ∨ 6 ≤ v % 16 → Steps (.registerWrite a size data) s s))

/-- R358, R359, R360: while a die's invalidation stands, its tile caches lose the tiles; it is done when no load that used such a tile is
unanswered and no store is unaccepted, and not before; `done` then reads 1, the accepted stores through such a tile stand at its old frame, and a host's migration
request that is applied reads 0; when a request counts as applied is the model's choice (log 18). -/
def Sys2Proof.Claim.TileInvalidation : Prop := ∀ (s : State) (die : Nat), memWf s.mem = true →
  (let v := (s.die die).inv
   let named := fun (ctx slot tile : Nat) => ctx = (v.extractLsb' 30 12).toNat ∧ slot = (v.extractLsb' 42 22).toNat
     ∧ (v.extractLsb' 64 32).toNat ≤ tile ∧ tile < (v.extractLsb' 64 32).toNat + (v.extractLsb' 96 32).toNat
   let clean := fun (t : State) => (∀ x ∈ t.tiles, x.die = die → ¬ named x.ctx x.slot x.tile)
     ∧ (∀ x ∈ s.tiles, x.die ≠ die ∨ ¬ named x.ctx x.slot x.tile → x ∈ t.tiles)
   let waits := ∃ e ∈ s.elems, e.die = die ∧ ((∃ p < 4, ∃ r ∈ (e.port p).reqs, ∃ y, r.via = some y ∧ named y.ctx y.slot y.tile)
     ∨ (∃ r ∈ e.ag.sb, ∃ y, r.acc = false ∧ r.via = some y ∧ named y.ctx y.slot y.tile)
     ∨ (∃ r ∈ e.ag.tsts, ∃ y, r.via = some y ∧ named y.ctx y.slot y.tile))
   ((s.die die).invBusy = true → ∃ t, Steps (.tileInvalidate die) s t ∧ clean t ∧ t.mem = s.mem ∧ t.elems = s.elems)
   ∧ ((s.die die).invBusy = false → Steps (.tileInvalidate die) s s)
   ∧ ((s.die die).invBusy = true → ¬ waits → ∃ t, Steps (.tileInvalidateDone die) s t ∧ clean t ∧ (t.die die).invBusy = false
      ∧ (t.die die).inv.getLsbD 0 = true
      ∧ (∀ (k : Nat) (e' : Elem), t.elems[k]? = some e' → e'.die = die → ∀ p, p ∈ e'.ag.sb ∨ p ∈ e'.ag.eng.flatMap EngOp.writes → p.acc = true →
          p.reg = none → ∀ y, p.via = some y → ¬ named y.ctx y.slot y.tile)
      ∧ (∀ (u : Nat) (e : Elem) p y, s.elems[u]? = some e → e.die = die → e.ag.sb = [p] → e.ag.eng = [] → p.acc = true → p.reg = none → p.via = some y →
          named y.ctx y.slot y.tile → s.migr = [] →
          (∀ (k : Nat) (e' : Elem), k ≠ u → s.elems[k]? = some e' → e'.die = die → e'.ag.sb = [] ∧ e'.ag.eng = []) →
          ∀ b < 512, p.mask.getLsbD b = true → (memPay t.mem p.base).getLsbD b = p.data.getLsbD b)
      ∧ (∀ m, s.migr = [m] → mgHost m.req = true → mgApplied s m = true → (∀ e ∈ s.elems, e.ag.sb = [] ∧ e.ag.eng = []) →
          t.migr = [] ∧ memNat t.mem (hostKey (m.addr + 32)) 8 = 0))
   ∧ ((s.die die).invBusy = false ∨ waits → Steps (.tileInvalidateDone die) s s))

/-- R360, R361, R353: a migration request is pending unless its record is rejected; of two for one tile the surely earlier wins, then the
host's, then the one of lower earliest, and the loser's record reads 1; a page that the host grants is
translated for its link and PASID, and one it refuses halts the regions whose agents or engine operations wait for that page, no other, and
removes the evicted launches that wait for it. The status 3 of what a refused page ends, and the name 4096 times the link plus the context of an
answer, are the model's choice (log 101). -/
def Sys2Proof.Claim.HostRequests : Prop := ∀ (s : State) (ctx addr tile link : Nat), memWf s.mem = true →
  (let r := BitVec.ofNat 256 (memNat s.mem (hostKey addr) 32)
   let lat := fun (x : BitVec 256) => (x.extractLsb' 192 64).toNat
   let ear := fun (x : BitVec 256) => (x.extractLsb' 128 64).toNat
   let hdl := fun (x : BitVec 256) => (x.extractLsb' 96 32).toNat
   let tl := fun (x : BitVec 256) => (x.extractLsb' 64 32).toNat
   let bad := lat r < ear r ∨ handleOk s ctx (hdl r) = false ∨ heLim (heAt s ctx (hdlSlot (hdl r))) ≤ tl r
   let new := ({ ctx := ctx, req := r, addr := addr, order := s.orders } : Migr)
   let told := fun (t : State) (a v : Nat) => memNat t.mem (hostKey (a + 32)) 8 = v
   let rival := fun (m : Migr) => s.migr.find? (fun x => x.ctx == ctx && mgHdl x.req == hdl r && mgTile x.req == tl r) = some m
   let wins := fun (m : Migr) => lat r < ear m.req
     ∨ (¬ lat m.req < ear r ∧ ((r.getLsbD 1 = true ∧ m.req.getLsbD 1 = false) ∨ (r.getLsbD 1 = m.req.getLsbD 1 ∧ ear r < ear m.req)))
   let here := fun (lo hi : Nat) => (lo + hi * 2 ^ 32) / 65536 = addr / 65536
   let wants := fun (e : Elem) =>
     (∃ x, e.stop = some x ∧ x.cls = 1 ∧ x.sub = 3 ∧ here (x.frec.extractLsb' 1632 32).toNat (x.frec.extractLsb' 1664 32).toNat)
     ∨ (∃ o ∈ e.ag.eng, coStp (e.co o.co) = true ∧ o.fcs = 0x0B ∧ here (o.why.getD 3 0) (o.why.getD 4 0))
   ((∀ m ∈ s.migr, mgApplied s m = false) →
      (bad → ∃ t, Steps (.migrationRequest ctx addr) s t ∧ t.migr = s.migr ∧ (r.getLsbD 1 = true → told t addr 2))
      ∧ (¬ bad → (∀ m, ¬ rival m) → ∃ t, Steps (.migrationRequest ctx addr) s t ∧ t.migr = s.migr ++ [new] ∧ t.mem = s.mem)
      ∧ (∀ m, ¬ bad → rival m → wins m → ∃ t, Steps (.migrationRequest ctx addr) s t ∧ t.migr = s.migr.erase m ++ [new]
          ∧ (m.req.getLsbD 1 = true → told t m.addr 1))
      ∧ (∀ m, ¬ bad → rival m → ¬ wins m → ∃ t, Steps (.migrationRequest ctx addr) s t ∧ t.migr = s.migr
          ∧ (r.getLsbD 1 = true → told t addr 1)))
   ∧ (ctx < 4096 → ∃ t, Steps (.priResponse (4096 * link + ctx) tile addr true) s t
      ∧ (link, (s.ctx ctx).toNat / 2 ^ 310 % 2 ^ 20, addr / 65536) ∈ t.ats ∧ (∀ x ∈ s.ats, x ∈ t.ats) ∧ t.elems = s.elems)
   ∧ (ctx < 4096 → ∃ t, Steps (.priResponse (4096 * link + ctx) tile addr false) s t ∧ t.ats = s.ats
      ∧ (∀ e ∈ s.elems, e.rgn ≠ 0 → (s.region e.rgn).stt < 5 → e.dead = false → (s.region e.rgn).ctx = ctx → s.linkOf e.rgn = link →
          wants e → (t.region e.rgn).stt = 4 ∧ (t.region e.rgn).status = 3)
      ∧ (∀ g, (∀ e ∈ s.elems, e.rgn = g → e.dead = true ∨ ¬ wants e) → t.region g = s.region g)
      ∧ (∀ l ∈ s.launches, ∀ y sn, l.phase = 2 → l.held = some y → y.last = some sn → y.ctx = ctx → y.q / 2048 = link → (∃ e ∈ sn.elems, wants e) →
          ∀ k ∈ t.launches, k.uid = l.uid → k.phase = 4 ∧ k.status = 3)))

/-- R407, R408, R409: a core whose heartbeat is late loses its `live` bit; a mismatch restarts the nib pair and is counted, and the third in
1 s is the safe state; an image with a good signature runs on core 14, and after its period is the committed one; anything else changes
nothing; the module answers with its measurements, signed. The nib pair starts again at its image's entry, and what lives until the image
changes stays: system registers, return stack, events, heartbeat. The model's own choices beside the rules: an update while the canary runs is
ignored (log 46), what the restart of the nib pair keeps (log 147), and the form of the answers (log 48), whose signature is opaque. -/
def Sys2Proof.Claim.FirmwareSteps : Prop := ∀ (s : State) (core addr len link : Nat) (nonce : BitVec 256),
  (let img := memBytes s.mem (hostKey addr) len
   let recent := s.misAt.filter (fun t => decide (s.now < t + 1000000000))
   let meas := littleBytes 64 Config.bootRomDigest.toNat ++ sha512 s.fw.image
     ++ (match s.fw.canary with
         | some x => sha512 x
         | none => List.replicate 64 0) ++ sha512 (s.sound.flatMap (fun x => littleBytes 8 x.toNat))
   let down := s.linkDown.contains link
   (∀ (e : Elem) (b : Nat), s.cores[core]? = some e → e.fc.beat = some b → s.hbto * 1000 < b → s.fw.canary = none →
      ∃ (t : State) (e' : Elem), Steps (.heartbeatMissed core) s t ∧ t.cores[core]? = some e' ∧ e'.fc.beat = none ∧ e'.fc.cstat = e.fc.cstat)
   ∧ (∀ (e : Elem), s.cores[core]? = some e → (∀ b, e.fc.beat = some b → b ≤ s.hbto * 1000) → s.fw.canary = none →
      Steps (.heartbeatMissed core) s s)
   ∧ (∃ t, Steps .lockstepMismatch s t ∧ t.cmis = (s.cmis + 1) % 65536 ∧ (t.safe = true ↔ s.safe = true ∨ 2 ≤ recent.length)
      ∧ (t.msix = if 2 ≤ recent.length then s.msix ++ [(0, 0), (1, 0)] else s.msix) ∧ t.elems = s.elems
      ∧ ∀ e, s.cores[0]? = some e → ∃ e', t.cores[0]? = some e' ∧ e'.run.pos = leNat ((s.fw.image.drop 16).take 4) ∧ e'.run.loops = []
        ∧ e'.ag = e.ag ∧ e'.fc = { e.fc with segs := e'.fc.segs, icache := [], halted := false, dead := false, idleAt := none })
   ∧ (s.fw.canary = none → imageOk img = true → ∃ (t : State) (e : Elem), Steps (.firmwareUpdateRequest addr len) s t ∧ t.fw.canary = some img
      ∧ t.fw.since = s.now ∧ t.fw.image = s.fw.image ∧ t.cores[14]? = some e ∧ e.fc.halted = false
      ∧ e.run.pos = leNat ((img.drop 16).take 4))
   ∧ (imageOk img = false ∨ s.fw.canary ≠ none → Steps (.firmwareUpdateRequest addr len) s s)
   ∧ (s.fw.canary = none → s.fw.todo = [] → Steps .firmwareCommit s s)
   ∧ (∀ x, s.fw.canary = some x → s.fw.since + s.fw.period * 1000000000 ≤ s.now → canaryMissed s = false →
      ∃ t, Steps .firmwareCommit s t ∧ t.fw.image = x ∧ t.fw.canary = none)
   ∧ (∀ x, s.fw.canary = some x → s.now < s.fw.since + s.fw.period * 1000000000 ∨ canaryMissed s = true → Steps .firmwareCommit s s)
   ∧ (down = false → ∃ t sig, Steps (.spdmGetMeasurements link) s t ∧ t.spdm = s.spdm ++ [meas ++ sig])
   ∧ (down = false → ∃ t sig, Steps (.spdmChallenge link nonce) s t ∧ t.spdm = s.spdm ++ [meas ++ littleBytes 32 nonce.toNat ++ sig])
   ∧ (down = true → Steps (.spdmGetMeasurements link) s s ∧ Steps (.spdmChallenge link nonce) s s))

/-- R379, R396, R399, R401, R408: after a module reset no region and no launch is left, every die's interval is (0, 2^64 - 1), and every supply
stands at level 20; a map whose signature does not verify is bad. That memory, flash and the soundness map keep what they hold
(log 51), and what the registers of the cores then hold (log 3), are the model's choices. -/
def Sys2Proof.Claim.ModuleReset : Prop := ∀ (s : State), ∃ t, Steps .moduleReset s t ∧ t.elems = [] ∧ t.regions = [] ∧ t.launches = []
  ∧ t.queues = [] ∧ t.configs = [] ∧ t.sound = s.sound ∧ t.fw.image = s.fw.image ∧ t.fw.canary = none
  ∧ (t.mapBad = true ↔ s.mapSig ≠ s.sound) ∧ t.hbto = 1000 ∧ t.cmis = 0
  ∧ t.safe = false ∧ (∀ d, (t.die d).early = 0 ∧ (t.die d).late = 2 ^ 64 - 1 ∧ (t.die d).tooWide = true)
  ∧ (∀ d f, (t.supplyOf d f).lvl = 20 ∧ (t.supplyOf d f).safe = 20)
  ∧ (s.fw.image = [] → t.mem = s.mem ∧ ∀ (k : Nat) (e : Elem), t.cores[k]? = some e → e = coreReset k)

/-- R402, R403: a window with fewer than 4 correctable errors makes the level safe and lowers it by 1 above its floor; one with more raises
it by 1 up to 2 above the safe level and never above 20; nothing moves without undervolting, under a lease, or where the floor is held. -/
def Sys2Proof.Claim.Undervolting : Prop := ∀ (s : State) (die folio errs : Nat), die < 32 → folio < 144 →
  (let x := s.supplyOf die folio
   let floor := (x.reg.extractLsb' 0 6).toNat
   let moves := x.reg.getLsbD 7 = true ∧ x.reg.getLsbD 6 = false ∧ x.held = false
   (moves → errs < 4 → ∃ t, Steps (.undervoltWindow die folio errs) s t
      ∧ (t.supplyOf die folio).lvl = (if floor < x.lvl then x.lvl - 1 else x.lvl) ∧ (t.supplyOf die folio).safe = x.lvl
      ∧ ((t.supplyOf die folio).reg.extractLsb' 0 6).toNat = floor)
   ∧ (moves → 4 ≤ errs → ∃ t, Steps (.undervoltWindow die folio errs) s t
      ∧ (t.supplyOf die folio).lvl = (if x.lvl < x.safe + 2 ∧ x.lvl < 20 then x.lvl + 1 else x.lvl)
      ∧ (t.supplyOf die folio).safe = x.safe ∧ ((t.supplyOf die folio).reg.extractLsb' 0 6).toNat = floor)
   ∧ (¬ moves → Steps (.undervoltWindow die folio errs) s s))

/-- R405, R363, R373, R400: after 2^20 accesses of a slice a way is judged: above a miss rate of 1/16 it is enabled again; where fewer ways would
have served, which is a free value (log 139), one that holds no pinned line is gated and gives up its sectors and their charges; the
counts begin anew; before, or for another rate, nothing happens. A lease, which has the time with which it returned to the pool if it comes
from there, raises the supplies of its region's folios above level 20, up to 60, and ends when its time has run out. -/
def Sys2Proof.Claim.WaysAndLeases : Prop := ∀ (s : State) (die folio way misses r lid lvl time ctx : Nat) (fewer : Bool), memWf s.mem = true →
  (let x := s.slice die folio
   let pinned := ∃ p ∈ s.pins, p.die = die ∧ p.folio = folio ∧ p.way.toNat = way
   let g := s.region r
   let due := die < 32 ∧ folio < 144 ∧ way < 16 ∧ 2 ^ 20 ≤ x.accs ∧ misses = x.miss ∧ fewer = Config.freeSmaller s.freeCtr
   let gates := fun (on : Bool) (R : State → Prop) => ∃ t, Steps (.l2WayGating die folio way fewer misses) s t ∧ (t.slice die folio).accs = 0
     ∧ (t.slice die folio).miss = 0 ∧ (∀ w < 16, (t.slice die folio).gated.getLsbD w = if w = way then on else x.gated.getLsbD w)
     ∧ t.mem = s.mem ∧ R t
   (due → 65536 < misses → gates false (fun t => t.l2 = s.l2))
   ∧ (due → misses ≤ 65536 → fewer = true → ¬ pinned → gates true (fun t =>
        ∀ y, y ∈ t.l2 ↔ y ∈ s.l2 ∧ ¬ (homeDie (y.sec * 128) = die ∧ homeFolio (y.sec * 128) = folio ∧ y.way = way)))
   ∧ (due → misses ≤ 65536 → fewer = false ∨ pinned → gates (x.gated.getLsbD way) (fun t => t.l2 = s.l2))
   ∧ (¬ due → Steps (.l2WayGating die folio way fewer misses) s s)
   ∧ (g.stt ≠ 0 → 0 < lid → lid < 2 ^ 16 → ctxLid (s.ctx g.ctx) = 0 → 20 < lvl → lvl ≤ 60 → r < 2 ^ 16 → time < 2 ^ 64 →
      ∃ t, Steps (.boostLeaseGrant r lid lvl time) s t ∧ ctxLid (t.ctx g.ctx) = lid ∧ ctxLrgn (t.ctx g.ctx) = r
        ∧ ctxLsus (t.ctx g.ctx) = false ∧ Tab.find t.leases g.ctx = some (s.now + Tab.get time s.pool lid) ∧ Tab.find t.pool lid = none
        ∧ (∀ f ∈ g.folios, (s.supplyOf f.1 f.2).held = false → f.2 < 144 → (t.supplyOf f.1 f.2).lvl = lvl))
   ∧ (lvl ≤ 20 ∨ 60 < lvl ∨ g.stt = 0 ∨ ctxLid (s.ctx g.ctx) ≠ 0 ∨ lid = 0 → Steps (.boostLeaseGrant r lid lvl time) s s)
   ∧ (∀ x, Tab.find s.leases ctx = some x → x ≤ s.now → ctxLid (s.ctx ctx) ≠ 0 → ∃ t, Steps (.boostLeaseExpiry ctx) s t
      ∧ Tab.find t.leases ctx = none ∧ ctxLid (t.ctx ctx) = 0 ∧ t.elems = s.elems)
   ∧ (∀ x, Tab.find s.leases ctx = some x → s.now < x → Steps (.boostLeaseExpiry ctx) s s)
   ∧ (Tab.find s.leases ctx = none → Steps (.boostLeaseExpiry ctx) s s))

-- The machine as a whole -----------------------------------------------------------------------------------------------------

/-- A step is a turn of the agenda, after the cell errors that it brings and the time that passes before it, or of the current unit where the agenda is empty
(log 1); at its turn a unit without a firing executes nothing, an element with a firing executes the word at its position
(R53, R54, R77), a core the word of its cache at its address (R53); a word whose op is not assigned traps (R60), and so do a
firing that runs past its body (R91) and a core at an address that no word has. -/
def Obligations.StepRunsDecoded : Prop :=
  (∀ s : State, s.agenda = [] → step s = unitTurn s)
  ∧ (∀ (s : State) (t : Turn) (r : List Turn), s.agenda = t :: r →
      (∀ i : Instr, t.act = .dev i → step s = exec i (elapse t.ns (upsetAll { s with agenda := r } t.ups)))
      ∧ (∀ u : UnitId, t.act = .unit u → step s = unitTurn { elapse t.ns (upsetAll { s with agenda := r } t.ups) with cur := u })
      ∧ (∀ u k, t.act = .stage u k → step s = stageTurn { elapse t.ns (upsetAll { s with agenda := r } t.ups) with cur := .el u } u k)
      ∧ (∀ g n cfg, t.act = .reconf g n cfg → step s = .next (emitSwitch (elapse t.ns (upsetAll { s with agenda := r } t.ups)) g n cfg)))
  ∧ (∀ (s : State) (n : Nat) (e : Elem), s.cur = .el n → s.elems[n]? = some e → e.blot = false →
      ((e.dead || e.halted || e.frozen || e.stop.isSome || e.role != .actor || e.parked) = true → unitTurn s = .next s)
      ∧ ((e.dead || e.halted || e.frozen || e.stop.isSome || e.role != .actor || e.parked) = false →
          (e.busy = false → unitTurn s = exec (.firingStart n) s)
          ∧ (∀ (w : BitVec 96) (i : Instr), e.busy = true → e.body[e.run.pos]? = some w → decodeWord w = some i →
              unitTurn s = exec i s)
          ∧ (∀ w : BitVec 96, e.busy = true → e.body[e.run.pos]? = some w → decodeWord w = none →
              unitTurn s = .next (takeTrap s s.cur e .instr w))
          ∧ (e.busy = true → e.body.length ≤ e.run.pos → unitTurn s = .next (takeTrap s s.cur e .instr 0))))
  ∧ (∀ (s : State) (n : Nat) (e : Elem), s.cur = .fc n → s.unit (.fc n) = some e →
      ((e.fc.halted || e.fc.dead) = true → unitTurn s = .next s)
      ∧ ((e.fc.halted || e.fc.dead) = false → e.fc.icache ≠ [] →
          (∀ (w : CacheWord) (i : Instr), e.fc.icache.find? (fun x => x.addr == e.run.pos) = some w →
              memBytes s.mem w.addr w.len = w.bytes → decodeWord w.word = some i → unitTurn s = exec i s)
          ∧ (e.fc.icache.find? (fun x => x.addr == e.run.pos) = none → unitTurn s = .next (takeTrap s s.cur e .instr 0)))
      ∧ ((e.fc.halted || e.fc.dead) = false → e.fc.icache = [] → e.filled s.mem ≠ e →
          unitTurn s = unitTurn (s.setUnit (.fc n) (e.filled s.mem))))

/-- R43, R49 to R51, R59: the word of every well-formed instruction that has one, and its bytes in the form `oluby` gives it
and as a FULL form, read back as that instruction, with every field; `xtrap` alone cannot come from a byte stream. -/
def Obligations.DecodeEncode : Prop := ∀ i : Instr, i.wf = true →
  (∀ w : BitVec 96, encodeWord i = some w → decodeWord w = some i)
  ∧ (∀ (op : BitVec 8) (f : Fields), opFields i = some (op, f) → op ≠ 0xFF →
      (∃ l : List Byte, encode i = some l ∧ ∀ r : List Byte, decodeBytes (l ++ r) = some (i, l.length))
      ∧ (∃ l : List Byte, encodeFull i = some l ∧ l.length = 13 ∧ ∀ r : List Byte, decodeBytes (l ++ r) = some (i, 13)))

/-- R50 to R54, R60: words written out from the tables of the forms read as the instructions they stand for, one of each form;
the table of fates of R54 holds; a pad byte gives no instruction. -/
def Obligations.DecodedWords : Prop :=
  decodeBytes [0x13, 0x9C, 0x00, 0x03] = some (.mov { Fields.initial with d := 0x300, a := 0x003 }, 4)
  ∧ decodeBytes [0x22, 0x41, 0x00, 0x40, 0x20, 0x0C] = some (.mad { Fields.initial with var := 1, d := 1, a := 2, b := 3 }, 6)
  ∧ decodeBytes [0x32, 0x00, 0x00, 0x06, 0x00, 0x40, 0x84, 0x00]
      = some (.add { Fields.initial with d := 1, a := 0x200, b := 0x102, wa := 1 }, 8)
  ∧ decodeBytes [0x43, 0xA0, 0x00, 0x04, 0x00, 0x00, 0x14] = some (.movi { Fields.initial with d := 1, imm := 5 }, 7)
  ∧ decodeBytes [0x54, 0x30, 0x50, 0x04, 0x02, 0x00, 0xC0, 0x40, 0x04]
      = some (.fma { Fields.initial with ty := 5, d := 1, a := 2, b := 3, c := 4, pm := 1 }, 9)
  ∧ decodeBytes [0xF0, 0x84, 0x00, 0xC0, 0x00, 0x33, 0xFC, 0xFF, 0x00, 0x00, 0x00, 0x00, 0x07]
      = some (.tst { Fields.initial with d := 0x300, a := 0x003, imm := 7 }, 13)
  ∧ decodeBytes [0x00] = none
  ∧ expand [0x13, 0x9C, 0x00, 0x03, 0x00, 0x07, 0x10, 0x93, 0xFC, 0xFF, 0xF1, 0x20, 0x00, 0x00, 0xE0, 0x84, 0x08, 0xFF, 0x10, 0x00,
      0x00, 0x00, 0x00, 0x32, 0x00]
    = [0x3900C00033FCFF0000000000, xtrapWord 1 5 0x3FF, 0xFF20024FF3FCFF0000000006, xtrapWord 3 10 0x020, xtrapWord 4 23 0x3FF]

/-- R379, R389, R396, R401, R408: the machine right after reset, as far as the spec gives it, with no region granted; its
memory has the canonical form. -/
def Obligations.ResetState : Prop :=
  (∀ d < 32, (State.reset.die d).ringBase = d * 2 ^ 37 + 0x40_0000 ∧ (State.reset.die d).ringSize = 0
      ∧ (State.reset.die d).ringHead = 0 ∧ (State.reset.die d).ringTail = 0)
  ∧ (∀ d < 33, (State.reset.die d).early = 0 ∧ (State.reset.die d).late = 2 ^ 64 - 1 ∧ (State.reset.die d).wide = true)
  ∧ (∀ k : Nat, Tab.get Supply.reset State.reset.supply k = Supply.reset)
  ∧ Supply.reset.reg = 20 <<< 16 ||| 20 <<< 8 ||| 1 <<< 7
  ∧ State.reset.cmis = 0 ∧ State.reset.hbto = 1000
  ∧ State.reset.elems = [] ∧ (∀ r : Nat, (State.reset.region r).stt = 0)
  ∧ Canonical State.reset

/-- The memory keeps its canonical form, addresses rising and no zero byte listed, over every step from every state that has
it (log 4). -/
def Obligations.StepKeepsCanonical : Prop := ∀ s t : State, Canonical s → step s = .next t → Canonical t

/-- The ops that a class may not execute, by the table of R63. -/
def Sys2Proof.Claim.barred : Cls → List (Nat × Nat)
  | .ve => [(0x80, 0xC4), (0xD3, 0xD5), (0xE1, 0xE7), (0xEA, 0xEC)]
  | .se => [(0x40, 0x71), (0x80, 0xC4), (0xD3, 0xD5), (0xE1, 0xE7), (0xEA, 0xEC)]
  | .ag => [(0x40, 0x76), (0xC0, 0xC4), (0xD3, 0xD5), (0xE1, 0xE7), (0xEA, 0xEC)]
  | .ra => [(0x20, 0xB4), (0xD0, 0xEC)]
  | .fc => [(0x01, 0x08), (0x60, 0x89), (0xC0, 0xC4)]

/-- R16, R63: an instruction that its class may not execute traps as an illegal instruction; the rules say so of a core, and let the
loader reject a body that holds one, and that an element which meets one traps too is the model's choice (log 108). While its unit exists, every
instruction leaves a next state, and every step of the device does; the machine stops only where no unit is current (log 2). -/
def Obligations.NeverStops : Prop :=
  (∀ (i : Instr) (s : State) (e : Elem) (op : BitVec 8) (f : Fields), Runs s e → opFields i = some (op, f) →
      (Claim.barred e.cls).any (fun r => decide (r.1 ≤ op.toNat ∧ op.toNat ≤ r.2)) = true →
      Traps i s e .instr (wordOf op f))
  ∧ (∀ (i : Instr) (s : State) (e : Elem), Runs s e → ∃ t : State, exec i s = .next t)
  ∧ (∀ (i : Instr) (s : State), opFields i = none → ∃ t : State, exec i s = .next t)
  ∧ (∀ (i : Instr) (s : State) (op : BitVec 8) (f : Fields), s.unit s.cur = none → opFields i = some (op, f) →
      exec i s = .fault .noUnit)

/-- R45, R46, R47, R22, R33, R20, R71: what a source designator reads. A state or constant register, or the word in a slot of a channel, of
which a control word brings neither PZ nor TN; an output slot's staged word; a special in each lane: the mask with its own bits PZ and TN, the
scale register with its, and the rest without, but for the TN of the tick under catch-up. -/
def Sys2Proof.Claim.Sources : Prop := ∀ (s : State) (e : Elem),
  (let g := s.region e.rgn
   let rd := fun (n : Nat) => readDes s e (BitVec.ofNat 10 n)
   let reads := fun (d : Nat) (v : Nat → Nat) (pz tn : Bool) => (∀ n < 16, ((rd d).pay.lane n).toNat = v n) ∧ (rd d).pz = pz ∧ (rd d).tn = tn
   (∀ n < 64, e.s[n]? = some (rd n)) ∧ (∀ n < 64, e.k[n]? = some (rd (0x100 + n)))
   ∧ reads 0xFF (fun _ => 0) false false ∧ reads 0xFE (fun n => n) false false
   ∧ reads 0xFD (fun _ => e.site.toNat) false false ∧ reads 0xFC (fun _ => e.fcnt.toNat) false false
   ∧ reads 0xFB (fun _ => e.rgn % 2 ^ 32) false false ∧ reads 0xFA (fun _ => e.invk.toNat) false false
   ∧ reads 0xF9 (fun _ => e.phnum.toNat) false false
   ∧ reads 0xF8 (fun _ => if g.clk.tmod = 0 then 0 else g.tick % 2 ^ 32) false (g.clk.tmod == 2)
   ∧ reads 0xF0 (fun _ => 0xFFFF) false false
   ∧ (∀ k < 3, ∃ m, e.m[k]? = some m ∧ reads (0xF1 + k) (fun _ => m.bits.toNat) m.pz m.tn)
   ∧ (∀ k < 8, ∃ x, e.x[k]? = some x ∧ reads (0xE8 + k) (fun _ => x.ts.toNat) x.pz x.tn)
   ∧ (∀ c < 32, ∀ j < 8, ∀ w : CWord, (e.inch c).q[j]? = some w →
        (rd (0x200 + 8 * c + j)).pay = w.pay ∧ (rd (0x200 + 8 * c + j)).pz = (!w.isCtl && w.pz) ∧ (rd (0x200 + 8 * c + j)).tn = (!w.isCtl && w.tn))
   ∧ (∀ c < 16, ∀ j < 4, (rd (0x300 + 8 * c + j)).pay = (e.staging c j).pay))

/-- R45 to R48, R72: what a destination receives and that nothing else of the unit changes: `zero` discards, a state register
takes the value, an output slot's staging takes it, published by no write. -/
def Sys2Proof.Claim.Destinations : Prop := ∀ (e : Elem) (v : Reg),
  writeDes e 0x0FF v = e
  ∧ (∀ n < 64, writeDes e (BitVec.ofNat 10 n) v = { e with s := (writeDes e (BitVec.ofNat 10 n) v).s }
      ∧ (writeDes e (BitVec.ofNat 10 n) v).s[n]? = some v
      ∧ ∀ k < 64, k ≠ n → (writeDes e (BitVec.ofNat 10 n) v).s[k]? = e.s[k]?)
  ∧ (∀ c < 16, ∀ j < 4,
      (let y := writeDes e (BitVec.ofNat 10 (0x300 + 8 * c + j)) v
       y = { e with run := { e.run with stag := y.run.stag } }
       ∧ y.staging c j = { pay := v.pay, lr := false, ls := false, pz := v.pz, tn := v.tn }
       ∧ ∀ c' < 16, ∀ j' < 4, ¬ (c' = c ∧ j' = j) → y.staging c' j' = e.staging c' j'))

/-- The frame of the integer, mask, lane, float and conversion instructions (R76, R103, R106): each traps, or holds issue, or
changes nothing outside its unit, and of its unit only the destination register, mask, scale register or staging slot, the
sticky flags and its place. -/
def Sys2Proof.Claim.RegisterFrame : Prop := ∀ (i : Instr) (s : State) (e : Elem) (op : BitVec 8) (f : Fields),
  Runs s e → opFields i = some (op, f) →
  (0x0A ≤ op.toNat ∧ op.toNat ≤ 0x0B ∨ 0x20 ≤ op.toNat ∧ op.toNat ≤ 0x54) →
  (∃ t : Trap, Traps i s e t (wordOf op f)) ∨ (∃ c : Hold, Holds i s e c)
  ∨ ∃ e1 : Elem, Completes i s e s e1
      ∧ e1 = { e with s := e1.s, m := e1.m, x := e1.x, sticky := e1.sticky, run := { e.run with stag := e1.run.stag } }
      ∧ (∀ k < 64, f.d.toNat ≠ k → e1.s[k]? = e.s[k]?)
      ∧ (∀ k : Nat, f.d.toNat ≠ 0x300 + (k / 4) * 8 + k % 4 → Tab.get CWord.zero e1.run.stag k = Tab.get CWord.zero e.run.stag k)
      ∧ (∀ k < 3, f.d.toNat ≠ 0xF1 + k → e1.m[k]? = e.m[k]?)
      ∧ (∀ k < 8, f.d.toNat ≠ 0xE8 + k → e1.x[k]? = e.x[k]?)

/-- What R106 to R108 and R120 to R127 list for an instruction of chapters 4 and 5 whose fields have a lane form: the operands it uses, its
variants, and its types. -/
def Sys2Proof.Claim.entryOf (op : Nat) (f : Fields) : Option (Uses × Nat × List Nat) :=
  if [0x20, 0x21, 0x22, 0x23, 0x25, 0x26, 0x29, 0x2A].contains op then some (usesAB, 2, [1, 2, 3, 4])
  else if op = 0x24 then some (usesABC, 2, [1, 2, 3, 4])
  else if [0x27, 0x28].contains op then some (usesA, 2, [1, 2, 3, 4])
  else if [0x2B, 0x2C, 0x2D, 0x2E].contains op then some (usesAB, 1, [1, 2, 3, 4, 5, 6, 7, 8, 9, 10, 11, 12])
  else if [0x2F, 0x30, 0x31, 0x32].contains op then some (if f.var = 1 then usesA else usesAB, 2, [1, 2, 3, 4])
  else if [0x33, 0x34].contains op then some (usesA, 1, [1, 2, 3, 4])
  else if [0x40, 0x41, 0x42].contains op then some (usesAB, 1, [5, 6, 7])
  else if [0x44, 0x45].contains op then some (usesAB, 2, [5, 6, 7])
  else if [0x46, 0x47, 0x49, 0x4A, 0x4B, 0x4C, 0x4D].contains op then some (usesA, 1, [5, 6, 7])
  else none

/-- R44, R42, R63, R71 to R73: the checks of such an instruction stand in one order, and the first that fails decides: a variant that its
table lacks, lane form 3 and a wait on an operand that is no channel are an illegal instruction; then a type outside its list is an
illegal type; then the first source, and after the sources the destination, that may not be one is an illegal operand. Where all pass,
it holds issue on a channel whose words or slots are too few. That the checks of encodings and designators come before the waits is the model's
choice (log 61). -/
def Sys2Proof.Claim.ChecksInOrder : Prop := ∀ (i : Instr) (s : State) (e : Elem) (op : BitVec 8) (f : Fields) (u : Uses) (vars : Nat)
    (types : List Nat), Runs s e → opFields i = some (op, f) → Claim.entryOf op.toNat f = some (u, vars, types) →
  (if op.toNat < 0x40 then IntUnit e else FloatUnit e) →
  (let bad := if op.toNat < 0x40 then badDst e f else badReg e f
   let sound := f.var.toNat < vars ∧ f.ln ≠ 3 ∧ waitsOk u f = true
   (¬ sound → Traps i s e .instr (wordOf op f))
   ∧ (sound → typeIn e f u ∉ types → Traps i s e (.type (typeIn e f u)) (wordOf op f))
   ∧ (∀ d, sound → typeIn e f u ∈ types → badSrc u e f = some d → Traps i s e (.operand d.toNat) (wordOf op f))
   ∧ (∀ d, sound → typeIn e f u ∈ types → badSrc u e f = none → bad = some d → Traps i s e (.operand d.toNat) (wordOf op f))
   ∧ (sound → typeIn e f u ∈ types → badSrc u e f = none → bad = none → ready u e f = false → Holds i s e .slots))

/-- R76, R103, R380, R382: a trap of an element undoes the instruction: a restartable fault stops the element, any other halts its region. One
record for it, with its class, its subcause and `disp` 1 or 2, enters the ring of its die at the tail, or waits there while the ring is
full, and no other byte of memory changes. -/
def Sys2Proof.Claim.ElementFaults : Prop := ∀ (s : State) (n : Nat) (e : Elem) (t : Trap) (w : BitVec 96), s.elems[n]? = some e →
  (let s1 := takeTrap s (.el n) e t w
   let d := ringDie e.die
   let ring := s.die d
   let used := (ring.ringTail + 2 ^ 32 - ring.ringHead) % 2 ^ 32
   let at' := ring.ringBase + 256 * (ring.ringTail % 2 ^ (ring.ringSize + 4))
   (t.restartable = true → ∃ x : Elem, s1.elems[n]? = some x ∧ x.run = e.run ∧ x.s = e.s ∧ x.halted = e.halted
      ∧ ∃ p : Stop, x.stop = some p ∧ p.cls = t.cls.1 ∧ p.sub = t.cls.2 ∧ p.pos = e.run.pos)
   ∧ (t.restartable = false → ∀ (k : Nat) (x : Elem), s.elems[k]? = some x → x.rgn = e.rgn →
      ∃ y : Elem, s1.elems[k]? = some y ∧ y.halted = true ∧ (k = n → y = { e with halted := true }))
   ∧ (memWf s.mem = true → ring.waiting = [] → used < 2 ^ (ring.ringSize + 4) →
      (s1.die d).ringTail = (ring.ringTail + 1) % 2 ^ 32 ∧ (s1.die d).waiting = [] ∧ SameOutside at' 256 s s1
      ∧ (t.cls.1 < 256 → t.cls.2 < 256 → memNat s1.mem (at' + 2) 2 = t.cls.2 + 256 * t.cls.1)
      ∧ (t.cls.1 < 256 → t.cls.2 < 256 → memNat s1.mem (at' + 4) 1 = if t.restartable then 1 else 2))
   ∧ (2 ^ (ring.ringSize + 4) ≤ used →
      s1.mem = s.mem ∧ (s1.die d).ringTail = ring.ringTail ∧ (s1.die d).waiting.length = ring.waiting.length + 1))

-- Statements of several parts ---------------------------------------------------------------------------------------------

/-- Instructions that write a mask, and a mask moved to lanes. -/
def Obligations.Masks : Prop := Claim.MaskInstructions ∧ Claim.MaskToLanes

/-- Float minimum, sign, class, rounding, comparison, sticky flags and scale registers. -/
def Obligations.FloatBitsAndCompares : Prop := Claim.FloatBits ∧ Claim.FloatCompareAndStatus

/-- Matrix steps leave the exact sums of their tile; their traps. -/
def Obligations.MatrixSteps : Prop := Claim.MatrixStep ∧ Claim.MatrixTraps

/-- Stores to a local store change their bytes alone; a poisoned one stores nothing. -/
def Obligations.LocalStores : Prop := Claim.LocalStores ∧ Claim.PoisonedLocalStore

/-- Loop nest, coordinates, and ports bound to handles. -/
def Obligations.LoopNestAndPorts : Prop := Claim.LoopNest ∧ Claim.PortBinding

/-- Tensor loads reserve their entry and send their request; the checks of an access. -/
def Obligations.TensorLoads : Prop := Claim.TensorLoad ∧ Claim.AccessChecks

/-- Engine operations fork and join on completion objects. -/
def Obligations.EngineOperations : Prop := Claim.EngineForks ∧ Claim.EngineJoins

/-- Synchronising accesses act at the home in one step; their addresses and their traps. -/
def Obligations.SynchronisingOperations : Prop := Claim.SynchronisingAccesses ∧ Claim.SynchronisingAddresses

/-- Phases, fences and the fence of the record cache. -/
def Obligations.PhasesAndFences : Prop := Claim.PhasesAndFences ∧ Claim.RecordFence

/-- Ruling arrays: configuration, scoring and results. -/
def Obligations.RulingArrays : Prop := Claim.RulingConfiguration ∧ Claim.RulingResults

/-- Taint and poison tests, and a core's access to the configuration. -/
def Obligations.TaintPoisonAndConfiguration : Prop := Claim.TaintAndPoison ∧ Claim.ConfigurationAccess

/-- Traps of cores and faults of elements. -/
def Obligations.TrapsAndFaults : Prop := Claim.CoreTrapInstructions ∧ Claim.ElementTrapInstructions ∧ Claim.TrapWhileInhibited ∧ Claim.ElementFaults

/-- System registers and event queues. -/
def Obligations.SystemRegistersAndEvents : Prop := Claim.SystemRegisters ∧ Claim.EventInstructions

/-- Firmware jumps, calls, returns and halt. -/
def Obligations.CoreFlowAndHalt : Prop := Claim.FirmwareFlow ∧ Claim.HaltOnElement

/-- Words and credits arrive; an array's oldest record becomes a result. -/
def Obligations.WordsArriveAndResults : Prop := Claim.ChannelTraffic ∧ Claim.ArrayResult

/-- Which firing starts, and which words at the heads raise a fault. -/
def Obligations.FiringsAndHeads : Prop := Claim.FiringChoice ∧ Claim.StreamFollows ∧ Claim.StagesAdvance ∧ Claim.HeadFaults

/-- Arms, drains and switches at an element. -/
def Obligations.ArmsDrainAndSwitch : Prop := Claim.ArmsSection ∧ Claim.DrainAndSwitch

/-- Seeds enter at input gates, words leave at output gates. -/
def Obligations.GatesCarryWords : Prop := Claim.SeedsEnter ∧ Claim.GateWritesWord

/-- Record queue: broadcast and dealing. -/
def Obligations.RecordsDealt : Prop := Claim.RecordBroadcast ∧ Claim.RecordDeal

/-- Record queue: publishing in order, eoi, drain and switch. -/
def Obligations.RecordsPublished : Prop := Claim.RecordPublish ∧ Claim.RecordQueuePasses

/-- Loads are answered as the agent sees memory. -/
def Obligations.LoadsServed : Prop := Claim.LoadsAnswered ∧ Claim.OwnStoresSeen ∧ Claim.StampedLoads

/-- Stores are accepted, arrive and dry. -/
def Obligations.StoresServed : Prop := Claim.StoresAccepted ∧ Claim.SectorEvicted ∧ Claim.StampedStoresArrive ∧ Claim.StampedStoresDry

/-- Engines work unit by unit; collectives combine by rank. -/
def Obligations.EngineStepsAndCollectives : Prop := Claim.EngineSteps ∧ Claim.CoreCopyEnds ∧ Claim.AgentCopyEnds ∧ Claim.CollectiveResult

/-- Beacons, synchronisation and the passing of time. -/
def Obligations.IntervalClock : Prop := Claim.BeaconsSent ∧ Claim.BeaconsApplied ∧ Claim.TimeMarks ∧ Claim.TimePasses

/-- Doorbells, and mapping of queues. -/
def Obligations.DoorbellsAndMapping : Prop := Claim.Doorbells ∧ Claim.QueueMapping

/-- Packets are taken and checked; completion records. -/
def Obligations.PacketsAndCompletion : Prop := Claim.CompletionRecord ∧ Claim.PacketChecks ∧ Claim.PacketsTaken

/-- Folios, region ids and regions granted. -/
def Obligations.RegionGrants : Prop := Claim.FoliosGranted ∧ Claim.RegionIdFree ∧ Claim.RegionGranted

/-- A launch runs, completes, is evicted and restored; a kept region is reused. -/
def Obligations.LaunchesRun : Prop := Claim.LaunchRuns ∧ Claim.GatesOnTime ∧ Claim.RegionReused ∧ Claim.RegionRestored

/-- Resume, halt, reset, blot and release of a region. -/
def Obligations.RegionCommands : Prop := Claim.ResumeAndHalt ∧ Claim.ResetAndBlot ∧ Claim.Release

/-- Watchdogs and snapshots. -/
def Obligations.WatchdogsAndSnapshots : Prop := Claim.Watchdogs ∧ Claim.SnapshotMarkers ∧ Claim.SnapshotComplete

/-- Host access, register stores, tile invalidation, migration. -/
def Obligations.HostAndRegisters : Prop := Claim.HostAccess ∧ Claim.RegisterStores ∧ Claim.TileInvalidation ∧ Claim.HostRequests

/-- Heartbeats, lock step, firmware update and module reset. -/
def Obligations.FirmwareAndReset : Prop := Claim.FirmwareSteps ∧ Claim.ModuleReset

/-- Undervolting, way gating and boost leases. -/
def Obligations.PowerAndWays : Prop := Claim.Undervolting ∧ Claim.WaysAndLeases

/-- Frame of the register instructions, what sources read, what a destination receives, and the order of their checks. -/
def Obligations.RegisterFrames : Prop := Claim.RegisterFrame ∧ Claim.Sources ∧ Claim.Destinations ∧ Claim.ChecksInOrder
end

