-- ==== Sys2Proof/Laws/Lanes.lean ====
section
/-! SUPPORT. Lanes, elements and masks: what is built lane by lane or element by element reads back as it was given. -/
namespace Sys2Proof.Machine

/-- Bit `k` of the low lanes of a payload under construction. -/
theorem lanesBelow_bit (g : Nat → Lane) (n k : Nat) (h : n ≤ 16) :
    (Payload.lanesBelow g n).getLsbD k = (decide (k < 32 * n) && (g (k / 32)).getLsbD (k % 32)) := by
  induction n with
  | zero => simp [Payload.lanesBelow]
  | succ n ih =>
    rw [Payload.lanesBelow, BitVec.getLsbD_or, ih (by omega), BitVec.getLsbD_shiftLeft, BitVec.getLsbD_setWidth]
    by_cases h1 : k < 32 * n
    · simp [h1, show k < 32 * (n + 1) by omega]
    · by_cases h2 : k < 32 * (n + 1)
      · obtain ⟨r, rfl⟩ : ∃ r, k = 32 * n + r := ⟨k - 32 * n, by omega⟩
        have hr : r < 32 := by omega
        have h3 : (32 * n + r) / 32 = n := by omega
        have h4 : (32 * n + r) % 32 = r := by omega
        simp [h2, h3, h4, show 32 * n + r < 512 by omega, show r < 512 by omega]
      · have : 32 ≤ k - 32 * n := by omega
        simp [h1, h2, BitVec.getLsbD_of_ge _ _ this]

/-- Lane `n` of a payload given lane by lane (R18). -/
@[simp] theorem lane_ofLanes (g : Nat → Lane) (n : Nat) (h : n < 16) : (Payload.ofLanes g).lane n = g n := by
  apply BitVec.eq_of_getLsbD_eq
  intro k hk
  rw [Payload.lane, BitVec.getLsbD_extractLsb', Payload.ofLanes, lanesBelow_bit _ _ _ (Nat.le_refl _)]
  simp [hk, show 32 * n + k < 512 by omega, show (32 * n + k) / 32 = n by omega, show (32 * n + k) % 32 = k by omega]

/-- Lane `n` of a splat (R42). -/
@[simp] theorem lane_splat (x : Lane) (n : Nat) (h : n < 16) : (Payload.splat x).lane n = x := lane_ofLanes _ n h

/-- Lane `n` of a destination written on some lanes (R42, R84). -/
@[simp] theorem lane_mergeLanes (act : Nat → Bool) (g : Nat → Lane) (old : Payload) (n : Nat) (h : n < 16) :
    (mergeLanes act g old).lane n = if act n then g n else old.lane n := lane_ofLanes _ n h

/-- Elements packed in a number stay below its width. -/
theorem packElems_lt (w : Nat) (g : Nat → Nat) (n : Nat) : packElems w g n < 2 ^ (w * n) := by
  induction n with
  | zero => simp [packElems]
  | succ n ih =>
    have h : g n % 2 ^ w < 2 ^ w := Nat.mod_lt _ (Nat.two_pow_pos w)
    have e : 2 ^ (w * (n + 1)) = 2 ^ (w * n) * 2 ^ w := by rw [← pow_add]; ring_nf
    rw [packElems, e]
    nlinarith [Nat.two_pow_pos (w * n)]

/-- Element `j` of `n` packed elements (R23). -/
theorem packElems_get (w : Nat) (g : Nat → Nat) (n j : Nat) (h : j < n) :
    packElems w g n / 2 ^ (w * j) % 2 ^ w = g j % 2 ^ w := by
  induction n with
  | zero => omega
  | succ n ih =>
    rw [packElems]
    by_cases hj : j = n
    · subst hj
      rw [Nat.add_mul_div_right _ _ (Nat.two_pow_pos _), Nat.div_eq_of_lt (packElems_lt w g j)]
      simp
    · have h2 : 2 ^ (w * n) = 2 ^ w * 2 ^ (w * (n - j - 1)) * 2 ^ (w * j) := by
        rw [← pow_add, ← pow_add]; congr 1
        obtain ⟨d, rfl⟩ : ∃ d, n = j + 1 + d := ⟨n - (j + 1), by omega⟩
        simp only [show j + 1 + d - j - 1 = d by omega]; ring
      rw [h2, show g n % 2 ^ w * (2 ^ w * 2 ^ (w * (n - j - 1)) * 2 ^ (w * j))
            = 2 ^ w * (g n % 2 ^ w * 2 ^ (w * (n - j - 1))) * 2 ^ (w * j) by ring,
        Nat.add_mul_div_right _ _ (Nat.two_pow_pos _), Nat.add_mul_mod_self_left]
      exact ih (by omega)

/-- Element `j` of a lane given element by element (R23). -/
theorem elemOf_laneOf (fm : Fmt) (g : Nat → Nat) (j : Nat) (h : j < fm.perLane) :
    elemOf fm (laneOf fm g) j = g j % 2 ^ fm.bits := by
  have hb : fm.bits * fm.perLane = 32 := by cases fm <;> rfl
  have hlt := packElems_lt fm.bits g fm.perLane
  rw [hb] at hlt
  rw [elemOf, laneOf, BitVec.toNat_ofNat, Nat.mod_eq_of_lt hlt]
  exact packElems_get _ _ _ _ h

/-- An element of a lane is below its width. -/
theorem elemOf_lt (fm : Fmt) (x : Lane) (j : Nat) : elemOf fm x j < 2 ^ fm.bits := Nat.mod_lt _ (Nat.two_pow_pos _)

/-- A wrapped integer fits its format (R37). -/
theorem wrap_lt (fm : Fmt) (i : Int) : fm.wrap i < 2 ^ fm.bits := by
  have h : (0 : Int) < ((2 ^ fm.bits : Nat) : Int) := by exact_mod_cast Nat.two_pow_pos _
  have h1 := Int.emod_lt_of_pos i h
  have h2 := Int.emod_nonneg i (ne_of_gt h)
  rw [Fmt.wrap]
  omega

/-- Bit `n` of a mask written on some lanes (R86). -/
theorem maskBits_get (act g : Nat → Bool) (old : BitVec 16) (m n : Nat) (h : m ≤ 16) :
    (maskBits act g old m).getLsbD n = (decide (n < m) && (if act n then g n else old.getLsbD n)) := by
  induction m with
  | zero => simp [maskBits]
  | succ m ih =>
    rw [maskBits, BitVec.getLsbD_or, ih (by omega), BitVec.getLsbD_shiftLeft, BitVec.getLsbD_setWidth, BitVec.getLsbD_ofBool]
    by_cases h1 : n < m
    · simp [h1, show n < m + 1 by omega]
    · by_cases h2 : n = m
      · subst h2; simp; omega
      · simp [h1, show ¬ n < m + 1 by omega, show ¬ (n - m = 0) by omega]

end Sys2Proof.Machine
end

