-- ==== Sys2Proof/Laws/Issue.lean ====
section
/-! SUPPORT. The frame of every instruction, said once: what `issue` does when the work of an instruction completes, traps or
holds, when its checks pass, and what a destination written lane by lane or a mask written on some lanes receives. -/
namespace Sys2Proof.Machine

open Sys2Proof.Claim

variable {op : BitVec 8} {body : Body} {f : Fields} {s s1 : State} {e e1 : Elem}

/-- An instruction whose work completes. -/
theorem issue_done {fl : Flow} (hf : ∀ t, fl ≠ .fault t) (hr : Runs s e) (hc : (classesOf op).contains e.cls = true)
    (hb : body s f e = .ok { elem := e1, st := s1, flow := fl }) :
    issue op body f s = .next (s1.setUnit s.cur ((rejoin s1 s.cur e e1).advance e.nextPos fl)) := by
  unfold issue
  rw [show s.unit s.cur = some e from hr]
  simp only [hc, if_true, hb, settle]

/-- An instruction whose work traps. -/
theorem issue_trap {t : Trap} (hr : Runs s e) (hc : (classesOf op).contains e.cls = true) (hb : body s f e = .error (.trap t)) :
    issue op body f s = .next (takeTrap s s.cur e t (wordOf op f)) := by
  unfold issue
  rw [show s.unit s.cur = some e from hr]
  simp only [hc, if_true, hb, settle]

/-- An instruction that holds issue. -/
theorem issue_hold {c : Hold} (hr : Runs s e) (hc : (classesOf op).contains e.cls = true) (hb : body s f e = .error (.hold c)) :
    issue op body f s = .next (s.setUnit s.cur (e.hold c)) := by
  unfold issue
  rw [show s.unit s.cur = some e from hr]
  simp only [hc, if_true, hb, settle]

/-- An instruction that its class may not execute (R63). -/
theorem issue_class (hr : Runs s e) (hc : (classesOf op).contains e.cls = false) :
    issue op body f s = .next (takeTrap s s.cur e .instr (wordOf op f)) := by
  unfold issue
  rw [show s.unit s.cur = some e from hr]
  simp only [hc, settle, trap]
  rfl

/-- An instruction never stops the machine while its unit exists. -/
theorem issue_next (hr : Runs s e) : ∃ t, issue op body f s = .next t := by
  unfold issue
  rw [show s.unit s.cur = some e from hr]
  exact ⟨_, rfl⟩

@[simp] theorem need_true (t : Trap) : need true t = .ok () := rfl
@[simp] theorem need_false (t : Trap) : need false t = .error (.trap t) := rfl
@[simp] theorem await_true : await true = .ok () := rfl
@[simp] theorem await_false : await false = .error (.hold .slots) := rfl
@[simp] theorem awaitCount_true : awaitCount true = .ok () := rfl
@[simp] theorem awaitCount_false : awaitCount false = .error (.hold .count) := rfl
@[simp] theorem awaitFree_true : awaitFree true = .ok () := rfl
@[simp] theorem awaitFree_false : awaitFree false = .error (.hold .free) := rfl
@[simp] theorem noBad_none : noBad none = .ok () := rfl
@[simp] theorem noBad_some (d : BitVec 10) : noBad (some d) = .error (.trap (.operand d.toNat)) := rfl
@[simp] theorem needDes_true (d : BitVec 10) : needDes true d = .ok () := rfl
@[simp] theorem needDes_false (d : BitVec 10) : needDes false d = .error (.trap (.operand d.toNat)) := rfl
@[simp] theorem res_bind_ok {α β : Type} (a : α) (g : α → Res β) : (((Except.ok a : Res α) >>= g) : Res β) = g a := rfl
@[simp] theorem res_bind_error {α β : Type} (h : Halt) (g : α → Res β) :
    (((Except.error h : Res α) >>= g) : Res β) = .error h := rfl

/-- The first check of R44 fails. -/
theorem check_instr {u : Uses} {ok : Bool} {types : Nat → Bool} {bad : Option (BitVec 10)}
    (h : ¬ (ok = true ∧ f.ln ≠ 3 ∧ waitsOk u f = true)) : check e f u ok types bad = .error (.trap .instr) := by
  have : (ok && f.ln != 3 && waitsOk u f) = false := by
    by_contra hh
    simp at hh
    exact h hh
  rw [check, this]
  rfl

/-- Where the first check of R44 passes, the next that fails decides. -/
theorem check_later {u : Uses} {ok : Bool} {types : Nat → Bool} {bad : Option (BitVec 10)}
    (h : ok = true ∧ f.ln ≠ 3 ∧ waitsOk u f = true) :
    (types (typeIn e f u) = false → check e f u ok types bad = .error (.trap (.type (typeIn e f u))))
    ∧ (∀ d, types (typeIn e f u) = true → badSrc u e f = some d → check e f u ok types bad = .error (.trap (.operand d.toNat)))
    ∧ (∀ d, types (typeIn e f u) = true → badSrc u e f = none → bad = some d →
        check e f u ok types bad = .error (.trap (.operand d.toNat)))
    ∧ (types (typeIn e f u) = true → badSrc u e f = none → bad = none → ready u e f = false →
        check e f u ok types bad = .error (.hold .slots)) := by
  have : (ok && f.ln != 3 && waitsOk u f) = true := by simpa [and_assoc] using h
  simp only [check, this, typeIn]
  refine ⟨fun a => ?_, fun d a b => ?_, fun d a b c => ?_, fun a b c d => ?_⟩ <;> simp_all

/-- The checks of R44 and the waits pass. -/
theorem check_ok {u : Uses} {ok : Bool} {types : Nat → Bool} {bad : Option (BitVec 10)} (hl : Legal e f u bad) (hln : f.ln ≠ 3)
    (hok : ok = true) (ht : types (typeIn e f u) = true) : check e f u ok types bad = .ok (typeIn e f u) := by
  obtain ⟨h1, h2, h3, h4⟩ := hl
  have : (f.ln != 3) = true := by simpa using hln
  simp only [typeIn] at ht
  unfold check
  rw [this, h2, h3, h4, hok, h1, typeIn, ht]
  rfl

/-- The checks of an instruction without a type pass. -/
theorem checkRaw_ok {u : Uses} {ok : Bool} {bad : Option (BitVec 10)} (hl : Legal e f u bad) (hok : ok = true) :
    checkRaw e f u ok bad = .ok () := by
  obtain ⟨h1, h2, h3, h4⟩ := hl
  simp [checkRaw, h1, h2, h3, h4, hok]

/-- A destination written lane by lane (R22, R42, R84, R86, R87). -/
theorem lanes_of_put {i : Instr} {g : Nat → Lane} {srcs : List Reg} {fl : Flags} {R : Nat → Lane → Prop}
    (hx : exec i s = issue op body f s) (hr : Runs s e) (hc : (classesOf op).contains e.cls = true)
    (hb : body s f e = done s (put s (e.raise fl) f g srcs)) (hg : ∀ n < 16, laneActive e f n = true → R n (g n)) :
    Lanes i s e f srcs fl R := by
  refine ⟨_, hx.trans (issue_done (by simp) hr hc hb), ?_, rfl, rfl⟩
  intro n hn
  rw [lane_mergeLanes _ _ _ _ hn]
  by_cases h : laneActive e f n = true
  · simpa [h, show laneActive (e.raise fl) f n = true from h] using hg n hn h
  · simp [h, show ¬ laneActive (e.raise fl) f n = true from h]
    rfl

@[simp] theorem raise_none (e : Elem) : e.raise 0 = e := by simp [Elem.raise]

/-- A mask written on the active lanes (R22, R86, R87). -/
theorem maskLanes_of_putMask {i : Instr} {g : Nat → Bool} {srcs : List Reg} {fl : Flags} {R : Nat → Bool}
    (hx : exec i s = issue op body f s) (hr : Runs s e) (hc : (classesOf op).contains e.cls = true)
    {f' : Fields} (hb : body s f e = done s (putMask (e.raise fl) f' g srcs)) (hg : ∀ n < 16, g n = R n) :
    MaskLanes i s e f' srcs fl R := by
  refine ⟨_, hx.trans (issue_done (by simp) hr hc hb), ?_, rfl, rfl⟩
  intro n hn
  simp only [maskBits_get _ _ _ _ _ (Nat.le_refl _), hn, decide_true, Bool.true_and, hg n hn]
  rfl

end Sys2Proof.Machine
end

