-- ==== Sys2Proof/Laws/Memory.lean ====
section
/-! SUPPORT. The memories: a byte written reads back, every other byte reads as before, and each operation keeps the canonical
form (log 4); what a keyed table gives after one entry was set. -/
namespace Sys2Proof.Machine

open Host (Cell)

-- Keyed tables ---------------------------------------------------------------------------------------------------------------

theorem tab_get_set {α : Type} (dflt : α) (t : Tab α) (k j : Nat) (v : α) :
    Tab.get dflt (Tab.set t k v) j = if j = k then v else Tab.get dflt t j := by
  simp only [eq_comm (a := j)]
  induction t with
  | nil => rfl
  | cons p r ih =>
    obtain ⟨i, x⟩ := p
    unfold Tab.set
    split
    · rename_i h; subst h; by_cases hj : i = j <;> simp [Tab.get, hj]
    · rename_i hk
      split
      · rfl
      · simp only [Tab.get, ih]
        by_cases hj : i = j
        · subst hj; simp [Ne.symm hk]
        · simp [hj]

-- One byte ---------------------------------------------------------------------------------------------------------------------

/-- Every address of a canonical memory is at or above a bound. -/
def memFrom (k : Nat) (m : List Cell) : Prop := ∀ c ∈ m, k ≤ c.1

/-- The canonical form without its first entry. -/
theorem memWf_cons {i : Nat} {b : Byte} {r : List Cell} : memWf ((i, b) :: r) = true ↔ b ≠ 0 ∧ memFrom (i + 1) r ∧ memWf r = true := by
  induction r generalizing i b with
  | nil => simp [memWf, memFrom]
  | cons c r ih =>
    obtain ⟨j, d⟩ := c
    constructor
    · intro h
      simp only [memWf, Bool.and_eq_true, bne_iff_ne, decide_eq_true_eq] at h
      obtain ⟨⟨h1, h2⟩, h3⟩ := h
      refine ⟨h1, ?_, h3⟩
      intro c hc
      rcases List.mem_cons.1 hc with rfl | hc
      · exact h2
      · have := (ih.1 h3).2.1 c hc; omega
    · rintro ⟨h1, h2, h3⟩
      have := h2 (j, d) (by simp)
      simp only [memWf, Bool.and_eq_true, bne_iff_ne, decide_eq_true_eq]
      exact ⟨⟨h1, by simpa using this⟩, h3⟩

/-- An address below every entry reads 0. -/
theorem memGet_below {m : List Cell} {a k : Nat} (h : memFrom k m) (ha : a < k) : memGet m a = 0 := by
  induction m with
  | nil => rfl
  | cons c r ih =>
    obtain ⟨i, b⟩ := c
    have h1 := h (i, b) (by simp)
    simp only [memGet]
    rw [if_neg (by simp only at h1; omega)]
    exact ih (fun c hc => h c (by simp [hc]))

theorem memFrom_memSet {m : List Cell} {a k : Nat} {v : Byte} (h : memFrom k m) (ha : k ≤ a) : memFrom k (memSet m a v) := by
  induction m with
  | nil => unfold memSet; split <;> simp_all [memFrom]
  | cons c r ih =>
    obtain ⟨i, b⟩ := c
    have hr : memFrom k r := fun c hc => h c (by simp [hc])
    have h1 : k ≤ i := h (i, b) (by simp)
    unfold memSet
    split
    · split
      · exact hr
      · rintro c hc; rcases List.mem_cons.1 hc with rfl | hc
        · exact ha
        · exact hr c hc
    · split
      · split
        · exact h
        · rintro c hc; rcases List.mem_cons.1 hc with rfl | hc
          · exact ha
          · exact h c hc
      · rintro c hc; rcases List.mem_cons.1 hc with rfl | hc
        · exact h1
        · exact ih hr c hc

/-- A byte put in place keeps the canonical form. -/
theorem memWf_memSet {m : List Cell} (a : Nat) (v : Byte) (h : memWf m = true) : memWf (memSet m a v) = true := by
  induction m with
  | nil => unfold memSet; split <;> simp_all [memWf]
  | cons c r ih =>
    obtain ⟨i, b⟩ := c
    obtain ⟨h1, h2, h3⟩ := memWf_cons.1 h
    unfold memSet
    split
    · rename_i e; subst e
      split
      · exact h3
      · exact memWf_cons.2 ⟨by assumption, h2, h3⟩
    · split
      · split
        · exact h
        · refine memWf_cons.2 ⟨by assumption, ?_, h⟩
          rintro c hc; rcases List.mem_cons.1 hc with rfl | hc
          · simp only; omega
          · have := h2 c hc; omega
      · exact memWf_cons.2 ⟨h1, memFrom_memSet h2 (by omega), ih h3⟩

/-- A byte written reads back, and every other byte reads as before. -/
theorem memGet_memSet {m : List Cell} (a : Nat) (v : Byte) (k : Nat) (h : memWf m = true) :
    memGet (memSet m a v) k = if k = a then v else memGet m k := by
  induction m with
  | nil =>
    unfold memSet
    by_cases hk : a = k
    · subst hk; split <;> simp_all [memGet]
    · split <;> simp [memGet, hk, Ne.symm hk]
  | cons c r ih =>
    obtain ⟨i, b⟩ := c
    obtain ⟨h1, h2, h3⟩ := memWf_cons.1 h
    unfold memSet
    split
    · rename_i e; subst e
      by_cases hk : k = i
      · subst hk
        split
        · simp_all [memGet_below h2 (Nat.lt_succ_self _)]
        · simp [memGet]
      · split <;> simp [memGet, Ne.symm hk]
    · split
      · rename_i hlt
        by_cases hk : k = a
        · subst hk
          split
          · have : memGet ((i, b) :: r) k = 0 := memGet_below (k := i) (by
              rintro c hc; rcases List.mem_cons.1 hc with rfl | hc
              · exact Nat.le_refl _
              · have := h2 c hc; omega) hlt
            simp_all
          · simp [memGet]
        · split
          · simp
          · simp [memGet, Ne.symm hk]
      · simp only [memGet, ih h3]
        by_cases hi : i = k
        · subst hi; simp_all
        · simp [hi]

-- Bytes ------------------------------------------------------------------------------------------------------------------------

/-- Bytes written keep the canonical form. -/
theorem memWf_memWrite (l : List Byte) : ∀ {m : List Cell} (a : Nat), memWf m = true → memWf (memWrite m a l) = true := by
  induction l with
  | nil => intro m a h; exact h
  | cons b r ih => intro m a h; exact ih (a + 1) (memWf_memSet a b h)

/-- Every byte outside the bytes written reads as before. -/
theorem memGet_memWrite_outside (l : List Byte) : ∀ {m : List Cell} (a k : Nat), memWf m = true → (k < a ∨ a + l.length ≤ k) →
    memGet (memWrite m a l) k = memGet m k := by
  induction l with
  | nil => intro m a k _ _; rfl
  | cons b r ih =>
    intro m a k h hk
    simp only [List.length_cons] at hk
    rw [memWrite, ih (a + 1) k (memWf_memSet a b h) (by omega), memGet_memSet a b k h, if_neg (by omega)]

/-- A byte written reads back. -/
theorem memGet_memWrite (l : List Byte) : ∀ {m : List Cell} (a j : Nat) (h : j < l.length), memWf m = true →
    memGet (memWrite m a l) (a + j) = l[j] := by
  induction l with
  | nil => intro m a j h _; exact absurd h (by simp)
  | cons b r ih =>
    intro m a j hj h
    cases j with
    | zero =>
      rw [memWrite, memGet_memWrite_outside r _ _ (memWf_memSet a b h) (by omega), memGet_memSet a b _ h]
      simp
    | succ j =>
      rw [memWrite, show a + (j + 1) = a + 1 + j by omega, ih (a + 1) j (by simpa using hj) (memWf_memSet a b h)]
      rfl

@[simp] theorem littleBytes_length (n v : Nat) : (littleBytes n v).length = n := by
  induction n generalizing v with
  | zero => rfl
  | succ n ih => simp [littleBytes, ih]

/-- Byte `k` of a number. -/
theorem littleBytes_get (n v k : Nat) (h : k < n) :
    (littleBytes n v)[k]'(by simpa using h) = BitVec.ofNat 8 (v / 2 ^ (8 * k)) := by
  induction n generalizing v k with
  | zero => omega
  | succ n ih =>
    cases k with
    | zero => simp [littleBytes]
    | succ k =>
      have : v / 256 / 2 ^ (8 * k) = v / 2 ^ (8 * (k + 1)) := by
        rw [Nat.div_div_eq_div_mul, show (256 : Nat) = 2 ^ 8 by rfl, ← pow_add]; congr 2; ring
      simp only [littleBytes, List.getElem_cons_succ, ih _ _ (by omega : k < n), this]

/-- A number of `n` bytes read where it was written (R18). -/
theorem leNat_littleBytes (n v : Nat) : leNat (littleBytes n v) = v % 2 ^ (8 * n) := by
  induction n generalizing v with
  | zero => simp [littleBytes, leNat, Nat.mod_one]
  | succ n ih =>
    rw [littleBytes, leNat, ih, BitVec.toNat_ofNat, show 8 * (n + 1) = 8 + 8 * n by ring, pow_add, Nat.mod_mul]
    rfl

/-- `n` bytes read from where they were written. -/
theorem memBytes_memWrite (l : List Byte) : ∀ {m : List Cell} (a : Nat), memWf m = true → memBytes (memWrite m a l) a l.length = l := by
  intro m a h
  suffices ∀ n j, j + n = l.length → memBytes (memWrite m a l) (a + j) n = l.drop j from by simpa using this l.length 0 (by simp)
  intro n
  induction n with
  | zero => intro j hj; simp [memBytes, List.drop_eq_nil_of_le (show l.length ≤ j by omega)]
  | succ n ih =>
    intro j hj
    have hl : j < l.length := by omega
    rw [memBytes, memGet_memWrite l a j hl h, show a + j + 1 = a + (j + 1) by omega, ih (j + 1) (by omega)]
    exact (List.drop_eq_getElem_cons hl).symm

/-- A number read where it was written. -/
theorem memNat_memWrite {m : List Cell} (a n v : Nat) (h : memWf m = true) :
    memNat (memWrite m a (littleBytes n v)) a n = v % 2 ^ (8 * n) := by
  have := memBytes_memWrite (littleBytes n v) a h
  rw [littleBytes_length] at this
  rw [memNat, this, leNat_littleBytes]

/-- A granule put into a list is the one that is new there. -/
theorem mem_granAdd (l : List Nat) (g x : Nat) : x ∈ granAdd l g ↔ x = g ∨ x ∈ l := by
  induction l with
  | nil => simp [granAdd]
  | cons i r ih =>
    unfold granAdd
    by_cases h : i = g
    · subst h; simp
    · rw [if_neg h]
      split
      · simp
      · rw [List.mem_cons, ih, List.mem_cons, or_left_comm]

/-- The granules of a list after one is put in or taken out. -/
theorem mem_granSet (l : List Nat) (g : Nat) (v : Bool) (x : Nat) : x ∈ granSet l g v ↔ if x = g then v = true else x ∈ l := by
  unfold granSet
  by_cases h : x = g <;> cases v <;> simp [h, mem_granAdd]

end Sys2Proof.Machine
end

