-- ==== Sys2Proof/Laws/State.lean ====
section
/-! SUPPORT. What each update of the state and of a unit leaves as it was, field by field, so that no later proof unfolds a
record update. -/
namespace Sys2Proof.Machine

-- The state ------------------------------------------------------------------------------------------------------------------

@[simp] theorem setUnit_cur (s : State) (u : UnitId) (e : Elem) : (s.setUnit u e).cur = s.cur := by cases u <;> rfl
@[simp] theorem setUnit_agenda (s : State) (u : UnitId) (e : Elem) : (s.setUnit u e).agenda = s.agenda := by cases u <;> rfl
@[simp] theorem setUnit_now (s : State) (u : UnitId) (e : Elem) : (s.setUnit u e).now = s.now := by cases u <;> rfl
@[simp] theorem setUnit_mem (s : State) (u : UnitId) (e : Elem) : (s.setUnit u e).mem = s.mem := by cases u <;> rfl
@[simp] theorem setUnit_gpz (s : State) (u : UnitId) (e : Elem) : (s.setUnit u e).gpz = s.gpz := by cases u <;> rfl
@[simp] theorem setUnit_gtn (s : State) (u : UnitId) (e : Elem) : (s.setUnit u e).gtn = s.gtn := by cases u <;> rfl
@[simp] theorem setUnit_bad (s : State) (u : UnitId) (e : Elem) : (s.setUnit u e).bad = s.bad := by cases u <;> rfl
@[simp] theorem setUnit_vers (s : State) (u : UnitId) (e : Elem) : (s.setUnit u e).vers = s.vers := by cases u <;> rfl
@[simp] theorem setUnit_wet (s : State) (u : UnitId) (e : Elem) : (s.setUnit u e).wet = s.wet := by cases u <;> rfl
@[simp] theorem setUnit_rdc (s : State) (u : UnitId) (e : Elem) : (s.setUnit u e).rdc = s.rdc := by cases u <;> rfl
@[simp] theorem setUnit_l2 (s : State) (u : UnitId) (e : Elem) : (s.setUnit u e).l2 = s.l2 := by cases u <;> rfl
@[simp] theorem setUnit_mapSig (s : State) (u : UnitId) (e : Elem) : (s.setUnit u e).mapSig = s.mapSig := by cases u <;> rfl
@[simp] theorem setUnit_pool (s : State) (u : UnitId) (e : Elem) : (s.setUnit u e).pool = s.pool := by cases u <;> rfl
@[simp] theorem setUnit_pins (s : State) (u : UnitId) (e : Elem) : (s.setUnit u e).pins = s.pins := by cases u <;> rfl
@[simp] theorem setUnit_slices (s : State) (u : UnitId) (e : Elem) : (s.setUnit u e).slices = s.slices := by cases u <;> rfl
@[simp] theorem setUnit_tiles (s : State) (u : UnitId) (e : Elem) : (s.setUnit u e).tiles = s.tiles := by cases u <;> rfl
@[simp] theorem setUnit_ats (s : State) (u : UnitId) (e : Elem) : (s.setUnit u e).ats = s.ats := by cases u <;> rfl
@[simp] theorem setUnit_mqs (s : State) (u : UnitId) (e : Elem) : (s.setUnit u e).mqs = s.mqs := by cases u <;> rfl
@[simp] theorem setUnit_dies (s : State) (u : UnitId) (e : Elem) : (s.setUnit u e).dies = s.dies := by cases u <;> rfl
@[simp] theorem setUnit_regions (s : State) (u : UnitId) (e : Elem) : (s.setUnit u e).regions = s.regions := by cases u <;> rfl
@[simp] theorem setUnit_launches (s : State) (u : UnitId) (e : Elem) : (s.setUnit u e).launches = s.launches := by cases u <;> rfl
@[simp] theorem setUnit_queues (s : State) (u : UnitId) (e : Elem) : (s.setUnit u e).queues = s.queues := by cases u <;> rfl
@[simp] theorem setUnit_configs (s : State) (u : UnitId) (e : Elem) : (s.setUnit u e).configs = s.configs := by cases u <;> rfl
@[simp] theorem setUnit_ctxAt (s : State) (u : UnitId) (e : Elem) : (s.setUnit u e).ctxAt = s.ctxAt := by cases u <;> rfl
@[simp] theorem setUnit_migr (s : State) (u : UnitId) (e : Elem) : (s.setUnit u e).migr = s.migr := by cases u <;> rfl
@[simp] theorem setUnit_routes (s : State) (u : UnitId) (e : Elem) : (s.setUnit u e).routes = s.routes := by cases u <;> rfl
@[simp] theorem setUnit_evseq (s : State) (u : UnitId) (e : Elem) : (s.setUnit u e).evseq = s.evseq := by cases u <;> rfl
@[simp] theorem setUnit_evwait (s : State) (u : UnitId) (e : Elem) : (s.setUnit u e).evwait = s.evwait := by cases u <;> rfl
@[simp] theorem setUnit_sound (s : State) (u : UnitId) (e : Elem) : (s.setUnit u e).sound = s.sound := by cases u <;> rfl
@[simp] theorem setUnit_mapBad (s : State) (u : UnitId) (e : Elem) : (s.setUnit u e).mapBad = s.mapBad := by cases u <;> rfl
@[simp] theorem setUnit_supply (s : State) (u : UnitId) (e : Elem) : (s.setUnit u e).supply = s.supply := by cases u <;> rfl
@[simp] theorem setUnit_leases (s : State) (u : UnitId) (e : Elem) : (s.setUnit u e).leases = s.leases := by cases u <;> rfl
@[simp] theorem setUnit_hbto (s : State) (u : UnitId) (e : Elem) : (s.setUnit u e).hbto = s.hbto := by cases u <;> rfl
@[simp] theorem setUnit_cmis (s : State) (u : UnitId) (e : Elem) : (s.setUnit u e).cmis = s.cmis := by cases u <;> rfl
@[simp] theorem setUnit_misAt (s : State) (u : UnitId) (e : Elem) : (s.setUnit u e).misAt = s.misAt := by cases u <;> rfl
@[simp] theorem setUnit_safe (s : State) (u : UnitId) (e : Elem) : (s.setUnit u e).safe = s.safe := by cases u <;> rfl
@[simp] theorem setUnit_fw (s : State) (u : UnitId) (e : Elem) : (s.setUnit u e).fw = s.fw := by cases u <;> rfl
@[simp] theorem setUnit_ptpLink (s : State) (u : UnitId) (e : Elem) : (s.setUnit u e).ptpLink = s.ptpLink := by cases u <;> rfl
@[simp] theorem setUnit_linkDown (s : State) (u : UnitId) (e : Elem) : (s.setUnit u e).linkDown = s.linkDown := by cases u <;> rfl
@[simp] theorem setUnit_work (s : State) (u : UnitId) (e : Elem) : (s.setUnit u e).work = s.work := by cases u <;> rfl
@[simp] theorem setUnit_spdm (s : State) (u : UnitId) (e : Elem) : (s.setUnit u e).spdm = s.spdm := by cases u <;> rfl
@[simp] theorem setUnit_reads (s : State) (u : UnitId) (e : Elem) : (s.setUnit u e).reads = s.reads := by cases u <;> rfl
@[simp] theorem setUnit_msix (s : State) (u : UnitId) (e : Elem) : (s.setUnit u e).msix = s.msix := by cases u <;> rfl
@[simp] theorem setUnit_orders (s : State) (u : UnitId) (e : Elem) : (s.setUnit u e).orders = s.orders := by cases u <;> rfl
@[simp] theorem setUnit_freeCtr (s : State) (u : UnitId) (e : Elem) : (s.setUnit u e).freeCtr = s.freeCtr := by cases u <;> rfl
@[simp] theorem setUnit_el_elems (s : State) (n : Nat) (e : Elem) : (s.setUnit (.el n) e).elems = s.elems.set n e := rfl
@[simp] theorem setUnit_el_cores (s : State) (n : Nat) (e : Elem) : (s.setUnit (.el n) e).cores = s.cores := rfl
@[simp] theorem setUnit_fc_elems (s : State) (n : Nat) (e : Elem) : (s.setUnit (.fc n) e).elems = s.elems := rfl
@[simp] theorem setUnit_fc_cores (s : State) (n : Nat) (e : Elem) :
    (s.setUnit (.fc n) e).cores = s.cores.setIfInBounds n e := rfl

@[simp] theorem updElem_cores (s : State) (n : Nat) (g : Elem → Elem) : (s.updElem n g).cores = s.cores := rfl
@[simp] theorem updElem_cur (s : State) (n : Nat) (g : Elem → Elem) : (s.updElem n g).cur = s.cur := rfl
@[simp] theorem updElem_agenda (s : State) (n : Nat) (g : Elem → Elem) : (s.updElem n g).agenda = s.agenda := rfl
@[simp] theorem updElem_now (s : State) (n : Nat) (g : Elem → Elem) : (s.updElem n g).now = s.now := rfl
@[simp] theorem updElem_mem (s : State) (n : Nat) (g : Elem → Elem) : (s.updElem n g).mem = s.mem := rfl
@[simp] theorem updElem_gpz (s : State) (n : Nat) (g : Elem → Elem) : (s.updElem n g).gpz = s.gpz := rfl
@[simp] theorem updElem_gtn (s : State) (n : Nat) (g : Elem → Elem) : (s.updElem n g).gtn = s.gtn := rfl
@[simp] theorem updElem_bad (s : State) (n : Nat) (g : Elem → Elem) : (s.updElem n g).bad = s.bad := rfl
@[simp] theorem updElem_vers (s : State) (n : Nat) (g : Elem → Elem) : (s.updElem n g).vers = s.vers := rfl
@[simp] theorem updElem_wet (s : State) (n : Nat) (g : Elem → Elem) : (s.updElem n g).wet = s.wet := rfl
@[simp] theorem updElem_rdc (s : State) (n : Nat) (g : Elem → Elem) : (s.updElem n g).rdc = s.rdc := rfl
@[simp] theorem updElem_l2 (s : State) (n : Nat) (g : Elem → Elem) : (s.updElem n g).l2 = s.l2 := rfl
@[simp] theorem updElem_mapSig (s : State) (n : Nat) (g : Elem → Elem) : (s.updElem n g).mapSig = s.mapSig := rfl
@[simp] theorem updElem_pool (s : State) (n : Nat) (g : Elem → Elem) : (s.updElem n g).pool = s.pool := rfl
@[simp] theorem updElem_pins (s : State) (n : Nat) (g : Elem → Elem) : (s.updElem n g).pins = s.pins := rfl
@[simp] theorem updElem_slices (s : State) (n : Nat) (g : Elem → Elem) : (s.updElem n g).slices = s.slices := rfl
@[simp] theorem updElem_tiles (s : State) (n : Nat) (g : Elem → Elem) : (s.updElem n g).tiles = s.tiles := rfl
@[simp] theorem updElem_ats (s : State) (n : Nat) (g : Elem → Elem) : (s.updElem n g).ats = s.ats := rfl
@[simp] theorem updElem_mqs (s : State) (n : Nat) (g : Elem → Elem) : (s.updElem n g).mqs = s.mqs := rfl
@[simp] theorem updElem_dies (s : State) (n : Nat) (g : Elem → Elem) : (s.updElem n g).dies = s.dies := rfl
@[simp] theorem updElem_regions (s : State) (n : Nat) (g : Elem → Elem) : (s.updElem n g).regions = s.regions := rfl
@[simp] theorem updElem_launches (s : State) (n : Nat) (g : Elem → Elem) : (s.updElem n g).launches = s.launches := rfl
@[simp] theorem updElem_queues (s : State) (n : Nat) (g : Elem → Elem) : (s.updElem n g).queues = s.queues := rfl
@[simp] theorem updElem_configs (s : State) (n : Nat) (g : Elem → Elem) : (s.updElem n g).configs = s.configs := rfl
@[simp] theorem updElem_ctxAt (s : State) (n : Nat) (g : Elem → Elem) : (s.updElem n g).ctxAt = s.ctxAt := rfl
@[simp] theorem updElem_migr (s : State) (n : Nat) (g : Elem → Elem) : (s.updElem n g).migr = s.migr := rfl
@[simp] theorem updElem_routes (s : State) (n : Nat) (g : Elem → Elem) : (s.updElem n g).routes = s.routes := rfl
@[simp] theorem updElem_evseq (s : State) (n : Nat) (g : Elem → Elem) : (s.updElem n g).evseq = s.evseq := rfl
@[simp] theorem updElem_evwait (s : State) (n : Nat) (g : Elem → Elem) : (s.updElem n g).evwait = s.evwait := rfl
@[simp] theorem updElem_sound (s : State) (n : Nat) (g : Elem → Elem) : (s.updElem n g).sound = s.sound := rfl
@[simp] theorem updElem_mapBad (s : State) (n : Nat) (g : Elem → Elem) : (s.updElem n g).mapBad = s.mapBad := rfl
@[simp] theorem updElem_supply (s : State) (n : Nat) (g : Elem → Elem) : (s.updElem n g).supply = s.supply := rfl
@[simp] theorem updElem_leases (s : State) (n : Nat) (g : Elem → Elem) : (s.updElem n g).leases = s.leases := rfl
@[simp] theorem updElem_hbto (s : State) (n : Nat) (g : Elem → Elem) : (s.updElem n g).hbto = s.hbto := rfl
@[simp] theorem updElem_cmis (s : State) (n : Nat) (g : Elem → Elem) : (s.updElem n g).cmis = s.cmis := rfl
@[simp] theorem updElem_misAt (s : State) (n : Nat) (g : Elem → Elem) : (s.updElem n g).misAt = s.misAt := rfl
@[simp] theorem updElem_safe (s : State) (n : Nat) (g : Elem → Elem) : (s.updElem n g).safe = s.safe := rfl
@[simp] theorem updElem_fw (s : State) (n : Nat) (g : Elem → Elem) : (s.updElem n g).fw = s.fw := rfl
@[simp] theorem updElem_ptpLink (s : State) (n : Nat) (g : Elem → Elem) : (s.updElem n g).ptpLink = s.ptpLink := rfl
@[simp] theorem updElem_linkDown (s : State) (n : Nat) (g : Elem → Elem) : (s.updElem n g).linkDown = s.linkDown := rfl
@[simp] theorem updElem_work (s : State) (n : Nat) (g : Elem → Elem) : (s.updElem n g).work = s.work := rfl
@[simp] theorem updElem_spdm (s : State) (n : Nat) (g : Elem → Elem) : (s.updElem n g).spdm = s.spdm := rfl
@[simp] theorem updElem_reads (s : State) (n : Nat) (g : Elem → Elem) : (s.updElem n g).reads = s.reads := rfl
@[simp] theorem updElem_msix (s : State) (n : Nat) (g : Elem → Elem) : (s.updElem n g).msix = s.msix := rfl
@[simp] theorem updElem_orders (s : State) (n : Nat) (g : Elem → Elem) : (s.updElem n g).orders = s.orders := rfl
@[simp] theorem updElem_freeCtr (s : State) (n : Nat) (g : Elem → Elem) : (s.updElem n g).freeCtr = s.freeCtr := rfl
@[simp] theorem updElem_elems (s : State) (n : Nat) (g : Elem → Elem) : (s.updElem n g).elems = s.elems.modify n g := rfl

@[simp] theorem mapElems_cores (s : State) (g : Elem → Elem) : (s.mapElems g).cores = s.cores := rfl
@[simp] theorem mapElems_cur (s : State) (g : Elem → Elem) : (s.mapElems g).cur = s.cur := rfl
@[simp] theorem mapElems_agenda (s : State) (g : Elem → Elem) : (s.mapElems g).agenda = s.agenda := rfl
@[simp] theorem mapElems_now (s : State) (g : Elem → Elem) : (s.mapElems g).now = s.now := rfl
@[simp] theorem mapElems_mem (s : State) (g : Elem → Elem) : (s.mapElems g).mem = s.mem := rfl
@[simp] theorem mapElems_gpz (s : State) (g : Elem → Elem) : (s.mapElems g).gpz = s.gpz := rfl
@[simp] theorem mapElems_gtn (s : State) (g : Elem → Elem) : (s.mapElems g).gtn = s.gtn := rfl
@[simp] theorem mapElems_bad (s : State) (g : Elem → Elem) : (s.mapElems g).bad = s.bad := rfl
@[simp] theorem mapElems_vers (s : State) (g : Elem → Elem) : (s.mapElems g).vers = s.vers := rfl
@[simp] theorem mapElems_wet (s : State) (g : Elem → Elem) : (s.mapElems g).wet = s.wet := rfl
@[simp] theorem mapElems_rdc (s : State) (g : Elem → Elem) : (s.mapElems g).rdc = s.rdc := rfl
@[simp] theorem mapElems_l2 (s : State) (g : Elem → Elem) : (s.mapElems g).l2 = s.l2 := rfl
@[simp] theorem mapElems_mapSig (s : State) (g : Elem → Elem) : (s.mapElems g).mapSig = s.mapSig := rfl
@[simp] theorem mapElems_pool (s : State) (g : Elem → Elem) : (s.mapElems g).pool = s.pool := rfl
@[simp] theorem mapElems_pins (s : State) (g : Elem → Elem) : (s.mapElems g).pins = s.pins := rfl
@[simp] theorem mapElems_slices (s : State) (g : Elem → Elem) : (s.mapElems g).slices = s.slices := rfl
@[simp] theorem mapElems_tiles (s : State) (g : Elem → Elem) : (s.mapElems g).tiles = s.tiles := rfl
@[simp] theorem mapElems_ats (s : State) (g : Elem → Elem) : (s.mapElems g).ats = s.ats := rfl
@[simp] theorem mapElems_mqs (s : State) (g : Elem → Elem) : (s.mapElems g).mqs = s.mqs := rfl
@[simp] theorem mapElems_dies (s : State) (g : Elem → Elem) : (s.mapElems g).dies = s.dies := rfl
@[simp] theorem mapElems_regions (s : State) (g : Elem → Elem) : (s.mapElems g).regions = s.regions := rfl
@[simp] theorem mapElems_launches (s : State) (g : Elem → Elem) : (s.mapElems g).launches = s.launches := rfl
@[simp] theorem mapElems_queues (s : State) (g : Elem → Elem) : (s.mapElems g).queues = s.queues := rfl
@[simp] theorem mapElems_configs (s : State) (g : Elem → Elem) : (s.mapElems g).configs = s.configs := rfl
@[simp] theorem mapElems_ctxAt (s : State) (g : Elem → Elem) : (s.mapElems g).ctxAt = s.ctxAt := rfl
@[simp] theorem mapElems_migr (s : State) (g : Elem → Elem) : (s.mapElems g).migr = s.migr := rfl
@[simp] theorem mapElems_routes (s : State) (g : Elem → Elem) : (s.mapElems g).routes = s.routes := rfl
@[simp] theorem mapElems_evseq (s : State) (g : Elem → Elem) : (s.mapElems g).evseq = s.evseq := rfl
@[simp] theorem mapElems_evwait (s : State) (g : Elem → Elem) : (s.mapElems g).evwait = s.evwait := rfl
@[simp] theorem mapElems_sound (s : State) (g : Elem → Elem) : (s.mapElems g).sound = s.sound := rfl
@[simp] theorem mapElems_mapBad (s : State) (g : Elem → Elem) : (s.mapElems g).mapBad = s.mapBad := rfl
@[simp] theorem mapElems_supply (s : State) (g : Elem → Elem) : (s.mapElems g).supply = s.supply := rfl
@[simp] theorem mapElems_leases (s : State) (g : Elem → Elem) : (s.mapElems g).leases = s.leases := rfl
@[simp] theorem mapElems_hbto (s : State) (g : Elem → Elem) : (s.mapElems g).hbto = s.hbto := rfl
@[simp] theorem mapElems_cmis (s : State) (g : Elem → Elem) : (s.mapElems g).cmis = s.cmis := rfl
@[simp] theorem mapElems_misAt (s : State) (g : Elem → Elem) : (s.mapElems g).misAt = s.misAt := rfl
@[simp] theorem mapElems_safe (s : State) (g : Elem → Elem) : (s.mapElems g).safe = s.safe := rfl
@[simp] theorem mapElems_fw (s : State) (g : Elem → Elem) : (s.mapElems g).fw = s.fw := rfl
@[simp] theorem mapElems_ptpLink (s : State) (g : Elem → Elem) : (s.mapElems g).ptpLink = s.ptpLink := rfl
@[simp] theorem mapElems_linkDown (s : State) (g : Elem → Elem) : (s.mapElems g).linkDown = s.linkDown := rfl
@[simp] theorem mapElems_work (s : State) (g : Elem → Elem) : (s.mapElems g).work = s.work := rfl
@[simp] theorem mapElems_spdm (s : State) (g : Elem → Elem) : (s.mapElems g).spdm = s.spdm := rfl
@[simp] theorem mapElems_reads (s : State) (g : Elem → Elem) : (s.mapElems g).reads = s.reads := rfl
@[simp] theorem mapElems_msix (s : State) (g : Elem → Elem) : (s.mapElems g).msix = s.msix := rfl
@[simp] theorem mapElems_orders (s : State) (g : Elem → Elem) : (s.mapElems g).orders = s.orders := rfl
@[simp] theorem mapElems_freeCtr (s : State) (g : Elem → Elem) : (s.mapElems g).freeCtr = s.freeCtr := rfl
@[simp] theorem mapElems_elems (s : State) (g : Elem → Elem) : (s.mapElems g).elems = s.elems.map g := rfl

@[simp] theorem setDie_elems (s : State) (d : Nat) (x : Die) : (s.setDie d x).elems = s.elems := rfl
@[simp] theorem setDie_cores (s : State) (d : Nat) (x : Die) : (s.setDie d x).cores = s.cores := rfl
@[simp] theorem setDie_cur (s : State) (d : Nat) (x : Die) : (s.setDie d x).cur = s.cur := rfl
@[simp] theorem setDie_agenda (s : State) (d : Nat) (x : Die) : (s.setDie d x).agenda = s.agenda := rfl
@[simp] theorem setDie_now (s : State) (d : Nat) (x : Die) : (s.setDie d x).now = s.now := rfl
@[simp] theorem setDie_mem (s : State) (d : Nat) (x : Die) : (s.setDie d x).mem = s.mem := rfl
@[simp] theorem setDie_gpz (s : State) (d : Nat) (x : Die) : (s.setDie d x).gpz = s.gpz := rfl
@[simp] theorem setDie_gtn (s : State) (d : Nat) (x : Die) : (s.setDie d x).gtn = s.gtn := rfl
@[simp] theorem setDie_bad (s : State) (d : Nat) (x : Die) : (s.setDie d x).bad = s.bad := rfl
@[simp] theorem setDie_vers (s : State) (d : Nat) (x : Die) : (s.setDie d x).vers = s.vers := rfl
@[simp] theorem setDie_wet (s : State) (d : Nat) (x : Die) : (s.setDie d x).wet = s.wet := rfl
@[simp] theorem setDie_rdc (s : State) (d : Nat) (x : Die) : (s.setDie d x).rdc = s.rdc := rfl
@[simp] theorem setDie_l2 (s : State) (d : Nat) (x : Die) : (s.setDie d x).l2 = s.l2 := rfl
@[simp] theorem setDie_mapSig (s : State) (d : Nat) (x : Die) : (s.setDie d x).mapSig = s.mapSig := rfl
@[simp] theorem setDie_pool (s : State) (d : Nat) (x : Die) : (s.setDie d x).pool = s.pool := rfl
@[simp] theorem setDie_pins (s : State) (d : Nat) (x : Die) : (s.setDie d x).pins = s.pins := rfl
@[simp] theorem setDie_slices (s : State) (d : Nat) (x : Die) : (s.setDie d x).slices = s.slices := rfl
@[simp] theorem setDie_tiles (s : State) (d : Nat) (x : Die) : (s.setDie d x).tiles = s.tiles := rfl
@[simp] theorem setDie_ats (s : State) (d : Nat) (x : Die) : (s.setDie d x).ats = s.ats := rfl
@[simp] theorem setDie_mqs (s : State) (d : Nat) (x : Die) : (s.setDie d x).mqs = s.mqs := rfl
@[simp] theorem setDie_regions (s : State) (d : Nat) (x : Die) : (s.setDie d x).regions = s.regions := rfl
@[simp] theorem setDie_launches (s : State) (d : Nat) (x : Die) : (s.setDie d x).launches = s.launches := rfl
@[simp] theorem setDie_queues (s : State) (d : Nat) (x : Die) : (s.setDie d x).queues = s.queues := rfl
@[simp] theorem setDie_configs (s : State) (d : Nat) (x : Die) : (s.setDie d x).configs = s.configs := rfl
@[simp] theorem setDie_ctxAt (s : State) (d : Nat) (x : Die) : (s.setDie d x).ctxAt = s.ctxAt := rfl
@[simp] theorem setDie_migr (s : State) (d : Nat) (x : Die) : (s.setDie d x).migr = s.migr := rfl
@[simp] theorem setDie_routes (s : State) (d : Nat) (x : Die) : (s.setDie d x).routes = s.routes := rfl
@[simp] theorem setDie_evseq (s : State) (d : Nat) (x : Die) : (s.setDie d x).evseq = s.evseq := rfl
@[simp] theorem setDie_evwait (s : State) (d : Nat) (x : Die) : (s.setDie d x).evwait = s.evwait := rfl
@[simp] theorem setDie_sound (s : State) (d : Nat) (x : Die) : (s.setDie d x).sound = s.sound := rfl
@[simp] theorem setDie_mapBad (s : State) (d : Nat) (x : Die) : (s.setDie d x).mapBad = s.mapBad := rfl
@[simp] theorem setDie_supply (s : State) (d : Nat) (x : Die) : (s.setDie d x).supply = s.supply := rfl
@[simp] theorem setDie_leases (s : State) (d : Nat) (x : Die) : (s.setDie d x).leases = s.leases := rfl
@[simp] theorem setDie_hbto (s : State) (d : Nat) (x : Die) : (s.setDie d x).hbto = s.hbto := rfl
@[simp] theorem setDie_cmis (s : State) (d : Nat) (x : Die) : (s.setDie d x).cmis = s.cmis := rfl
@[simp] theorem setDie_misAt (s : State) (d : Nat) (x : Die) : (s.setDie d x).misAt = s.misAt := rfl
@[simp] theorem setDie_safe (s : State) (d : Nat) (x : Die) : (s.setDie d x).safe = s.safe := rfl
@[simp] theorem setDie_fw (s : State) (d : Nat) (x : Die) : (s.setDie d x).fw = s.fw := rfl
@[simp] theorem setDie_ptpLink (s : State) (d : Nat) (x : Die) : (s.setDie d x).ptpLink = s.ptpLink := rfl
@[simp] theorem setDie_linkDown (s : State) (d : Nat) (x : Die) : (s.setDie d x).linkDown = s.linkDown := rfl
@[simp] theorem setDie_work (s : State) (d : Nat) (x : Die) : (s.setDie d x).work = s.work := rfl
@[simp] theorem setDie_spdm (s : State) (d : Nat) (x : Die) : (s.setDie d x).spdm = s.spdm := rfl
@[simp] theorem setDie_reads (s : State) (d : Nat) (x : Die) : (s.setDie d x).reads = s.reads := rfl
@[simp] theorem setDie_msix (s : State) (d : Nat) (x : Die) : (s.setDie d x).msix = s.msix := rfl
@[simp] theorem setDie_orders (s : State) (d : Nat) (x : Die) : (s.setDie d x).orders = s.orders := rfl
@[simp] theorem setDie_freeCtr (s : State) (d : Nat) (x : Die) : (s.setDie d x).freeCtr = s.freeCtr := rfl
@[simp] theorem setDie_dies (s : State) (d : Nat) (x : Die) : (s.setDie d x).dies = Tab.set s.dies d x := rfl

@[simp] theorem setRegion_elems (s : State) (r : Nat) (g : Region) : (s.setRegion r g).elems = s.elems := rfl
@[simp] theorem setRegion_cores (s : State) (r : Nat) (g : Region) : (s.setRegion r g).cores = s.cores := rfl
@[simp] theorem setRegion_cur (s : State) (r : Nat) (g : Region) : (s.setRegion r g).cur = s.cur := rfl
@[simp] theorem setRegion_agenda (s : State) (r : Nat) (g : Region) : (s.setRegion r g).agenda = s.agenda := rfl
@[simp] theorem setRegion_now (s : State) (r : Nat) (g : Region) : (s.setRegion r g).now = s.now := rfl
@[simp] theorem setRegion_mem (s : State) (r : Nat) (g : Region) : (s.setRegion r g).mem = s.mem := rfl
@[simp] theorem setRegion_gpz (s : State) (r : Nat) (g : Region) : (s.setRegion r g).gpz = s.gpz := rfl
@[simp] theorem setRegion_gtn (s : State) (r : Nat) (g : Region) : (s.setRegion r g).gtn = s.gtn := rfl
@[simp] theorem setRegion_bad (s : State) (r : Nat) (g : Region) : (s.setRegion r g).bad = s.bad := rfl
@[simp] theorem setRegion_vers (s : State) (r : Nat) (g : Region) : (s.setRegion r g).vers = s.vers := rfl
@[simp] theorem setRegion_wet (s : State) (r : Nat) (g : Region) : (s.setRegion r g).wet = s.wet := rfl
@[simp] theorem setRegion_rdc (s : State) (r : Nat) (g : Region) : (s.setRegion r g).rdc = s.rdc := rfl
@[simp] theorem setRegion_l2 (s : State) (r : Nat) (g : Region) : (s.setRegion r g).l2 = s.l2 := rfl
@[simp] theorem setRegion_mapSig (s : State) (r : Nat) (g : Region) : (s.setRegion r g).mapSig = s.mapSig := rfl
@[simp] theorem setRegion_pool (s : State) (r : Nat) (g : Region) : (s.setRegion r g).pool = s.pool := rfl
@[simp] theorem setRegion_pins (s : State) (r : Nat) (g : Region) : (s.setRegion r g).pins = s.pins := rfl
@[simp] theorem setRegion_slices (s : State) (r : Nat) (g : Region) : (s.setRegion r g).slices = s.slices := rfl
@[simp] theorem setRegion_tiles (s : State) (r : Nat) (g : Region) : (s.setRegion r g).tiles = s.tiles := rfl
@[simp] theorem setRegion_ats (s : State) (r : Nat) (g : Region) : (s.setRegion r g).ats = s.ats := rfl
@[simp] theorem setRegion_mqs (s : State) (r : Nat) (g : Region) : (s.setRegion r g).mqs = s.mqs := rfl
@[simp] theorem setRegion_dies (s : State) (r : Nat) (g : Region) : (s.setRegion r g).dies = s.dies := rfl
@[simp] theorem setRegion_launches (s : State) (r : Nat) (g : Region) : (s.setRegion r g).launches = s.launches := rfl
@[simp] theorem setRegion_queues (s : State) (r : Nat) (g : Region) : (s.setRegion r g).queues = s.queues := rfl
@[simp] theorem setRegion_configs (s : State) (r : Nat) (g : Region) : (s.setRegion r g).configs = s.configs := rfl
@[simp] theorem setRegion_ctxAt (s : State) (r : Nat) (g : Region) : (s.setRegion r g).ctxAt = s.ctxAt := rfl
@[simp] theorem setRegion_migr (s : State) (r : Nat) (g : Region) : (s.setRegion r g).migr = s.migr := rfl
@[simp] theorem setRegion_routes (s : State) (r : Nat) (g : Region) : (s.setRegion r g).routes = s.routes := rfl
@[simp] theorem setRegion_evseq (s : State) (r : Nat) (g : Region) : (s.setRegion r g).evseq = s.evseq := rfl
@[simp] theorem setRegion_evwait (s : State) (r : Nat) (g : Region) : (s.setRegion r g).evwait = s.evwait := rfl
@[simp] theorem setRegion_sound (s : State) (r : Nat) (g : Region) : (s.setRegion r g).sound = s.sound := rfl
@[simp] theorem setRegion_mapBad (s : State) (r : Nat) (g : Region) : (s.setRegion r g).mapBad = s.mapBad := rfl
@[simp] theorem setRegion_supply (s : State) (r : Nat) (g : Region) : (s.setRegion r g).supply = s.supply := rfl
@[simp] theorem setRegion_leases (s : State) (r : Nat) (g : Region) : (s.setRegion r g).leases = s.leases := rfl
@[simp] theorem setRegion_hbto (s : State) (r : Nat) (g : Region) : (s.setRegion r g).hbto = s.hbto := rfl
@[simp] theorem setRegion_cmis (s : State) (r : Nat) (g : Region) : (s.setRegion r g).cmis = s.cmis := rfl
@[simp] theorem setRegion_misAt (s : State) (r : Nat) (g : Region) : (s.setRegion r g).misAt = s.misAt := rfl
@[simp] theorem setRegion_safe (s : State) (r : Nat) (g : Region) : (s.setRegion r g).safe = s.safe := rfl
@[simp] theorem setRegion_fw (s : State) (r : Nat) (g : Region) : (s.setRegion r g).fw = s.fw := rfl
@[simp] theorem setRegion_ptpLink (s : State) (r : Nat) (g : Region) : (s.setRegion r g).ptpLink = s.ptpLink := rfl
@[simp] theorem setRegion_linkDown (s : State) (r : Nat) (g : Region) : (s.setRegion r g).linkDown = s.linkDown := rfl
@[simp] theorem setRegion_work (s : State) (r : Nat) (g : Region) : (s.setRegion r g).work = s.work := rfl
@[simp] theorem setRegion_spdm (s : State) (r : Nat) (g : Region) : (s.setRegion r g).spdm = s.spdm := rfl
@[simp] theorem setRegion_reads (s : State) (r : Nat) (g : Region) : (s.setRegion r g).reads = s.reads := rfl
@[simp] theorem setRegion_msix (s : State) (r : Nat) (g : Region) : (s.setRegion r g).msix = s.msix := rfl
@[simp] theorem setRegion_orders (s : State) (r : Nat) (g : Region) : (s.setRegion r g).orders = s.orders := rfl
@[simp] theorem setRegion_freeCtr (s : State) (r : Nat) (g : Region) : (s.setRegion r g).freeCtr = s.freeCtr := rfl
@[simp] theorem setRegion_regions (s : State) (r : Nat) (g : Region) : (s.setRegion r g).regions = Tab.set s.regions r g := rfl

@[simp] theorem at_elems (s : State) (u : UnitId) : (s.at u).elems = s.elems := rfl
@[simp] theorem at_cores (s : State) (u : UnitId) : (s.at u).cores = s.cores := rfl
@[simp] theorem at_agenda (s : State) (u : UnitId) : (s.at u).agenda = s.agenda := rfl
@[simp] theorem at_now (s : State) (u : UnitId) : (s.at u).now = s.now := rfl
@[simp] theorem at_mem (s : State) (u : UnitId) : (s.at u).mem = s.mem := rfl
@[simp] theorem at_gpz (s : State) (u : UnitId) : (s.at u).gpz = s.gpz := rfl
@[simp] theorem at_gtn (s : State) (u : UnitId) : (s.at u).gtn = s.gtn := rfl
@[simp] theorem at_bad (s : State) (u : UnitId) : (s.at u).bad = s.bad := rfl
@[simp] theorem at_vers (s : State) (u : UnitId) : (s.at u).vers = s.vers := rfl
@[simp] theorem at_wet (s : State) (u : UnitId) : (s.at u).wet = s.wet := rfl
@[simp] theorem at_rdc (s : State) (u : UnitId) : (s.at u).rdc = s.rdc := rfl
@[simp] theorem at_l2 (s : State) (u : UnitId) : (s.at u).l2 = s.l2 := rfl
@[simp] theorem at_mapSig (s : State) (u : UnitId) : (s.at u).mapSig = s.mapSig := rfl
@[simp] theorem at_pool (s : State) (u : UnitId) : (s.at u).pool = s.pool := rfl
@[simp] theorem at_pins (s : State) (u : UnitId) : (s.at u).pins = s.pins := rfl
@[simp] theorem at_slices (s : State) (u : UnitId) : (s.at u).slices = s.slices := rfl
@[simp] theorem at_tiles (s : State) (u : UnitId) : (s.at u).tiles = s.tiles := rfl
@[simp] theorem at_ats (s : State) (u : UnitId) : (s.at u).ats = s.ats := rfl
@[simp] theorem at_mqs (s : State) (u : UnitId) : (s.at u).mqs = s.mqs := rfl
@[simp] theorem at_dies (s : State) (u : UnitId) : (s.at u).dies = s.dies := rfl
@[simp] theorem at_regions (s : State) (u : UnitId) : (s.at u).regions = s.regions := rfl
@[simp] theorem at_launches (s : State) (u : UnitId) : (s.at u).launches = s.launches := rfl
@[simp] theorem at_queues (s : State) (u : UnitId) : (s.at u).queues = s.queues := rfl
@[simp] theorem at_configs (s : State) (u : UnitId) : (s.at u).configs = s.configs := rfl
@[simp] theorem at_ctxAt (s : State) (u : UnitId) : (s.at u).ctxAt = s.ctxAt := rfl
@[simp] theorem at_migr (s : State) (u : UnitId) : (s.at u).migr = s.migr := rfl
@[simp] theorem at_routes (s : State) (u : UnitId) : (s.at u).routes = s.routes := rfl
@[simp] theorem at_evseq (s : State) (u : UnitId) : (s.at u).evseq = s.evseq := rfl
@[simp] theorem at_evwait (s : State) (u : UnitId) : (s.at u).evwait = s.evwait := rfl
@[simp] theorem at_sound (s : State) (u : UnitId) : (s.at u).sound = s.sound := rfl
@[simp] theorem at_mapBad (s : State) (u : UnitId) : (s.at u).mapBad = s.mapBad := rfl
@[simp] theorem at_supply (s : State) (u : UnitId) : (s.at u).supply = s.supply := rfl
@[simp] theorem at_leases (s : State) (u : UnitId) : (s.at u).leases = s.leases := rfl
@[simp] theorem at_hbto (s : State) (u : UnitId) : (s.at u).hbto = s.hbto := rfl
@[simp] theorem at_cmis (s : State) (u : UnitId) : (s.at u).cmis = s.cmis := rfl
@[simp] theorem at_misAt (s : State) (u : UnitId) : (s.at u).misAt = s.misAt := rfl
@[simp] theorem at_safe (s : State) (u : UnitId) : (s.at u).safe = s.safe := rfl
@[simp] theorem at_fw (s : State) (u : UnitId) : (s.at u).fw = s.fw := rfl
@[simp] theorem at_ptpLink (s : State) (u : UnitId) : (s.at u).ptpLink = s.ptpLink := rfl
@[simp] theorem at_linkDown (s : State) (u : UnitId) : (s.at u).linkDown = s.linkDown := rfl
@[simp] theorem at_work (s : State) (u : UnitId) : (s.at u).work = s.work := rfl
@[simp] theorem at_spdm (s : State) (u : UnitId) : (s.at u).spdm = s.spdm := rfl
@[simp] theorem at_reads (s : State) (u : UnitId) : (s.at u).reads = s.reads := rfl
@[simp] theorem at_msix (s : State) (u : UnitId) : (s.at u).msix = s.msix := rfl
@[simp] theorem at_orders (s : State) (u : UnitId) : (s.at u).orders = s.orders := rfl
@[simp] theorem at_freeCtr (s : State) (u : UnitId) : (s.at u).freeCtr = s.freeCtr := rfl
@[simp] theorem at_cur (s : State) (u : UnitId) : (s.at u).cur = u := rfl

-- A unit ---------------------------------------------------------------------------------------------------------------------

@[simp] theorem raise_cls (e : Elem) (g : Flags) : (e.raise g).cls = e.cls := rfl
@[simp] theorem raise_role (e : Elem) (g : Flags) : (e.raise g).role = e.role := rfl
@[simp] theorem raise_act (e : Elem) (g : Flags) : (e.raise g).act = e.act := rfl
@[simp] theorem raise_rgn (e : Elem) (g : Flags) : (e.raise g).rgn = e.rgn := rfl
@[simp] theorem raise_site (e : Elem) (g : Flags) : (e.raise g).site = e.site := rfl
@[simp] theorem raise_die (e : Elem) (g : Flags) : (e.raise g).die = e.die := rfl
@[simp] theorem raise_folio (e : Elem) (g : Flags) : (e.raise g).folio = e.folio := rfl
@[simp] theorem raise_s (e : Elem) (g : Flags) : (e.raise g).s = e.s := rfl
@[simp] theorem raise_k (e : Elem) (g : Flags) : (e.raise g).k = e.k := rfl
@[simp] theorem raise_m (e : Elem) (g : Flags) : (e.raise g).m = e.m := rfl
@[simp] theorem raise_x (e : Elem) (g : Flags) : (e.raise g).x = e.x := rfl
@[simp] theorem raise_fcnt (e : Elem) (g : Flags) : (e.raise g).fcnt = e.fcnt := rfl
@[simp] theorem raise_invk (e : Elem) (g : Flags) : (e.raise g).invk = e.invk := rfl
@[simp] theorem raise_phnum (e : Elem) (g : Flags) : (e.raise g).phnum = e.phnum := rfl
@[simp] theorem raise_ins (e : Elem) (g : Flags) : (e.raise g).ins = e.ins := rfl
@[simp] theorem raise_outs (e : Elem) (g : Flags) : (e.raise g).outs = e.outs := rfl
@[simp] theorem raise_cls4 (e : Elem) (g : Flags) : (e.raise g).cls4 = e.cls4 := rfl
@[simp] theorem raise_body (e : Elem) (g : Flags) : (e.raise g).body = e.body := rfl
@[simp] theorem raise_strm (e : Elem) (g : Flags) : (e.raise g).strm = e.strm := rfl
@[simp] theorem raise_merge (e : Elem) (g : Flags) : (e.raise g).merge = e.merge := rfl
@[simp] theorem raise_busy (e : Elem) (g : Flags) : (e.raise g).busy = e.busy := rfl
@[simp] theorem raise_run (e : Elem) (g : Flags) : (e.raise g).run = e.run := rfl
@[simp] theorem raise_pipe (e : Elem) (g : Flags) : (e.raise g).pipe = e.pipe := rfl
@[simp] theorem raise_sect (e : Elem) (g : Flags) : (e.raise g).sect = e.sect := rfl
@[simp] theorem raise_armc (e : Elem) (g : Flags) : (e.raise g).armc = e.armc := rfl
@[simp] theorem raise_armIn (e : Elem) (g : Flags) : (e.raise g).armIn = e.armIn := rfl
@[simp] theorem raise_armOut (e : Elem) (g : Flags) : (e.raise g).armOut = e.armOut := rfl
@[simp] theorem raise_stop (e : Elem) (g : Flags) : (e.raise g).stop = e.stop := rfl
@[simp] theorem raise_halted (e : Elem) (g : Flags) : (e.raise g).halted = e.halted := rfl
@[simp] theorem raise_frozen (e : Elem) (g : Flags) : (e.raise g).frozen = e.frozen := rfl
@[simp] theorem raise_mark (e : Elem) (g : Flags) : (e.raise g).mark = e.mark := rfl
@[simp] theorem raise_dead (e : Elem) (g : Flags) : (e.raise g).dead = e.dead := rfl
@[simp] theorem raise_blot (e : Elem) (g : Flags) : (e.raise g).blot = e.blot := rfl
@[simp] theorem raise_store (e : Elem) (g : Flags) : (e.raise g).store = e.store := rfl
@[simp] theorem raise_ve (e : Elem) (g : Flags) : (e.raise g).ve = e.ve := rfl
@[simp] theorem raise_ag (e : Elem) (g : Flags) : (e.raise g).ag = e.ag := rfl
@[simp] theorem raise_ra (e : Elem) (g : Flags) : (e.raise g).ra = e.ra := rfl
@[simp] theorem raise_rq (e : Elem) (g : Flags) : (e.raise g).rq = e.rq := rfl
@[simp] theorem raise_fc (e : Elem) (g : Flags) : (e.raise g).fc = e.fc := rfl
@[simp] theorem setMask_cls (e : Elem) (k : Nat) (m : Mask) : (e.setMask k m).cls = e.cls := rfl
@[simp] theorem setMask_role (e : Elem) (k : Nat) (m : Mask) : (e.setMask k m).role = e.role := rfl
@[simp] theorem setMask_act (e : Elem) (k : Nat) (m : Mask) : (e.setMask k m).act = e.act := rfl
@[simp] theorem setMask_rgn (e : Elem) (k : Nat) (m : Mask) : (e.setMask k m).rgn = e.rgn := rfl
@[simp] theorem setMask_site (e : Elem) (k : Nat) (m : Mask) : (e.setMask k m).site = e.site := rfl
@[simp] theorem setMask_die (e : Elem) (k : Nat) (m : Mask) : (e.setMask k m).die = e.die := rfl
@[simp] theorem setMask_folio (e : Elem) (k : Nat) (m : Mask) : (e.setMask k m).folio = e.folio := rfl
@[simp] theorem setMask_s (e : Elem) (k : Nat) (m : Mask) : (e.setMask k m).s = e.s := rfl
@[simp] theorem setMask_k (e : Elem) (k : Nat) (m : Mask) : (e.setMask k m).k = e.k := rfl
@[simp] theorem setMask_x (e : Elem) (k : Nat) (m : Mask) : (e.setMask k m).x = e.x := rfl
@[simp] theorem setMask_sticky (e : Elem) (k : Nat) (m : Mask) : (e.setMask k m).sticky = e.sticky := rfl
@[simp] theorem setMask_fcnt (e : Elem) (k : Nat) (m : Mask) : (e.setMask k m).fcnt = e.fcnt := rfl
@[simp] theorem setMask_invk (e : Elem) (k : Nat) (m : Mask) : (e.setMask k m).invk = e.invk := rfl
@[simp] theorem setMask_phnum (e : Elem) (k : Nat) (m : Mask) : (e.setMask k m).phnum = e.phnum := rfl
@[simp] theorem setMask_ins (e : Elem) (k : Nat) (m : Mask) : (e.setMask k m).ins = e.ins := rfl
@[simp] theorem setMask_outs (e : Elem) (k : Nat) (m : Mask) : (e.setMask k m).outs = e.outs := rfl
@[simp] theorem setMask_cls4 (e : Elem) (k : Nat) (m : Mask) : (e.setMask k m).cls4 = e.cls4 := rfl
@[simp] theorem setMask_body (e : Elem) (k : Nat) (m : Mask) : (e.setMask k m).body = e.body := rfl
@[simp] theorem setMask_strm (e : Elem) (k : Nat) (m : Mask) : (e.setMask k m).strm = e.strm := rfl
@[simp] theorem setMask_merge (e : Elem) (k : Nat) (m : Mask) : (e.setMask k m).merge = e.merge := rfl
@[simp] theorem setMask_busy (e : Elem) (k : Nat) (m : Mask) : (e.setMask k m).busy = e.busy := rfl
@[simp] theorem setMask_run (e : Elem) (k : Nat) (m : Mask) : (e.setMask k m).run = e.run := rfl
@[simp] theorem setMask_pipe (e : Elem) (k : Nat) (m : Mask) : (e.setMask k m).pipe = e.pipe := rfl
@[simp] theorem setMask_sect (e : Elem) (k : Nat) (m : Mask) : (e.setMask k m).sect = e.sect := rfl
@[simp] theorem setMask_armc (e : Elem) (k : Nat) (m : Mask) : (e.setMask k m).armc = e.armc := rfl
@[simp] theorem setMask_armIn (e : Elem) (k : Nat) (m : Mask) : (e.setMask k m).armIn = e.armIn := rfl
@[simp] theorem setMask_armOut (e : Elem) (k : Nat) (m : Mask) : (e.setMask k m).armOut = e.armOut := rfl
@[simp] theorem setMask_stop (e : Elem) (k : Nat) (m : Mask) : (e.setMask k m).stop = e.stop := rfl
@[simp] theorem setMask_halted (e : Elem) (k : Nat) (m : Mask) : (e.setMask k m).halted = e.halted := rfl
@[simp] theorem setMask_frozen (e : Elem) (k : Nat) (m : Mask) : (e.setMask k m).frozen = e.frozen := rfl
@[simp] theorem setMask_mark (e : Elem) (k : Nat) (m : Mask) : (e.setMask k m).mark = e.mark := rfl
@[simp] theorem setMask_dead (e : Elem) (k : Nat) (m : Mask) : (e.setMask k m).dead = e.dead := rfl
@[simp] theorem setMask_blot (e : Elem) (k : Nat) (m : Mask) : (e.setMask k m).blot = e.blot := rfl
@[simp] theorem setMask_store (e : Elem) (k : Nat) (m : Mask) : (e.setMask k m).store = e.store := rfl
@[simp] theorem setMask_ve (e : Elem) (k : Nat) (m : Mask) : (e.setMask k m).ve = e.ve := rfl
@[simp] theorem setMask_ag (e : Elem) (k : Nat) (m : Mask) : (e.setMask k m).ag = e.ag := rfl
@[simp] theorem setMask_ra (e : Elem) (k : Nat) (m : Mask) : (e.setMask k m).ra = e.ra := rfl
@[simp] theorem setMask_rq (e : Elem) (k : Nat) (m : Mask) : (e.setMask k m).rq = e.rq := rfl
@[simp] theorem setMask_fc (e : Elem) (k : Nat) (m : Mask) : (e.setMask k m).fc = e.fc := rfl
@[simp] theorem setIn_cls (e : Elem) (c : Nat) (x : InChan) : (e.setIn c x).cls = e.cls := rfl
@[simp] theorem setIn_role (e : Elem) (c : Nat) (x : InChan) : (e.setIn c x).role = e.role := rfl
@[simp] theorem setIn_act (e : Elem) (c : Nat) (x : InChan) : (e.setIn c x).act = e.act := rfl
@[simp] theorem setIn_rgn (e : Elem) (c : Nat) (x : InChan) : (e.setIn c x).rgn = e.rgn := rfl
@[simp] theorem setIn_site (e : Elem) (c : Nat) (x : InChan) : (e.setIn c x).site = e.site := rfl
@[simp] theorem setIn_die (e : Elem) (c : Nat) (x : InChan) : (e.setIn c x).die = e.die := rfl
@[simp] theorem setIn_folio (e : Elem) (c : Nat) (x : InChan) : (e.setIn c x).folio = e.folio := rfl
@[simp] theorem setIn_s (e : Elem) (c : Nat) (x : InChan) : (e.setIn c x).s = e.s := rfl
@[simp] theorem setIn_k (e : Elem) (c : Nat) (x : InChan) : (e.setIn c x).k = e.k := rfl
@[simp] theorem setIn_m (e : Elem) (c : Nat) (x : InChan) : (e.setIn c x).m = e.m := rfl
@[simp] theorem setIn_x (e : Elem) (c : Nat) (x : InChan) : (e.setIn c x).x = e.x := rfl
@[simp] theorem setIn_sticky (e : Elem) (c : Nat) (x : InChan) : (e.setIn c x).sticky = e.sticky := rfl
@[simp] theorem setIn_fcnt (e : Elem) (c : Nat) (x : InChan) : (e.setIn c x).fcnt = e.fcnt := rfl
@[simp] theorem setIn_invk (e : Elem) (c : Nat) (x : InChan) : (e.setIn c x).invk = e.invk := rfl
@[simp] theorem setIn_phnum (e : Elem) (c : Nat) (x : InChan) : (e.setIn c x).phnum = e.phnum := rfl
@[simp] theorem setIn_outs (e : Elem) (c : Nat) (x : InChan) : (e.setIn c x).outs = e.outs := rfl
@[simp] theorem setIn_cls4 (e : Elem) (c : Nat) (x : InChan) : (e.setIn c x).cls4 = e.cls4 := rfl
@[simp] theorem setIn_body (e : Elem) (c : Nat) (x : InChan) : (e.setIn c x).body = e.body := rfl
@[simp] theorem setIn_strm (e : Elem) (c : Nat) (x : InChan) : (e.setIn c x).strm = e.strm := rfl
@[simp] theorem setIn_merge (e : Elem) (c : Nat) (x : InChan) : (e.setIn c x).merge = e.merge := rfl
@[simp] theorem setIn_busy (e : Elem) (c : Nat) (x : InChan) : (e.setIn c x).busy = e.busy := rfl
@[simp] theorem setIn_run (e : Elem) (c : Nat) (x : InChan) : (e.setIn c x).run = e.run := rfl
@[simp] theorem setIn_pipe (e : Elem) (c : Nat) (x : InChan) : (e.setIn c x).pipe = e.pipe := rfl
@[simp] theorem setIn_sect (e : Elem) (c : Nat) (x : InChan) : (e.setIn c x).sect = e.sect := rfl
@[simp] theorem setIn_armc (e : Elem) (c : Nat) (x : InChan) : (e.setIn c x).armc = e.armc := rfl
@[simp] theorem setIn_armIn (e : Elem) (c : Nat) (x : InChan) : (e.setIn c x).armIn = e.armIn := rfl
@[simp] theorem setIn_armOut (e : Elem) (c : Nat) (x : InChan) : (e.setIn c x).armOut = e.armOut := rfl
@[simp] theorem setIn_stop (e : Elem) (c : Nat) (x : InChan) : (e.setIn c x).stop = e.stop := rfl
@[simp] theorem setIn_halted (e : Elem) (c : Nat) (x : InChan) : (e.setIn c x).halted = e.halted := rfl
@[simp] theorem setIn_frozen (e : Elem) (c : Nat) (x : InChan) : (e.setIn c x).frozen = e.frozen := rfl
@[simp] theorem setIn_mark (e : Elem) (c : Nat) (x : InChan) : (e.setIn c x).mark = e.mark := rfl
@[simp] theorem setIn_dead (e : Elem) (c : Nat) (x : InChan) : (e.setIn c x).dead = e.dead := rfl
@[simp] theorem setIn_blot (e : Elem) (c : Nat) (x : InChan) : (e.setIn c x).blot = e.blot := rfl
@[simp] theorem setIn_store (e : Elem) (c : Nat) (x : InChan) : (e.setIn c x).store = e.store := rfl
@[simp] theorem setIn_ve (e : Elem) (c : Nat) (x : InChan) : (e.setIn c x).ve = e.ve := rfl
@[simp] theorem setIn_ag (e : Elem) (c : Nat) (x : InChan) : (e.setIn c x).ag = e.ag := rfl
@[simp] theorem setIn_ra (e : Elem) (c : Nat) (x : InChan) : (e.setIn c x).ra = e.ra := rfl
@[simp] theorem setIn_rq (e : Elem) (c : Nat) (x : InChan) : (e.setIn c x).rq = e.rq := rfl
@[simp] theorem setIn_fc (e : Elem) (c : Nat) (x : InChan) : (e.setIn c x).fc = e.fc := rfl
@[simp] theorem setOut_cls (e : Elem) (c : Nat) (x : OutChan) : (e.setOut c x).cls = e.cls := rfl
@[simp] theorem setOut_role (e : Elem) (c : Nat) (x : OutChan) : (e.setOut c x).role = e.role := rfl
@[simp] theorem setOut_act (e : Elem) (c : Nat) (x : OutChan) : (e.setOut c x).act = e.act := rfl
@[simp] theorem setOut_rgn (e : Elem) (c : Nat) (x : OutChan) : (e.setOut c x).rgn = e.rgn := rfl
@[simp] theorem setOut_site (e : Elem) (c : Nat) (x : OutChan) : (e.setOut c x).site = e.site := rfl
@[simp] theorem setOut_die (e : Elem) (c : Nat) (x : OutChan) : (e.setOut c x).die = e.die := rfl
@[simp] theorem setOut_folio (e : Elem) (c : Nat) (x : OutChan) : (e.setOut c x).folio = e.folio := rfl
@[simp] theorem setOut_s (e : Elem) (c : Nat) (x : OutChan) : (e.setOut c x).s = e.s := rfl
@[simp] theorem setOut_k (e : Elem) (c : Nat) (x : OutChan) : (e.setOut c x).k = e.k := rfl
@[simp] theorem setOut_m (e : Elem) (c : Nat) (x : OutChan) : (e.setOut c x).m = e.m := rfl
@[simp] theorem setOut_x (e : Elem) (c : Nat) (x : OutChan) : (e.setOut c x).x = e.x := rfl
@[simp] theorem setOut_sticky (e : Elem) (c : Nat) (x : OutChan) : (e.setOut c x).sticky = e.sticky := rfl
@[simp] theorem setOut_fcnt (e : Elem) (c : Nat) (x : OutChan) : (e.setOut c x).fcnt = e.fcnt := rfl
@[simp] theorem setOut_invk (e : Elem) (c : Nat) (x : OutChan) : (e.setOut c x).invk = e.invk := rfl
@[simp] theorem setOut_phnum (e : Elem) (c : Nat) (x : OutChan) : (e.setOut c x).phnum = e.phnum := rfl
@[simp] theorem setOut_ins (e : Elem) (c : Nat) (x : OutChan) : (e.setOut c x).ins = e.ins := rfl
@[simp] theorem setOut_cls4 (e : Elem) (c : Nat) (x : OutChan) : (e.setOut c x).cls4 = e.cls4 := rfl
@[simp] theorem setOut_body (e : Elem) (c : Nat) (x : OutChan) : (e.setOut c x).body = e.body := rfl
@[simp] theorem setOut_strm (e : Elem) (c : Nat) (x : OutChan) : (e.setOut c x).strm = e.strm := rfl
@[simp] theorem setOut_merge (e : Elem) (c : Nat) (x : OutChan) : (e.setOut c x).merge = e.merge := rfl
@[simp] theorem setOut_busy (e : Elem) (c : Nat) (x : OutChan) : (e.setOut c x).busy = e.busy := rfl
@[simp] theorem setOut_run (e : Elem) (c : Nat) (x : OutChan) : (e.setOut c x).run = e.run := rfl
@[simp] theorem setOut_pipe (e : Elem) (c : Nat) (x : OutChan) : (e.setOut c x).pipe = e.pipe := rfl
@[simp] theorem setOut_sect (e : Elem) (c : Nat) (x : OutChan) : (e.setOut c x).sect = e.sect := rfl
@[simp] theorem setOut_armc (e : Elem) (c : Nat) (x : OutChan) : (e.setOut c x).armc = e.armc := rfl
@[simp] theorem setOut_armIn (e : Elem) (c : Nat) (x : OutChan) : (e.setOut c x).armIn = e.armIn := rfl
@[simp] theorem setOut_armOut (e : Elem) (c : Nat) (x : OutChan) : (e.setOut c x).armOut = e.armOut := rfl
@[simp] theorem setOut_stop (e : Elem) (c : Nat) (x : OutChan) : (e.setOut c x).stop = e.stop := rfl
@[simp] theorem setOut_halted (e : Elem) (c : Nat) (x : OutChan) : (e.setOut c x).halted = e.halted := rfl
@[simp] theorem setOut_frozen (e : Elem) (c : Nat) (x : OutChan) : (e.setOut c x).frozen = e.frozen := rfl
@[simp] theorem setOut_mark (e : Elem) (c : Nat) (x : OutChan) : (e.setOut c x).mark = e.mark := rfl
@[simp] theorem setOut_dead (e : Elem) (c : Nat) (x : OutChan) : (e.setOut c x).dead = e.dead := rfl
@[simp] theorem setOut_blot (e : Elem) (c : Nat) (x : OutChan) : (e.setOut c x).blot = e.blot := rfl
@[simp] theorem setOut_store (e : Elem) (c : Nat) (x : OutChan) : (e.setOut c x).store = e.store := rfl
@[simp] theorem setOut_ve (e : Elem) (c : Nat) (x : OutChan) : (e.setOut c x).ve = e.ve := rfl
@[simp] theorem setOut_ag (e : Elem) (c : Nat) (x : OutChan) : (e.setOut c x).ag = e.ag := rfl
@[simp] theorem setOut_ra (e : Elem) (c : Nat) (x : OutChan) : (e.setOut c x).ra = e.ra := rfl
@[simp] theorem setOut_rq (e : Elem) (c : Nat) (x : OutChan) : (e.setOut c x).rq = e.rq := rfl
@[simp] theorem setOut_fc (e : Elem) (c : Nat) (x : OutChan) : (e.setOut c x).fc = e.fc := rfl

end Sys2Proof.Machine
end

