-- ==== Sys2Proof/Laws/Canonical.lean ====
section
/-! SUPPORT. What the shared operations do to memory: events, region states and halts leave it, a fault record and a store
are written into it, and each keeps its canonical form; with that, an instruction keeps it where its work does. -/
namespace Sys2Proof.Machine

open Sys2Proof.Claim

-- Operations that leave memory ---------------------------------------------------------------------------------------------

@[simp] theorem deliverEvent_mem (s : State) (core : Nat) (ev : BitVec 256) : (deliverEvent s core ev).mem = s.mem := by
  unfold deliverEvent
  split
  · rfl
  · split <;> rfl

@[simp] theorem postEvent_mem (s : State) (kind arg src : Nat) : (postEvent s kind arg src).mem = s.mem := by
  simp [postEvent]

@[simp] theorem recordEvents_mem (d addr : Nat) (r : BitVec 2048) (s : State) : (recordEvents d addr r s).mem = s.mem := by
  unfold recordEvents; dsimp only; split <;> simp

@[simp] theorem setStt_mem (s : State) (r stt : Nat) : (setStt s r stt).mem = s.mem := by
  unfold setStt; dsimp only; split <;> simp

@[simp] theorem haltRegion_mem (s : State) (r : Nat) : (haltRegion s r).mem = s.mem := by
  unfold haltRegion; dsimp only; split <;> simp

@[simp] theorem haltSoon_mem (s : State) (r : Nat) : (haltSoon s r).mem = s.mem := by
  unfold haltSoon; dsimp only; split <;> simp

@[simp] theorem noteFault_mem (s : State) (r d : Nat) (u : FaultUnit) (t : Trap) : (noteFault s r d u t).mem = s.mem := by
  unfold noteFault; split <;> simp

@[simp] theorem addWork_mem (s : State) (core q : Nat) : (addWork s core q).mem = s.mem := rfl

@[simp] theorem rdcDrop_mem (s : State) (p : RdcSec → Bool) : (rdcDrop s p).mem = s.mem := rfl

@[simp] theorem granBits_mem (s : State) (base : Nat) (whole pz tn : Bool) : (granBits s base whole pz tn).mem = s.mem := by
  unfold granBits
  dsimp only
  split
  · rfl
  · split
    · split <;> rfl
    · rfl

@[simp] theorem dropCopies_mem (s : State) (die : Option Nat) (base : Nat) : (dropCopies s die base).mem = s.mem := by
  cases die <;> rfl

@[simp] theorem supersede_mem (s : State) (p : PStore) : (supersede s p).mem = s.mem := by
  unfold supersede; dsimp only; split <;> rfl

/-- A fold of operations that each leave memory leaves it. -/
theorem foldl_mem {α : Type} (g : State → α → State) (h : ∀ s x, (g s x).mem = s.mem) (l : List α) (s : State) :
    (l.foldl g s).mem = s.mem := by
  induction l generalizing s with
  | nil => rfl
  | cons x r ih => rw [List.foldl_cons, ih, h]

@[simp] theorem revertCanary_mem (s : State) : (revertCanary s).mem = s.mem := by
  unfold revertCanary
  split
  · rfl
  · dsimp only
    split <;> simp [foldl_mem _ (fun s q => addWork_mem s _ q)]

-- Operations that write memory ---------------------------------------------------------------------------------------------

/-- A fold of operations that each keep the canonical form keeps it. -/
theorem foldl_canonical {α : Type} (g : State → α → State) (h : ∀ s x, Canonical s → Canonical (g s x)) (l : List α) (s : State)
    (hs : Canonical s) : Canonical (l.foldl g s) := by
  induction l generalizing s with
  | nil => exact hs
  | cons x r ih => exact ih _ (h s x hs)

/-- An operation that leaves memory keeps its canonical form. -/
theorem canonical_of_mem {s t : State} (h : t.mem = s.mem) (hs : Canonical s) : Canonical t := by
  unfold Canonical at *; rw [h]; exact hs

theorem canonical_flushRing (n d : Nat) (s : State) (hs : Canonical s) : Canonical (flushRing n d s) := by
  induction n generalizing s with
  | zero => exact hs
  | succ n ih =>
    unfold flushRing
    dsimp only
    split
    · exact hs
    · split
      · apply ih
        refine canonical_of_mem (recordEvents_mem _ _ _ _) ?_
        generalize littleBytes 256 _ = l
        exact memWf_memWrite l _ hs
      · exact hs

theorem canonical_putRecord (s : State) (d : Nat) (r : BitVec 2048) (hs : Canonical s) : Canonical (putRecord s d r) :=
  canonical_flushRing _ _ _ (canonical_of_mem (setDie_mem s _ _) hs)

theorem canonical_raiseFault (s : State) (n : Nat) (e : Elem) (t : Trap) (w : BitVec 96) (hs : Canonical s) :
    Canonical (raiseFault s n e t w) := by
  unfold raiseFault
  split <;> exact canonical_putRecord _ _ _ (canonical_of_mem (by simp) hs)

theorem canonical_startImage (s : State) (core : Nat) (img : List Byte) (hs : Canonical s) : Canonical (startImage s core img) := by
  unfold startImage Canonical
  dsimp only
  have : ∀ (l : List (Nat × Nat × Nat)) (m : List Host.Cell), memWf m = true →
      memWf (l.foldl (fun m g => memWrite m g.1 ((img.drop g.2.2).take g.2.1)) m) = true := by
    intro l
    induction l with
    | nil => exact fun m h => h
    | cons x r ih => exact fun m h => ih _ (memWf_memWrite _ _ h)
  exact this _ _ hs

theorem canonical_restartImage (s : State) (core : Nat) (img : List Byte) (hs : Canonical s) : Canonical (restartImage s core img) := by
  have h := canonical_startImage s core img hs
  unfold restartImage
  dsimp only
  split <;> exact h

theorem canonical_nibRestart (s : State) (hs : Canonical s) : Canonical (nibRestart s) := by
  have h := canonical_restartImage s 0 s.fw.image hs
  unfold nibRestart
  dsimp only
  split <;> exact h

theorem canonical_coreTrap (s : State) (n : Nat) (e : Elem) (epc : Nat) (t : Trap) (w : BitVec 96) (hs : Canonical s) :
    Canonical (coreTrap s n e epc t w) := by
  unfold coreTrap
  split
  · have h : ∀ e', Canonical (postEvent (s.setUnit (.fc n) e') 4 n (srcNum 32 8 n)) :=
      fun e' => canonical_of_mem (by simp) hs
    dsimp only
    split
    · exact canonical_nibRestart _ (h _)
    · split
      · exact canonical_of_mem (revertCanary_mem _) (h _)
      · exact h _
  · exact canonical_of_mem (by simp) hs

/-- Taking a trap keeps the canonical form. -/
theorem canonical_takeTrap (s : State) (u : UnitId) (e : Elem) (t : Trap) (w : BitVec 96) (hs : Canonical s) :
    Canonical (takeTrap s u e t w) := by
  cases u with
  | el n => exact canonical_raiseFault s n e t w hs
  | fc n => exact canonical_coreTrap s n e _ t w hs

theorem canonical_landBytes (s : State) (base : Nat) (data mask : BitVec 512) (hs : Canonical s) : Canonical (landBytes s base data mask) := by
  unfold landBytes
  generalize littleBytes 64 _ = l
  have h : Canonical { s with mem := memWrite s.mem base l } := memWf_memWrite l _ hs
  exact h

theorem canonical_granBits (s : State) (base : Nat) (whole pz tn : Bool) (hs : Canonical s) : Canonical (granBits s base whole pz tn) :=
  canonical_of_mem (granBits_mem s base whole pz tn) hs

theorem canonical_landGran (s : State) (die : Option Nat) (base : Nat) (data mask : BitVec 512) (whole pz tn : Bool) (hs : Canonical s) :
    Canonical (landGran s die base data mask whole pz tn) :=
  canonical_of_mem (dropCopies_mem _ _ _) (canonical_granBits _ _ _ _ _ (canonical_landBytes _ _ _ _ hs))

theorem canonical_landStore (s : State) (die : Option Nat) (p : PStore) (hs : Canonical s) : Canonical (landStore s die p) := by
  unfold landStore
  have h := canonical_landBytes _ p.base p.data p.mask (canonical_of_mem (supersede_mem s p) hs)
  refine canonical_of_mem (dropCopies_mem _ _ _) ?_
  split
  · exact canonical_granBits _ _ _ _ _ h
  · exact h

theorem canonical_landAll (s : State) (die : Option Nat) (l : List PStore) (hs : Canonical s) : Canonical (landAll s die l) :=
  foldl_canonical _ (fun s p h => canonical_landStore s die p h) l s hs

-- Instructions -------------------------------------------------------------------------------------------------------------------

/-- An instruction keeps the canonical form where its work does. -/
theorem canonical_issue {op : BitVec 8} {body : Body} {f : Fields} {s t : State} (hs : Canonical s)
    (hb : ∀ e d, s.unit s.cur = some e → body s f e = .ok d → Canonical d.st) (h : issue op body f s = .next t) : Canonical t := by
  unfold issue at h
  split at h
  · cases h
  · rename_i e he
    injection h with h
    subst h
    split
    · cases hr : body s f e with
      | ok d =>
        have := hb e d he hr
        simp only [settle]
        split
        · exact canonical_takeTrap _ _ _ _ _ this
        · exact canonical_of_mem (setUnit_mem _ _ _) this
      | error x =>
        cases x with
        | hold c => exact canonical_of_mem (setUnit_mem _ _ _) hs
        | trap t => exact canonical_takeTrap _ _ _ _ _ hs
    · exact canonical_takeTrap _ _ _ _ _ hs

end Sys2Proof.Machine
end

