-- ==== Sys2Proof/Laws/PerInstr.lean ====
section
/-! SUPPORT. What holds of every instruction as syntax: the word of a well-formed one decodes to it, with every field (R43, R60),
one lemma for each constructor. -/
namespace Sys2Proof

/-- The low word of two side by side. -/
theorem extract_last {n m : Nat} (x : BitVec n) (y : BitVec m) : (x ++ y).extractLsb' 0 m = y := by
  apply BitVec.eq_of_getLsbD_eq
  intro i hi
  simp [BitVec.getLsbD_append, hi]

/-- High bits of two words side by side. -/
theorem extract_high {n m : Nat} (x : BitVec n) (y : BitVec m) (lo w : Nat) (h : m ≤ lo) :
    (x ++ y).extractLsb' lo w = x.extractLsb' (lo - m) w := by
  apply BitVec.eq_of_getLsbD_eq
  intro i hi
  simp [BitVec.getLsbD_append, hi, show ¬ lo + i < m by omega, show lo + i - m = lo - m + i by omega]

/-- A word whole. -/
theorem extract_whole {n : Nat} (x : BitVec n) : x.extractLsb' 0 n = x := by
  apply BitVec.eq_of_getLsbD_eq
  intro i hi
  simp [hi]

/-- The op of an internal word (R43). -/
@[simp] theorem op_wordOf (op : BitVec 8) (f : Fields) : (wordOf op f).extractLsb' 88 8 = op := by
  simp only [wordOf, extract_high, extract_whole, Nat.reduceLeDiff, Nat.reduceSub]

/-- The fields of an internal word (R43). -/
@[simp] theorem fields_wordOf (op : BitVec 8) (f : Fields) : fieldsOf (wordOf op f) = f := by
  cases f
  simp only [fieldsOf, wordOf, Fields.mk.injEq]
  refine ⟨?_, ?_, ?_, ?_, ?_, ?_, ?_, ?_, ?_, ?_, ?_, ?_⟩ <;>
    simp only [extract_high, extract_last, Nat.reduceLeDiff, Nat.reduceSub]

/-- An internal word decodes by its op and fields. -/
@[simp] theorem decodeWord_wordOf (op : BitVec 8) (f : Fields) : decodeWord (wordOf op f) = instrOf op f := by
  simp only [decodeWord, op_wordOf, fields_wordOf]

namespace Laws.Shape

/-- The word of a well-formed instruction decodes to it. -/
def Statement (i : Instr) : Prop := i.wf = true → ∀ w : BitVec 96, encodeWord i = some w → decodeWord w = some i

/-- An instruction whose op and fields stand for it. -/
theorem of_fields {i : Instr} {op : BitVec 8} {f : Fields} (h : opFields i = some (op, f)) (hi : i.wf = true → instrOf op f = some i) :
    Statement i := by
  intro hw w he
  rw [encodeWord, h] at he
  cases he
  rw [decodeWord_wordOf]
  exact hi hw

/-- A step of the device has no word. -/
theorem of_none {i : Instr} (h : opFields i = none) : Statement i := by
  intro _ w he
  rw [encodeWord, h] at he
  cases he

theorem nop (f : Fields) : Statement (.nop f) := of_fields rfl (fun _ => rfl)
theorem endFiring (f : Fields) : Statement (.endFiring f) := of_fields rfl (fun _ => rfl)
theorem take (f : Fields) : Statement (.take f) := of_fields rfl (fun _ => rfl)
theorem give (f : Fields) : Statement (.give f) := of_fields rfl (fun _ => rfl)
theorem wait (f : Fields) : Statement (.wait f) := of_fields rfl (fun _ => rfl)
theorem sbt (f : Fields) : Statement (.sbt f) := of_fields rfl (fun _ => rfl)
theorem ctlw (f : Fields) : Statement (.ctlw f) := of_fields rfl (fun _ => rfl)
theorem cfwd (f : Fields) : Statement (.cfwd f) := of_fields rfl (fun _ => rfl)
theorem cpeek (f : Fields) : Statement (.cpeek f) := of_fields rfl (fun _ => rfl)
theorem mskop (f : Fields) : Statement (.mskop f) := of_fields rfl (fun _ => rfl)
theorem mskmv (f : Fields) : Statement (.mskmv f) := of_fields rfl (fun _ => rfl)
theorem bra (f : Fields) : Statement (.bra f) := of_fields rfl (fun _ => rfl)
theorem loop (f : Fields) : Statement (.loop f) := of_fields rfl (fun _ => rfl)
theorem brk (f : Fields) : Statement (.brk f) := of_fields rfl (fun _ => rfl)
theorem add (f : Fields) : Statement (.add f) := of_fields rfl (fun _ => rfl)
theorem sub (f : Fields) : Statement (.sub f) := of_fields rfl (fun _ => rfl)
theorem mul (f : Fields) : Statement (.mul f) := of_fields rfl (fun _ => rfl)
theorem mulh (f : Fields) : Statement (.mulh f) := of_fields rfl (fun _ => rfl)
theorem mad (f : Fields) : Statement (.mad f) := of_fields rfl (fun _ => rfl)
theorem div (f : Fields) : Statement (.div f) := of_fields rfl (fun _ => rfl)
theorem rem (f : Fields) : Statement (.rem f) := of_fields rfl (fun _ => rfl)
theorem abs (f : Fields) : Statement (.abs f) := of_fields rfl (fun _ => rfl)
theorem neg (f : Fields) : Statement (.neg f) := of_fields rfl (fun _ => rfl)
theorem min (f : Fields) : Statement (.min f) := of_fields rfl (fun _ => rfl)
theorem max (f : Fields) : Statement (.max f) := of_fields rfl (fun _ => rfl)
theorem and (f : Fields) : Statement (.and f) := of_fields rfl (fun _ => rfl)
theorem or (f : Fields) : Statement (.or f) := of_fields rfl (fun _ => rfl)
theorem xor (f : Fields) : Statement (.xor f) := of_fields rfl (fun _ => rfl)
theorem andn (f : Fields) : Statement (.andn f) := of_fields rfl (fun _ => rfl)
theorem shl (f : Fields) : Statement (.shl f) := of_fields rfl (fun _ => rfl)
theorem shr (f : Fields) : Statement (.shr f) := of_fields rfl (fun _ => rfl)
theorem sar (f : Fields) : Statement (.sar f) := of_fields rfl (fun _ => rfl)
theorem rot (f : Fields) : Statement (.rot f) := of_fields rfl (fun _ => rfl)
theorem clz (f : Fields) : Statement (.clz f) := of_fields rfl (fun _ => rfl)
theorem popc (f : Fields) : Statement (.popc f) := of_fields rfl (fun _ => rfl)
theorem bfx (f : Fields) : Statement (.bfx f) := of_fields rfl (fun _ => rfl)
theorem bfi (f : Fields) : Statement (.bfi f) := of_fields rfl (fun _ => rfl)
theorem cmp (f : Fields) : Statement (.cmp f) := of_fields rfl (fun _ => rfl)
theorem sel (f : Fields) : Statement (.sel f) := of_fields rfl (fun _ => rfl)
theorem mov (f : Fields) : Statement (.mov f) := of_fields rfl (fun _ => rfl)
theorem movi (f : Fields) : Statement (.movi f) := of_fields rfl (fun _ => rfl)
theorem pack (f : Fields) : Statement (.pack f) := of_fields rfl (fun _ => rfl)
theorem unpk (f : Fields) : Statement (.unpk f) := of_fields rfl (fun _ => rfl)
theorem shuf (f : Fields) : Statement (.shuf f) := of_fields rfl (fun _ => rfl)
theorem bcst (f : Fields) : Statement (.bcst f) := of_fields rfl (fun _ => rfl)
theorem lred (f : Fields) : Statement (.lred f) := of_fields rfl (fun _ => rfl)
theorem fadd (f : Fields) : Statement (.fadd f) := of_fields rfl (fun _ => rfl)
theorem fsub (f : Fields) : Statement (.fsub f) := of_fields rfl (fun _ => rfl)
theorem fmul (f : Fields) : Statement (.fmul f) := of_fields rfl (fun _ => rfl)
theorem fma (f : Fields) : Statement (.fma f) := of_fields rfl (fun _ => rfl)
theorem fmin (f : Fields) : Statement (.fmin f) := of_fields rfl (fun _ => rfl)
theorem fmax (f : Fields) : Statement (.fmax f) := of_fields rfl (fun _ => rfl)
theorem fabs (f : Fields) : Statement (.fabs f) := of_fields rfl (fun _ => rfl)
theorem fneg (f : Fields) : Statement (.fneg f) := of_fields rfl (fun _ => rfl)
theorem fcmp (f : Fields) : Statement (.fcmp f) := of_fields rfl (fun _ => rfl)
theorem frcp (f : Fields) : Statement (.frcp f) := of_fields rfl (fun _ => rfl)
theorem frsq (f : Fields) : Statement (.frsq f) := of_fields rfl (fun _ => rfl)
theorem fex2 (f : Fields) : Statement (.fex2 f) := of_fields rfl (fun _ => rfl)
theorem flg2 (f : Fields) : Statement (.flg2 f) := of_fields rfl (fun _ => rfl)
theorem fcls (f : Fields) : Statement (.fcls f) := of_fields rfl (fun _ => rfl)
theorem fsts (f : Fields) : Statement (.fsts f) := of_fields rfl (fun _ => rfl)
theorem frnd (f : Fields) : Statement (.frnd f) := of_fields rfl (fun _ => rfl)
theorem cvt (f : Fields) : Statement (.cvt f) := of_fields rfl (fun _ => rfl)
theorem dq (f : Fields) : Statement (.dq f) := of_fields rfl (fun _ => rfl)
theorem qnt (f : Fields) : Statement (.qnt f) := of_fields rfl (fun _ => rfl)
theorem scl (f : Fields) : Statement (.scl f) := of_fields rfl (fun _ => rfl)
theorem lscan (f : Fields) : Statement (.lscan f) := of_fields rfl (fun _ => rfl)
theorem dot (f : Fields) : Statement (.dot f) := of_fields rfl (fun _ => rfl)
theorem mma (f : Fields) : Statement (.mma f) := of_fields rfl (fun _ => rfl)
theorem mmag (f : Fields) : Statement (.mmag f) := of_fields rfl (fun _ => rfl)
theorem bmm (f : Fields) : Statement (.bmm f) := of_fields rfl (fun _ => rfl)
theorem tpq (f : Fields) : Statement (.tpq f) := of_fields rfl (fun _ => rfl)
theorem tpqr (f : Fields) : Statement (.tpqr f) := of_fields rfl (fun _ => rfl)
theorem accrd (f : Fields) : Statement (.accrd f) := of_fields rfl (fun _ => rfl)
theorem accz (f : Fields) : Statement (.accz f) := of_fields rfl (fun _ => rfl)
theorem wsel (f : Fields) : Statement (.wsel f) := of_fields rfl (fun _ => rfl)
theorem rld (f : Fields) : Statement (.rld f) := of_fields rfl (fun _ => rfl)
theorem rst (f : Fields) : Statement (.rst f) := of_fields rfl (fun _ => rfl)
theorem sld (f : Fields) : Statement (.sld f) := of_fields rfl (fun _ => rfl)
theorem sst (f : Fields) : Statement (.sst f) := of_fields rfl (fun _ => rfl)
theorem sldv (f : Fields) : Statement (.sldv f) := of_fields rfl (fun _ => rfl)
theorem sstv (f : Fields) : Statement (.sstv f) := of_fields rfl (fun _ => rfl)
theorem satm (f : Fields) : Statement (.satm f) := of_fields rfl (fun _ => rfl)
theorem nest (f : Fields) : Statement (.nest f) := of_fields rfl (fun _ => rfl)
theorem nstr (f : Fields) : Statement (.nstr f) := of_fields rfl (fun _ => rfl)
theorem gen (f : Fields) : Statement (.gen f) := of_fields rfl (fun _ => rfl)
theorem tld (f : Fields) : Statement (.tld f) := of_fields rfl (fun _ => rfl)
theorem tst (f : Fields) : Statement (.tst f) := of_fields rfl (fun _ => rfl)
theorem tlda (f : Fields) : Statement (.tlda f) := of_fields rfl (fun _ => rfl)
theorem tsts (f : Fields) : Statement (.tsts f) := of_fields rfl (fun _ => rfl)
theorem pref (f : Fields) : Statement (.pref f) := of_fields rfl (fun _ => rfl)
theorem hbind (f : Fields) : Statement (.hbind f) := of_fields rfl (fun _ => rfl)
theorem pgsz (f : Fields) : Statement (.pgsz f) := of_fields rfl (fun _ => rfl)
theorem atom (f : Fields) : Statement (.atom f) := of_fields rfl (fun _ => rfl)
theorem cas (f : Fields) : Statement (.cas f) := of_fields rfl (fun _ => rfl)
theorem phase (f : Fields) : Statement (.phase f) := of_fields rfl (fun _ => rfl)
theorem fence (f : Fields) : Statement (.fence f) := of_fields rfl (fun _ => rfl)
theorem rcfnc (f : Fields) : Statement (.rcfnc f) := of_fields rfl (fun _ => rfl)
theorem ldaq (f : Fields) : Statement (.ldaq f) := of_fields rfl (fun _ => rfl)
theorem strl (f : Fields) : Statement (.strl f) := of_fields rfl (fun _ => rfl)
theorem qpsh (f : Fields) : Statement (.qpsh f) := of_fields rfl (fun _ => rfl)
theorem qpop (f : Fields) : Statement (.qpop f) := of_fields rfl (fun _ => rfl)
theorem qwt (f : Fields) : Statement (.qwt f) := of_fields rfl (fun _ => rfl)
theorem cpy (f : Fields) : Statement (.cpy f) := of_fields rfl (fun _ => rfl)
theorem gth (f : Fields) : Statement (.gth f) := of_fields rfl (fun _ => rfl)
theorem coll (f : Fields) : Statement (.coll f) := of_fields rfl (fun _ => rfl)
theorem cwt (f : Fields) : Statement (.cwt f) := of_fields rfl (fun _ => rfl)
theorem ctst (f : Fields) : Statement (.ctst f) := of_fields rfl (fun _ => rfl)
theorem clkr (f : Fields) : Statement (.clkr f) := of_fields rfl (fun _ => rfl)
theorem stmp (f : Fields) : Statement (.stmp f) := of_fields rfl (fun _ => rfl)
theorem cmtw (f : Fields) : Statement (.cmtw f) := of_fields rfl (fun _ => rfl)
theorem tick (f : Fields) : Statement (.tick f) := of_fields rfl (fun _ => rfl)
theorem ivlm (f : Fields) : Statement (.ivlm f) := of_fields rfl (fun _ => rfl)
theorem tacf (f : Fields) : Statement (.tacf f) := of_fields rfl (fun _ => rfl)
theorem tafd (f : Fields) : Statement (.tafd f) := of_fields rfl (fun _ => rfl)
theorem tamk (f : Fields) : Statement (.tamk f) := of_fields rfl (fun _ => rfl)
theorem talv (f : Fields) : Statement (.talv f) := of_fields rfl (fun _ => rfl)
theorem tach (f : Fields) : Statement (.tach f) := of_fields rfl (fun _ => rfl)
theorem tntt (f : Fields) : Statement (.tntt f) := of_fields rfl (fun _ => rfl)
theorem tntc (f : Fields) : Statement (.tntc f) := of_fields rfl (fun _ => rfl)
theorem pzt (f : Fields) : Statement (.pzt f) := of_fields rfl (fun _ => rfl)
theorem snap (f : Fields) : Statement (.snap f) := of_fields rfl (fun _ => rfl)
theorem conf (f : Fields) : Statement (.conf f) := of_fields rfl (fun _ => rfl)
theorem confr (f : Fields) : Statement (.confr f) := of_fields rfl (fun _ => rfl)
theorem trap (f : Fields) : Statement (.trap f) := of_fields rfl (fun _ => rfl)
theorem eret (f : Fields) : Statement (.eret f) := of_fields rfl (fun _ => rfl)
theorem sysr (f : Fields) : Statement (.sysr f) := of_fields rfl (fun _ => rfl)
theorem sysw (f : Fields) : Statement (.sysw f) := of_fields rfl (fun h => by simp_all [Instr.wf, instrOf])
theorem icacheFlush (f : Fields) : Statement (.icacheFlush f) := of_fields rfl (fun h => by simp_all [Instr.wf, instrOf])
theorem heartbeatWrite (f : Fields) : Statement (.heartbeatWrite f) := of_fields rfl (fun h => by simp_all [Instr.wf, instrOf])
theorem idle (f : Fields) : Statement (.idle f) := of_fields rfl (fun _ => rfl)
theorem evrd (f : Fields) : Statement (.evrd f) := of_fields rfl (fun _ => rfl)
theorem ldp (f : Fields) : Statement (.ldp f) := of_fields rfl (fun _ => rfl)
theorem stp (f : Fields) : Statement (.stp f) := of_fields rfl (fun _ => rfl)
theorem bkpt (f : Fields) : Statement (.bkpt f) := of_fields rfl (fun _ => rfl)
theorem halt (f : Fields) : Statement (.halt f) := of_fields rfl (fun _ => rfl)
theorem fjmp (f : Fields) : Statement (.fjmp f) := of_fields rfl (fun _ => rfl)
theorem fcall (f : Fields) : Statement (.fcall f) := of_fields rfl (fun _ => rfl)
theorem fret (f : Fields) : Statement (.fret f) := of_fields rfl (fun _ => rfl)
theorem xtrap (f : Fields) : Statement (.xtrap f) := of_fields rfl (fun _ => rfl)
theorem firingStart (u : Nat) : Statement (.firingStart u) := of_none rfl
theorem channelWordArrive (u ch : Nat) : Statement (.channelWordArrive u ch) := of_none rfl
theorem creditReturn (src : ChanEnd) : Statement (.creditReturn src) := of_none rfl
theorem drainAction (u : Nat) : Statement (.drainAction u) := of_none rfl
theorem switchAction (u : Nat) : Statement (.switchAction u) := of_none rfl
theorem armAction (u : Nat) : Statement (.armAction u) := of_none rfl
theorem loadResponse (u p : Nat) : Statement (.loadResponse u p) := of_none rfl
theorem storeAccept (a : UnitId) : Statement (.storeAccept a) := of_none rfl
theorem stampedStoreArrive (u : Nat) : Statement (.stampedStoreArrive u) := of_none rfl
theorem stampedStoreDry (die : Nat) : Statement (.stampedStoreDry die) := of_none rfl
theorem tldaHomeServe (u p : Nat) : Statement (.tldaHomeServe u p) := of_none rfl
theorem engineOpComplete (a : UnitId) (co : Nat) : Statement (.engineOpComplete a co) := of_none rfl
theorem engineOpStop (a : UnitId) (co : Nat) : Statement (.engineOpStop a co) := of_none rfl
theorem engineOpFail (a : UnitId) (co : Nat) : Statement (.engineOpFail a co) := of_none rfl
theorem raResultReady (u : Nat) : Statement (.raResultReady u) := of_none rfl
theorem recqBroadcast (u m : Nat) : Statement (.recqBroadcast u m) := of_none rfl
theorem recqDeal (u : Nat) : Statement (.recqDeal u) := of_none rfl
theorem recqPublishPair (u : Nat) : Statement (.recqPublishPair u) := of_none rfl
theorem recqEoi (u : Nat) : Statement (.recqEoi u) := of_none rfl
theorem recqDrainFeed (u : Nat) : Statement (.recqDrainFeed u) := of_none rfl
theorem recqDrainOut (u : Nat) : Statement (.recqDrainOut u) := of_none rfl
theorem seedAdmit (rgn g : Nat) : Statement (.seedAdmit rgn g) := of_none rfl
theorem outputGateWord (rgn g : Nat) : Statement (.outputGateWord rgn g) := of_none rfl
theorem bridgeFlitReceive (die br : Nat) (flit : BitVec 640) : Statement (.bridgeFlitReceive die br flit) := of_none rfl
theorem linkRetrain (die br : Nat) : Statement (.linkRetrain die br) := of_none rfl
theorem beaconSend (die : Nat) : Statement (.beaconSend die) := of_none rfl
theorem beaconReceive (die br : Nat) : Statement (.beaconReceive die br) := of_none rfl
theorem beaconHoldTimeout (die : Nat) : Statement (.beaconHoldTimeout die) := of_none rfl
theorem ptpSync (now unc : Nat) : Statement (.ptpSync now unc) := of_none rfl
theorem ptpLockTimeout : Statement (.ptpLockTimeout) := of_none rfl
theorem firingWatchdog (u : Nat) : Statement (.firingWatchdog u) := of_none rfl
theorem launchWatchdog (rgn : Nat) : Statement (.launchWatchdog rgn) := of_none rfl
theorem snapMarkerArrive (dst : ChanEnd) : Statement (.snapMarkerArrive dst) := of_none rfl
theorem snapshotRecord (u : Nat) : Statement (.snapshotRecord u) := of_none rfl
theorem restartableStopTimeout (u : Nat) : Statement (.restartableStopTimeout u) := of_none rfl
theorem doorbellWrite (q : Nat) (data : BitVec 64) : Statement (.doorbellWrite q data) := of_none rfl
theorem queueMap (q addr : Nat) : Statement (.queueMap q addr) := of_none rfl
theorem queueUnmap (q : Nat) : Statement (.queueUnmap q) := of_none rfl
theorem packetLaunch (q : Nat) : Statement (.packetLaunch q) := of_none rfl
theorem packetRegister (q : Nat) : Statement (.packetRegister q) := of_none rfl
theorem packetUnregister (q : Nat) : Statement (.packetUnregister q) := of_none rfl
theorem packetReleaseKept (q : Nat) : Statement (.packetReleaseKept q) := of_none rfl
theorem regionGrant : Statement (.regionGrant) := of_none rfl
theorem configurationCompleteWave (rgn : Nat) : Statement (.configurationCompleteWave rgn) := of_none rfl
theorem gatesOpen (rgn : Nat) : Statement (.gatesOpen rgn) := of_none rfl
theorem launchComplete (rgn : Nat) : Statement (.launchComplete rgn) := of_none rfl
theorem hostMemoryWrite (link addr : Nat) (bytes : List Byte) : Statement (.hostMemoryWrite link addr bytes) := of_none rfl
theorem hostMemoryRead (link addr size : Nat) : Statement (.hostMemoryRead link addr size) := of_none rfl
theorem migrationRequest (ctx addr : Nat) : Statement (.migrationRequest ctx addr) := of_none rfl
theorem priResponse (src tile : Nat) (addr : Nat) (grant : Bool) : Statement (.priResponse src tile addr grant) := of_none rfl
theorem regionResume (rgn : Nat) : Statement (.regionResume rgn) := of_none rfl
theorem regionHaltCmd (rgn : Nat) : Statement (.regionHaltCmd rgn) := of_none rfl
theorem regionReset (rgn : Nat) : Statement (.regionReset rgn) := of_none rfl
theorem resetStepTimeout (rgn : Nat) : Statement (.resetStepTimeout rgn) := of_none rfl
theorem regionBlot (rgn : Nat) : Statement (.regionBlot rgn) := of_none rfl
theorem blotComplete (rgn : Nat) : Statement (.blotComplete rgn) := of_none rfl
theorem regionRelease (rgn : Nat) : Statement (.regionRelease rgn) := of_none rfl
theorem tileInvalidate (die : Nat) : Statement (.tileInvalidate die) := of_none rfl
theorem tileInvalidateDone (die : Nat) : Statement (.tileInvalidateDone die) := of_none rfl
theorem registerWrite (addr size : Nat) (data : BitVec 64) : Statement (.registerWrite addr size data) := of_none rfl
theorem heartbeatMissed (core : Nat) : Statement (.heartbeatMissed core) := of_none rfl
theorem lockstepMismatch : Statement (.lockstepMismatch) := of_none rfl
theorem firmwareUpdateRequest (addr len : Nat) : Statement (.firmwareUpdateRequest addr len) := of_none rfl
theorem firmwareCommit : Statement (.firmwareCommit) := of_none rfl
theorem spdmGetMeasurements (link : Nat) : Statement (.spdmGetMeasurements link) := of_none rfl
theorem spdmChallenge (link : Nat) (nonce : BitVec 256) : Statement (.spdmChallenge link nonce) := of_none rfl
theorem undervoltWindow (die folio errs : Nat) : Statement (.undervoltWindow die folio errs) := of_none rfl
theorem l2WayGating (die folio way : Nat) (fewerWays : Bool) (missesPerMi : Nat) :
    Statement (.l2WayGating die folio way fewerWays missesPerMi) := of_none rfl
theorem moduleReset : Statement (.moduleReset) := of_none rfl
theorem intervalDriftTooWide (die : Nat) : Statement (.intervalDriftTooWide die) := of_none rfl
theorem rdcSectorEviction (die i : Nat) : Statement (.rdcSectorEviction die i) := of_none rfl
theorem regionEviction (rgn : Nat) : Statement (.regionEviction rgn) := of_none rfl
theorem boostLeaseGrant (rgn lid lvl time : Nat) : Statement (.boostLeaseGrant rgn lid lvl time) := of_none rfl
theorem boostLeaseExpiry (ctx : Nat) : Statement (.boostLeaseExpiry ctx) := of_none rfl
theorem hostLinkDown (link : Nat) (down : Bool) : Statement (.hostLinkDown link down) := of_none rfl

end Laws.Shape

end Sys2Proof
end

