-- ==== Sys2Proof/Laws/Time.lean ====
section
/-! SUPPORT. What the opening of gates and the completion of launches leave as they were: the clocks, the time, the stamped stores on their
way. -/
namespace Sys2Proof.Machine

/-- Two states with the same clocks, time and stamped stores on their way. -/
def SameTime (s t : State) : Prop := t.dies = s.dies ∧ t.now = s.now ∧ t.wet = s.wet

theorem SameTime.refl (s : State) : SameTime s s := ⟨rfl, rfl, rfl⟩

theorem SameTime.trans {a b c : State} (h : SameTime a b) (k : SameTime b c) : SameTime a c :=
  ⟨k.1.trans h.1, k.2.1.trans h.2.1, k.2.2.trans h.2.2⟩

theorem foldl_sameTime {α : Type} (g : State → α → State) (h : ∀ s a, SameTime s (g s a)) (l : List α) (s : State) :
    SameTime s (l.foldl g s) := by
  induction l generalizing s with
  | nil => exact SameTime.refl s
  | cons a r ih => exact (h s a).trans (ih _)

theorem supersede_sameTime (s : State) (p : PStore) : SameTime s (supersede s p) := by
  unfold supersede; extract_lets hit t; split <;> exact ⟨rfl, rfl, rfl⟩

theorem landBytes_sameTime (s : State) (a : Nat) (d m : BitVec 512) : SameTime s (landBytes s a d m) := by
  simp only [SameTime, landBytes, and_self]

theorem dropCopies_sameTime (s : State) (die : Option Nat) (a : Nat) : SameTime s (dropCopies s die a) := by
  cases die <;> exact ⟨rfl, rfl, rfl⟩

theorem cureGran_sameTime (s : State) (a : Nat) : SameTime s (cureGran s a) := by
  exact ⟨rfl, rfl, rfl⟩

theorem granBits_sameTime (s : State) (a : Nat) (w p t : Bool) : SameTime s (granBits s a w p t) := by
  unfold granBits; extract_lets g
  split
  · exact SameTime.refl s
  · split
    · rename_i u _ _
      have h : SameTime s u := ⟨rfl, rfl, rfl⟩
      split
      · exact h.trans (cureGran_sameTime _ _)
      · exact h
    · exact ⟨rfl, rfl, rfl⟩

theorem landStore_sameTime (s : State) (die : Option Nat) (p : PStore) : SameTime s (landStore s die p) := by
  have h : SameTime s (landBytes (supersede s p) p.base p.data p.mask) := (supersede_sameTime s p).trans (landBytes_sameTime _ _ _ _)
  unfold landStore
  split
  · exact (h.trans (granBits_sameTime _ _ _ _ _)).trans (dropCopies_sameTime _ _ _)
  · exact h.trans (dropCopies_sameTime _ _ _)

theorem devStore_sameTime (s : State) (a : Nat) (l : List Byte) : SameTime s (devStore s a l) := by
  unfold devStore
  split
  · exact foldl_sameTime _ (fun s i => landStore_sameTime _ _ _) _ s
  · exact ⟨rfl, rfl, rfl⟩

theorem deliverEvent_sameTime (s : State) (k : Nat) (e : BitVec 256) : SameTime s (deliverEvent s k e) := by
  unfold deliverEvent; split
  · exact SameTime.refl s
  · split <;> exact ⟨rfl, rfl, rfl⟩

theorem postEvent_sameTime (s : State) (k a b : Nat) : SameTime s (postEvent s k a b) :=
  SameTime.trans (b := { s with evseq := _ }) ⟨rfl, rfl, rfl⟩ (deliverEvent_sameTime _ _ _)

theorem noteSeq_sameTime (s : State) (q ep n : Nat) : SameTime s (noteSeq s q ep n) := by
  unfold noteSeq; extract_lets x
  split
  · exact SameTime.refl s
  · split
    · exact ⟨rfl, rfl, rfl⟩
    · split
      · exact devStore_sameTime _ _ _
      · exact SameTime.refl s

theorem interrupt_sameTime (s : State) (q : Nat) (p : BitVec 1536) : SameTime s (interrupt s q p) := by
  unfold interrupt; split <;> exact ⟨rfl, rfl, rfl⟩

theorem finishPacket_sameTime (s : State) (q : Nat) (p : BitVec 1536) (c : Compl) : SameTime s (finishPacket s q p c) :=
  (devStore_sameTime s _ _).trans (interrupt_sameTime _ _ _)

theorem settleDrops_sameTime (s : State) : SameTime s (settleDrops s) := by
  refine foldl_sameTime _ (fun s c => ?_) _ s
  split
  · split
    · exact SameTime.refl s
    · exact SameTime.trans (b := { s with configs := _ }) ⟨rfl, rfl, rfl⟩ (finishPacket_sameTime _ _ _ _)
  · exact SameTime.refl s

theorem closeLaunch_sameTime (s : State) (l : Launch) (c : Compl) : SameTime s (closeLaunch s l c) := by
  refine SameTime.trans ?_ (settleDrops_sameTime _)
  refine SameTime.trans ?_ (interrupt_sameTime _ _ _)
  refine SameTime.trans ?_ (postEvent_sameTime _ _ _ _)
  have h : SameTime s (noteSeq (writeRecord s l.pkt c) l.q l.ep l.seq) := (devStore_sameTime _ _ _).trans (noteSeq_sameTime _ _ _ _)
  exact h.trans ⟨rfl, rfl, rfl⟩

theorem markReady_sameTime (n : Nat) (s : State) : SameTime s (markReady n s) := by
  induction n generalizing s with
  | zero => exact SameTime.refl s
  | succ n ih =>
    unfold markReady; dsimp only
    split
    · exact (closeLaunch_sameTime _ _ _).trans (ih _)
    · split <;> exact ⟨rfl, rfl, rfl⟩

theorem refreshReady_sameTime (s : State) : SameTime s (refreshReady s) := by
  unfold refreshReady; dsimp only
  split
  · exact markReady_sameTime _ _
  · exact ((markReady_sameTime _ _).trans (foldl_sameTime _ (fun s x => closeLaunch_sameTime _ _ _) _ _)).trans (markReady_sameTime _ _)

theorem openGates_sameTime (s : State) (r now : Nat) (d : Die) : SameTime s (openGates s r now d) := by
  unfold openGates; dsimp only
  refine SameTime.trans ?_ (refreshReady_sameTime _)
  split <;> exact ⟨rfl, rfl, rfl⟩

/-- Gates that open leave the clocks, the time and the stamped stores on their way as they are. -/

theorem gatesPass_sameTime (now ns : Nat) (d : Die) (s : State) : SameTime s (gatesPass now ns d s) := by
  refine foldl_sameTime _ (fun s p => ?_) _ s
  split
  · exact SameTime.trans (b := rdcRegion s p.1) ⟨rfl, rfl, rfl⟩ (openGates_sameTime _ _ _ _)
  · exact SameTime.refl s

/-- Where no region's gates wait for a tick, nothing happens. -/

theorem gatesPass_idle {now ns : Nat} {d : Die} {s : State} (h : ∀ p ∈ s.regions, p.2.waits = false) : gatesPass now ns d s = s := by
  have : s.regions.filter (fun p => p.2.waits) = [] := List.filter_eq_nil_iff.2 (fun p hp => by simp [h p hp])
  simp [gatesPass, this]

end Sys2Proof.Machine
end

