-- ==== Sys2Proof/Tests/Slice0.lean ====
section
/-! SUPPORT. Tests: the checks of WellFormed, decoding against words written out from the spec's encoding, worked values of the
spec, and for every statement that has hypotheses states and operands that meet them, clause by clause. -/
namespace Sys2Proof.Tests

set_option Elab.async false

open Sys2Proof.Machine Sys2Proof.Claim

-- Small states ---------------------------------------------------------------------------------------------------------------

/-- A data word with `x` in lane 0. -/
def word (x : Nat) : CWord := { CWord.zero with pay := Payload.ofList [BitVec.ofNat 32 x] }

/-- A control word of a kind and an argument (R20). -/
def ctl (k x : Nat) : CWord := { CWord.zero with pay := Payload.ofList [BitVec.ofNat 32 k, BitVec.ofNat 32 x], ls := true }

/-- An untyped input of capacity 4 with words in it, fed by output 0 of element 9 (R66). -/
def inp (l : List CWord) : InChan := { InChan.unbound with ent := 0x800C0000, q := l, src := .el 9 0 }

/-- An output of capacity 4 with free slots, feeding input 0 of element 8 (R67). -/
def outp (n : Nat) : OutChan := { OutChan.unbound with ent := 0x800C0000, free := n, dst := .el 8 0 }

/-- An element of a class with a firing in progress: words 5 and 6 on input 0, an `eoi` on input 1, outputs 0 and 1 free,
scalars 2 to 7 in s2 to s7. -/
def el (c : Cls) : Elem :=
  { Elem.blank c with
    busy := true
    s := Vector.ofFn (fun i : Fin 64 => if 2 ≤ i.val ∧ i.val ≤ 7 then { Reg.zero with pay := Payload.ofList [BitVec.ofNat 32 i.val] } else Reg.zero)
    ins := ((Vector.replicate 32 InChan.unbound).set 0 (inp [word 5, word 6])).set 1 (inp [ctl 3 0])
    outs := ((Vector.replicate 16 OutChan.unbound).set 0 (outp 4)).set 1 (outp 4)
    body := [0, 0, 0, 0] }

/-- The module with one element, which is current. -/
def on (e : Elem) : State := { State.reset with elems := [e], cur := .el 0 }

/-- The module with core 2 in a given state, and current. -/
def onCore (e : Elem) : State := { State.reset with cores := State.reset.cores.set 2 e, cur := .fc 2 }

/-- Core 2, with scalars 2 to 7 in s2 to s7. -/
def core : Elem := { coreReset 2 with s := (el .ve).s }

/-- A word of a core's cache, of three bytes that are pads. -/
def codeWord (a : Nat) : CacheWord := { addr := a, len := 3, seg := a, next := a + 3, word := 0, bytes := [0, 0, 0] }

/-- Operands d s1, a s2, b s3, c s4. -/
def fld (v : BitVec 4) (t : BitVec 4) : Fields := { Fields.initial with var := v, ty := t, d := 1, a := 2, b := 3, c := 4 }

/-- A tensor of 64 INT32 elements in one tile of 64 KiB. -/
def shape : BitVec 1536 := BitVec.ofNat 1536 (fieldsNat [(1216, 0x1000), (1024, 1), (928, 64), (736, 64), (656, 0x3F80), (5, 1), (0, 1)])

/-- A port bound to that tensor in a space, with one word in its store queue. -/
def port (spc : Nat) : Port :=
  { Port.unbound with
    bind := bindReg 0 0 true, hent := BitVec.ofNat 256 (fieldsNat [(160, 4), (149, 1), (145, spc)]), srec := shape, tile := some 0,
    sq := [word 7] }

/-- An AG whose four ports are bound to that tensor. -/
def agent (spc : Nat) : Elem := { el .ag with ag := { AgPart.empty with ports := Vector.replicate 4 (port spc) } }

/-- Die 0 with the interval from 1,000 to 2,000. -/
def die0 : Die := { Die.reset 0 with ear := 1000 * 20000, lat := 2000 * 20000, wide := false, lim := 5000 }

/-- A context record of some fields (R351). -/
def ctxRec (l : List (Nat × Nat)) : List Byte := littleBytes 64 (fieldsNat l)

/-- The frame of the tensor's tile, context 0 with a handle table of one valid entry, region 1, and die 0 with its interval. -/
def module (s : State) : State :=
  { s with
    tiles := [{ die := 0, folio := 0, ctx := 0, slot := 0, gen := 0, tile := 0, piece := none, ent := 0x20001 }]
    mem := memWrite (memWrite [] 0x2000 (littleBytes 32 (fieldsNat [(192, 0x3000), (160, 4), (149, 1)]))) s.ctxAt (ctxRec [(448, 0x2000)])
    regions := [(1, { Region.blank with stt := 2, folios := [(0, 0)] })]
    dies := [(0, die0), (32, { die0 with lock := true })] }

/-- A load of a granule that has not been answered. -/
def req0 : Req :=
  { addr := 0x20000, valid := 512, stamp := none, pz := false, tn := false, skip := false, before := 0, ctr := [0, 0, 0, 0, 0, 0],
    pol := 0, tcl := 0, home := false, ord := 0, via := none }

-- WellFormed --------------------------------------------------------------------------------------------------------------------------

/-- Operations that the checks refuse, and what they accept beside them (R216). -/
theorem test_wf_operations : (Instr.sysw { Fields.initial with imm := 0x020 }).wf = false ∧ (Instr.sysw { Fields.initial with imm := 0x021 }).wf = false
    ∧ (Instr.sysw { Fields.initial with imm := 0x010 }).wf = true ∧ (Instr.icacheFlush Fields.initial).wf = false
    ∧ (Instr.icacheFlush { Fields.initial with imm := 0x020 }).wf = true ∧ (Instr.heartbeatWrite { Fields.initial with imm := 0x020 }).wf = false
    ∧ (Instr.add Fields.initial).wf = true := by decide

/-- Units, channels and ports that the module does not have. -/
theorem test_wf_units : (UnitId.fc 1).wf = false ∧ (UnitId.fc 16).wf = false ∧ (UnitId.fc 15).wf = true ∧ (ChanEnd.el 0 32).wf = false
    ∧ (ChanEnd.gate 0 0).wf = false ∧ (ChanEnd.gate 65536 0).wf = false ∧ (ChanEnd.gate 65535 0).wf = true
    ∧ (Instr.channelWordArrive 0 32).wf = false ∧ (Instr.creditReturn (.el 0 32)).wf = false ∧ (Instr.snapMarkerArrive (.gate 0 0)).wf = false
    ∧ (Instr.loadResponse 0 4).wf = false ∧ (Instr.tldaHomeServe 0 4).wf = false ∧ (Instr.storeAccept (.fc 1)).wf = false
    ∧ (Instr.engineOpComplete (.fc 1) 0).wf = false ∧ (Instr.engineOpStop (.el 0) 32).wf = false ∧ (Instr.engineOpFail (.el 0) 32).wf = false
    ∧ (Instr.recqBroadcast 0 8).wf = false ∧ (Instr.heartbeatMissed 1).wf = false := by decide

/-- Regions, dies, bridges, queues, contexts, links, folios and ways out of range. -/
theorem test_wf_places : (∀ i ∈ [Instr.seedAdmit 0 0, .outputGateWord 65536 0, .launchWatchdog 0, .configurationCompleteWave 0, .gatesOpen 0,
      .launchComplete 0, .regionResume 0, .regionHaltCmd 0, .regionReset 0, .resetStepTimeout 0, .regionBlot 0, .blotComplete 0, .regionRelease 0,
      .regionEviction 65536, .boostLeaseGrant 0 1 21 1, .boostLeaseGrant 1 1 20 1, .boostLeaseGrant 1 1 61 1, .stampedStoreDry 32,
      .bridgeFlitReceive 32 0 0, .bridgeFlitReceive 0 4 0, .linkRetrain 32 0, .beaconSend 33, .beaconReceive 0 4, .beaconHoldTimeout 33,
      .intervalDriftTooWide 33, .tileInvalidate 32, .tileInvalidateDone 32, .rdcSectorEviction 32 0, .undervoltWindow 0 144 0,
      .undervoltWindow 32 0 0, .l2WayGating 0 0 16 true 0, .doorbellWrite 4096 0, .queueMap 4096 0, .queueUnmap 4096, .packetLaunch 4096,
      .packetRegister 4096, .packetUnregister 4096, .packetReleaseKept 4096, .migrationRequest 4096 0, .priResponse 8192 0 0 true,
      .boostLeaseExpiry 4096, .hostMemoryWrite 2 0 [], .hostMemoryRead 2 0 0, .spdmGetMeasurements 2, .spdmChallenge 2 0, .hostLinkDown 2 true], i.wf = false)
    ∧ (Instr.boostLeaseGrant 1 1 60 1).wf = true ∧ (Instr.beaconSend 32).wf = true ∧ (Instr.doorbellWrite 4095 0).wf = true := by decide

-- Decoding (R43, R50, R60, R134) -------------------------------------------------------------------------------------------------------

/-- The fields that the words below hold: `var` 1, `ty` 2, `d` 3, `a` 4, `b` 5, `c` 6, waits 1, 2, 3, `ln` 1, `pm` 2, `imm` 7. -/
def fields : Fields := { var := 1, ty := 2, d := 3, a := 4, b := 5, c := 6, wa := 1, wb := 2, wd := 3, ln := 1, pm := 2, imm := 7 }

theorem test_decode_movement :
    decodeWord 0x0012_00C0401406_1236_000007 = some (.nop fields)
    ∧ decodeWord 0x0112_00C0401406_1236_000007 = some (.endFiring fields)
    ∧ decodeWord 0x0212_00C0401406_1236_000007 = some (.take fields)
    ∧ decodeWord 0x0312_00C0401406_1236_000007 = some (.give fields)
    ∧ decodeWord 0x0412_00C0401406_1236_000007 = some (.wait fields)
    ∧ decodeWord 0x0512_00C0401406_1236_000007 = some (.sbt fields)
    ∧ decodeWord 0x0612_00C0401406_1236_000007 = some (.ctlw fields)
    ∧ decodeWord 0x0712_00C0401406_1236_000007 = some (.cfwd fields)
    ∧ decodeWord 0x0812_00C0401406_1236_000007 = some (.cpeek fields)
    ∧ decodeWord 0x0A12_00C0401406_1236_000007 = some (.mskop fields)
    ∧ decodeWord 0x0B12_00C0401406_1236_000007 = some (.mskmv fields) := by
  decide +kernel

theorem test_decode_flow :
    decodeWord 0x1012_00C0401406_1236_000007 = some (.bra fields)
    ∧ decodeWord 0x1112_00C0401406_1236_000007 = some (.loop fields)
    ∧ decodeWord 0x1212_00C0401406_1236_000007 = some (.brk fields) := by
  decide +kernel

theorem test_decode_arithmetic :
    decodeWord 0x2012_00C0401406_1236_000007 = some (.add fields)
    ∧ decodeWord 0x2112_00C0401406_1236_000007 = some (.sub fields)
    ∧ decodeWord 0x2212_00C0401406_1236_000007 = some (.mul fields)
    ∧ decodeWord 0x2312_00C0401406_1236_000007 = some (.mulh fields)
    ∧ decodeWord 0x2412_00C0401406_1236_000007 = some (.mad fields)
    ∧ decodeWord 0x2512_00C0401406_1236_000007 = some (.div fields)
    ∧ decodeWord 0x2612_00C0401406_1236_000007 = some (.rem fields)
    ∧ decodeWord 0x2712_00C0401406_1236_000007 = some (.abs fields)
    ∧ decodeWord 0x2812_00C0401406_1236_000007 = some (.neg fields)
    ∧ decodeWord 0x2912_00C0401406_1236_000007 = some (.min fields)
    ∧ decodeWord 0x2A12_00C0401406_1236_000007 = some (.max fields)
    ∧ decodeWord 0x2B12_00C0401406_1236_000007 = some (.and fields)
    ∧ decodeWord 0x2C12_00C0401406_1236_000007 = some (.or fields)
    ∧ decodeWord 0x2D12_00C0401406_1236_000007 = some (.xor fields)
    ∧ decodeWord 0x2E12_00C0401406_1236_000007 = some (.andn fields) := by
  decide +kernel

theorem test_decode_bits :
    decodeWord 0x2F12_00C0401406_1236_000007 = some (.shl fields)
    ∧ decodeWord 0x3012_00C0401406_1236_000007 = some (.shr fields)
    ∧ decodeWord 0x3112_00C0401406_1236_000007 = some (.sar fields)
    ∧ decodeWord 0x3212_00C0401406_1236_000007 = some (.rot fields)
    ∧ decodeWord 0x3312_00C0401406_1236_000007 = some (.clz fields)
    ∧ decodeWord 0x3412_00C0401406_1236_000007 = some (.popc fields)
    ∧ decodeWord 0x3512_00C0401406_1236_000007 = some (.bfx fields)
    ∧ decodeWord 0x3612_00C0401406_1236_000007 = some (.bfi fields)
    ∧ decodeWord 0x3712_00C0401406_1236_000007 = some (.cmp fields)
    ∧ decodeWord 0x3812_00C0401406_1236_000007 = some (.sel fields)
    ∧ decodeWord 0x3912_00C0401406_1236_000007 = some (.mov fields)
    ∧ decodeWord 0x3A12_00C0401406_1236_000007 = some (.movi fields)
    ∧ decodeWord 0x3B12_00C0401406_1236_000007 = some (.pack fields)
    ∧ decodeWord 0x3C12_00C0401406_1236_000007 = some (.unpk fields)
    ∧ decodeWord 0x3D12_00C0401406_1236_000007 = some (.shuf fields)
    ∧ decodeWord 0x3E12_00C0401406_1236_000007 = some (.bcst fields)
    ∧ decodeWord 0x3F12_00C0401406_1236_000007 = some (.lred fields) := by
  decide +kernel

theorem test_decode_float :
    decodeWord 0x4012_00C0401406_1236_000007 = some (.fadd fields)
    ∧ decodeWord 0x4112_00C0401406_1236_000007 = some (.fsub fields)
    ∧ decodeWord 0x4212_00C0401406_1236_000007 = some (.fmul fields)
    ∧ decodeWord 0x4312_00C0401406_1236_000007 = some (.fma fields)
    ∧ decodeWord 0x4412_00C0401406_1236_000007 = some (.fmin fields)
    ∧ decodeWord 0x4512_00C0401406_1236_000007 = some (.fmax fields)
    ∧ decodeWord 0x4612_00C0401406_1236_000007 = some (.fabs fields)
    ∧ decodeWord 0x4712_00C0401406_1236_000007 = some (.fneg fields)
    ∧ decodeWord 0x4812_00C0401406_1236_000007 = some (.fcmp fields)
    ∧ decodeWord 0x4912_00C0401406_1236_000007 = some (.frcp fields)
    ∧ decodeWord 0x4A12_00C0401406_1236_000007 = some (.frsq fields)
    ∧ decodeWord 0x4B12_00C0401406_1236_000007 = some (.fex2 fields)
    ∧ decodeWord 0x4C12_00C0401406_1236_000007 = some (.flg2 fields)
    ∧ decodeWord 0x4D12_00C0401406_1236_000007 = some (.fcls fields)
    ∧ decodeWord 0x4E12_00C0401406_1236_000007 = some (.fsts fields)
    ∧ decodeWord 0x4F12_00C0401406_1236_000007 = some (.frnd fields) := by
  decide +kernel

theorem test_decode_conversion :
    decodeWord 0x5012_00C0401406_1236_000007 = some (.cvt fields)
    ∧ decodeWord 0x5112_00C0401406_1236_000007 = some (.dq fields)
    ∧ decodeWord 0x5212_00C0401406_1236_000007 = some (.qnt fields)
    ∧ decodeWord 0x5312_00C0401406_1236_000007 = some (.scl fields)
    ∧ decodeWord 0x5412_00C0401406_1236_000007 = some (.lscan fields) := by
  decide +kernel

theorem test_decode_tensor :
    decodeWord 0x6012_00C0401406_1236_000007 = some (.dot fields)
    ∧ decodeWord 0x6112_00C0401406_1236_000007 = some (.mma fields)
    ∧ decodeWord 0x6212_00C0401406_1236_000007 = some (.mmag fields)
    ∧ decodeWord 0x6312_00C0401406_1236_000007 = some (.bmm fields)
    ∧ decodeWord 0x6412_00C0401406_1236_000007 = some (.tpq fields)
    ∧ decodeWord 0x6512_00C0401406_1236_000007 = some (.tpqr fields)
    ∧ decodeWord 0x6612_00C0401406_1236_000007 = some (.accrd fields)
    ∧ decodeWord 0x6712_00C0401406_1236_000007 = some (.accz fields)
    ∧ decodeWord 0x6812_00C0401406_1236_000007 = some (.wsel fields) := by
  decide +kernel

theorem test_decode_local :
    decodeWord 0x7012_00C0401406_1236_000007 = some (.rld fields)
    ∧ decodeWord 0x7112_00C0401406_1236_000007 = some (.rst fields)
    ∧ decodeWord 0x7212_00C0401406_1236_000007 = some (.sld fields)
    ∧ decodeWord 0x7312_00C0401406_1236_000007 = some (.sst fields)
    ∧ decodeWord 0x7412_00C0401406_1236_000007 = some (.sldv fields)
    ∧ decodeWord 0x7512_00C0401406_1236_000007 = some (.sstv fields)
    ∧ decodeWord 0x7612_00C0401406_1236_000007 = some (.satm fields) := by
  decide +kernel

theorem test_decode_nest :
    decodeWord 0x8012_00C0401406_1236_000007 = some (.nest fields)
    ∧ decodeWord 0x8112_00C0401406_1236_000007 = some (.nstr fields)
    ∧ decodeWord 0x8212_00C0401406_1236_000007 = some (.gen fields)
    ∧ decodeWord 0x8312_00C0401406_1236_000007 = some (.tld fields)
    ∧ decodeWord 0x8412_00C0401406_1236_000007 = some (.tst fields)
    ∧ decodeWord 0x8512_00C0401406_1236_000007 = some (.tlda fields)
    ∧ decodeWord 0x8612_00C0401406_1236_000007 = some (.tsts fields)
    ∧ decodeWord 0x8712_00C0401406_1236_000007 = some (.pref fields)
    ∧ decodeWord 0x8812_00C0401406_1236_000007 = some (.hbind fields)
    ∧ decodeWord 0x8912_00C0401406_1236_000007 = some (.pgsz fields) := by
  decide +kernel

theorem test_decode_synchronising :
    decodeWord 0x9012_00C0401406_1236_000007 = some (.atom fields)
    ∧ decodeWord 0x9112_00C0401406_1236_000007 = some (.cas fields)
    ∧ decodeWord 0x9212_00C0401406_1236_000007 = some (.phase fields)
    ∧ decodeWord 0x9312_00C0401406_1236_000007 = some (.fence fields)
    ∧ decodeWord 0x9412_00C0401406_1236_000007 = some (.rcfnc fields)
    ∧ decodeWord 0x9512_00C0401406_1236_000007 = some (.ldaq fields)
    ∧ decodeWord 0x9612_00C0401406_1236_000007 = some (.strl fields)
    ∧ decodeWord 0xA012_00C0401406_1236_000007 = some (.qpsh fields)
    ∧ decodeWord 0xA112_00C0401406_1236_000007 = some (.qpop fields)
    ∧ decodeWord 0xA212_00C0401406_1236_000007 = some (.qwt fields) := by
  decide +kernel

theorem test_decode_engines :
    decodeWord 0xA312_00C0401406_1236_000007 = some (.cpy fields)
    ∧ decodeWord 0xA412_00C0401406_1236_000007 = some (.gth fields)
    ∧ decodeWord 0xA512_00C0401406_1236_000007 = some (.coll fields)
    ∧ decodeWord 0xA612_00C0401406_1236_000007 = some (.cwt fields)
    ∧ decodeWord 0xA712_00C0401406_1236_000007 = some (.ctst fields) := by
  decide +kernel

theorem test_decode_clock :
    decodeWord 0xB012_00C0401406_1236_000007 = some (.clkr fields)
    ∧ decodeWord 0xB112_00C0401406_1236_000007 = some (.stmp fields)
    ∧ decodeWord 0xB212_00C0401406_1236_000007 = some (.cmtw fields)
    ∧ decodeWord 0xB312_00C0401406_1236_000007 = some (.tick fields)
    ∧ decodeWord 0xB412_00C0401406_1236_000007 = some (.ivlm fields) := by
  decide +kernel

theorem test_decode_ruling :
    decodeWord 0xC012_00C0401406_1236_000007 = some (.tacf fields)
    ∧ decodeWord 0xC112_00C0401406_1236_000007 = some (.tafd fields)
    ∧ decodeWord 0xC212_00C0401406_1236_000007 = some (.tamk fields)
    ∧ decodeWord 0xC312_00C0401406_1236_000007 = some (.talv fields)
    ∧ decodeWord 0xC412_00C0401406_1236_000007 = some (.tach fields) := by
  decide +kernel

theorem test_decode_taint :
    decodeWord 0xD012_00C0401406_1236_000007 = some (.tntt fields)
    ∧ decodeWord 0xD112_00C0401406_1236_000007 = some (.tntc fields)
    ∧ decodeWord 0xD212_00C0401406_1236_000007 = some (.pzt fields)
    ∧ decodeWord 0xD312_00C0401406_1236_000007 = some (.snap fields)
    ∧ decodeWord 0xD412_00C0401406_1236_000007 = some (.conf fields)
    ∧ decodeWord 0xD512_00C0401406_1236_000007 = some (.confr fields) := by
  decide +kernel

theorem test_decode_system :
    decodeWord 0xE012_00C0401406_1236_000007 = some (.trap fields)
    ∧ decodeWord 0xE112_00C0401406_1236_000007 = some (.eret fields)
    ∧ decodeWord 0xE212_00C0401406_1236_000007 = some (.sysr fields)
    ∧ decodeWord 0xE312_00C0401406_1236_000007 = some (.sysw fields)
    ∧ decodeWord 0xE312_00C0401406_1236_000020 = some (.icacheFlush { fields with imm := 0x20 })
    ∧ decodeWord 0xE312_00C0401406_1236_000021 = some (.heartbeatWrite { fields with imm := 0x21 })
    ∧ decodeWord 0xE412_00C0401406_1236_000007 = some (.idle fields)
    ∧ decodeWord 0xE512_00C0401406_1236_000007 = some (.evrd fields)
    ∧ decodeWord 0xE612_00C0401406_1236_000007 = some (.ldp fields)
    ∧ decodeWord 0xE712_00C0401406_1236_000007 = some (.stp fields)
    ∧ decodeWord 0xE812_00C0401406_1236_000007 = some (.bkpt fields)
    ∧ decodeWord 0xE912_00C0401406_1236_000007 = some (.halt fields)
    ∧ decodeWord 0xEA12_00C0401406_1236_000007 = some (.fjmp fields)
    ∧ decodeWord 0xEB12_00C0401406_1236_000007 = some (.fcall fields)
    ∧ decodeWord 0xEC12_00C0401406_1236_000007 = some (.fret fields)
    ∧ decodeWord 0xFF12_00C0401406_1236_000007 = some (.xtrap fields) := by
  decide +kernel

/-- The op numbers of R60 that name nothing. -/
theorem test_decode_unassigned : (decodeWord (0x09 <<< 88)).isNone = true ∧ (decodeWord (0x0C <<< 88)).isNone = true ∧ (decodeWord (0x13 <<< 88)).isNone = true
    ∧ (decodeWord (0x77 <<< 88)).isNone = true ∧ (decodeWord (0xED <<< 88)).isNone = true ∧ (decodeWord (0xFE <<< 88)).isNone = true := by decide +kernel

/-- The example of R134: the IMM form that sets the type scale of x2 to 0x3DCC. -/
theorem test_decode_imm : decodeBytes [0x45, 0x30, 0x03, 0xA8, 0x00, 0xF7, 0x30] = some (.scl { Fields.initial with d := 0x0EA, imm := 0x3DCC }, 7) := by
  decide +kernel

/-- The bits of a table row count from the first byte: a SHORT `mov`, and a pad byte. -/
theorem test_decode_table : decodeTableWord 32 0x03009C13 = some (.mov { Fields.initial with d := 0x300, a := 0x003 })
    ∧ decodeTableWord 8 0 = none := by decide +kernel

-- Worked values of the spec -----------------------------------------------------------------------------------------------------------

/-- A VE with lane lists in s2, s3 and s4, and a type scale in x1. -/
def with3 (x y z : List Nat) (ts : BitVec 16) : Elem :=
  let r (l : List Nat) : Reg := { Reg.zero with pay := Payload.ofList (l.map (BitVec.ofNat 32)) }
  { el .ve with
    s := (((el .ve).s.set 2 (r x)).set 3 (r y)).set 4 (r z)
    x := (el .ve).x.set 1 { ts := ts, pz := false, tn := false } }

/-- The element after an instruction. -/
def after (i : Instr) (e : Elem) : Elem :=
  match exec i (on e) with
  | .next t => (t.elems[0]?).getD e
  | _ => e

/-- Lane `n` of s1 after an instruction. -/
def got (i : Instr) (e : Elem) (n : Nat) : Nat := (((after i e).s[1]).pay.lane n).toNat

/-- Lane 0 of s1 after an instruction on two values in s2 and s3. -/
def on2 (i : Instr) (x y : Nat) : Nat := got i (with3 [x] [y] [] 0) 0

/-- R107's table: quotients and remainders. -/
theorem test_div : on2 (.div (fld 0 1)) 7 0xFFFFFFFE = 0xFFFFFFFD ∧ on2 (.div (fld 0 1)) 0xFFFFFFF9 2 = 0xFFFFFFFD
    ∧ on2 (.div (fld 1 1)) 0xFFFFFFF9 2 = 0x7FFFFFFC ∧ on2 (.div (fld 0 1)) 12 0 = 0xFFFFFFFF
    ∧ on2 (.div (fld 0 1)) 0x80000000 0xFFFFFFFF = 0x80000000 := by decide +kernel

theorem test_rem : on2 (.rem (fld 0 1)) 7 0xFFFFFFFE = 1 ∧ on2 (.rem (fld 0 1)) 0xFFFFFFF9 2 = 0xFFFFFFFF
    ∧ on2 (.rem (fld 1 1)) 0xFFFFFFF9 2 = 1 ∧ on2 (.rem (fld 0 1)) 12 0 = 12 ∧ on2 (.rem (fld 0 1)) 0x80000000 0xFFFFFFFF = 0 := by
  decide +kernel

/-- R107's table: products, sums and magnitudes. -/
theorem test_mulh : on2 (.mulh (fld 0 1)) 0xFFFFFFFF 0xFFFFFFFF = 0 ∧ on2 (.mulh (fld 1 1)) 0xFFFFFFFF 0xFFFFFFFF = 0xFFFFFFFE := by decide +kernel

theorem test_add : on2 (.add (fld 0 4)) 100 100 = 200 ∧ on2 (.add (fld 1 4)) 100 100 = 127 := by decide +kernel

theorem test_abs : on2 (.abs (fld 0 1)) 0x80000000 0 = 0x80000000 ∧ on2 (.abs (fld 1 1)) 0x80000000 0 = 0x7FFFFFFF := by decide +kernel

/-- R106: a subtraction that wraps, products low and exact. -/
theorem test_sub : on2 (.sub (fld 0 1)) 5 6 = 0xFFFFFFFF ∧ on2 (.sub (fld 1 2)) 5 6 = 0 := by decide +kernel

theorem test_mul : on2 (.mul (fld 0 1)) 0x10000 0x10000 = 0 ∧ on2 (.mul (fld 1 1)) 0x10000 0x10000 = 0x7FFFFFFF := by decide +kernel

theorem test_mad : got (.mad (fld 1 1)) (with3 [0x10000] [0x10000] [0xFFFFFFFF] 0) 0 = 0x7FFFFFFF
    ∧ got (.mad (fld 0 1)) (with3 [3] [5] [7] 0) 0 = 22 := by decide +kernel

theorem test_neg : on2 (.neg (fld 1 2)) 5 0 = 0 ∧ on2 (.neg (fld 0 1)) 5 0 = 0xFFFFFFFB := by decide +kernel

theorem test_min_max : on2 (.min (fld 0 1)) 0xFFFFFFFF 1 = 0xFFFFFFFF ∧ on2 (.min (fld 1 1)) 0xFFFFFFFF 1 = 1
    ∧ on2 (.max (fld 0 1)) 0xFFFFFFFF 1 = 1 ∧ on2 (.max (fld 1 1)) 0xFFFFFFFF 1 = 0xFFFFFFFF := by decide +kernel

theorem test_bitwise : on2 (.and (fld 0 5)) 12 10 = 8 ∧ on2 (.or (fld 0 5)) 12 10 = 14 ∧ on2 (.xor (fld 0 12)) 12 10 = 6
    ∧ on2 (.andn (fld 0 1)) 12 10 = 4 := by decide +kernel

/-- R108: its three values, and counts. -/
theorem test_shifts : on2 (.shl { fld 1 1 with imm := 40 }) 1 0 = 0 ∧ on2 (.sar (fld 0 1)) 0xFFFFFFF8 40 = 0xFFFFFFFF
    ∧ on2 (.rot (fld 0 4)) 0x81 9 = 3 ∧ on2 (.shr (fld 0 1)) 0x80000000 31 = 1 := by decide +kernel

theorem test_counts : on2 (.clz (fld 0 1)) 0 0 = 32 ∧ on2 (.clz (fld 0 1)) 0x00800000 0 = 8 ∧ on2 (.popc (fld 0 1)) 0xF0F 0 = 8 := by decide +kernel

/-- R109's value, and a field inserted. -/
theorem test_fields : on2 (.bfx { fld 1 1 with imm := 0x084 }) 0xA0 0 = 0xFFFFFFFA ∧ on2 (.bfx { fld 0 1 with imm := 0x084 }) 0xA0 0 = 0xA
    ∧ on2 (.bfi { fld 0 1 with imm := 0x084 }) 0xFF 0x12345678 = 0x123456F8 := by decide +kernel

/-- R110: signed and unsigned conditions. -/
theorem test_cmp : ((after (.cmp { fld 2 1 with d := 0x0F1 }) (with3 [0xFFFFFFFF] [1] [] 0)).m[0]).bits.getLsbD 0 = true
    ∧ ((after (.cmp { fld 6 1 with d := 0x0F1 }) (with3 [0xFFFFFFFF] [1] [] 0)).m[0]).bits.getLsbD 0 = false := by decide +kernel

/-- R112: two halves. -/
theorem test_movi : got (.movi { fld 1 0 with imm := 0x1234 }) (after (.movi { fld 0 0 with imm := 0x5678 }) (el .ve)) 15 = 0x12345678
    ∧ got (.movi { fld 2 0 with imm := 0xFFFFFE }) (el .ve) 3 = 0xFFFFFFFE := by decide +kernel

/-- R113, R114: a pack and its halves. -/
theorem test_pack : on2 (.pack (fld 0 1)) 0x18000 0 = 0x8000 ∧ on2 (.pack (fld 1 1)) 0x18000 0 = 0x7FFF ∧ on2 (.pack (fld 2 1)) 0xFFFFFFFF 0 = 0 := by
  decide +kernel

theorem test_unpk : got (.unpk { fld 0 1 with imm := 0 }) (with3 [0x0001FFFF] [] [] 0) 0 = 0xFFFFFFFF
    ∧ got (.unpk { fld 1 1 with imm := 0 }) (with3 [0x0001FFFF] [] [] 0) 0 = 0xFFFF ∧ got (.unpk { fld 0 1 with imm := 0 }) (with3 [0x0001FFFF] [] [] 0) 1 = 1 := by
  decide +kernel

/-- R115: lanes moved. -/
theorem test_shuf : got (.shuf { fld 1 1 with imm := 1 }) (with3 [5, 6] [] [] 0) 0 = 6 ∧ got (.shuf { fld 2 1 with imm := 1 }) (with3 [5, 6] [] [] 0) 1 = 5
    ∧ got (.shuf (fld 0 1)) (with3 [5, 6] [1] [] 0) 0 = 6 ∧ got (.bcst { fld 0 1 with imm := 1 }) (with3 [5, 6] [] [] 0) 15 = 6 := by decide +kernel

/-- R116: the largest of -1 to -16, over every lane and over eight. -/
theorem test_lred : got (.lred (fld 2 1)) (with3 ((List.range 16).map (fun i => 2 ^ 32 - 1 - i)) [] [] 0) 15 = 0xFFFFFFFF
    ∧ (let e := with3 ((List.range 16).map (fun i => 2 ^ 32 - 1 - i)) [] [] 0
       got (.lred { fld 2 1 with pm := 1 }) { e with m := e.m.set 0 { e.m[0] with bits := 0xFF } } 7 = 0) := by decide +kernel

/-- R122: `fma` rounds once, `fmul` and `fadd` twice. -/
theorem test_fma : got (.fma (fld 0 5)) (with3 [0x3F800800] [0x3F800800] [0xBF801000] 0) 0 = 0x33800000
    ∧ (after (.fma (fld 0 5)) (with3 [0x3F800800] [0x3F800800] [0xBF801000] 0)).sticky = 0 := by decide +kernel

theorem test_fmul : on2 (.fmul (fld 0 5)) 0x3F800800 0x3F800800 = 0x3F801000 ∧ (after (.fmul (fld 0 5)) (with3 [0x3F800800] [0x3F800800] [] 0)).sticky ≠ 0
    ∧ on2 (.fadd (fld 0 5)) 0x3F801000 0xBF801000 = 0 := by decide +kernel

/-- R36, R122: an infinity less an infinity. -/
theorem test_fsub : on2 (.fsub (fld 0 5)) 0x7F800000 0x7F800000 = 0x7FC00000 := by decide +kernel

/-- R123, R124: zeros in order, signs. -/
theorem test_fmin_fmax : on2 (.fmin (fld 0 5)) 0 0x80000000 = 0x80000000 ∧ on2 (.fmax (fld 0 5)) 0 0x80000000 = 0 := by decide +kernel

theorem test_fabs_fneg : on2 (.fabs (fld 0 5)) 0xC0000000 0 = 0x40000000 ∧ on2 (.fneg (fld 0 5)) 0 0 = 0x80000000 := by decide +kernel

/-- R126: special inputs and exact results. -/
theorem test_functions : on2 (.frcp (fld 0 5)) 0x80000000 0 = 0xFF800000 ∧ on2 (.frcp (fld 0 5)) 0x40000000 0 = 0x3F000000
    ∧ on2 (.frsq (fld 0 5)) 0x40800000 0 = 0x3F000000 ∧ on2 (.frsq (fld 0 5)) 0x7F800000 0 = 0 := by decide +kernel

theorem test_powers : on2 (.fex2 (fld 0 5)) 0x40400000 0 = 0x41000000 ∧ on2 (.flg2 (fld 0 5)) 0x41000000 0 = 0x40400000
    ∧ on2 (.flg2 (fld 0 5)) 0 0 = 0xFF800000 ∧ on2 (.fex2 (fld 0 5)) 0xFF800000 0 = 0 := by decide +kernel

/-- R127: classes. -/
theorem test_fcls : on2 (.fcls (fld 0 5)) 0x7FC00000 0 = 0x100 ∧ on2 (.fcls (fld 0 5)) 0x80000001 0 = 4 ∧ on2 (.fcls (fld 0 5)) 0 0 = 16 := by decide +kernel

/-- R129: 2.5 and -2.5 rounded away and to even. -/
theorem test_frnd : on2 (.frnd { fld 0 5 with imm := 4 }) 0x40200000 0 = 0x40400000 ∧ on2 (.frnd { fld 0 5 with imm := 4 }) 0xC0200000 0 = 0xC0400000
    ∧ on2 (.frnd { fld 0 5 with imm := 0 }) 0x40200000 0 = 0x40000000 ∧ on2 (.frnd { fld 0 5 with imm := 0 }) 0xC0200000 0 = 0xC0000000 := by
  decide +kernel

/-- R131: 1 + 2^-8 to BF16 in five modes, and -1 to UINT32. -/
theorem test_cvt : ((List.range 5).map (fun m => on2 (.cvt { fld 6 5 with imm := BitVec.ofNat 24 m }) 0x3F808000 0 % 2 ^ 16))
      = [0x3F80, 0x3F80, 0x3F81, 0x3F80, 0x3F81]
    ∧ on2 (.cvt { fld 2 1 with imm := 0 }) 0xFFFFFFFF 0 = 0 := by decide +kernel

/-- R39, R132: the FP4 case. -/
theorem test_dq : got (.dq { fld 0 10 with imm := 64 }) (with3 [0xD] [0x41] [] 0x3DCC) 0 % 2 ^ 16 = 0xBF3F := by decide +kernel

/-- R133: 2.5 and 7.0 to E2M1. -/
theorem test_qnt : got (.qnt { fld 10 6 with b := 0x0FF, imm := 64 }) (with3 [0x4020] [] [] 0x3F80) 0 % 16 = 4
    ∧ got (.qnt { fld 10 6 with b := 0x0FF, imm := 68 }) (with3 [0x4020] [] [] 0x3F80) 0 % 16 = 5
    ∧ got (.qnt { fld 10 6 with b := 0x0FF, imm := 64 }) (with3 [0x40E0] [] [] 0x3F80) 0 % 16 = 7 := by decide +kernel

/-- R135: a scan of 1.0, 2^-24, 2^-24, 2^-24. -/
theorem test_lscan : got (.lscan (fld 0 5)) (with3 [0x3F800000, 0x33800000, 0x33800000, 0x33800000] [] [] 0) 2 = 0x3F800000
    ∧ got (.lscan (fld 0 5)) (with3 [0x3F800000, 0x33800000, 0x33800000, 0x33800000] [] [] 0) 3 = 0x3F800001 := by decide +kernel

/-- R40: four products of BF16, and 2^24 + 1 + 1. -/
theorem test_dot : got (.dot (fld 0 6)) (with3 [0x47004700, 0x3FC03F80] [0xC7004700, 0x34803F80] [] 0) 0 = 0x3F800002
    ∧ got (.dot (fld 0 6)) (with3 [0x3F803F80] [0x3F803F80] (List.replicate 16 0x4B800000) 0) 0 = 0x4B800001 := by decide +kernel

/-- R139: a tile of 0.5 on rows of 1.0 and of 2.0. -/
theorem test_mma : (let e := with3 (List.replicate 8 0x3F803F80 ++ List.replicate 8 0x40004000) [] [] 0x3F00
    let e := { e with store := { e.store with bytes := memWrite [] 0x400 (List.replicate 64 0x22) } }
    got (.mma { fld 3 6 with imm := 0x100400 }) e 7 = 0x41000000 ∧ got (.mma { fld 3 6 with imm := 0x100400 }) e 8 = 0x41800000) := by decide +kernel

/-- The tree of R203 in column 0, its second member of no chain: cells A and B, descriptor with three leaves and `on`. -/
def tree : RaPart :=
  { RaPart.empty with
    cells := Tab.set (Tab.set [] 0 0xFFFFFFFFFFFFFFFE000000003F808000) 64 0xFFFFFFFFFFFFFFFD000000003F00C003
    descs := [(0, 0x83)]
    leaves := [(0, 0x3E800000), (1, 0xBF000000), (2, 0x3FC00000)] }

/-- A record of features 0 and 3, which lie in lanes 0 and 1. -/
def record (f0 f3 : Nat) : Payload := Payload.ofList [BitVec.ofNat 32 f0, BitVec.ofNat 32 (f3 * 65536)]

/-- The three records of R208's example: final masks, exits, and scores above a base of 0.125. -/
theorem test_tree : tree.mask (record 0x4000 0x3E80) 0 0 = 0b110 ∧ tree.mask (record 0x4000 0x7FC0) 0 0 = 0b100
    ∧ tree.mask (record 0x7FC0 0x4110) 0 0 = 0b101 ∧ tree.code [0b110] 0 = 1 ∧ tree.code [0b100] 0 = 2 ∧ tree.code [0b101] 0 = 0
    ∧ tree.code [0b101] 1 = 0xFD := by decide +kernel

theorem test_talv : sum32 0x3E000000 (tree.value [0b110] 0) = 0xBEC00000 ∧ sum32 0x3E000000 (tree.value [0b100] 0) = 0x3FD00000
    ∧ sum32 0x3E000000 (tree.value [0b101] 0) = 0x3EC00000 := by decide +kernel

/-- R214, R215: `trap` on a core saves the address behind its word and the status, inhibits, and goes on at `tvec`. -/
theorem test_trap : (let e : Elem := { core with
                       fc := { core.fc with tvec := 0x100, icache := [{ addr := 0, len := 7, seg := 0, next := 7, word := 0xE0003FCFF3FCFF0000000042, bytes := [] }] } }
    match exec (.trap { Fields.initial with imm := 0x42 }) (onCore e) with
    | .next t => (t.unit (.fc 2)).map (fun x => (x.fc.epc, x.run.pos, x.fc.estat, x.fc.cstat.toNat % 2)) == some (7, 0x100, 0, 1)
    | _ => false) = true := by decide +kernel

/-- The first step after reset runs the word placed where it fetches: `movi.lo d=s1 i=5` in the IMM form. -/
theorem test_fetch : decodeTableWord 56 0x14000004_00A043 = some (.movi { Fields.initial with d := 1, imm := 5 })
    ∧ (match step (State.reset.withFetchWord 56 0x1400000400A043) with
       | .next t => (t.unit (.fc 0)).map (fun x => (x.run.pos, (x.s[1]).pay.lane 15)) == some (7, 5)
       | _ => false) = true := by decide +kernel

-- Integer instructions ---------------------------------------------------------------------------------------------------------

theorem hyp_IntegerArithmetic : Runs (on (el .se)) (el .se) ∧ IntUnit (el .se) ∧ (∀ v ∈ [0, 1], ∀ t ∈ [0, 1, 4],
    (let f := fld v t
     f.ln ≠ 3 ∧ f.var.toNat ≤ 1
     ∧ Legal (el .se) f usesAB (badDst (el .se) f) ∧ (Fmt.ofCode (typeIn (el .se) f usesAB)).isSome ∧ typeIn (el .se) f usesAB ≤ 4
     ∧ Legal (el .se) f usesA (badDst (el .se) f) ∧ (Fmt.ofCode (typeIn (el .se) f usesA)).isSome ∧ typeIn (el .se) f usesA ≤ 4
     ∧ Legal (el .se) f usesABC (badDst (el .se) f) ∧ (Fmt.ofCode (typeIn (el .se) f usesABC)).isSome
     ∧ typeIn (el .se) f usesABC ≤ 4)) := by
  unfold Runs IntUnit Legal typeIn; repeat' apply And.intro
  all_goals decide +kernel

theorem hyp_BitsAndShifts : Runs (on (el .ag)) (el .ag) ∧ IntUnit (el .ag) ∧ (∀ v ∈ [0, 1, 2, 15], (fld v 1).ln ≠ 3)
    ∧ (∀ t ∈ [1, 12], (let f := fld 0 t
       Legal (el .ag) f usesAB (badDst (el .ag) f) ∧ typeIn (el .ag) f usesAB ≤ 12))
    ∧ (∀ v ∈ [0, 1], ∀ t ∈ [1, 4], (let f := fld v t
       Legal (el .ag) f usesAB (badDst (el .ag) f) ∧ (Fmt.ofCode (typeIn (el .ag) f usesAB)).isSome ∧ typeIn (el .ag) f usesAB ≤ 4
       ∧ Legal (el .ag) f usesA (badDst (el .ag) f) ∧ (Fmt.ofCode (typeIn (el .ag) f usesA)).isSome ∧ typeIn (el .ag) f usesA ≤ 4))
    ∧ 2 ≤ (fld 2 1).var.toNat ∧ (fld 1 1).var ≠ 0 := by
  unfold Runs IntUnit Legal typeIn; repeat' apply And.intro
  all_goals decide +kernel

theorem hyp_MovesAndLanes : Runs (on (el .ve)) (el .ve) ∧ IntUnit (el .ve) ∧ (∀ v ∈ [0, 1, 2, 3, 5], ∀ t ∈ [1, 2, 12],
    (let f := { fld v t with c := 0x0F1, imm := 32 }
     f.ln ≠ 3 ∧ isMaskSrc f.c = true
     ∧ Legal (el .ve) f usesA (badDst (el .ve) f) ∧ typeIn (el .ve) f usesA ≤ 12
     ∧ Legal (el .ve) f usesAB (badDst (el .ve) f) ∧ typeIn (el .ve) f usesAB ≤ 12
     ∧ Legal (el .ve) f usesD (badDst (el .ve) f) ∧ typeIn (el .ve) f usesD ≤ 12
     ∧ f.imm.toNat / 32 % 64 ≠ 0 ∧ f.imm.toNat % 32 + f.imm.toNat / 32 % 64 ≤ 32)) := by
  unfold Runs IntUnit Legal typeIn; repeat' apply And.intro
  all_goals decide +kernel

theorem hyp_MaskInstructions : Runs (on (el .ve)) (el .ve) ∧ IntUnit (el .ve) ∧ isMask (0x0F1 : BitVec 10) = true ∧ isMask (0x0F3 : BitVec 10) = true
    ∧ (∀ v ∈ [0, 9], ∀ t ∈ [1, 2], (let f := { fld v t with d := 0x0F1 }
       f.ln ≠ 3 ∧ Legal (el .ve) { f with wd := 0 } usesAB (badMask f) ∧ 1 ≤ typeIn (el .ve) f usesAB ∧ typeIn (el .ve) f usesAB ≤ 2))
    ∧ (let f := { fld 0 0 with d := 0x0F1, a := 0x0F0, b := 0x0F3 }
       isMaskSrc f.a = true ∧ isMaskSrc f.b = true)
    ∧ srcOk (el .ve) (fld 0 0).a = true ∧ inWait (el .ve) (fld 0 0).a 0 = true
    ∧ (let f := { fld 4 0 with d := 0x0F1, a := 0x200, wa := 2 }
       isSlot f.a = true ∧ slotOk (el .ve) (desChan f.a) (desOfs f.a) = true ∧ inWait (el .ve) f.a f.wa = true) := by
  unfold Runs IntUnit Legal typeIn; repeat' apply And.intro
  all_goals decide +kernel

theorem hyp_IntegerReductions : Runs (on (el .ag)) (el .ag) ∧ IntUnit (el .ag) ∧ (∀ v ∈ [0, 3, 4, 5], ∀ t ∈ [1, 4],
    (let f := fld v t
     f.ln ≠ 3 ∧ Legal (el .ag) f usesA (badDst (el .ag) f) ∧ (Fmt.ofCode (typeIn (el .ag) f usesA)).isSome
     ∧ typeIn (el .ag) f usesA ≤ 4)) := by
  unfold Runs IntUnit Legal typeIn; repeat' apply And.intro
  all_goals decide +kernel

-- Float instructions -------------------------------------------------------------------------------------------------------------

theorem hyp_FloatArithmetic : Runs (on (el .ve)) (el .ve) ∧ FloatUnit (el .ve) ∧ (∀ t ∈ [5, 7],
    (let f := fld 0 t
     f.ln ≠ 3 ∧ Legal (el .ve) f usesAB (badReg (el .ve) f) ∧ (Fmt.ofCode (typeIn (el .ve) f usesAB)).isSome
     ∧ floatTypes (typeIn (el .ve) f usesAB) = true ∧ Legal (el .ve) f usesA (badReg (el .ve) f)))
    ∧ (∀ v ∈ [0, 1], (let f := fld v 6
       Legal (el .ve) { f with wb := 0 } usesABC (badReg (el .ve) f) ∧ f.var.toNat ≤ 1 ∧ floatTypes (typeIn (el .ve) f usesABC) = true)) := by
  unfold Runs FloatUnit Legal typeIn; repeat' apply And.intro
  all_goals decide +kernel

theorem hyp_FloatBits : Runs (onCore core) core ∧ FloatUnit core ∧ (∀ v ∈ [0, 1], (let f := fld v 5
    f.ln ≠ 3 ∧ Legal core f usesAB (badReg core f) ∧ (Fmt.ofCode (typeIn core f usesAB)).isSome ∧ floatTypes (typeIn core f usesAB) = true
    ∧ Legal core f usesA (badReg core f) ∧ (rmode f).isSome)) := by
  unfold Runs FloatUnit Legal typeIn; repeat' apply And.intro
  all_goals decide +kernel

theorem hyp_FloatCompareAndStatus : Runs (on (el .ve)) (el .ve) ∧ FloatUnit (el .ve)
    ∧ (∀ v ∈ [0, 7], (let f := { fld v 5 with d := 0x0F3 }
       floatTypes (typeIn (el .ve) f usesAB) = true ∧ isMask f.d = true ∧ Legal (el .ve) { f with ln := 0, wd := 0 } usesAB none))
    ∧ 7 < (fld 8 5).var.toNat ∧ isMask (fld 7 5).d = false ∧ waitsOk usesAB (fld 7 5) = true ∧ badSrc usesAB (el .ve) (fld 7 5) = none
    ∧ isScale (0x0E7 : BitVec 10) = false ∧ isScale (0x0E8 : BitVec 10) = true ∧ isScale (0x0EF : BitVec 10) = true
    ∧ isScale (0x0F0 : BitVec 10) = false ∧ srcOk (el .ve) (fld 1 0).a = true ∧ inWait (el .ve) (fld 1 0).a 0 = true
    ∧ badReg (el .ve) (fld 0 0) = none ∧ outWait (el .ve) (fld 0 0).d 0 = true := by
  unfold Runs FloatUnit Legal typeIn; repeat' apply And.intro
  all_goals decide +kernel

/-- `cvt` from FP32 to BF16, `qnt` to INT8 with a scale operand and without, `dq` of INT8, and a scan. -/
theorem hyp_Conversions : Runs (on (el .ve)) (el .ve) ∧ FloatUnit (el .ve)
    ∧ (let f := fld 6 5
       f.ln ≠ 3 ∧ Legal (el .ve) f usesA (badReg (el .ve) f) ∧ Fmt.ofCode (typeIn (el .ve) f usesA) = some .fp32
       ∧ Fmt.ofCode f.var.toNat = some .bf16 ∧ (rmode f).isSome ∧ partOk 1 2 (partNo f) = true)
    ∧ (let f := { fld 4 5 with b := 0x0FF }
       Legal (el .ve) f usesA (badReg (el .ve) f) ∧ Fmt.ofCode f.var.toNat = some .i8 ∧ [3, 4, 8, 9, 10, 11].contains f.var.toNat = true
       ∧ partOk 1 4 (partNo f) = true)
    ∧ (let f := fld 11 5
       Legal (el .ve) f usesAB (badReg (el .ve) f) ∧ (Fmt.ofCode f.var.toNat).isSome ∧ partOk 1 8 (partNo f) = true)
    ∧ (let f := { fld 0 11 with b := 0x0FF }
       awaitCompanion (el .ve) (scalingOf (el .ve) f.a (typeIn (el .ve) f usesAB)) = .ok ()
       ∧ weightTypes (typeIn (el .ve) f usesAB) = true ∧ partOk 8 2 (partNo f) = true)
    ∧ (let f := fld 2 6
       Legal (el .ve) { f with ln := 0 } usesA (badReg (el .ve) f) ∧ reduceTypes .ve f.var.toNat (typeIn (el .ve) f usesA) = true) := by
  unfold Runs FloatUnit Legal typeIn; repeat' apply And.intro
  all_goals decide +kernel

-- Tensor instructions and local stores -----------------------------------------------------------------------------------------------

theorem hyp_DotProduct : Runs (on (el .ve)) (el .ve) ∧ (∀ v ∈ [0, 1], ∀ t ∈ [5, 6], (let f := fld v t
    f.ln ≠ 3 ∧ Legal (el .ve) f usesABC (badReg (el .ve) f) ∧ typeIn (el .ve) f usesABC = t.toNat ∧ (dotB (el .ve) f t.toNat).1 = t.toNat
    ∧ (fmtOf t.toNat).perLane ≤ (fmtOf (dotB (el .ve) f t.toNat).1).perLane
    ∧ partNo f < (fmtOf (dotB (el .ve) f t.toNat).1).perLane / (fmtOf t.toNat).perLane))
    ∧ (∀ v ∈ [2, 3], ∀ t ∈ [1, 3, 4], (let f := fld v t
       Legal (el .ve) f usesABC (badReg (el .ve) f) ∧ typeIn (el .ve) f usesABC = t.toNat ∧ dotBInt (el .ve) f t.toNat = t.toNat)) := by
  unfold Runs Legal typeIn; repeat' apply And.intro
  all_goals decide +kernel

/-- A matrix step of the first variant and of the last, with and without an accumulator, and one through the adapter bank. -/
def bank : Elem := { el .ve with ve := { VePart.empty with abank := BitVec.ofNat 64 (2 ^ 34 * 4 + 2 ^ 17 * 512 + 1024) } }

theorem hyp_MatrixSteps : Runs (on bank) bank
    ∧ (∀ v ∈ [0, 4], (let f := { fld v 6 with imm := 512 }
       acm f = false ∧ badReg bank f = none ∧ Legal bank f { usesABC with b := false } none
       ∧ typeIn bank f { usesABC with b := false } = 6 ∧ tadr f % (tileFmt v.toNat).2 = 0
       ∧ ∀ g ∈ tileGrans (tadr f) (tileFmt v.toNat).2, bank.store.bad.contains g = false))
    ∧ (let f := { fld 0 6 with imm := 0x800000, c := 0x0FF, d := 0x0FF }
       acm f = true ∧ Legal bank f { usesABC with b := false, c := false, d := false } none)
    ∧ (let f := fld 0 6
       ((srcB (on bank) bank f).pay.lane 0).toNat % 65536 < bankCnt bank.ve.abank
       ∧ (bankBase bank.ve.abank + 3 * bankStrd bank.ve.abank + tadr f) % 2 ^ 17 % 256 = 0
       ∧ (isSlot f.b || isState bank f.b) = true ∧ Legal bank f usesABC none) := by
  unfold Runs Legal typeIn; repeat' apply And.intro
  all_goals decide +kernel

theorem hyp_BitMatrixAndRequantiser : Runs (on (el .ve)) (el .ve)
    ∧ (let f := { fld 0 12 with imm := 512 }
       tadr f % 512 = 0 ∧ Legal (el .ve) f { usesABC with b := false } (badReg (el .ve) f)
       ∧ typeIn (el .ve) f { usesABC with b := false } = 12)
    ∧ (let f := fld 0 5
       Legal (el .ve) f { usesA with d := false } none ∧ typeIn (el .ve) f { usesA with d := false } = 5 ∧ (el .ve).ve.wcnt < 16)
    ∧ (∀ v ∈ [4, 9], (let f := fld v 0
       [4, 5, 6, 8, 9].contains f.var.toNat = true ∧ (Fmt.ofCode f.var.toNat).isSome ∧ (rmode f).isSome ∧ badReg (el .ve) f = none
       ∧ outWait (el .ve) f.d f.wd = true)) := by
  unfold Runs Legal typeIn; repeat' apply And.intro
  all_goals decide +kernel

theorem hyp_Accumulators : Runs (on (el .ve)) (el .ve) ∧ badReg (el .ve) (fld 0 0) = none ∧ outWait (el .ve) (fld 0 0).d 0 = true
    ∧ srcOk (el .ve) (fld 0 0).a = true ∧ inWait (el .ve) (fld 0 0).a 0 = true := by
  unfold Runs; repeat' apply And.intro
  all_goals decide +kernel

theorem hyp_LocalLoads : Runs (on (el .ve)) (el .ve) ∧ Runs (on (el .se)) (el .se) ∧ (∀ v ∈ [0, 1, 4], (let f := fld v 0
    f.ln ≠ 3 ∧ badReg (el .ve) f = none ∧ Legal (el .ve) f usesA none ∧ (srcA (on (el .ve)) (el .ve) f).pz = false
    ∧ badReg (el .se) f = none ∧ Legal (el .se) f usesA none ∧ (reachOf (on (el .se)) (el .se) f).isSome = true)) := by
  unfold Runs Legal; repeat' apply And.intro
  all_goals decide +kernel

theorem hyp_LocalStores : Runs (on (el .se)) (el .se) ∧ (∀ v ∈ [0, 1, 2], (let f := fld v 0
    Legal (el .se) f usesStore none ∧ (srcA (on (el .se)) (el .se) f).pz = false ∧ (el .se).flowP = false
    ∧ (reachOf (on (el .se)) (el .se) f).isSome = true)) ∧ memWf (el .se).store.bytes = true
    ∧ Legal (el .ve) (fld 1 0) usesStore none := by
  unfold Runs Legal; repeat' apply And.intro
  all_goals decide +kernel

/-- A store under FP. -/
theorem hyp_PoisonedLocalStore : (let e := { el .se with run := { Run.idle with fp := true } }
    e.flowP = true ∧ Legal e (fld 0 0) usesStore none ∧ ((List.range 16).any (laneActive e (fld 0 0))) = true
    ∧ (reachOf (on e) e (fld 0 0)).isSome = true) := by
  unfold Legal; decide +kernel

theorem hyp_LocalAtomics : Runs (on (el .se)) (el .se) ∧ (∀ v ∈ [0, 9], (let f := fld v 0
    (reachOf (on (el .se)) (el .se) f).isSome = true ∧ Legal (el .se) f usesABC (badDst (el .se) f)
    ∧ (srcA (on (el .se)) (el .se) f).pz = false ∧ (el .se).flowP = false
    ∧ ∀ n ∈ (List.range 16).filter (laneActive (el .se) f), (el .se).store.bad.contains n = false)) := by
  unfold Runs Legal; repeat' apply And.intro
  all_goals decide +kernel

-- Agents -----------------------------------------------------------------------------------------------------------------------------

theorem hyp_LoopNest : Runs (on (el .ag)) (el .ag) ∧ (∀ v ∈ [0, 5, 6, 7], (let f := { fld v 0 with imm := 3 }
    f.imm ≠ 0 ∧ Legal (el .ag) f noUses none ∧ Legal (el .ag) f onlyA none ∧ Legal (el .ag) { f with ln := 0 } onlyD (badReg (el .ag) f))) := by
  unfold Runs Legal; repeat' apply And.intro
  all_goals decide +kernel

/-- A port without requests, with a handle that may be used and with one that may not; and a port with a request. -/
theorem hyp_PortBinding : Legal (agent 0) (fld 0 0) onlyA none ∧ ((agent 0).port 0).outst = 0
    ∧ handleOk (module (on (agent 0))) 0 0 = true ∧ handleOk (module (on (agent 0))) 0 1 = false
    ∧ (readDes (module (on (agent 0))) (agent 0) 0x002).pz = false ∧ (fld 0 0).imm.toNat / 4 % 4 ≠ 3
    ∧ (((agent 0).setPort 0 { port 0 with outst := 1 }).port 0).outst ≠ 0 := by
  unfold Legal; repeat' apply And.intro
  all_goals decide +kernel

def isOk {α : Type} (r : Res α) : Bool := match r with | .ok _ => true | .error _ => false

/-- An access that the checks pass, with coordinates of the nest and of an operand; stamped loads and stores whose stamp of 2 or 1,500
lies below or inside the interval of 1,000 to 2,000. -/
theorem hyp_TensorLoads : Runs (module (on (agent 1))) (agent 1) ∧ ((agent 1).port 0).lq.length + ((agent 1).port 0).reqs.length < 32
    ∧ Legal (agent 1) (fld 0 0) noUses none ∧ Legal (agent 1) (fld 1 0) onlyA none ∧ Legal (agent 1) (fld 0 0) onlyB none
    ∧ (coordsOf (module (on (agent 1))) (agent 1) (fld 0 0) true).2.pz = false ∧ ((agent 1).port 0).bnd = true
    ∧ isOk (portAccess (module (on (agent 1))) (agent 1) 2 0 [0, 0, 0, 0, 0, 0] .load) = true
    ∧ isOk (portAccess (module (on (agent 1))) (agent 1) 2 0 [0, 0, 0, 0, 0, 0] .tlda) = true
    ∧ die0.tooWide = false ∧ stampOf (readDes (module (on (agent 1))) (agent 1) 0x003).pay < die0.early
    ∧ ({ die0 with lim := 999 } : Die).tooWide = true
    ∧ (coordsOf (on { agent 1 with ag := { (agent 1).ag with nest := { Nest.initial with pz := true } } })
        { agent 1 with ag := { (agent 1).ag with nest := { Nest.initial with pz := true } } } (fld 0 0) true).2.pz = true := by
  unfold Runs Legal; repeat' apply And.intro
  all_goals decide +kernel

theorem hyp_TensorStores : ((agent 1).port 0).sq ≠ [] ∧ Legal (agent 1) (fld 1 0) onlyA none ∧ Legal (agent 1) (fld 0 0) onlyB none
    ∧ ((coordsOf (module (on (agent 1))) (agent 1) (fld 0 0) true).2.pz || (agent 1).flowP) = false
    ∧ isOk (portAccess (module (on (agent 0))) (agent 0) 2 0 [0, 0, 0, 0, 0, 0] .store) = true
    ∧ isOk (portAccess (module (on (agent 1))) (agent 1) 2 0 [16, 0, 0, 0, 0, 0] .tsts) = true
    ∧ die0.early < 1500 ∧ 1500 ≤ die0.late + 2 ^ 30 ∧ 1000 ≤ die0.early := by
  unfold Legal; repeat' apply And.intro
  all_goals decide +kernel

/-- Copies and gathers of no word and of one, on an AG and on a core, over tensors that fit. -/
theorem hyp_EngineForks : Runs (on (agent 0)) (agent 0) ∧ Runs (onCore core) core ∧ Legal (agent 0) (fld 0 0) onlyA none
    ∧ Legal core (fld 0 0) onlyA none ∧ Legal (agent 0) (fld 1 0) onlyAB none
    ∧ coSt ((agent 0).co 0) = 0 ∧ coSt (core.co 0) = 0 ∧ (agent 0).flowP = false
    ∧ copyOk (port 0) (port 0) 0 0 0 = true ∧ copyOk (port 0) (port 0) 2 0 1 = true
    ∧ (let two : Port := { port 0 with srec := BitVec.ofNat 1536 (fieldsNat [(928, 64), (944, 1), (736, 64), (768, 2), (5, 2), (0, 1)]) }
       gatherOk two (port 0) two = true)
    ∧ collOk (port 0) (port 0) 0 4 3 = true ∧ collOk (port 0) (port 0) 3 1 4 = true
    ∧ coSt ((({ agent 0 with ag := { (agent 0).ag with cos := (agent 0).ag.cos.set 0 (coMake 1 0 1 0) } } : Elem)).co 0) ≠ 0 := by
  unfold Runs Legal; repeat' apply And.intro
  all_goals decide +kernel

/-- Atomics, loads and releases of an AG at coordinate 0 and of a core at address 0x4000, and one whose operand is poisoned. -/
def core4 : Elem := { core with s := core.s.set 2 { Reg.zero with pay := Payload.ofList [0x4000] } }

theorem hyp_SynchronisingAccesses : Agent (agent 0) ∧ Agent core4 ∧ (∀ e ∈ [agent 0, core4], allAccepted e = true ∧ e.flowP = false
    ∧ (∀ v ∈ [0, 9], Legal e (fld v 0) usesAB (badReg e (fld v 0))) ∧ Legal e (fld 0 0) usesABC (badReg e (fld 0 0))
    ∧ Legal e (fld 3 0) usesA (badReg e (fld 3 0)) ∧ Legal e (fld 3 0) onlyAB none
    ∧ isOk (syncAddr (module (on (agent 0))) e (fld 0 0) 4 .atomic) = true ∧ isOk (syncAddr (module (on (agent 0))) e (fld 0 0) 8 .atomic) = true
    ∧ isOk (syncAddr (module (on (agent 0))) e (fld 0 0) 1 .ldaq) = true ∧ isOk (syncAddr (module (on (agent 0))) e (fld 3 0) 8 .strl) = true) := by
  unfold Agent Legal; repeat' apply And.intro
  all_goals decide +kernel

/-- An AG whose store is not accepted, and one with a refused stamped store. -/
theorem hyp_PhasesAndFences : allAccepted (agent 0) = true ∧ (agent 0).ag.tsts = [] ∧ (∀ p ∈ (agent 0).ag.ports.toList, p.reqs = [])
    ∧ refusal (agent 0) = none ∧ (∀ n < 32, coStp ((agent 0).co n) = false) ∧ ((agent 0).ag.cos.toList.all (fun c => coSt c != 1)) = true
    ∧ (fld 0 0).imm.toNat / 4 % 4 ≠ 3 ∧ (refusal ((agent 0).setPort 3 { port 0 with refused := some (7, []) })).isSome = true := by
  repeat' apply And.intro
  all_goals decide +kernel

theorem hyp_RecordFence : Legal core (fld 2 0) onlyA none ∧ (on (el .ag)).unit (.el 0) = some (el .ag) := by
  unfold Legal; repeat' apply And.intro
  all_goals decide +kernel

/-- Queues of a port at 31, 32 and 0 words, an entry that is too old, and a message queue at 63, 1 and 0. -/
def busyPort (l q : Nat) (o : Option (Nat × List Nat)) : Elem :=
  (agent 0).setPort 0 { port 0 with sq := List.replicate q (word 1), lq := List.replicate l { word := word 2, old := o } }

def mqs (n : Nat) : State := { onCore core with mqs := [(0, List.replicate n Reg.zero)] }

theorem hyp_Queues : Legal (agent 0) (fld 0 0) onlyA none ∧ Legal (agent 0) (fld 0 0) onlyD (badReg (agent 0) (fld 0 0))
    ∧ Legal core (fld 0 0) onlyD (badReg core (fld 0 0))
    ∧ ((busyPort 1 31 none).port 0).sq.length < 32 ∧ 32 ≤ ((busyPort 1 32 none).port 0).sq.length
    ∧ ((busyPort 1 0 none).port 0).lq = [{ word := word 2, old := none }] ∧ ((busyPort 0 0 none).port 0).lq = []
    ∧ ((busyPort 1 0 (some (5, []))).port 0).lq = [{ word := word 2, old := some (5, []) }]
    ∧ ((busyPort 32 0 none).port 0).lq.length = 32 ∧ ((busyPort 0 0 none).port 0).sq = [] ∧ ((busyPort 0 0 none).port 0).outst = 0
    ∧ ((mqs 63).mq 0).length < 64 ∧ ((mqs 1).mq 0) = [Reg.zero] ∧ ((mqs 64).mq 0).length = 64 ∧ ((mqs 0).mq 0).length + 64 ≤ 64 := by
  unfold Legal; repeat' apply And.intro
  all_goals decide +kernel

/-- Completion objects that are idle, busy, done and stopped. -/
def withCo (x : BitVec 32) : Elem := { agent 0 with ag := { (agent 0).ag with cos := (agent 0).ag.cos.set 0 x } }

theorem hyp_EngineJoins : coSt ((withCo (coMake 0 0 0 0)).co 0) = 0 ∧ coSt ((withCo (coMake 1 0 1 0)).co 0) = 1
    ∧ coSt ((withCo (coMake 2 0 1 0)).co 0) = 2 ∧ coStp ((withCo (coMake 2 0 1 0)).co 0) = false
    ∧ coStp ({ agent 0 with ag := { (agent 0).ag with cos := (agent 0).ag.cos.set 0 0xFFFFFFFF } } : Elem).ag.cos[0] = true
    ∧ isMask (0x0F2 : BitVec 10) = true := by
  repeat' apply And.intro
  all_goals decide +kernel

theorem hyp_ClockInstructions : (fld 0 0).d.toNat + 1 < (el .ag).cls.nState ∧ Legal (el .ag) (fld 0 0) onlyD (badReg (el .ag) (fld 0 0))
    ∧ Legal core (fld 0 0) onlyD (badReg core (fld 0 0)) ∧ Legal core (fld 0 0) usesA (badReg core (fld 0 0))
    ∧ Legal (el .ag) (fld 0 0) onlyA none ∧ Legal core (fld 1 0) onlyAB none
    ∧ ((module (on (el .ag))).die 0).tooWide = false ∧ ((module (on (el .ag))).die 32).tooWide = false
    ∧ ((on (el .ag)).die 0).tooWide = true ∧ refusal (el .ag) = none ∧ 1999 < die0.late ∧ die0.late ≤ 2000
    ∧ 999 < die0.early ∧ die0.early ≤ 1000 ∧ allDry (on (el .ag)) (el .ag) 999 = true
    ∧ ((module { onCore core with queues := [(5, { Queue.initial with mapped := true })] }).queue 5).mapped = true := by
  unfold Legal; repeat' apply And.intro
  all_goals decide +kernel

-- Ruling arrays, taint, system -----------------------------------------------------------------------------------------------------

/-- An RA fed two words of a record, with nothing and with one result in its queue. -/
def ruler (l : List RqEntry) : Elem :=
  { el .ra with
    ins := (Vector.replicate 32 InChan.unbound).set 0 { inp [word 5, { word 6 with lr := true }] with ent := 0x800C1300 }
    ra := { RaPart.empty with rq := l } }

def result : RqEntry := { m := [1], pz := false, tn := false }

theorem hyp_RulingConfiguration : Runs (on (ruler [])) (ruler []) ∧ ptrOk 0x1FFC = false ∧ ptrOk 0x1030 = true ∧ ptrOk 0x0FFC = true
    ∧ (ruler []).ra.rq = [] ∧ (ruler []).ra.pipe = []
    ∧ ruleSrc (ruler []) 0x200 = true ∧ inWait (ruler []) 0x200 2 = true ∧ ((ruler []).slot 0 0).isData = true
    ∧ (readDes (on (ruler [])) (ruler []) 0x200).pz = false ∧ (ruler []).ra.ptr.toNat / 4096 + 1 = 1
    ∧ (∀ j < 4, cellOk (wordCell (Payload.splat 0) j) = true) ∧ (∀ j < 16, descOk ((Payload.splat 0).lane j) = true)
    ∧ slotOk (ruler []) 0 0 = true ∧ entFmt ((ruler []).inch 0).ent = 19 ∧ ((ruler []).inch 0).q.length = 2 ∧ 2 ≤ (ruler []).ra.since
    ∧ ((ruler []).slot 0 0).lr = false ∧ ((ruler []).slot 0 1).lr = true := by
  unfold Runs; repeat' apply And.intro
  all_goals decide +kernel

theorem hyp_RulingResults : badReg (ruler [result]) (fld 0 0) = none ∧ (ruler [result]).ra.rq = [result]
    ∧ Legal (ruler [result]) (fld 0 0) onlyD none ∧ (let f := { fld 1 0 with c := 0x0FF }
       Legal (ruler [result]) f { a := false, b := false, c := f.c != 0x0FF, d := true } none)
    ∧ Legal (ruler [result]) (fld 0 0) { a := false, b := false, c := true, d := true } none ∧ isState (ruler [result]) 4 = true := by
  unfold Legal; repeat' apply And.intro
  all_goals decide +kernel

theorem hyp_TaintAndPoison : isMask (0x0F1 : BitVec 10) = true ∧ Legal (el .se) { fld 0 0 with d := 0x0F1 } onlyA none
    ∧ Legal (el .se) (fld 0 0) usesA (badReg (el .se) (fld 0 0)) ∧ Legal (el .se) (fld 1 0) noUses none := by
  unfold Legal; repeat' apply And.intro
  all_goals decide +kernel

/-- A halted region 1 with an element at site 0, and region 1 without a snapshot. -/
def halted : State := { module (onCore core) with
  regions := [(1, { Region.blank with stt := 4 })], elems := [{ el .ve with rgn := 1, halted := true }] }

theorem hyp_ConfigurationAccess : regionNamed halted 1 = true ∧ (halted.region 1).snap = none ∧ Legal core (fld 0 0) usesA (badReg core (fld 0 0))
    ∧ Legal core (fld 0 0) onlyAB none
    ∧ (let e := { core with s := core.s.set 2 Reg.zero }
       (confTarget halted e (fld 0 0)).isSome = true ∧ confStopped halted { el .ve with rgn := 1, halted := true } = true)
    ∧ (confTarget halted core (fld 0 0)).isSome = false := by
  unfold Legal; repeat' apply And.intro
  all_goals decide +kernel

theorem hyp_CoreTrapInstructions : Runs (onCore core) core ∧ core.cls = .fc ∧ core.fc.inh = false ∧ core.fc.dbg = false
    ∧ (let e := { core with fc := { core.fc with cstat := 2 } }
       e.fc.dbg = true ∧ e.fc.inh = false) := by
  unfold Runs; repeat' apply And.intro
  all_goals decide +kernel

theorem hyp_ElementTrapInstructions : Runs (on (el .se)) (el .se) ∧ ((on (el .se)).region 0).dbg = false
    ∧ (({ on (el .se) with regions := [(0, { Region.blank with dbg := true })] } : State).region 0).dbg = true := by
  unfold Runs; repeat' apply And.intro
  all_goals decide +kernel

theorem hyp_TrapWhileInhibited : (let e := { core with fc := { core.fc with cstat := 1 } }
    Runs (onCore e) e ∧ e.fc.inh = true ∧ e.cls = .fc ∧ (onCore e).cur = .fc 2 ∧ (onCore e).fw.canary = none)
    ∧ (∀ n ∈ [0, 14], (let e := { coreReset n with fc := { (coreReset n).fc with cstat := 1 } }
        let s := { State.reset with cores := State.reset.cores.setIfInBounds n e, cur := .fc n, fw := { State.reset.fw with canary := some [] } }
        Runs s e ∧ e.fc.inh = true ∧ e.cls = .fc)) := by
  unfold Runs; repeat' apply And.intro
  all_goals decide +kernel

theorem hyp_ElementFaults : (on (el .se)).elems[0]? = some (el .se) ∧ Trap.restartable .brk = true ∧ Trap.restartable .instr = false
    ∧ memWf (on (el .se)).mem = true ∧ ((on (el .se)).die 0).waiting = [] ∧ ringDie (el .se).die = 0
    ∧ (let d := { (on (el .se)).die 0 with ringSize := 0 }
       (d.ringTail + 2 ^ 32 - d.ringHead) % 2 ^ 32 < 2 ^ (d.ringSize + 4)
       ∧ 2 ^ (d.ringSize + 4) ≤ ({ d with ringTail := 16 }.ringTail + 2 ^ 32 - d.ringHead) % 2 ^ 32)
    ∧ Trap.brk.cls.1 < 256 ∧ Trap.brk.cls.2 < 256 := by
  repeat' apply And.intro
  all_goals decide +kernel

theorem hyp_SystemRegisters : Legal core (fld 0 0) onlyD (badReg core (fld 0 0)) ∧ Legal core (fld 0 0) onlyA none
    ∧ sysListed 0x006 = false ∧ sysListed 0x031 = false ∧ sysListed 0xFFF = false ∧ sysListed 0x030 = true := by
  unfold Legal; repeat' apply And.intro
  all_goals decide +kernel

theorem hyp_EventInstructions : core.fc.evq = [] ∧ core.fc.idleAt = none ∧ Legal core (fld 0 0) onlyD (badReg core (fld 0 0))
    ∧ (let e := { core with fc := { core.fc with evq := [7], idleAt := some 0 } }
       e.fc.evq = [7] ∧ (∀ w ∈ (onCore e).evwait, w.1 ≠ e.act) ∧ 0 + 1000 * 1 ≤ ({ onCore e with now := 1000 } : State).now) := by
  unfold Legal; repeat' apply And.intro
  all_goals decide +kernel

-- System memory, flow and channels -------------------------------------------------------------------------------------------------

theorem hyp_PhysicalMemory : (∀ v ∈ [0, 1, 2], Legal core (fld v 0) usesA (badReg core (fld v 0)) ∧ Legal core (fld v 0) onlyAB none)
    ∧ (readDes (onCore core) core 0x002).pz = false ∧ placeOf (onCore core) 0x4000 64 = some .memory
    ∧ placeOf (onCore core) 0x90000000000 8 = some .flash ∧ (∃ r, placeOf (onCore core) 0x80080110000 8 = some (.register r))
    ∧ placeOf (onCore core) 0x4001 4 = none ∧ placeOf (onCore core) 0x70000000000 4 = none
    ∧ (let e := { core with s := core.s.set 2 { Reg.zero with pz := true } }
       (readDes (onCore e) e 0x002).pz = true) := by
  unfold Legal; refine ⟨by decide +kernel, by decide +kernel, by decide +kernel, by decide +kernel, ⟨_, rfl⟩, by decide +kernel,
    by decide +kernel, by decide +kernel⟩

/-- A core with one and with 32 return addresses, in its handler, and at an address that its cache holds no word of. -/
theorem hyp_FirmwareFlow : Runs (onCore core) core ∧ core.fc.rstack.length < 32 ∧ core.fc.rstack = [] ∧ core.fc.inh = false
    ∧ Legal core (fld 1 0) onlyA none ∧ (core.fc.halted || core.fc.dead) = false
    ∧ (let e := { core with fc := { core.fc with rstack := List.replicate 32 4, cstat := 1, icache := [codeWord 8] } }
       32 ≤ e.fc.rstack.length ∧ e.fc.inh = true ∧ e.fc.icache ≠ [] ∧ e.fc.icache.find? (fun x => x.addr == e.run.pos) = none) := by
  unfold Runs Legal; repeat' apply And.intro
  all_goals decide +kernel

theorem hyp_HaltOnElement : Runs (module (on { el .se with rgn := 1 })) { el .se with rgn := 1 } ∧ IntUnit (el .se) ∧ (el .se).cls ≠ .fc
    ∧ ((module (on (el .se))).region 1).stt < 5
    ∧ (let s := module (on { el .se with rgn := 1 })
       (Tab.get (BitVec.ofNat 64 (defaultRoute 3)) s.routes 3).toNat % 32 ≠ 16 ∧ s.evwait = []
       ∧ ((s.cores[(Tab.get (BitVec.ofNat 64 (defaultRoute 3)) s.routes 3).toNat % 32]?).map (fun x => decide (x.fc.evq.length < 256))) = some true) := by
  unfold Runs IntUnit; repeat' apply And.intro
  all_goals decide +kernel

/-- A wait of both inputs and an output that is met, and one that is not; and a peek. -/
theorem hyp_WaitingAndPeeking : (let f := { fld 0 0 with a := 0x201, b := 0x208, d := 0x300, wa := 2, wd := 4 }
    isSlot f.a = true ∧ slotOk (el .ve) (desChan f.a) (desOfs f.a) = true ∧ isSlot f.b = true ∧ slotOk (el .ve) (desChan f.b) (desOfs f.b) = true
    ∧ isOut f.d = true ∧ outOk (el .ve) (desChan f.d) (desOfs f.d) = true
    ∧ inWait (el .ve) f.a f.wa = true ∧ inWait (el .ve) f.b f.wb = true ∧ outWait (el .ve) f.d f.wd = true ∧ inWait (el .ve) f.a 3 = false)
    ∧ Legal (el .ve) { fld 0 0 with a := 0x200 } usesA none ∧ regOrOut (el .ve) (fld 0 0).d = true
    ∧ resolve (el .ve) 0 [0x200, 1] ≤ 12 := by
  unfold Legal; repeat' apply And.intro
  all_goals decide +kernel

theorem hyp_MaskToLanes : Runs (on (el .ra)) (el .ra) ∧ isMaskSrc (0x0F0 : BitVec 10) = true ∧ regOrOut (el .ra) 1 = true
    ∧ outWait (el .ra) 1 0 = true := by
  unfold Runs; repeat' apply And.intro
  all_goals decide +kernel

/-- Four words given at once; a `close` of 2 and of 15 levels, which may be sent, and of 1 and 16, which may not; a control word and a
data word passed on. -/
theorem hyp_Publishing : isOut (0x300 : BitVec 10) = true ∧ desOfs (0x300 : BitVec 10) = 0 ∧ outOk (el .ve) 0 0 = true ∧ 4 ≤ ((el .ve).outch 0).free
    ∧ isSlot (0x200 : BitVec 10) = true ∧ slotOk (el .ve) 0 0 = true ∧ inWait (el .ve) 0x200 1 = true ∧ ((el .ve).slot 0 0).isData = true
    ∧ ctlArgBad 2 2 = false ∧ ctlArgBad 2 15 = false ∧ ctlArgBad 2 1 = true ∧ ctlArgBad 2 16 = true ∧ ctlArgBad 7 1 = false
    ∧ refusal (el .ag) = none ∧ outWait (el .ve) 0x300 4 = true ∧ ((el .ve).slot 1 0).isCtl = true ∧ (el .ve).boundOuts = [0, 1]
    ∧ (∀ k ∈ (el .ve).boundOuts, 1 ≤ ((el .ve).outch k).free) := by
  repeat' apply And.intro
  all_goals decide +kernel

theorem hyp_ConsumingAndEnding : isSlot (0x200 : BitVec 10) = true ∧ slotOk (el .ve) 0 0 = true ∧ (el .ve).hasCmp 0 = false
    ∧ ((el .ve).inch 0).q.length = 2 ∧ (∀ j < 2, malformed ((el .ve).slot 0 j) = false) ∧ rateMiss (el .ve) = none
    ∧ ((el .ve).inch 0).src = .el 9 0
    ∧ (rateMiss { el .ve with cls4 := (el .ve).cls4.set 0 { Clause.unused with ins := [⟨0, 1⟩], rates := [⟨false, 0, 1, 0⟩] } }).isSome = true := by
  repeat' apply And.intro
  all_goals decide +kernel

/-- A branch that is taken and one that is not, to the last word and past it; a loop over the words that follow, in and outside a loop;
and a break. -/
theorem hyp_BranchesAndLoops : Runs (on (el .ra)) (el .ra) ∧ ((el .ra).mask 0).bits = 0xFFFF ∧ ((el .ra).mask 2).bits = 0xFFFF ∧ 3 < (el .ra).body.length
    ∧ (el .ra).body.length ≤ 4 ∧ posAfter (el .ra) 3 = some 3 ∧ posAfter (el .ra) 4 = none ∧ (el .ra).run.loops.length < 4
    ∧ (let e := { el .ra with run := { Run.idle with loops := [⟨0, 2, 2⟩], pos := 1 } }
       posAfter e 1 = some 2 ∧ e.run.loops ≠ []) := by
  unfold Runs; repeat' apply And.intro
  all_goals decide +kernel

/-- Element 1 has a word in flight on its output 0, which feeds input 0 of element 0. -/
def pair : State :=
  { on { el .ve with ins := (el .ve).ins.set 0 { inp [] with src := .el 1 0 } } with
    elems := [{ el .ve with ins := (el .ve).ins.set 0 { inp [] with src := .el 1 0 } },
              { el .ve with outs := (el .ve).outs.set 0 { outp 3 with flight := [.word (word 7) 0], dst := .el 0 0, cred := 1 } }] }

theorem hyp_ChannelTraffic : (pair.elems[0]?).isSome = true
    ∧ (let e := (pair.elems[0]?).getD (el .ve)
       e.dead = false ∧ entEn (e.inch 0).ent = true ∧ (e.inch 0).src = .el 1 0)
    ∧ pair.outAt (.el 1 0) = some { outp 3 with flight := [.word (word 7) 0], dst := .el 0 0, cred := 1 }
    ∧ (let e := { el .ve with busy := false, ins := (el .ve).ins.set 0 (inp [ctl 9 0]) }
       e.active = true ∧ e.role = .actor ∧ entEn (e.inch 0).ent = true ∧ (e.inch 0).q = [ctl 9 0] ∧ (ctl 9 0).isCtl = true
       ∧ (ctl 9 0).kind = 9 ∧ someAccepts e 0 9 = false) := by
  repeat' apply And.intro
  all_goals decide +kernel

/-- An element that may start the firing of one clause, of none, and of one that was passed over eight times. -/
def ready1 (n age : Nat) : Elem :=
  { el .ve with
    busy := false
    ins := (Vector.replicate 32 InChan.unbound).set 0 (inp [word 5])
    cls4 := (Vector.replicate 4 Clause.unused).set 1
      { Clause.unused with used := true, en := true, acc := 0x7F, ins := [⟨0, n⟩], outs := [⟨0, 1⟩], age := age } }

theorem hyp_FiringChoice : (∀ e ∈ [ready1 1 0, ready1 2 0, ready1 1 8], e.active = true ∧ e.busy = false ∧ e.role = .actor ∧ headFault e = none
      ∧ armDue e = false ∧ allHeads e 4 = false ∧ allHeads e 6 = false)
    ∧ runnable (ready1 1 0) ((ready1 1 0).cls4.toList.getD 1 Clause.unused) = true
    ∧ runnable (ready1 2 0) ((ready1 2 0).cls4.toList.getD 1 Clause.unused) = false := by
  repeat' apply And.intro
  all_goals decide +kernel

def headed (c : Cls) (w : CWord) : Elem :=
  { el c with busy := false, ins := (Vector.replicate 32 InChan.unbound).set 0 (inp [w]), sect := true, armIn := 0, armOut := some 1 }

theorem hyp_ArmsSection : Idle (on (headed .ve (ctl 7 3))) 0 (headed .ve (ctl 7 3)) ∧ armDue (headed .ve (ctl 7 3)) = true
    ∧ entEn ((headed .ve (ctl 7 3)).outch 1).ent = true ∧ 1 ≤ ((headed .ve (ctl 7 3)).outch 1).free
    ∧ (let e := { headed .ve (ctl 7 3) with outs := (el .ve).outs.set 1 (outp 0) }
       armDue e = true ∧ (e.outch 1).free = 0) := by
  unfold Idle; repeat' apply And.intro
  all_goals decide +kernel

theorem hyp_DrainAndSwitch : Idle (on (headed .ag (ctl 4 0))) 0 (headed .ag (ctl 4 0)) ∧ allHeads (headed .ag (ctl 4 0)) 4 = true
    ∧ allHeads (headed .ag (ctl 6 2)) 6 = true ∧ phaseHolds (headed .ag (ctl 4 0)) = false ∧ refusal (headed .ag (ctl 4 0)) = none
    ∧ (∀ c ∈ (headed .ag (ctl 4 0)).boundOuts, 1 ≤ ((headed .ag (ctl 4 0)).outch c).free)
    ∧ Idle (on (headed .ag (ctl 6 2))) 0 (headed .ag (ctl 6 2)) ∧ Tab.find (on (headed .ag (ctl 6 2))).configs 2 = none
    ∧ phaseHolds ((headed .ag (ctl 4 0)).setPort 0 { port 0 with reqs := [req0] }) = true := by
  unfold Idle; repeat' apply And.intro
  all_goals decide +kernel

theorem hyp_ArrayResult : (let e := { el .ra with ra := { RaPart.empty with pipe := [result] } }
    (on e).elems[0]? = some e ∧ e.ra.pipe = [result]) := by decide +kernel

/-- A gate of region 1 with one seed and room, before it and after it, and with its drain placed. -/
def gate (o : Bool) (n : Nat) (d h : Bool) : Gate :=
  { isOut := o, out := outp 2, inp := { inp [] with src := .el 0 0 }, seeds := [word 3], admitted := n, drained := d, held := h, buf := 0x8000,
    cap := 1, written := n, dropped := 0, closed := false, passed := false, recd := false }

def gated (x : Gate) : State :=
  { pair with
    regions := [(1, { Region.blank with stt := 2, opened := some 0, gates := [x] })]
    elems := [{ el .ve with rgn := 1, outs := (el .ve).outs.set 0 { outp 3 with flight := [.word (ctl 9 5) 0], dst := .gate 1 0 } }] }

theorem hyp_SeedsEnter : (∀ n ∈ [0, 1], ((gated (gate false n false false)).region 1).gates[0]? = some (gate false n false false))
    ∧ ((gated (gate false 0 false false)).region 1).stt = 2 ∧ ((gated (gate false 0 false false)).region 1).opened ≠ none
    ∧ (gate false 0 false false).seeds[0]? = some (word 3) ∧ (gate false 0 true false).seeds.length ≤ 1
    ∧ (gate false 1 true false).drained = true ∧ (gate false 0 false true).held = true := by
  repeat' apply And.intro
  all_goals decide +kernel

/-- A gate with room, and one that is full, which a `halt` reaches. -/
theorem hyp_GateWritesWord : (∀ n ∈ [0, 1], memWf (gated (gate true n false false)).mem = true
      ∧ ((gated (gate true n false false)).region 1).gates[0]? = some (gate true n false false)
      ∧ (takeWord (gated (gate true n false false)) (.el 0 0)).isSome = true)
    ∧ (gate true 0 false false).written < 1 ∧ 1 ≤ (gate true 1 false false).written ∧ (ctl 9 5).isCtl = true ∧ (ctl 9 5).kind = 9
    ∧ ((gated (gate true 0 false false)).region 1).stt < 5 := by
  repeat' apply And.intro
  all_goals decide +kernel

-- Record queues ----------------------------------------------------------------------------------------------------------------------

/-- A word that ends its row. -/
def last (x : Nat) : CWord := { word x with lr := true }

/-- A record queue of two members, its input on channel 0, the returns on 1 and 2, the feeds on 0 and 1, its output on 2. -/
def dealer (q r : List CWord) (o : List (List Owed)) (left : Nat) : Elem :=
  { el .ve with
    busy := false, role := .recq
    ins := (((Vector.replicate 32 InChan.unbound).set 0 (inp q)).set 1 (inp r)).set 2 (inp [])
    outs := (((Vector.replicate 16 OutChan.unbound).set 0 (outp 4)).set 1 (outp 4)).set 2 (outp 2)
    rq := { RecqPart.empty with members := 2, dealt := [none, none], owed := o, left := left, sent := [0, 0], lead := true } }

theorem hyp_RecordBroadcast : Dealer (on (dealer [ctl 3 0] [] [[], []] 0)) 0 (dealer [ctl 3 0] [] [[], []] 0)
    ∧ Dealer (on (dealer [ctl 7 1, word 1] [] [[], []] 2)) 0 (dealer [ctl 7 1, word 1] [] [[], []] 2)
    ∧ ((dealer [] [] [] 0).outch 1).free = 4 ∧ (ctl 7 1).isCtl = true ∧ (ctl 7 1).kind = 7 ∧ (ctl 3 0).kind = 3
    ∧ ((dealer [ctl 7 1, word 1] [] [[], []] 2).inch 0).q[0]? = some (ctl 7 1) := by
  unfold Dealer; repeat' apply And.intro
  all_goals decide +kernel

theorem hyp_RecordDeal : Dealer (on (dealer [word 1, last 2] [] [[], []] 0)) 0 (dealer [word 1, last 2] [] [[], []] 0)
    ∧ ((dealer [word 1, last 2] [] [[], []] 0).inch 0).q = [word 1, last 2] ∧ (word 1).isCtl = false
    ∧ ((dealer [word 1, last 2] [] [[], []] 0).outch 0).free = entCap ((dealer [] [] [] 0).outch 0).ent
    ∧ (dealer [] [] [] 0).rq.pairs.length < 1024 := by
  unfold Dealer; repeat' apply And.intro
  all_goals decide +kernel

theorem hyp_RecordPublish : Dealer (on (dealer [] [word 1, last 2] [[.pair 0], []] 0)) 0 (dealer [] [word 1, last 2] [[.pair 0], []] 0)
    ∧ (dealer [] [word 1, last 2] [[.pair 0], []] 0).rq.owed.getD 0 [] = [.pair 0]
    ∧ ((dealer [] [word 1, last 2] [[.pair 0], []] 0).inch 1).q = [word 1, last 2]
    ∧ ((dealer [] [word 1, last 2] [[.pair 0], []] 0).inch 2).q = []
    ∧ Tab.find (Tab.set (dealer [] [] [] 0).rq.pairs 0 (word 1, last 2)) 0 = some (word 1, last 2) ∧ 2 ≤ ((dealer [] [] [] 0).outch 2).free := by
  unfold Dealer; repeat' apply And.intro
  all_goals decide +kernel

/-- An `eoi`, a `drain` and a `switch` at both returns, and a `drain` at the input. -/
def passer (k : Nat) (o : Owed) : Elem :=
  { dealer [ctl 4 0] [ctl k 0] [[o], [o]] 0 with
    ins := (((Vector.replicate 32 InChan.unbound).set 0 (inp [ctl 4 0])).set 1 (inp [ctl k 0])).set 2 (inp [ctl k 0]) }

theorem hyp_RecordQueuePasses : (∀ m < 2, ((passer 3 .eoi).rq.owed.getD m []).head? = some .eoi ∧ ((passer 3 .eoi).inch (m + 1)).q = [ctl 3 0])
    ∧ (∀ k ∈ [4, 6], ∀ m < 2, ((passer k .pass).rq.owed.getD m []).head? = some .pass ∧ ((passer k .pass).inch (m + 1)).q = [ctl k 0])
    ∧ (passer 3 .eoi).rq.pairs = [] ∧ (passer 3 .eoi).rq.passing = none ∧ (passer 3 .eoi).rq.left = 0 ∧ (passer 3 .eoi).rq.members = 2
    ∧ ((passer 3 .eoi).outch 2).free = 2 ∧ (∀ m < 2, ((passer 3 .eoi).outch m).free = 4) ∧ (passer 3 .eoi).slot 0 0 = ctl 4 0
    ∧ Dealer (on (passer 3 .eoi)) 0 (passer 3 .eoi) ∧ Dealer (on (dealer [ctl 4 0] [] [[], []] 0)) 0 (dealer [ctl 4 0] [] [[], []] 0)
    ∧ (ctl 4 0).kind = 4 ∧ (ctl 6 0).kind = 6 := by
  unfold Dealer; repeat' apply And.intro
  all_goals decide +kernel

-- Homes and engines --------------------------------------------------------------------------------------------------------------------

def loading (r : Req) (sb : List PStore) : Elem :=
  { (agent 0).setPort 0 { port 0 with reqs := [r], outst := 1 } with rgn := 1, ag := { ((agent 0).setPort 0 { port 0 with reqs := [r], outst := 1 }).ag with sb := sb } }

/-- A store of the word at 0x20000, released or not. -/
def store0 (rel : Bool) : PStore :=
  { seq := 0, base := 0x20000, data := 9, mask := wholeMask, pz := false, tn := false, port := some 0, acc := false, rel := rel, reg := none,
    via := none, ord := 0, pol := 0, tcl := 0 }

/-- A sector held by the cache of die 1 for region 1, homed on die 0. -/
def cached : RdcSec := { die := 1, rgn := 1, addr := 0x20000, data := 0, pz := 0, tn := 0, bad := false }

theorem hyp_LoadsAnswered : ((loading req0 []).port 0).reqs = [req0] ∧ req0.stamp = none
    ∧ ((module (on (loading req0 []))).region 1).stt < 5 ∧ (module (on (loading req0 []))).bad.contains (req0.addr / 64) = false
    ∧ olderHere (loading req0 []) req0 = false ∧ isLocal (loading req0 []).die 0x20000 = true
    ∧ isLocal 1 0x20000 = false ∧ rdcFind { on (loading req0 []) with rdc := [cached] } 1 1 0x20000 = some cached
    ∧ olderHere (loading { req0 with skip := true } []) req0 = false
    ∧ olderHere ((loading req0 []).setPort 1 { port 0 with reqs := [{ req0 with ord := 0 }] }) { req0 with ord := 1 } = true := by
  repeat' apply And.intro
  all_goals decide +kernel

theorem hyp_OwnStoresSeen : (store0 false).base = 0x20000 ∧ (store0 false).seq < 1 ∧ (store0 false).reg = none
    ∧ (store0 false).mask.getLsbD 0 = true ∧ (store0 false).mask.getLsbD 511 = true := by decide +kernel

/-- A stamped load of 999 on a die whose earliest is 1,000, and of 1,000, which waits. -/
theorem hyp_StampedLoads : ((loading { req0 with stamp := some 999 } []).port 0).reqs = [{ req0 with stamp := some 999 }]
    ∧ 999 < ((module (on (agent 1))).die 0).early ∧ ((module (on (agent 1))).die 0).early ≤ 1000
    ∧ (dryDie (module (on (agent 1))) 0).bad.contains (0x20000 / 64) = false
    ∧ ((dryDie (module (on (agent 1))) 0).verOf 0x20000).stamp ≤ 999
    ∧ (({ on (agent 1) with vers := [(0x20000 / 128, { stamp := 1200, prev := some { data := 0, stamp := 999, pz := 0, tn := 0 } })] } : State).verOf
        0x20000).stamp = 1200 := by
  repeat' apply And.intro
  all_goals decide +kernel

theorem hyp_StoresAccepted : (∀ b ∈ [true, false], (module (on (loading req0 [store0 b]))).unit (.el 0) = some (loading req0 [store0 b])
      ∧ (loading req0 [store0 b]).ag.sb.find? (fun q => !q.acc) = some (store0 b)
      ∧ memWf (module (on (loading req0 [store0 b]))).mem = true ∧ (store0 b).reg = none)
    ∧ (store0 true).base % 64 = 0 ∧ isHbm (store0 true).base = true ∧ (store0 true).made = wholeMask ∧ (store0 true).made ≠ 0 ∧ (store0 true).lost = false
    ∧ ({ store0 true with made := 1 } : PStore).made ≠ wholeMask ∧ ({ store0 true with lost := true } : PStore).lost = true
    ∧ NoReset (module (on (loading req0 []))) := by
  unfold NoReset; repeat' apply And.intro
  all_goals decide +kernel

def tsts0 (st : Nat) : Tsts :=
  { port := 3, base := 0x20000, data := 9, mask := wholeMask, pz := false, tn := false, stamp := st, ctr := [], via := none, pol := 0,
    tcl := 0 }

theorem hyp_StampedStoresArrive : (tsts0 1000).port < 4 ∧ (tsts0 1000).stamp ≤ ((module (on (agent 1))).die 0).early
    ∧ ((module (on (agent 1))).die 0).early < (tsts0 1001).stamp ∧ (wetOf (module (on (agent 1))) 0x20000).length < 4096
    ∧ NoReset (module (on (agent 1))) := by
  unfold NoReset; repeat' apply And.intro
  all_goals decide +kernel

def wet0 (st : Nat) : Wet :=
  { die := 0, base := 0x20000, data := 9, mask := wholeMask, pz := false, tn := false, stamp := st, agent := 0, order := 0 }

theorem hyp_StampedStoresDry : memWf (module (on (agent 1))).mem = true
    ∧ [wet0 1000].filter (fun w => w.die == 0 && decide (w.stamp < ((module (on (agent 1))).die 0).early)) = []
    ∧ [wet0 999].filter (fun w => w.die == 0 && decide (w.stamp < ((module (on (agent 1))).die 0).early)) = [wet0 999]
    ∧ (wet0 999).base % 64 = 0 ∧ ((module (on (agent 1))).verOf 0x20000).stamp = (wet0 0).stamp := by
  repeat' apply And.intro
  all_goals decide +kernel

theorem hyp_SectorEvicted : [cached].filter (fun y => y.die == 1) = [cached] := by decide +kernel

/-- A core's copy of one unit from 0x4000 to 0x5000, one that has no unit left, and one whose source has a defect. -/
def copying (n : Nat) : EngOp :=
  { co := 3, kind := 1, var := 0, args := Payload.ofList [0x4000, 0, 0x5000, 0, BitVec.ofNat 32 (64 * n)], argb := 0, imm := 0, done := 0, fcs := 0,
    before := 0, tn := false, why := [], ran := false, ports := [], writes := [],
    tile := 0, res := none, spoilt := none }

def copier (n : Nat) : Elem :=
  { core with ag := { AgPart.empty with cos := AgPart.empty.cos.set 3 (coMake 1 0 1 0), eng := [copying n] } }

def engOk (r : EngRes) : Bool := match r with | .ok _ => true | .error _ => false

def failed (r : EngRes) : Bool := match r with | .error (.fail _) => true | _ => false
def stopped (r : EngRes) : Bool := match r with | .error (.stop _) => true | _ => false

theorem hyp_EngineSteps : (∀ n ∈ [0, 1], (onCore (copier n)).unit (.fc 2) = some (copier n)
      ∧ (copier n).ag.eng.find? (fun x => x.co == 3) = some (copying n) ∧ coRunning ((copier n).co 3) = true ∧ (copying n).total true = n)
    ∧ NoReset (onCore (copier 0)) ∧ engOk (engStep (onCore (copier 1)) (.fc 2) (copier 1) (copying 1) 0) = true
    ∧ failed (engStep (onCore (copier 1)) (.fc 2) (copier 1) { copying 1 with args := Payload.ofList [0, 0x10000000] } 0) = true
    ∧ stopped (engStep { module (on (agent 0)) with tiles := [] } (.el 0) (agent 0) { copying 1 with args := 0, ports := [port 0, port 0] } 0) = true
    ∧ coreReach (onCore (copier 1)) 0x4000 64 = true ∧ (onCore (copier 1)).bad.contains (0x4000 / 64) = false := by
  unfold NoReset; repeat' apply And.intro
  all_goals decide +kernel


theorem hyp_CollectiveResult : (∀ l ∈ [[Reg.zero], [Reg.zero], [Reg.zero], [Reg.zero], [Reg.zero]], l.length = 1) ∧ (5 : Nat) ≤ 2 ^ 3
    ∧ (5 + 2 ^ 1 - 1) / 2 ^ 1 = 3 ∧ ¬ 2 * 2 + 1 < (5 + 2 ^ 0 - 1) / 2 ^ 0 ∧ 0 < 1 ∧ (0 : Nat) ≠ 5 := by decide

-- Bridges and time -------------------------------------------------------------------------------------------------------------------

/-- An element on die 0 whose output 0 has a word in flight to die 1, in stream 5 over bridge BE. -/
def crossing : State :=
  on { el .ve with
       outs := (el .ve).outs.set 0 { outp 3 with flight := [.word (word 7) 0], cred := 2, via := [⟨0, 1, 5⟩] } }

/-- A flit of a kind, a stream, a sequence number and credits, with its `crc` right, or not. -/
def flit (kind strm seq cstrm ccnt : Nat) (right : Bool) : BitVec 640 :=
  let v := fieldsNat [(128, 7), (114, strm), (98, seq), (96, kind), (84, ccnt), (74, cstrm)]
  BitVec.ofNat 640 (v + (crc32c (littleBytes 76 (v / 2 ^ 32))).toNat + if right then 0 else 1)

theorem hyp_BridgeFlits : NoReset crossing ∧ peerBridge 1 0 = some (0, 1) ∧ streamAt crossing 0 1 5 = some (.el 0 0, 0)
    ∧ crossing.outAt (.el 0 0) = some { outp 3 with flight := [.word (word 7) 0], cred := 2, via := [⟨0, 1, 5⟩] }
    ∧ Tab.get 0 (crossing.bridge 1 0).seqIn 5 = 0
    ∧ (flit 3 0 0 0 0 true).extractLsb' 96 2 = 3 ∧ (flit 2 0 0 0 0 true).extractLsb' 96 2 = 2 ∧ flSound (flit 2 0 0 0 0 true) = true
    ∧ (∀ n ∈ [0, 1], ((flit 0 5 n 0 0 true).extractLsb' 98 16).toNat = n) ∧ ((flit 0 5 0 0 0 true).extractLsb' 114 10).toNat = 5
    ∧ (flit 0 5 0 0 0 true).extractLsb' 96 2 = 0 ∧ ((flit 0 5 0 0 0 true).extractLsb' 84 12).toNat = 0
    ∧ flSound (flit 0 5 0 0 0 true) = true ∧ flSound (flit 0 5 0 0 0 false) = false
    ∧ (flit 1 0 0 5 1 true).extractLsb' 96 2 = 1 ∧ flSound (flit 1 0 0 5 1 true) = true ∧ ((flit 1 0 0 5 1 true).extractLsb' 74 10).toNat = 5
    ∧ ((flit 1 0 0 5 1 true).extractLsb' 84 12).toNat = 1 := by
  unfold NoReset; repeat' apply And.intro
  all_goals decide +kernel

theorem hyp_BeaconsSent : (32 : Nat) ≤ 32 ∧ peerBridge 32 0 = some (0, 3) ∧ peerBridge 0 1 = some (1, 0) ∧ peerBridge 15 2 = some (31, 2) := by
  decide +kernel

/-- Die 1 with a beacon at a bridge, told before of another bridge or of none. -/
def told (br upst : Nat) (rtr : Bool) : State :=
  { State.reset with
    dies := [(1, { die0 with upst := upst, brs := [(br, { Bridge.initial with beacons := [(0, if rtr then 1 <<< 199 else 0)] })] })] }

theorem hyp_BeaconsApplied : (∀ b ∈ [0, 2], ((told b 0 false).bridge 1 b).beacons = [(0, 0)]) ∧ upstream (told 0 0 false) 1 = 0
    ∧ ((told 0 0 true).bridge 1 0).beacons = [(0, (1 : BitVec 512) <<< 199)] ∧ ((told 0 3 false).die 1).upst = 3 := by
  repeat' apply And.intro
  all_goals decide +kernel

theorem hyp_TimeMarks : (let d : Die := { die0 with bage := 100001, hold := false, lim := 999 }
    100000 < d.bage ∧ d.lim < d.width ∧ d.wide = false ∧ (Die.reset 0).bage ≤ 100000)
    ∧ State.reset.linkDown.contains State.reset.ptpLink = false
    ∧ ({ State.reset with linkDown := [0, 1] } : State).linkDown.contains State.reset.ptpLink = true
    ∧ ({ State.reset with dies := [(32, { die0 with lock := true, bage := 2000000001 })] } : State).die 32
        = { die0 with lock := true, bage := 2000000001 } := by
  repeat' apply And.intro
  all_goals decide +kernel

theorem hyp_TimePasses : (32 : Nat) ≤ 32 ∧ 0 < 1 ∧ (∀ n ∈ [0, 1], ((told 0 n false).die 1).upst = n) := by decide +kernel

-- Queues and launches ----------------------------------------------------------------------------------------------------------------

/-- An object of no actor (R288, R289, R305): a header, a table of six sections, and a digest. -/
def object (d : Nat) : List Byte :=
  littleBytes 64 (fieldsNat [(128, 368), (96, 6), (32, 1), (0, 0x46554C59)])
  ++ [2, 3, 5, 6, 14].flatMap (fun k => littleBytes 16 (fieldsNat [(32, 160), (0, k)]))
  ++ littleBytes 16 (fieldsNat [(96, 1), (64, 208), (32, 160), (0, 15)]) ++ littleBytes 208 d

/-- The digest of "abc" that FIPS 180-4 gives in its appendix, its first byte DD. -/
theorem test_digest : (sha512 [0x61, 0x62, 0x63]).take 8 = [0xDD, 0xAF, 0x35, 0xA1, 0x93, 0x61, 0x7A, 0xBA] := by decide +kernel

/-- The loader accepts the object of no actor with its digest, and not with another. -/
theorem test_loader : loaderCheck (object (sha512Nat (object 0))) 368 false = none
    ∧ (loaderCheck (object 5) 368 false).map Report.code = some 3 := by
  repeat' apply And.intro
  all_goals decide +kernel

def pkt (l : List (Nat × Nat)) : BitVec 1536 := BitVec.ofNat 1536 (fieldsNat l)

/-- Queue 0 with a ring of 1 at 0x6000, one packet in it, and an object at 0x8000. -/
def queued (p : BitVec 1536) (d : BitVec 512) (o : List Byte) : State :=
  let x : Queue := { Queue.initial with desc := d ||| BitVec.ofNat 512 (fieldsNat [(448, 0x6000), (256, 1)]), mapped := true, addr := some 0x5000 }
  { State.reset with
    queues := [(0, x)]
    mem := memWrite (memWrite [] 0x6000 (littleBytes 192 p.toNat)) 0x8000 o }

def register (l : List (Nat × Nat)) : BitVec 1536 := pkt ([(832, 0x8000), (800, 368), (0, 2)] ++ l)

theorem hyp_Doorbells : (0 : Nat) < 4096 ∧ memWf (queued 0 0 []).mem = true ∧ (queued 0 0 []).linkDown.contains 0 = false
    ∧ (let x := (queued 0 0 []).queue 0
       x.mapped = true ∧ x.halt = false ∧ x.desc.extractLsb' 288 32 = 0 ∧ x.desc.extractLsb' 172 4 = 0)
    ∧ ({ State.reset with linkDown := [0] } : State).linkDown.contains 0 = true
    ∧ (let x := ({ State.reset with queues := [(0, { Queue.initial with addr := some 0x5000 })] } : State).queue 0
       x.mapped = false ∧ x.addr = some 0x5000) ∧ (State.reset.queue 0).mapped = false ∧ (State.reset.queue 0).addr = none
    ∧ ((1 : BitVec 64).toNat + 2 ^ 32 - 0) % 2 ^ 32 ≤ 2 ^ 0 ∧ 2 ^ 0 < ((2 : BitVec 64).toNat + 2 ^ 32 - 0) % 2 ^ 32
    ∧ (let x := ({ State.reset with queues := [(0, { Queue.initial with mapped := true, halt := true })] } : State).queue 0
       x.mapped = true ∧ x.halt = true) := by
  repeat' apply And.intro
  all_goals decide +kernel

/-- A descriptor that is refused, of a reserved tick mode and without a period, and one that is taken. -/
theorem hyp_QueueMapping : ((queued 0 0 []).queue 0).mapped = true ∧ ((queued 0 0 []).queue 0).addr = some 0x5000
    ∧ (State.reset.queue 0).mapped = false ∧ (State.reset.queue 0).desc.extractLsb' 192 32 = 0
    ∧ (let d := BitVec.ofNat 512 (memNat (memWrite [] 0x5000 (littleBytes 64 (2 ^ 168 + 2 ^ 167))) 0x5000 64)
       (d.extractLsb' 167 2).toNat = 3)
    ∧ (let d := BitVec.ofNat 512 (memNat (memWrite [] 0x5000 (littleBytes 64 (2 ^ 167))) 0x5000 64)
       (d.extractLsb' 167 2).toNat = 1 ∧ d.extractLsb' 352 32 = 0)
    ∧ (let d := BitVec.ofNat 512 (memNat State.reset.mem 0x5000 64)
       (d.extractLsb' 167 2).toNat = 0 ∧ d.extractLsb' 192 32 = 0)
    ∧ (State.reset.queue 0).halt = false ∧ (State.reset.queue 0).addr = none
    ∧ (let x : Queue := { Queue.initial with addr := some 0x5000 }
       x.addr ≠ none ∧ x.halt = false ∧ qdCtx (BitVec.ofNat 512 (fieldsNat [(160, 0)])) = qdCtx x.desc ∧ qdCtx (BitVec.allOnes 512) ≠ qdCtx x.desc) := by
  repeat' apply And.intro
  all_goals decide +kernel

theorem hyp_CompletionRecord : memWf State.reset.mem = true ∧ (Compl.plain 1 2 3).shash < 2 ^ 64 ∧ (Compl.plain 1 2 3).rsig < 2 ^ 512
    ∧ ((pkt [(960, 0x4000)]).extractLsb' 960 64).toNat % 64 = 0 := by
  repeat' apply And.intro
  all_goals decide +kernel

/-- A launch of the object under handle 7, on one folio of one die. -/
def launch (l : List (Nat × Nat)) : BitVec 1536 := pkt ([(544, 7), (512, 1), (504, 1), (0, 1)] ++ l)

def config : Machine.Config := { ctx := 0, obj := object 0, binds := [], live := true, drop := none }

def configured (p : BitVec 1536) (d : BitVec 512) : State := { queued p d [] with configs := [(7, config)] }

theorem hyp_PacketChecks : liveConfig (configured 0 0) 0 (pkCfg (launch [])) = some config
    ∧ liveConfig (configured 0 0) 0 (pkCfg (launch [(544, 1)])) = none
    ∧ launchErr (configured 0 0) 0 0 (launch []) = 0 ∧ launchErr (configured 0 0) 0 0 (launch [(8, 1)]) = 1
    ∧ launchErr (configured 0 0) 0 0 (launch [(544, 1)]) = 2 ∧ launchErr (configured 0 (1 <<< 166)) 0 0 (launch []) = 3
    ∧ launchErr (configured 0 0) 0 0 (launch [(896, 0x7000), (480, 1)]) = 4 ∧ launchErr (configured 0 0) 0 0 (launch [(655, 1)]) = 5
    ∧ launchErr (configured 0 0) 0 0 (launch [(528, 1)]) = 6
    ∧ launchErr { configured 0 (1 <<< 167) with
        queues := [(0, { ((configured 0 (1 <<< 167)).queue 0) with ticked := some 3 })] } 0 0 (launch [(576, 3)]) = 7
    ∧ launchErr (configured 0 0) 0 0 (launch [(496, 1)]) = 8 ∧ launchErr (configured 0 0) 0 0 (launch [(512, 4608)]) = 9
    ∧ launchErr (configured 0 0) 0 0 (launch [(832, 0x7000), (800, 4)]) = 10 := by
  repeat' apply And.intro
  all_goals decide +kernel

/-- A region kept by its launch, which is over. -/
def kept : Region := { Region.blank with stt := 2, keep := true }

theorem hyp_PacketsTaken : headPacket (queued (register []) 0 []) 0 = some (register []) ∧ headPacket (queued (launch []) 0 []) 0 = some (launch [])
    ∧ headPacket (queued (pkt [(0, 3)]) 0 []) 0 = some (pkt [(0, 3)]) ∧ headPacket (queued (pkt [(0, 4)]) 0 []) 0 = some (pkt [(0, 4)])
    ∧ headPacket (queued (pkt [(0, 5)]) 0 []) 0 = some (pkt [(0, 5)])
    ∧ (queued (launch []) 0 []).launches = [] ∧ pkDeps (launch []) = [] ∧ (launch []).getLsbD 465 = false
    ∧ launchErr (pastHead (configured (launch []) 0) 0) 0 0 (launch []) = 0 ∧ launchErr (pastHead (queued (launch []) 0 []) 0) 0 0 (launch []) = 2
    ∧ (∀ k ∈ [2, 3, 4], pkClean (pkt [(8, 1), (0, k)]) = false ∧ pkClean (pkt [(0, k)]) = true)
    ∧ qdSgn ((queued (register []) (1 <<< 166) []).queue 0).desc = true ∧ hdrSigned (object 0) = false
    ∧ (∀ w ∈ (queued (launch []) 0 []).work, w.2.head? ≠ some 0)
    ∧ (∀ k ∈ [1, 2, 3, 4, 5], let s : State := { queued (pkt [(0, k)]) 0 [] with work := [(2, [0])] }
        headPacket s 0 = some (pkt [(0, k)]) ∧ ∃ w ∈ s.work, w.2.head? = some 0)
    ∧ (let p := launch [(465, 1)]
       headPacket (queued p 0 []) 0 = some p ∧ p.getLsbD 465 = true ∧ 1 < ((queued p 0 []).queue 0).seqs + 1 + 1)
    ∧ (∀ x ∈ (configured 0 0).configs, x.2.drop = none) := by
  repeat' apply And.intro
  all_goals decide +kernel

theorem hyp_RegisterPacket : (let s := pastHead (queued (register []) 0 (object (sha512Nat (object 0)))) 0
      loaderCheck (memBytes s.mem (pkSadr (register [])) (pkNsw (register []))) 368 false = none)
    ∧ (loaderCheck (memBytes (pastHead (queued (register []) 0 []) 0).mem (pkSadr (register [])) 368) 368 false).isSome = true
    ∧ bindsOk State.reset 0 (object 0) (pkBinds State.reset (register [])) = true
    ∧ tensorsBound (object 0) (pkBinds State.reset (register [])) = true
    ∧ bindsOk State.reset 0 (object 0) (pkBinds State.reset (register [(896, 0x7000), (480, 1)])) = false
    ∧ State.reset.configs.length < 2 ^ 32 := by
  repeat' apply And.intro
  all_goals decide +kernel

theorem hyp_OtherPackets : liveConfig (configured (pkt [(544, 7), (0, 3)]) 0) 0 7 = some config
    ∧ liveConfig (configured (pkt [(544, 6), (0, 3)]) 0) 0 6 = none ∧ (configured (pkt [(544, 7), (0, 3)]) 0).launches = []
    ∧ keptFree { queued (pkt [(528, 3), (0, 4)]) 0 [] with regions := [(3, kept)] } 0 3 = true ∧ keptFree (queued (pkt [(528, 3), (0, 4)]) 0 []) 0 3 = false := by
  repeat' apply And.intro
  all_goals decide +kernel

theorem hyp_FoliosGranted : chooseFolios State.reset 1 1 false = some [(0, 0)] := by decide +kernel

def waiting (n phase : Nat) : Launch := { newLaunch 1 0 0 1 (launch [(512, n)]) none [] with phase := phase, order := 1 }

def grantable (n : Nat) (bad : Bool) : State :=
  { configured 0 0 with launches := [waiting n 0], mapBad := bad }

/-- An object with one actor's record. -/
def object1 : List Byte :=
  littleBytes 64 (fieldsNat [(128, 112), (96, 1), (32, 1), (0, 0x46554C59)])
  ++ littleBytes 16 (fieldsNat [(96, 1), (64, 32), (32, 80), (0, 2)]) ++ littleBytes 32 0

def placed (x : Except (Nat × NoFit) (Nat × Plan)) : Bool :=
  match x with
  | .ok p => (giveStreams State.reset p.2.ways []).isSome
  | .error _ => false

theorem hyp_RegionGranted : ({ State.reset with safe := true } : State).safe = true ∧ State.reset.launches = []
    ∧ (readyOrder (grantable 1 false)).map (fun l => (l.phase, pkRgn l.pkt, pkCfg l.pkt, pkNfol l.pkt)) = [(0, 0, 7, 2)]
    ∧ chooseFolios (grantable 1 false) 2 1 false = some [(0, 0), (0, 1)] ∧ Tab.find (grantable 1 false).configs 7 = some config
    ∧ placed (placeFirst (grantable 1 false) object1 [(0, 0), (0, 1)] (foldChoices object1 0)) = true
    ∧ placed (placeFirst (grantable 1 true) object1 [(0, 0), (0, 1)] (foldChoices object1 0)) = false := by
  repeat' apply And.intro
  all_goals decide +kernel

theorem hyp_RegionIdFree : (({ grantable 1 false with launches := [{ waiting 1 1 with rgn := 1 }] } : State).launches[0]?).map Launch.phase = some 1 := by
  decide +kernel

/-- A snapshot of no element. -/
def snap : Snap := { mkn := 3, elems := [], gates := [], fold := 0, folios := [], q := 0, seq := 1 }

/-- Region 1 in a state, its launch in a phase, on queue 0. -/
def running (g : Region) (phase : Nat) (d : BitVec 512) (es : List Elem) : State :=
  { configured 0 d with
    launches := [{ waiting 1 phase with rgn := 1 }]
    regions := [(1, g)]
    elems := es
    dies := [(0, die0), (32, die0)] }

def reg (n : Nat) : Region := { Region.blank with stt := n, acked := true, last := some snap }

/-- A region whose launch is released in a mode, at a tick that starts at a stamp. -/
def ticking (mode start : Nat) : Region := { reg 2 with clk := { tmod := mode, orig := start, per := 5 } }

theorem hyp_LaunchRuns : (∀ n ∈ [1, 2, 3], ((running (reg n) 1 0 []).region 1).stt = n) ∧ (reg 1).opened = none ∧ (reg 2).acked = true
    ∧ (reg 1).clk.tmod = 0 ∧ (∀ m ∈ [1, 2], (ticking m 1000).clk.tmod = m) ∧ (ticking 1 1000).clk.orig + (ticking 1 1000).tick * (ticking 1 1000).clk.per = 1000
    ∧ (∃ l ∈ (running (ticking 1 1000) 1 0 []).launches, l.rgn = 1 ∧ l.phase = 1 ∧ l.ep = ((running (ticking 1 1000) 1 0 []).queue 0).ep)
    ∧ ((running (reg 2) 1 0 []).die 32).early = 1000
    ∧ (running (reg 2) 1 0 []).launches.find? (fun x => x.phase == 4 && x.rgn == 1) = none
    ∧ (running (reg 2) 1 0 []).launches.find? (fun x => x.phase == 1 && x.rgn == 1) = some { waiting 1 1 with rgn := 1 }
    ∧ drainPassed (running { reg 2 with opened := some 0 } 1 0 []) 1 = true ∧ drainPassed (running (reg 2) 1 0 []) 1 = false
    ∧ (running (reg 2) 4 0 []).launches.find? (fun x => x.phase == 4 && x.rgn == 1) = some { waiting 1 4 with rgn := 1 }
    ∧ (reg 3).last.isSome = true := by
  repeat' apply And.intro
  all_goals decide +kernel

/-- The command die with a reference, at whose earliest, 1,000, a tick starts that is reached at once, in eleven ns, and not in one. -/
def led : Die := { die0 with upst := 1 }
def awaiting : State := { running (ticking 1 1010) 1 0 [] with dies := [(0, die0), (32, led)] }

theorem hyp_GatesOnTime : led.early = 1000 ∧ led.reaches 1000 5 = some 0 ∧ led.reaches 1010 50 = some 11 ∧ led.reaches 1010 1 = none
    ∧ (let g := ticking 1 1010
       (awaiting.regions.map Prod.fst).Nodup ∧ (1, g) ∈ awaiting.regions ∧ g.stt = 2 ∧ g.acked = true ∧ g.opened = none ∧ g.clk.tmod ≠ 0) := by
  repeat' apply And.intro
  all_goals decide +kernel

theorem test_gates_open_in_time : ((elapse 50 awaiting).region 1).opened = some 11 ∧ ((elapse 50 awaiting).region 1).late = false
    ∧ ((elapse 5 awaiting).region 1).opened = none := by decide +kernel

-- Regions under firmware's control ------------------------------------------------------------------------------------------------------

/-- An element of region 1, of a class, with what `f` makes of it. -/
def member (c : Cls) (f : Elem → Elem) : Elem := f { el c with rgn := 1 }

/-- A stop of a class at a time. -/
def stopAt (c t : Nat) : Stop := { cls := c, sub := 0, pos := 0, frec := 0, addr := 0, tile := 0, since := t }

/-- Region 1 frozen, its context with a lease, suspended or not. -/
def leased (sus : Nat) : State :=
  { running (reg 3) 1 0 [] with mem := memWrite [] State.reset.ctxAt (ctxRec [(304, sus), (288, 1), (272, 7), (208, 500)]) }

theorem hyp_ResumeAndHalt : (∀ n ∈ [2, 3], ((running (reg n) 1 0 []).region 1).stt = n)
    ∧ anyStop (running (reg 2) 1 0 [member .ag (fun e => { e with stop := some (stopAt 1 0) })]) 1 = true
    ∧ anyStop (running (reg 2) 1 0 []) 1 = false ∧ (stopAt 1 0).cls ≠ 18
    ∧ coStp (BitVec.ofNat 32 (2 ^ 30 + 2 ^ 29)) = true ∧ coStp 0 = false
    ∧ (∀ l ∈ [[], [0]], recordWaits { running (reg 2) 1 0 [] with dies := [(0, { die0 with waiting := l })] }
        (member .ag (fun e => { e with stop := some (stopAt 1 0) })) = (l == [0]))
    ∧ (let s := leased 1
       ctxLsus (s.ctx (s.region 1).ctx) = true ∧ ctxLrgn (s.ctx (s.region 1).ctx) = 1 ∧ (s.region 1).stt = 3)
    ∧ ctxLsus ((leased 0).ctx 0) = false ∧ (Region.blank).stt = 0 := by
  repeat' apply And.intro
  all_goals decide +kernel

/-- A load of region 1 without its answer, and a word in the region. -/
def loads : Elem := member .ag (fun e => e.setPort 0 { port 0 with reqs := [req0], outst := 1 })

theorem hyp_ResetAndBlot : (∀ n ∈ [4, 5, 6], ((running (reg n) 1 0 []).region 1).stt = n)
    ∧ (∀ k ∈ [3, 5], ((running { reg 5 with rstp := k } 1 0 []).region 1).rstp = k)
    ∧ (let s := { running { reg 5 with rstp := 3 } 1 0 [loads] with now := 1000000 }
       (s.region 1).since + 1000000 ≤ s.now ∧ regionIfl s 1 3 = 1)
    ∧ (running { reg 5 with rstp := 3 } 1 0 [loads]).now < ((running { reg 5 with rstp := 3 } 1 0 [loads]).region 1).since + 1000000
    ∧ ctxLid ((leased 1).ctx 0) = 7 ∧ leaseLeft (leased 1) 0 = 500 ∧ ctxLid ((running (reg 5) 1 0 []).ctx 0) = 0
    ∧ (reg 4).rstp ≤ 2
    ∧ regionOcc (running (reg 6) 1 0 []) 1 = 0 ∧ regionOcc (running (reg 6) 1 0 [loads]) 1 = 3 := by
  repeat' apply And.intro
  all_goals decide +kernel

/-- The queue of a launch that retries. -/
def retrying (g : Region) : State := { running g 1 0 [] with queues := [(0, { Queue.initial with ctl := 1 <<< 32 })] }

theorem hyp_Release : ((running (reg 7) 1 0 []).region 1).stt = 7 ∧ (reg 7).fault = none
    ∧ (∀ k ∈ [12, 13, 15, 16], ∀ b, ((retrying { reg 7 with fault := some (k, .granule 64, b) }).region 1).fault = some (k, .granule 64, b))
    ∧ ((retrying (reg 7)).queue 0).ctl.getLsbD 32 = true ∧ (reg 7).hcode = none ∧ (reg 7).last.isSome = true ∧ (reg 7).retry = []
    ∧ (∀ b, (let x : Retry := { cls := 13, unit := .granule 64, anew := b, blamed := false, frec := 0x400100, point := [] }
        ((retrying { reg 7 with retry := [{ x with cls := 14 }, x] }).region 1).retry = [{ x with cls := 14 }] ++ x :: []
        ∧ x.cls = 13 ∧ x.unit = .granule 64 ∧ x.blamed = false ∧ ({ x with cls := 14 } : Retry).cls ≠ 13))
    ∧ memWf (retrying (reg 7)).mem = true
    ∧ (let x : Die := { die0 with waiting := [BitVec.ofNat 2048 (2 ^ 960)] }
       x.waitsAt 1 (x.slot 0) (BitVec.ofNat 2048 (2 ^ 960)) 0 = true ∧ x.slot 0 ≠ 0 ∧ x.waitsAt 2 (x.slot 0) (BitVec.ofNat 2048 (2 ^ 960)) 0 = false)
    ∧ FaultUnit.slice 0 3 1 ≠ FaultUnit.slice 0 3 2 ∧ unitEntry (.slice 0 3 2) ≠ none
    ∧ ((running (reg 7) 1 0 []).queue 0).ctl.getLsbD 32 = false ∧ unitEntry (.granule 64) = some (0, 6, 0, 0)
    ∧ unitEntry (.port 0) = none ∧ (reg 0).stt = 0 := by
  repeat' apply And.intro
  all_goals decide +kernel

theorem hyp_Watchdogs : (let e := member .ve (fun e => { e with run := { Run.idle with held := 2 ^ 26 } })
      (running (reg 2) 1 0 [e]).elems[0]? = some e ∧ e.active = true ∧ e.busy = true ∧ 2 ^ 26 ≤ e.run.held)
    ∧ (let s := { running { reg 2 with opened := some 0 } 1 0 [] with
                  now := 1001
                  queues := [(0, { Queue.initial with ctl := 1 })] }
       (s.die 0).waiting = [] ∧ ((s.die 0).ringTail + 2 ^ 32 - (s.die 0).ringHead) % 2 ^ 32 < 2 ^ ((s.die 0).ringSize + 4) ∧ memWf s.mem = true
       ∧ (s.region 1).opened = some 0 ∧ (s.queue 0).ctl.toNat % 2 ^ 32 = 1 ∧ 0 + (s.region 1).wdHeld + 1000 * 1 < s.now)
    ∧ (let d := { die0 with ringTail := 16 }
       2 ^ (d.ringSize + 4) ≤ (d.ringTail + 2 ^ 32 - d.ringHead) % 2 ^ 32)
    ∧ (let e := member .ag (fun e => { e with stop := some (stopAt 1 0) })
       let s := { running (reg 2) 1 0 [e] with now := 50000 }
       s.elems[0]? = some e ∧ e.cls = .ag ∧ e.role = .actor ∧ e.dead = false ∧ e.frozen = false ∧ e.stop = some (stopAt 1 0)
       ∧ (stopAt 1 0).since + 50000 ≤ s.now ∧ s.now < (stopAt 1 1).since + 50000 ∧ (s.region e.rgn).stt = 2 ∧ (s.region e.rgn).snap = none) := by
  repeat' apply And.intro
  all_goals decide +kernel

/-- Two elements of which the second has a marker in flight to the first. -/
def marked (f : Elem → Elem) : State :=
  let one := (pair.elems[0]?).getD (el .ve)
  { pair with
    elems := [f one, { el .ve with outs := (el .ve).outs.set 0 { outp 3 with flight := [.mark 4], dst := .el 0 0 } }]
    regions := [(1, { reg 2 with gates := [{ gate true 0 false false with inp := { inp [] with src := .el 1 0 } }] })] }

theorem hyp_SnapshotMarkers : (takeMark (marked id) (((marked id).elems[0]?.getD (el .ve)).inch 0).src).isSome = true
    ∧ (((marked id).elems[0]?).map (fun e => (e.dead, e.frozen, e.mark))) = some (false, false, none)
    ∧ (((marked id).region 1).gates[0]?).map Gate.isOut = some true ∧ (takeMark (marked id) (.el 1 0)).isSome = true
    ∧ (let e := { el .ve with mark := some 4, busy := false }
       e.mark = some 4 ∧ e.dead = false ∧ e.frozen = false ∧ e.blot = false ∧ atStop e = true ∧ e.busy = false)
    ∧ atStop { el .ve with mark := some 4 } = false ∧ atStop { el .ve with mark := some 4, strm := true, pipe := [Run.idle] } = true
    ∧ (let e := { el .ag with mark := some 4, run := { Run.idle with held := 1, wait := some .slots } }
       atStop e = true ∧ e.cls = .ag ∧ e.busy = true ∧ e.stop = none) := by
  repeat' apply And.intro
  all_goals decide +kernel

/-- Region 1 with a snapshot to complete, and an area of so many KiB at 0x40000. -/
def snapping (kib : Nat) (es : List Elem) : State :=
  { running { reg 2 with snap := some 4 } 1 0 es with
    mem := memWrite [] State.reset.ctxAt (ctxRec [(384, 0x40000), (352, kib)]) }

theorem hyp_SnapshotComplete : ((snapping 1 []).region 1).snap = some 4 ∧ memWf (snapping 1 []).mem = true ∧ snapReady (snapping 1 []) 1 = true
    ∧ snapReady (snapping 1 [loads]) 1 = false ∧ (snapBytes (snapping 1 []) 1 4 0).length = 128
    ∧ (let s := { snapping 1 [] with mem := memWrite [] State.reset.ctxAt (ctxRec [(384, 0x40000), (352, 1), (288, 1), (272, 7)]) }
       ctxLid (s.ctx 0) = 7 ∧ ctxLrgn (s.ctx 0) = 1 ∧ ctxLsus (s.ctx 0) = false ∧ 0x40000 + 128 ≤ s.ctxAddr 0 ∧ snapReady s 1 = true)
    ∧ ctxLid ((snapping 1 []).ctx 0) = 0 ∧ (((snapping 1 []).ctx 0).extractLsb' 384 64).toNat + 128 ≤ (snapping 1 []).ctxAddr 0
    ∧ ((snapping 1 []).ctx 0).extractLsb' 352 32 = 1 ∧ ((snapping 0 []).ctx 0).extractLsb' 352 32 = 0 := by
  repeat' apply And.intro
  all_goals decide +kernel

-- The host, registers, firmware and power ------------------------------------------------------------------------------------------------

theorem hyp_HostAccess : memWf State.reset.mem = true ∧ State.reset.linkDown.contains 0 = false ∧ (isHost (2 ^ 44) && isHost (2 ^ 45 - 1)) = true
    ∧ (isOwn 0 && isOwn (72 * 2 ^ 30 - 1)) = true ∧ isHost 0 = false ∧ (0 ≤ 64 * 0 ∧ 64 * 0 + 64 ≤ 0 + [(1 : Byte)].length * 64) ∧ ({ State.reset with linkDown := [0] } : State).linkDown.contains 0 = true
    ∧ isHost (2 ^ 60) = false ∧ isOwn (72 * 2 ^ 30) = false := by
  repeat' apply And.intro
  all_goals decide +kernel

/-- Registers of each kind at the ends of their ranges (R379), and addresses that name none. -/
theorem hyp_RegisterStores : regAt 0x800_0000_0001 4 = none ∧ regAt 0x800_0000_0000 8 = none ∧ regAt 0x800_0001_0100 64 = some (.interval 0)
    ∧ regAt 0x800_0003_0010 8 = some (.ringTail 0) ∧ regAt 0x800_7C00_47FC 4 = some (.tenant 31 143 31)
    ∧ regAt 0x800_0001_0008 8 = some (.tileInv 0 true) ∧ regAt 0x800_0001_0000 8 = some (.tileInv 0 false)
    ∧ regAt 0x800_7C02_08F0 4 = some (.supply 31 143) ∧ regAt 0x800_8010_0008 8 = some (.route 1) ∧ regAt 0x800_8010_0080 8 = some (.route 16)
    ∧ regAt 0x800_8011_0000 8 = some .health ∧ regAt 0x800_8012_7FF8 8 = some (.queue 4095) ∧ regAt 0x800_0003_0000 8 = some (.ringBase 0)
    ∧ regAt 0x800_8000_0010 8 = some (.region 1 false) ∧ regAt 0x800_8000_0018 8 = some (.region 1 true)
    ∧ ((running (reg 2) 1 0 []).region 1).stt = 2 ∧ memWf State.reset.mem = true ∧ regAt 0x800_0003_0008 8 = some (.ringHead 0)
    ∧ (∀ l ∈ [[], [(0 : BitVec 2048)]], let s : State := { State.reset with dies := [(0, { die0 with waiting := l, ringTail := 16 })] }
        (s.die 0).waiting = l ∧ ((s.die 0).ringTail + 2 ^ 32 - 1) % 2 ^ 32 < 2 ^ (0 + 4)) := by
  repeat' apply And.intro
  all_goals decide +kernel

/-- A load of tile 0 of handle slot 0 whose answer stands out. -/
def via : Elem := { loads with ag := (loads.setPort 0 { port 0 with reqs := [{ req0 with via := some ⟨0, 0, 0⟩ }], outst := 1 }).ag }

def invalidating (es : List Elem) (b : Bool) : State :=
  { on (el .ve) with
    elems := es
    dies := [(0, { die0 with inv := BitVec.ofNat 128 (2 ^ 96), invBusy := b })] }

/-- A store of a granule through that tile, accepted or not, and an agent with it. -/
def wrote (acc : Bool) : PStore :=
  { seq := 0, base := 0x20000, data := 5, mask := BitVec.allOnes 512, pz := false, tn := false, port := some 0, acc := acc, rel := false,
    reg := none, via := some ⟨0, 0, 0⟩, ord := 1, pol := 0, tcl := 0 }

def stored (acc : Bool) : Elem := { agent 0 with ag := { (agent 0).ag with sb := [wrote acc] } }

/-- The host's request to move tile 1 of handle 0 to 0x50000. -/
def moved : Migr := { ctx := 0, req := BitVec.ofNat 256 (fieldsNat [(64, 1), (16, 5), (1, 1)]), addr := 0x200, order := 0 }

theorem hyp_TileInvalidation : ((invalidating [via] true).die 0).invBusy = true ∧ ((invalidating [] false).die 0).invBusy = false
    ∧ (let v := ((invalidating [via] true).die 0).inv
       (v.extractLsb' 30 12).toNat = 0 ∧ (v.extractLsb' 42 22).toNat = 0 ∧ (v.extractLsb' 64 32).toNat = 0 ∧ (v.extractLsb' 96 32).toNat = 1)
    ∧ ((via.port 0).reqs.map Req.via) = [some ⟨0, 0, 0⟩] ∧ via.die = 0
    ∧ memWf (invalidating [] true).mem = true
    ∧ (let e := stored true
       e.die = 0 ∧ e.ag.sb = [wrote true] ∧ e.ag.eng = [] ∧ (wrote true).acc = true ∧ (wrote true).reg = none ∧ (wrote true).via = some ⟨0, 0, 0⟩
       ∧ (wrote true).mask.getLsbD 511 = true ∧ (invalidating [e] true).migr = [] ∧ (wrote false).acc = false)
    ∧ (let s := { invalidating [] true with mem := memWrite [] 8 (littleBytes 8 0x50001), migr := [moved] }
       mgHost moved.req = true ∧ mgApplied s moved = true ∧ memWf s.mem = true) := by
  repeat' apply And.intro
  all_goals decide +kernel

/-- A request for tile 1 of handle 0 of context 0 with an interval, from the host or not. -/
def migration (ear lat : Nat) (host : Bool) : BitVec 256 := BitVec.ofNat 256 (fieldsNat [(192, lat), (128, ear), (64, 1), (1, if host then 1 else 0)])

def migrating (r : BitVec 256) (l : List Migr) : State :=
  { module (on (agent 0)) with
    mem := memWrite (module (on (agent 0))).mem (hostKey 0x100) (littleBytes 32 r.toNat)
    migr := l }

def rival (ear lat : Nat) (host : Bool) : Migr := { ctx := 0, req := migration ear lat host, addr := 0x200, order := 0 }

theorem hyp_HostRequests : memWf (migrating (migration 5 9 true) []).mem = true
    ∧ BitVec.ofNat 256 (memNat (migrating (migration 5 9 true) []).mem (hostKey 0x100) 32) = migration 5 9 true
    ∧ handleOk (migrating (migration 5 9 true) []) 0 0 = true
    ∧ heLim (heAt (migrating (migration 5 9 true) []) 0 0) = 4 ∧ ((migration 9 5 true).extractLsb' 192 64).toNat = 5
    ∧ mgApplied (migrating (migration 5 9 true) []) (rival 10 12 false) = false
    ∧ (migrating (migration 5 9 true) [rival 10 12 false]).migr.find? (fun x => x.ctx == 0 && mgHdl x.req == 0 && mgTile x.req == 1)
        = some (rival 10 12 false)
    ∧ ((migration 5 9 true).extractLsb' 192 64).toNat < ((rival 10 12 false).req.extractLsb' 128 64).toNat
    ∧ (migration 5 9 true).getLsbD 1 = true ∧ (rival 6 12 false).req.getLsbD 1 = false
    ∧ ¬ ((migration 5 9 true).extractLsb' 192 64).toNat < ((rival 2 4 true).req.extractLsb' 128 64).toNat
    ∧ ((rival 2 4 true).req.extractLsb' 192 64).toNat < ((migration 5 9 true).extractLsb' 128 64).toNat
    ∧ ((rival 2 4 true).req.extractLsb' 128 64).toNat ≤ ((migration 5 9 true).extractLsb' 128 64).toNat := by
  repeat' apply And.intro
  all_goals decide +kernel

/-- An engine operation whose object is stopped for want of a page that starts at 2 ^ 17. -/
def pageless : Elem := member .ag (fun e =>
  { e with ag := { e.ag with
      cos := e.ag.cos.set 0 (BitVec.ofNat 32 (2 ^ 30 + 2 ^ 29))
      eng := [{ co := 0, kind := 0, var := 0, args := 0, argb := 0, imm := 0, done := 0, fcs := 0x0B, before := 0, tn := false, why := [0, 0, 0, 2 ^ 17],
                ran := true, ports := [], writes := [], tile := 0, res := none, spoilt := none }] } })

theorem hyp_PageRefused : (let e := member .ag (fun e => { e with stop := some { stopAt 1 0 with sub := 3, frec := BitVec.ofNat 2048 (2 ^ 1649) } })
    let s := running (reg 2) 1 0 [e]
    e.rgn = 1 ∧ (s.region e.rgn).stt < 5 ∧ waitsPage s 0 0 2 e = true
       ∧ (s.region e.rgn).ctx = 0 ∧ s.linkOf e.rgn = 0 ∧ e.dead = false)
    ∧ (let s := running (reg 2) 1 0 [pageless]
       (∃ o ∈ pageless.ag.eng, coStp (pageless.co o.co) = true ∧ o.fcs = 0x0B ∧ (o.why.getD 3 0 + o.why.getD 4 0 * 2 ^ 32) / 65536 = 2) ∧ waitsPage s 0 0 2 pageless = true)
    ∧ (let l : Launch := { waiting 1 2 with held := some { Region.blank with last := some { snap with elems := [pageless] } } }
       l.phase = 2 ∧ ((l.held.bind Region.last).map (fun y => y.elems.any (fun e => e.wantsPage 2))) = some true ∧ (l.held.map Region.ctx) = some 0) := by
  repeat' apply And.intro
  all_goals decide +kernel

/-- An image of no segment (R409): its header, and its digest in its SIG record. -/
def image (d : Nat) : List Byte := littleBytes 64 (fieldsNat [(0, 0x4D494642)]) ++ littleBytes 208 d

/-- The image is accepted by a module whose firmware takes its signature for good, which the spec leaves to the module (log 5). -/
theorem hyp_FirmwareImage (h : Config.sigValid 0 (BitVec.ofNat 512 (sha512Nat (image 0))) 0 0 = true) :
    imageOk (image (sha512Nat (image 0))) = true := by
  have a : (image (sha512Nat (image 0))).length = 272 ∧ imageSig (image (sha512Nat (image 0))) = 64
      ∧ leNat ((image (sha512Nat (image 0))).take 4) = 0x4D494642 ∧ leNat (((image (sha512Nat (image 0))).drop 8).take 4) = 0
      ∧ (image (sha512Nat (image 0))).take 64 ++ List.replicate 208 0 ++ (image (sha512Nat (image 0))).drop (64 + 208) = image 0
      ∧ leNat (((image (sha512Nat (image 0))).drop 64).take 208) = sha512Nat (image 0) := by
    repeat' apply And.intro
    all_goals decide +kernel
  have b : bitsAt (sha512Nat (image 0)) 0 512 = sha512Nat (image 0) ∧ BitVec.ofNat 32 (bitsAt (sha512Nat (image 0)) 1568 32) = 0
      ∧ BitVec.ofNat 528 (bitsAt (sha512Nat (image 0)) 512 528) = 0 ∧ BitVec.ofNat 528 (bitsAt (sha512Nat (image 0)) 1040 528) = 0 := by
    repeat' apply And.intro
    all_goals decide +kernel
  have c : leNat (sha512 (image 0)) = sha512Nat (image 0) := rfl
  obtain ⟨a1, a2, a3, a4, a5, a6⟩ := a
  obtain ⟨b1, b2, b3, b4⟩ := b
  simp only [imageOk, a1, a2, a3, a4, a5, a6, b1, b2, b3, b4, c, h]
  simp

theorem hyp_FirmwareImageRefused : imageOk [] = false := by decide +kernel

theorem hyp_FirmwareSteps : (let e : Elem := { core with fc := { core.fc with beat := some 1000001 } }
      (onCore e).cores[2]? = some e ∧ (onCore e).hbto * 1000 < 1000001 ∧ (onCore e).fw.canary = none ∧ (onCore e).fw.todo = [])
    ∧ core.fc.beat = none ∧ (onCore core).cores[2]? = some core ∧ (onCore core).cores[0]? = some (coreReset 0)
    ∧ (let s : State := { State.reset with
         fw := { State.reset.fw with canary := some [1] }
         now := 10000000
         cores := State.reset.cores.set 14 { coreReset 14 with fc := { FcPart.reset with beat := some 0 } } }
       s.fw.canary = some [1] ∧ canaryMissed s = false ∧ s.now < s.fw.since + s.fw.period * 1000000000
       ∧ s.fw.since + s.fw.period * 1000000000 ≤ 1000000000)
    ∧ State.reset.linkDown.contains 0 = false ∧ ({ State.reset with linkDown := [0] } : State).linkDown.contains 0 = true := by
  repeat' apply And.intro
  all_goals decide +kernel

theorem hyp_ModuleReset : State.reset.mapSig = State.reset.sound ∧ ({ State.reset with mapSig := [1] } : State).mapSig ≠ State.reset.sound
    ∧ State.reset.fw.image = [] ∧ (State.reset.cores[0]?).isSome = true := by decide +kernel

theorem hyp_Undervolting : (let x := State.reset.supplyOf 31 143
    x.reg.getLsbD 7 = true ∧ x.reg.getLsbD 6 = false ∧ x.held = false ∧ (31 : Nat) < 32 ∧ (143 : Nat) < 144 ∧ x.lvl = 20 ∧ x.safe = 20) := by
  decide +kernel

/-- A region with a folio whose context has a lease, or may be given one. -/
theorem hyp_WaysAndLeases : (let g := { reg 2 with folios := [(0, 5)] }
      let s := running g 1 0 []
      (s.region 1).stt = 2 ∧ ctxLid (s.ctx (s.region 1).ctx) = 0 ∧ (s.supplyOf 0 5).held = false ∧ (0 : Nat) < 2 ∧ 20 < 21 ∧ 60 ≤ 60)
    ∧ (let s : State := { running (reg 2) 1 0 [] with
         leases := [(0, 500)]
         mem := memWrite [] State.reset.ctxAt (ctxRec [(272, 1)])
         now := 500 }
       Tab.find s.leases 0 = some 500 ∧ 500 ≤ s.now ∧ ctxLid (s.ctx 0) = 1 ∧ 499 < 500)
    ∧ Tab.find State.reset.leases 0 = none ∧ (65536 : Nat) < 65537
    ∧ (let s : State := { State.reset with pins := [{ die := 0, folio := 3, line := 64, way := 2, agent := 0 }] }
       (∃ p ∈ s.pins, p.die = 0 ∧ p.folio = 3 ∧ p.way.toNat = 2))
    ∧ memWf State.reset.mem = true
    ∧ (∀ n ∈ [65536, 65537], let s : State := { State.reset with slices := [(3, { Slice.reset with accs := 2 ^ 20, miss := n })] }
        2 ^ 20 ≤ (s.slice 0 3).accs ∧ (s.slice 0 3).miss = n)
    ∧ (State.reset.slice 0 3).accs < 2 ^ 20
    ∧ (let s : State := { State.reset with pool := [(7, 30)], l2 := [{ sec := 0, way := 2, tcl := 1, bad := 0 }] }
       Tab.get 500 s.pool 7 = 30 ∧ s.l2.map (fun y => (homeDie (y.sec * 128), homeFolio (y.sec * 128), y.way)) = [(0, 0, 2)]) := by
  repeat' apply And.intro
  all_goals decide +kernel

-- The machine as a whole ------------------------------------------------------------------------------------------------------------------

def next (o : Host.Outcome State Fault Refusal) : Bool := match o with | .next _ => true | _ => false

/-- An element that will execute `nop`, one that will start a firing, one that waits, one whose word is no instruction, and one past its
body; core 2 with and without the word of its address in its cache. -/
theorem hyp_StepRunsDecoded : (let e : Elem := { el .ve with body := [0, 0x0D <<< 88] }
      e.body[1]? = some (0x0D <<< 88) ∧ e.body[0]? = some 0 ∧ (decodeWord 0).isSome = true ∧ (decodeWord (0x0D <<< 88)) = none
      ∧ (e.dead || e.halted || e.frozen || e.stop.isSome || e.role != .actor || e.parked) = false ∧ e.blot = false)
    ∧ (let e := { el .ve with run := { Run.idle with pos := 4 } }
       e.body.length ≤ e.run.pos)
    ∧ (let e := { el .ve with halted := true }
       (e.dead || e.halted || e.frozen || e.stop.isSome || e.role != .actor || e.parked) = true)
    ∧ (let e : Elem := { core with fc := { core.fc with icache := [codeWord 0] } }
       (e.fc.halted || e.fc.dead) = false ∧ e.fc.icache.find? (fun x => x.addr == e.run.pos) = some (codeWord 0)
       ∧ memBytes State.reset.mem 0 3 = [0, 0, 0] ∧ e.fc.icache.find? (fun x => x.addr == 7) = none)
    ∧ (core.fc.halted || core.fc.dead) = false ∧ core.fc.icache = [] ∧ ({ core with fc := { core.fc with dead := true } } : Elem).fc.dead = true := by
  repeat' apply And.intro
  all_goals decide +kernel

theorem hyp_CoreFills : (let e : Elem := { core with fc := { core.fc with segs := [(0, 3)] } }
    e.fc.icache.length = 0 ∧ (e.filled (memWrite [] 0 [0x10, 0x50, 0x00])).fc.icache.length = 1) := by decide +kernel

theorem hyp_DecodeEncode : (Instr.add { Fields.initial with d := 1, a := 2, b := 3 }).wf = true
    ∧ (encodeWord (.add { Fields.initial with d := 1, a := 2, b := 3 })).isSome = true
    ∧ ((opFields (.add { Fields.initial with d := 1, a := 2, b := 3 })).map Prod.fst) = some 0x20 := by decide +kernel

theorem hyp_StepKeepsCanonical : memWf State.reset.mem = true ∧ next (step State.reset) = true := by decide +kernel

theorem hyp_NeverStops : Runs (on (el .ra)) (el .ra) ∧ (Claim.barred .ra).any (fun r => decide (r.1 ≤ 0x20 ∧ 0x20 ≤ r.2)) = true
    ∧ ((opFields (.add (fld 0 0))).map (fun x => x.1.toNat)) = some 0x20 ∧ ({ State.reset with cur := .el 0 } : State).unit (.el 0) = none
    ∧ opFields .regionGrant = none := by
  unfold Runs; repeat' apply And.intro
  all_goals decide +kernel

theorem hyp_Sources : (let e := el .ve
    (e.inch 0).q[0]? = some (word 5) ∧ (e.inch 0).q[1]? = some (word 6) ∧ (e.inch 1).q[0]? = some (ctl 3 0)) := by
  repeat' apply And.intro
  all_goals decide +kernel

theorem hyp_Destinations : (63 : Nat) < 64 ∧ (15 : Nat) < 16 ∧ (3 : Nat) < 4 ∧ (0 : Nat) ≠ 63 := by decide

theorem hyp_ChecksInOrder : Runs (on (el .ve)) (el .ve) ∧ IntUnit (el .se) ∧ FloatUnit (el .ve)
    ∧ (opFields (.add (fld 0 1))).map (fun x => x.1.toNat) = some 0x20 ∧ (Claim.entryOf 0x20 (fld 0 1)).map (fun x => x.1) = some usesAB
    ∧ (Claim.entryOf 0x4D (fld 0 5)).map (fun x => x.2.2) = some [5, 6, 7]
    ∧ waitsOk usesAB (fld 0 1) = true ∧ waitsOk usesAB { fld 0 1 with wa := 1 } = false
    ∧ typeIn (el .ve) (fld 0 5) usesAB = 5 ∧ typeIn (el .ve) (fld 0 1) usesAB = 1
    ∧ badSrc usesAB (el .se) { fld 0 1 with a := 0x3FE } = some 0x3FE ∧ badSrc usesAB (el .ve) (fld 0 1) = none
    ∧ badDst (el .ve) { fld 0 1 with d := 0x100 } = some 0x100 ∧ badDst (el .ve) (fld 0 1) = none
    ∧ badSrc usesAB (el .ve) { fld 0 1 with a := 0x202 } = none ∧ ready usesAB (el .ve) { fld 0 1 with a := 0x202 } = false := by
  unfold Runs IntUnit FloatUnit; repeat' apply And.intro
  all_goals decide +kernel

theorem hyp_RegisterFrame : Runs (on (el .ve)) (el .ve) ∧ ((opFields (.mov (fld 0 0))).map (fun x => x.1.toNat)) = some 0x39
    ∧ ((opFields (.qnt (fld 0 0))).map (fun x => x.1.toNat)) = some 0x52 := by
  unfold Runs; repeat' apply And.intro
  all_goals decide +kernel

-- The traps, the poison and the corners of the instructions of elements ------------------------------------------------------------------

/-- An element whose scalar 2 is poisoned, an element with fewer words than its instructions name, and one under FP. -/
def tainted (c : Cls) : Elem := { el c with s := (el c).s.set 2 { Reg.zero with pz := true } }

def underFp (c : Cls) : Elem := { el c with run := { Run.idle with fp := true } }

/-- Float types on a unit that has them and on one that has not, and a variant above 5. -/
theorem hyp_ReductionTypes : Runs (on (el .ve)) (el .ve) ∧ FloatUnit (el .ve) ∧ IntUnit (el .se)
    ∧ (∀ v ∈ [0, 1, 2, 3, 5], ∀ t ∈ [5, 7], (let f := fld v t
       f.ln ≠ 3 ∧ Legal (el .ve) f usesA (badDst (el .ve) f) ∧ Fmt.ofCode (typeIn (el .ve) f usesA) ≠ none
       ∧ 5 ≤ typeIn (el .ve) f usesA ∧ typeIn (el .ve) f usesA ≤ 7
       ∧ waitsOk usesA f = true ∧ typeIn (el .se) f usesA = typeIn (el .ve) f usesA))
    ∧ 5 < (fld 6 1).var.toNat := by
  unfold Runs IntUnit FloatUnit Legal typeIn; repeat' apply And.intro
  all_goals decide +kernel

/-- Weights decoded in line, from a channel of type INT4, of which `part` names the first and the last words. -/
def weighted : Elem := { el .ve with ins := (el .ve).ins.set 0 { inp [word 5] with ent := 0x800C0B00 } }

theorem hyp_DotInLine : Runs (on weighted) weighted ∧ (let f := { fld 0 6 with b := 0x200, imm := 24 }
    Legal weighted f usesABC (badReg weighted f) ∧ typeIn weighted f usesABC = 6 ∧ dotB weighted f 6 = (11, true)
    ∧ awaitCompanion weighted (scalingOf weighted 0x200 11) = .ok ())
    ∧ partNo { fld 0 6 with imm := 24 } = 3 ∧ (fmtOf 11).perLane / (fmtOf 6).perLane = 4
    ∧ destPz (tainted .ve) (fld 1 5) [readDes (on (tainted .ve)) (tainted .ve) 2] Reg.zero true = true := by
  unfold Runs Legal typeIn; repeat' apply And.intro
  all_goals decide +kernel

/-- A matrix step whose source is poisoned, into a register and into an accumulator. -/
theorem hyp_MatrixPoison : Runs (on (tainted .ve)) (tainted .ve)
    ∧ (let f := { fld 0 6 with imm := 512 }
       destPz (tainted .ve) f [readDes (on (tainted .ve)) (tainted .ve) 4, srcA (on (tainted .ve)) (tainted .ve) f]
         (readDes (on (tainted .ve)) (tainted .ve) f.d) (allActive (tainted .ve) f) = true ∧ badReg (tainted .ve) f = none)
    ∧ (let f := { fld 0 6 with imm := 0x800000, c := 0x0FF, d := 0x0FF }
       acm f = true ∧ f.c = 0x0FF ∧ f.d = 0x0FF
       ∧ destPz (tainted .ve) f [(tainted .ve).accReg (aix f), srcA (on (tainted .ve)) (tainted .ve) f] ((tainted .ve).accReg (aix f)) true = true) := by
  unfold Runs; repeat' apply And.intro
  all_goals decide +kernel

/-- A variant, a wait, a type, an address, an operand beside the accumulator and an index that trap. -/
theorem hyp_MatrixTraps : Runs (on bank) bank ∧ 4 < (fld 5 6).var.toNat ∧ waitsOk usesABC { fld 0 6 with wa := 1 } = false
    ∧ (let f := { fld 0 5 with ln := 0 }
       waitsOk usesABC f = true ∧ typeIn bank f usesABC ≠ 6 ∧ typeIn bank f { usesABC with b := false } ≠ 6)
    ∧ (let f := { fld 0 6 with imm := 1 }
       typeIn bank f { usesABC with b := false } = 6 ∧ badSrc { usesABC with b := false } bank f = none ∧ tadr f % (tileFmt 0).2 ≠ 0
       ∧ (bankBase bank.ve.abank + 3 * bankStrd bank.ve.abank + tadr f) % 2 ^ 17 % (tileFmt 0).2 ≠ 0)
    ∧ (let f := { fld 0 6 with imm := 0x800000 }
       acm f = true ∧ f.c ≠ 0x0FF ∧ tadr f % (tileFmt 0).2 = 0 ∧ ({ f with c := 0x0FF } : Fields).d ≠ 0x0FF
       ∧ typeIn bank f usesABC = 6 ∧ badSrc usesABC bank f = none ∧ badSrc usesABC bank { f with c := 0x0FF } = none
       ∧ (isSlot f.b || isState bank f.b) = true ∧ (isSlot (0x100 : BitVec 10) || isState bank 0x100) = false
       ∧ badSrc usesABC bank { f with b := 0x100 } = none)
    ∧ (let f := { fld 0 6 with b := 7 }
       Legal bank f usesABC none ∧ typeIn bank f usesABC = 6 ∧ (isSlot f.b || isState bank f.b) = true ∧ badReg bank f = none
       ∧ bankCnt bank.ve.abank ≤ ((srcB (on bank) bank f).pay.lane 0).toNat % 65536) := by
  unfold Runs Legal typeIn; repeat' apply And.intro
  all_goals decide +kernel

/-- A bit matrix step that traps in each way and one that is poisoned; a requantiser that is full, and one read up to its last column. -/
def rows (w r : Nat) : Elem := { el .ve with ve := { VePart.empty with wcnt := w, rcnt := r } }

theorem hyp_RequantiserCorners : 1 < (fld 2 12).var.toNat
    ∧ (let u : Uses := { usesABC with b := false }
       waitsOk u (fld 1 11) = true ∧ typeIn (el .ve) (fld 1 11) u ≠ 12 ∧ typeIn (el .ve) (fld 1 12) u = 12 ∧ badSrc u (el .ve) (fld 1 12) = none
       ∧ tadr { fld 1 12 with imm := 256 } % 512 ≠ 0)
    ∧ destPz (tainted .ve) (fld 0 12) [readDes (on (tainted .ve)) (tainted .ve) 2] Reg.zero true = true
    ∧ 16 ≤ (rows 16 0).ve.wcnt ∧ typeIn (el .ve) (fld 0 6) { usesA with d := false } ≠ 5
    ∧ (rows 16 15).ve.wcnt = 16 ∧ 16 < (rows 16 15).ve.rcnt + Fmt.perLane .i8 ∧ (rows 16 12).ve.rcnt + Fmt.perLane .i8 ≤ 16 ∧ (rows 15 0).ve.wcnt ≠ 16
    ∧ Runs (on (rows 16 15)) (rows 16 15) := by
  unfold Runs typeIn; repeat' apply And.intro
  all_goals decide +kernel

/-- A poisoned address, and a VE in a quad group without a scratchpad. -/
theorem hyp_PoisonedLocalAccess : Runs (on (tainted .se)) (tainted .se)
    ∧ (let f := fld 0 0
       (srcA (on (tainted .se)) (tainted .se) f).pz = true ∧ Legal (tainted .se) f usesA none ∧ Legal (tainted .se) f usesStore none
       ∧ Legal (tainted .se) f usesABC (badDst (tainted .se) f) ∧ (reachOf (on (tainted .se)) (tainted .se) f).isSome = true
       ∧ (List.range 16).filter (laneActive (tainted .se) f) ≠ [])
    ∧ reachOf (on (el .ve)) (el .ve) (fld 0 0) = none ∧ Legal (el .ve) (fld 0 0) usesA none ∧ Legal (el .ve) (fld 0 0) usesStore none
    ∧ Runs (on (tainted .ve)) (tainted .ve) ∧ (srcA (on (tainted .ve)) (tainted .ve) (fld 0 0)).pz = true := by
  unfold Runs Legal; repeat' apply And.intro
  all_goals decide +kernel

-- Agents: traps, poison and full queues ---------------------------------------------------------------------------------------------------

theorem hyp_NestTraps : 7 < (fld 8 0).var.toNat ∧ (fld 5 0).imm = 0 ∧ 5 < (fld 6 0).var.toNat ∧ 1 < (fld 2 0).var.toNat
    ∧ (fld 1 0).var.toNat ≤ 1 ∧ Legal (el .ag) { fld 1 0 with ln := 0 } onlyD (badReg (el .ag) (fld 1 0)) := by
  unfold Legal; repeat' apply And.intro
  all_goals decide +kernel

/-- A handle that may not be used, a poisoned one, and a tile size of code 3. -/
theorem hyp_BindingTraps : (let e := { agent 0 with s := (agent 0).s.set 2 { Reg.zero with pay := Payload.ofList [1] } }
      ((readDes (on e) e 2).pay.lane 0).toNat = 1 ∧ handleOk (module (on e)) 0 1 = false ∧ Legal e (fld 0 0) onlyA none)
    ∧ (let e := { agent 0 with s := (tainted .ag).s }
       (readDes (on e) e 2).pz = true ∧ Legal e (fld 0 0) onlyA none ∧ (e.port 0).outst = 0)
    ∧ { fld 0 0 with imm := 12 }.imm.toNat / 4 % 4 = 3 ∧ (fld 1 0).var ≠ 0 := by
  unfold Legal; repeat' apply And.intro
  all_goals decide +kernel

/-- What an access of the agent through port 0 ends in, if not well. -/
def endsWith (s : State) (e : Elem) (c : List Int) (k : Kind) : Option Trap :=
  match portAccess s e 2 0 c k with
  | .error (.trap t) => some t
  | _ => none

def withPort (p : Port) : Elem := (agent 0).setPort 0 p

/-- Every check of an access, each the first that fails. -/
theorem hyp_AccessChecks : endsWith (module (on (el .ag))) (el .ag) [0] .load = some (.operand 2)
    ∧ endsWith (module (on (agent 0))) (withPort { port 0 with bind := bindReg 1 0 true, tile := none }) [0, 0, 0, 0, 0, 0] .load = some (.handle 0 1 0)
    ∧ endsWith (module (on (agent 0))) (agent 0) [64, 0, 0, 0, 0, 0] .load = some (.bounds 0 0 1 0)
    ∧ endsWith (module (on (agent 0))) (agent 0) [1, 0, 0, 0, 0, 0] .load = some (.bounds 0 0 0 0)
    ∧ endsWith (module (on (agent 0))) (agent 0) [0, 0, 0, 0, 0, 0] .tsts = some (.transl 6 0 0 0 0)
    ∧ endsWith (module (on (agent 1))) (agent 1) [0, 0, 0, 0, 0, 0] .store = some (.transl 4 0 0 0 0)
    ∧ endsWith (module (on (agent 2))) (agent 2) [1, 0, 0, 0, 0, 0] .ldaq = some (.transl 5 0 0 0 0)
    ∧ endsWith (module (on (agent 0))) (withPort { port 0 with bind := bindReg 0 1 true }) [0, 0, 0, 0, 0, 0] .load = some (.transl 2 0 0 0 0) := by
  repeat' apply And.intro
  all_goals decide +kernel

def unmapped (ent : Nat) : State :=
  let s := module (on (agent 0))
  { s with tiles := [], mem := memWrite s.mem 0x1000 (littleBytes 8 ent) }

theorem hyp_AccessTranslations : endsWith (unmapped 0) (agent 0) [0, 0, 0, 0, 0, 0] .load = some (.transl 1 0 0 0 0)
    ∧ endsWith (unmapped 3) (agent 0) [0, 0, 0, 0, 0, 0] .load = some (.bounds 0 0 0 0)
    ∧ endsWith (module (on (agent 2))) (agent 2) [0, 0, 0, 0, 0, 0] .load = some (.transl 3 0 0 0 0x20000)
    ∧ endsWith (unmapped (2 ^ 50 + 1)) (agent 0) [0, 0, 0, 0, 0, 0] .load = some (.bounds 0 0 0 (2 ^ 50))
    ∧ endsWith (unmapped 0x50001) (agent 0) [0, 0, 0, 0, 0, 0] .load = none := by
  repeat' apply And.intro
  all_goals decide +kernel

/-- Loads whose queue has no room, and whose coordinates or stamp are poisoned. -/
theorem hyp_LoadCorners : ¬ ((busyPort 32 0 none).port 0).lq.length + ((busyPort 32 0 none).port 0).reqs.length < 32
    ∧ ((busyPort 31 0 none).port 0).lq.length + ((busyPort 31 0 none).port 0).reqs.length < 32
    ∧ (let e := { agent 1 with s := (tainted .ag).s }
       Runs (module (on e)) e ∧ (coordsOf (module (on e)) e (fld 1 0) false).2.pz = true ∧ Legal e (fld 1 0) onlyA none ∧ Legal e (fld 1 0) onlyAB none
       ∧ (e.port 0).bnd = true)
    ∧ (let e := agent 1
       Legal e (fld 1 0) onlyAB none ∧ die0.early ≤ stampOf (Payload.ofList [1000]) ∧ stampOf (Payload.ofList [999]) < die0.early
       ∧ (coordsOf (on e) e (fld 3 0) false).2.pz = false) := by
  unfold Runs Legal; repeat' apply And.intro
  all_goals decide +kernel

/-- Stores from an empty queue, with poisoned data, under FP, with a poisoned stamp, and with stamps at the ends of what may be sent. -/
theorem hyp_StoreCorners : ((busyPort 0 0 none).port 0).sq = []
    ∧ (({ word 1 with pz := true } : CWord).pz || false) = true ∧ (underFp .ag).flowP = true
    ∧ (let e := { agent 1 with s := (el .ag).s.set 3 { Reg.zero with pz := true } }
       (readDes (module (on e)) e 3).pz = true ∧ Legal e (fld 0 0) onlyB none ∧ Legal e (fld 1 0) onlyAB none)
    ∧ die0.early < 1001 ∧ ¬ die0.early < 1000 ∧ 2000 + 2 ^ 30 ≤ die0.late + 2 ^ 30 ∧ die0.late + 2 ^ 30 < 2001 + 2 ^ 30 := by
  unfold Legal; repeat' apply And.intro
  all_goals decide +kernel

/-- Forks that are refused: of an object that is not idle, with a poisoned operand, through an unbound port, of tensors that do not fit,
of members that are none; and a prefetch that fits and one that does not. -/
def aims (l : List Nat) (b : List Lane) : Elem :=
  { agent 0 with s := (el .ag).s.set 3 { Reg.zero with pay := Payload.ofList b }, ag := { (agent 0).ag with targets := l, colls := [(0, [0, 1])] } }

theorem hyp_ForksRefused : coSt ((withCo (coMake 1 0 1 0)).co 0) ≠ 0 ∧ Legal (withCo (coMake 1 0 1 0)) (fld 3 0) onlyA none
    ∧ (let e := { agent 0 with s := (tainted .ag).s }
       (readDes (on e) e 2).pz = true ∧ coSt (e.co 0) = 0 ∧ Legal e (fld 0 0) onlyA none)
    ∧ ((el .ag).port 0).bnd = false ∧ coSt ((el .ag).co 0) = 0 ∧ copyOk (port 0) (port 0) 1 0 64 = false ∧ gatherOk (port 0) (port 0) (port 0) = false
    ∧ collMembers (aims [] []) 1 = none ∧ collMembers (aims [] []) 0 = some [0, 1] ∧ collOk (port 0) (port 0) 3 65 2 = false
    ∧ (tainted .fc).cls = .fc ∧ Legal (underFp .fc) (fld 0 0) onlyA none ∧ (4 : Nat) % 64 ≠ 0
    ∧ (let r := readDes (on (aims [7] [2048, 0, 0])) (aims [7] [2048, 0, 0]) 3
       (r.pay.lane 1).toNat % 8 < (aims [7] []).ag.targets.length ∧ (r.pay.lane 2).toNat % 64 = 0 ∧ (r.pay.lane 2).toNat + 64 * (r.pay.lane 0).toNat ≤ 2 ^ 17
       ∧ 1 ≤ (r.pay.lane 0).toNat ∧ (r.pay.lane 0).toNat ≤ 2048 ∧ Legal (aims [7] [2048, 0, 0]) (fld 1 0) onlyAB none)
    ∧ ¬ (((readDes (on (aims [7] [1, 1])) (aims [7] [1, 1]) 3).pay.lane 1).toNat % 8 < (aims [7] []).ag.targets.length) := by
  unfold Legal; repeat' apply And.intro
  all_goals decide +kernel

/-- An agent with an open load of the granule at 0x20000, one with a store that is not accepted, and a core whose address is no place
for a synchronising access or is misaligned. -/
def opens : Elem := withPort { port 0 with reqs := [req0], outst := 1 }

def core5 (a : Nat) : Elem := { core with s := core.s.set 2 { Reg.zero with pay := Payload.ofList [BitVec.ofNat 32 a, BitVec.ofNat 32 (a / 2 ^ 32)] } }

theorem hyp_SynchronisingTraps : openHere opens 0x20000 = true ∧ openHere opens 0x20040 = false
    ∧ (match syncAddr (module (on opens)) opens (fld 0 0) 4 .atomic with | .ok (_, _, a) => a == 0x20000 + 2 * 4 | _ => false) = true
    ∧ allAccepted (stored false) = false ∧ allAccepted (stored true) = true ∧ Legal (stored false) (fld 0 0) usesAB (badReg (stored false) (fld 0 0))
    ∧ (let e := { agent 0 with s := (tainted .ag).s }
       (readDes (on e) e 2).pz = true ∧ Legal e (fld 0 0) usesABC (badReg e (fld 0 0)) ∧ Legal e (fld 3 0) onlyAB none)
    ∧ (let p := fun a => ((readDes (onCore (core5 a)) (core5 a) 2).pay.lane 0).toNat + ((readDes (onCore (core5 a)) (core5 a) 2).pay.lane 1).toNat * 2 ^ 32
       isOwn (p (72 * 2 ^ 30)) = false ∧ isOwn (p 0x4002) = true ∧ p 0x4002 % 4 ≠ 0 ∧ stampedFrame (onCore core) 0x4002 = false)
    ∧ (let s : State := { module (onCore core) with
         mem := memWrite (memWrite (memWrite [] 0x2000 (littleBytes 32 (fieldsNat [(192, 0x3000), (160, 1), (149, 1), (145, 1)]))) 0
             (littleBytes 8 0x20001)) State.reset.ctxAt (ctxRec [(448, 0x2000)]) }
       stampedFrame s 0x20000 = true ∧ stampedFrame s 0x30000 = false)
    ∧ 9 < (fld 10 0).var.toNat ∧ { fld 0 0 with imm := 12 }.imm.toNat / 4 % 4 = 3 ∧ (fld 7 0).var.toNat = 7 := by
  unfold Legal; repeat' apply And.intro
  all_goals decide +kernel

/-- An agent that is not quiet, with a refusal, and with a stopped object and a busy one. -/
def refusing : Elem := withPort { port 0 with refused := some (7, []) }

theorem hyp_FenceCorners : refusal refusing = some (0, 7, []) ∧ allAccepted refusing = true ∧ refusing.ag.tsts = []
    ∧ (opens.ag.ports.toList.map (fun p => p.reqs.length)) = [1, 0, 0, 0] ∧ allAccepted (stored false) = false
    ∧ (let e := withCo (coMake 1 1 1 0)
       coStp (e.co 0) = true)
    ∧ (let e := withCo (coMake 1 0 1 0)
       (e.ag.cos.toList.any coStp) = false ∧ (e.ag.cos.toList.any (fun c => coSt c == 1)) = true)
    ∧ 2 < (fld 3 0).var.toNat ∧ 3 < (fld 4 0).var.toNat := by
  repeat' apply And.intro
  all_goals decide +kernel

/-- Counts at and above what a queue holds, and an object that has failed. -/
theorem hyp_QueueCounts : (let f := { fld 0 0 with imm := 32 * 1024 }
      f.imm.toNat / 1024 % 64 = 32 ∧ ((busyPort 32 0 none).port 0).lq.length = 32)
    ∧ { fld 1 0 with imm := 33 * 1024 }.imm.toNat / 1024 % 64 = 33 ∧ { fld 1 0 with imm := 64 * 1024 }.imm.toNat / 1024 % 128 = 64
    ∧ { fld 1 0 with imm := 65 * 1024 }.imm.toNat / 1024 % 128 = 65 ∧ (fld 1 0).var ≠ 0 ∧ ((busyPort 0 1 none).port 0).sq ≠ []
    ∧ (let e := withPort { port 0 with sq := [], outst := 1 }
       (e.port 0).sq = [] ∧ (e.port 0).outst ≠ 0) := by
  repeat' apply And.intro
  all_goals decide +kernel

theorem hyp_JoinsOfFailed : coStp ((withCo (coMake 3 0 1 5)).co 0) = false ∧ coSt ((withCo (coMake 3 0 1 5)).co 0) = 3
    ∧ coStp ((withCo (coMake 1 1 1 5)).co 0) = true ∧ isMask (0x0F0 : BitVec 10) = false := by
  repeat' apply And.intro
  all_goals decide +kernel

/-- A die too wide, stamps that are poisoned, the last that may be waited for and the first that may not, a variant and a limit that trap. -/
theorem hyp_ClockTraps : ((on (el .ag)).die 0).tooWide = true ∧ Legal (tainted .ag) (fld 1 0) onlyA none
    ∧ (readDes (on (tainted .ag)) (tainted .ag) 2).pz = true ∧ (2000 + 2 ^ 30 ≤ die0.late + 2 ^ 30 ∧ die0.late + 2 ^ 30 < 2001 + 2 ^ 30)
    ∧ refusal refusing = some (0, 7, []) ∧ Legal refusing (fld 0 0) onlyA none
    ∧ (el .ag).cls.nState ≤ ({ fld 0 0 with d := BitVec.ofNat 10 ((el .ag).cls.nState - 1) } : Fields).d.toNat + 1
    ∧ 1 < (fld 2 0).var.toNat
    ∧ (let e := { agent 0 with ag := { (agent 0).ag with stamp := some 2000 } }
       e.ag.stamp = some 2000 ∧ die0.late ≤ 2000 ∧ Legal e (fld 0 0) onlyD (badReg e (fld 0 0)))
    ∧ 32 < ((readDes (onCore (core5 33)) (core5 33) 2).pay.lane 0).toNat % 64 ∧ ¬ 32 < ((readDes (onCore (core5 32)) (core5 32) 2).pay.lane 0).toNat % 64
    ∧ Legal (core5 33) (fld 1 0) onlyAB none ∧ ((readDes (onCore (core5 32)) (core5 32) 3).pay.lane 0).toNat < 100
    ∧ ((onCore core).queue 0).mapped = false := by
  unfold Legal; repeat' apply And.intro
  all_goals decide +kernel

-- Ruling arrays, cores and channels: the corners -------------------------------------------------------------------------------------------

/-- An array with the pointer at the descriptors, one whose record is still in it, one that is fed less than a record, and one that is fed
two records' heads. -/
def pointing (p : Nat) : Elem := { ruler [] with ra := { RaPart.empty with ptr := BitVec.ofNat 14 p } }

def fed (l : List CWord) : Elem := { ruler [] with ins := (Vector.replicate 32 InChan.unbound).set 0 { inp l with ent := 0x800C1300 } }

theorem hyp_RulingTraps : 4 < (fld 5 0).var.toNat ∧ (pointing 0).ra.ptr.toNat / 4096 + 1 ≠ 2 ∧ (pointing 4096).ra.ptr.toNat / 4096 + 1 = 2
    ∧ (pointing 8192).ra.ptr.toNat / 4096 + 1 = 3 ∧ ¬ (ruler [result]).ra.rq = []
    ∧ ruleSrc (ruler []) 0x0FF = false
    ∧ ((fed [ctl 3 0]).slot 0 0).isData = false ∧ ruleSrc (fed [ctl 3 0]) 0x200 = true ∧ inWait (fed [ctl 3 0]) 0x200 0 = true
    ∧ (readDes (on (fed [{ word 5 with pz := true }])) (fed [{ word 5 with pz := true }]) 0x200).pz = true
    ∧ cellOk (wordCell (Payload.splat 0xFFFFFFFF) 0) = false ∧ descOk 0xFFFFFFFF = false ∧ { fld 0 0 with imm := 1 }.imm.toNat % 64 % 2 = 1
    ∧ ((fed [word 5]).inch 0).q.length < 2 ∧ ¬ 2 ≤ ({ ruler [] with ra := { RaPart.empty with since := 1 } } : Elem).ra.since
    ∧ ((fed [word 5, word 6]).slot 0 1).lr = false ∧ slotOk (fed [word 5, word 6]) 0 0 = true
    ∧ (ruler (List.replicate 8 result)).ra.rq.length = 8 := by
  repeat' apply And.intro
  all_goals decide +kernel

theorem hyp_ResultTraps : 1 < (fld 2 0).var.toNat ∧ { fld 0 0 with imm := 4 }.imm.toNat % 64 % 8 ≠ 0 ∧ (ruler []).ra.rq = []
    ∧ Legal (ruler []) (fld 0 0) onlyD none ∧ badReg (ruler []) (fld 0 0) = none
    ∧ (let c : BitVec 10 := 0x0F0
       c ≠ 0x0FF ∧ isState (ruler []) c = false ∧ c.toNat / 256 ≠ 1 ∧ isSlot c = false
       ∧ Legal (ruler [result]) { fld 0 0 with c := c } { a := false, b := false, c := true, d := true } none) := by
  unfold Legal; repeat' apply And.intro
  all_goals decide +kernel

theorem hyp_TaintTraps : isMask (0x001 : BitVec 10) = false ∧ Legal (tainted .ve) (fld 0 0) onlyA none ∧ (fld 1 0).var ≠ 0
    ∧ 2 < (fld 3 0).var.toNat ∧ (readDes (on (tainted .ve)) (tainted .ve) 2).pz = true ∧ (underFp .ve).flowP = true
    ∧ Legal (underFp .ve) { fld 1 0 with d := 0x0F1 } noUses none := by
  unfold Legal; repeat' apply And.intro
  all_goals decide +kernel

/-- An element that is not stopped, and a region that takes a snapshot. -/
def going : State := { halted with
  regions := [(1, { Region.blank with stt := 2, snap := some 4 })], elems := [{ el .ve with rgn := 1 }] }

theorem hyp_ConfigurationTraps : confStopped going ((going.elems[0]?).getD (el .ve)) = false ∧ (going.region 1).snap ≠ none
    ∧ regionNamed going 1 = true ∧ regionNamed going 2 = false ∧ confTarget going core (fld 0 0) = none ∧ 1 < (fld 2 0).var.toNat
    ∧ (let e := { core with s := core.s.set 2 Reg.zero }
       (confTarget going e (fld 0 0)).isSome = true) := by
  repeat' apply And.intro
  all_goals decide +kernel

/-- Places of memory and registers, and addresses of which each is no place. -/
theorem hyp_Places : (0x4001 : Nat) % 4 ≠ 0 ∧ isOwn 0x4000 = true ∧ stampedFrame (onCore core) 0x4000 = false
    ∧ isOwn (2 ^ 44) = false ∧ isHost (2 ^ 44) = true
    ∧ isOwn 0x70000000000 = false ∧ isHost 0x70000000000 = false ∧ isFlash 0x70000000000 = false ∧ isRegAddr 0x70000000000 = false
    ∧ isRegAddr 0x80000000001 = true ∧ regAt 0x80000000001 4 = none ∧ isOwn 0x80000000001 = false ∧ isHost 0x80000000001 = false
    ∧ isFlash 0x80000000001 = false
    ∧ (let e := { core with s := core.s.set 3 { Reg.zero with pz := true } }
       (readDes (onCore e) e 3).pz = true ∧ Legal e (fld 1 0) onlyAB none)
    ∧ (fld 3 0).var.toNat = 3 := by
  unfold Legal; repeat' apply And.intro
  all_goals decide +kernel

theorem hyp_WaitsUnmet : (let f := { fld 0 0 with a := 0x200, b := 0x0FF, d := 0x300, wa := 3, wd := 4 }
      (f.wa = 0 ∨ isSlot f.a = true) ∧ (f.wd = 0 ∨ isOut f.d = true) ∧ inWait (el .ve) f.a f.wa = false ∧ outWait (el .ve) f.d f.wd = true
      ∧ slotOk (el .ve) (desChan f.a) (desOfs f.a) = true ∧ outOk (el .ve) (desChan f.d) (desOfs f.d) = true)
    ∧ slotOk (el .ve) (desChan 0x210) (desOfs 0x210) = false ∧ isSlot (0x210 : BitVec 10) = true
    ∧ isSlot (0x001 : BitVec 10) = false ∧ (fld 1 0).var ≠ 0 := by
  repeat' apply And.intro
  all_goals decide +kernel

/-- Outputs without room; a word that is not what the instruction asks for; malformed arguments; an element without bound outputs; an agent
with a refused stamped store. -/
def crowded (n : Nat) : Elem := { el .ve with outs := ((Vector.replicate 16 OutChan.unbound).set 0 (outp n)).set 1 (outp 4) }

theorem hyp_PublishingHolds : ((crowded 0).outch 0).free < max 1 0 ∧ ((crowded 3).outch 0).free < max 4 0 ∧ ((crowded 3).outch 0).free < max 1 4
    ∧ outOk (crowded 0) 0 0 = true ∧ outWait (crowded 0) 0x300 0 = false ∧ outWait (crowded 1) 0x300 0 = true
    ∧ (∃ k ∈ (crowded 0).boundOuts, ((crowded 0).outch k).free = 0)
    ∧ ({ el .ve with outs := Vector.replicate 16 OutChan.unbound } : Elem).boundOuts = []
    ∧ ((el .ve).slot 1 0).isCtl = true ∧ ((el .ve).slot 1 0).kind = 3 ∧ ((el .ve).slot 0 0).isData = true ∧ 4 < (5 : Nat)
    ∧ outOk (el .ve) 2 0 = false ∧ refusal refusing = some (0, 7, []) ∧ slotOk (el .ve) 1 0 = true
    ∧ (let f := { fld 2 0 with a := 0x0FF, imm := 16 }
       ctlArg (on (el .ve)) (el .ve) f = 16 ∧ ctlArgBad 2 16 = true ∧ ctlArg (on (el .ve)) (el .ve) { f with imm := 2 } = 2)
    ∧ [1, 2, 3, 7, 8, 9].contains 4 = false ∧ ctlArgBad 7 0 = true := by
  repeat' apply And.intro
  all_goals decide +kernel

/-- Positions at which the words of two channels agree, disagree with and without a `switch`, and are malformed; too few words; a companion
that is missing and one that is wrong; and a word that no clause accepts behind the words taken. -/
def heads (l m : List CWord) : Elem :=
  { el .ve with ins := (((Vector.replicate 32 InChan.unbound).set 0 { inp l with ent := 0x800C0000 }).set 1 (inp m)) }

def scaled (l m : List CWord) : Elem :=
  { el .ve with ins := (((Vector.replicate 32 InChan.unbound).set 0 { inp l with ent := 0x800C1101 }).set 1 (inp m)) }

theorem hyp_TakesAndFaults : (let f := { fld 0 0 with a := 0x200, b := 0x208, c := 0x0FF }
      takeBad (heads [word 5] [word 6]) f = none ∧ (takeChans f 1).map Prod.fst = [0, 1]
      ∧ (∀ e ∈ [heads [word 5] [word 6], heads [word 5] [ctl 3 0], heads [ctl 6 0] [ctl 3 0], heads [ctl 6 0] [ctl 6 0]],
          ∀ p ∈ takeChans f 1, p.2 ≤ (e.inch p.1).q.length))
    ∧ (heads [ctl 6 0] []).slot 0 0 = ctl 6 0 ∧ (ctl 6 0).kind = 6 ∧ (heads [] []).inch 0 = { inp [] with ent := 0x800C0000 }
    ∧ malformed (ctl 2 1) = true ∧ malformed (ctl 2 2) = false ∧ malformed (ctl 7 0) = true := by
  repeat' apply And.intro
  all_goals decide +kernel

theorem hyp_Companions : cmpHere (scaled [word 5] [word 6]) 0 1 = true ∧ cmpRight (scaled [word 5] [word 6]) 0 1 = true
    ∧ cmpHere (scaled [{ word 5 with ls := true }] []) 0 1 = false ∧ cmpRight (scaled [word 5] [ctl 3 0]) 0 1 = false
    ∧ (scaled [word 5] []).hasCmp 0 = true ∧ (heads [word 5] []).hasCmp 0 = false
    ∧ (strayHead (heads [ctl 9 0] [])).isSome = true ∧ strayHead (heads [word 5] []) = none := by
  repeat' apply And.intro
  all_goals decide +kernel

/-- Element code past its body; a core's branch in its segment and out of it; loops that hold the target and that do not; a loop whose
count is read, is zero, and that is the fifth. -/
def coreIn : Elem := { core with fc := { core.fc with icache := [{ codeWord 0 with seg := 0 }, { codeWord 3 with seg := 0 }, codeWord 6] } }

theorem hyp_BranchCorners : sameSegment coreIn 3 = true ∧ sameSegment coreIn 6 = false ∧ ¬ 4 < (el .ra).body.length
    ∧ (let e := { el .ra with run := { Run.idle with loops := [⟨0, 1, 2⟩, ⟨0, 3, 2⟩] } }
       e.run.loops = [⟨0, 1, 2⟩] ++ [⟨0, 3, 2⟩] ∧ e.run.loops.length < 4)
    ∧ ({ fld 0 0 with imm := 256 * 2 + 1 } : Fields).imm.toNat % 256 = 1 ∧ posAfter (el .ra) 1 = some 1
    ∧ srcOk (el .ra) 2 = true ∧ inWait (el .ra) 2 0 = true ∧ ((readDes (on (el .ra)) (el .ra) 2).pay.lane 0).toNat % 65536 = 2
    ∧ ((readDes (on (el .ra)) (el .ra) 8).pay.lane 0).toNat % 65536 = 0 ∧ inWait (heads [] []) 0x200 1 = false ∧ srcOk (heads [] []) 0x200 = true
    ∧ (let e := { el .ra with run := { Run.idle with loops := List.replicate 4 ⟨0, 3, 2⟩ } }
       ¬ e.run.loops.length < 4)
    ∧ 3 < (fld 4 0).var.toNat ∧ Run.idle.loops = [] := by
  repeat' apply And.intro
  all_goals decide +kernel

-- Devices: what waits, what faults and what is not there ----------------------------------------------------------------------------------

def accepting : Clause := { Clause.unused with used := true, en := true, acc := 0x7F, ins := [⟨0, 2⟩, ⟨1, 2⟩] }

/-- An element that may act, with words at the heads of two inputs, and one whose stop point a marker has passed. -/
def facing (v w : CWord) : Elem :=
  { heads [v] [w] with busy := false, cls4 := (Vector.replicate 4 Clause.unused).set 0 accepting }

theorem hyp_HeadFaults : (on (facing (ctl 2 1) (word 5))).elems[0]? = some (facing (ctl 2 1) (word 5)) ∧ (facing (ctl 2 1) (word 5)).active = true
    ∧ headFault (facing (ctl 2 1) (word 5)) = some (.align 0 none 2)
    ∧ (∀ v ∈ [ctl 6 2, ctl 4 0], let e := facing v (ctl 3 0)
        strayHead e = none ∧ pairFault e = none ∧ (e.clauses.any (runnable e)) = false ∧ e.mainIns = [0, 1] ∧ e.headOf 1 = some 3)
    ∧ (facing (ctl 6 2) (ctl 3 0)).headOf 0 = some 6 ∧ (facing (ctl 4 0) (ctl 3 0)).headOf 0 = some 4
    ∧ headFault (facing (ctl 6 2) (ctl 3 0)) = some (.unbal 0 1 1 1 6) ∧ headFault (facing (ctl 4 0) (ctl 3 0)) = some (.align 0 (some 1) 4) := by
  repeat' apply And.intro
  all_goals decide +kernel

theorem hyp_MalformedHead : (let e := facing (ctl 2 1) (word 5)
    e.active = true ∧ e.role = .actor ∧ entEn (e.inch 0).ent = true ∧ (e.inch 0).q = [ctl 2 1] ∧ malformed (ctl 2 1) = true)
    ∧ (let e := { facing (word 5) (word 6) with mark := some 4 }
       Idle (on e) 0 e ∧ e.parked = true ∧ (facing (word 5) (word 6)).parked = false) := by
  unfold Idle; repeat' apply And.intro
  all_goals decide +kernel

/-- A `drain` whose output is full, one that finds a refused stamped store, and a `switch` to a configuration that is there. -/
theorem hyp_PassingHolds : (let e := { headed .ag (ctl 4 0) with outs := (el .ag).outs.set 1 (outp 0) }
      Idle (on e) 0 e ∧ allHeads e 4 = true ∧ phaseHolds e = false ∧ refusal e = none ∧ (e.boundOuts.all (fun c => decide (1 ≤ (e.outch c).free))) = false)
    ∧ (let e := (headed .ag (ctl 4 0)).setPort 3 { port 0 with refused := some (7, []) }
       allHeads e 4 = true ∧ phaseHolds e = false ∧ refusal e = some (3, 7, []) ∧ e.cls = .ag)
    ∧ (let s : State := { on (headed .ve (ctl 6 7)) with configs := [(7, config)] }
       Tab.find s.configs ((headed .ve (ctl 6 7)).slot 0 0).arg.toNat = some config ∧ config.live = true ∧ allHeads (headed .ve (ctl 6 7)) 6 = true)
    ∧ allHeads (headed .ve (ctl 6 7)) 4 = false ∧ ((headed .ve (ctl 6 7)).boundIns.any (headed .ve (ctl 6 7)).hasCmp) = false := by
  unfold Idle; repeat' apply And.intro
  all_goals decide +kernel

/-- A record queue that has sent a member all it is to send, one that passes a `drain`, and one whose store is full. -/
def passing (k : Nat) : Elem := let e := dealer [ctl 3 0] [ctl k 0] [[.pass], [.pass]] 0
  { e with ins := e.ins.set 2 (inp [ctl k 0]), rq := { e.rq with passing := some k } }

def storing (n next : Nat) : Elem := let e := dealer [word 1, last 2] [word 1, last 2] [[.pair 0], []] 0
  { e with rq := { e.rq with pairs := (List.range n).map (fun k => (k + 5, (word 1, last 2))), pub := next } }

theorem hyp_QueueHolds : (let e := dealer [ctl 7 1, word 1] [] [[], []] 2
      ({ e with rq := { e.rq with sent := [2, 0] } } : Elem).rq.left ≤ [2, 0].getD 0 0 ∧ e.rq.left ≠ 0)
    ∧ (passing 4).rq.passing ≠ none ∧ (passing 4).rq.left = 0
    ∧ (storing 1024 0).rq.pairs.length = 1024 ∧ (storing 1024 0).rq.pub = 0 ∧ (storing 1024 1).rq.pub ≠ 0 ∧ 2 ≤ ((storing 1 0).outch 2).free
    ∧ ((storing 0 0).inch 0).q = [word 1, last 2] ∧ ((storing 0 0).inch 1).q = [word 1, last 2] ∧ (storing 0 0).rq.owed.getD 0 [] = [.pair 0]
    ∧ Tab.find (Tab.set (storing 1 5).rq.pairs 0 (word 1, last 2)) 5 = some (word 1, last 2) := by
  repeat' apply And.intro
  all_goals decide +kernel

theorem hyp_QueuePasses : (∀ k ∈ [4, 6], Dealer (on (passing k)) 0 (passing k) ∧ (passing k).rq.passing = some k ∧ (passing k).rq.pairs = []
      ∧ ((passing k).outch 2).free ≠ 0 ∧ (∀ m < 2, ((passing k).rq.owed.getD m []).head? = some .pass ∧ ((passing k).inch (m + 1)).q.head? = some (ctl k 0)))
    ∧ (storing 1 0).rq.pairs ≠ [] ∧ (let e := dealer [] [] [[], []] 0
       (({ e with outs := (e.outs.set 2 (outp 0)).set 0 (outp 0) } : Elem).outch 2).free = 0) := by
  unfold Dealer; repeat' apply And.intro
  all_goals decide +kernel

/-- A copy that is bad, a home that fills its L2 slice, an open load before another, and an element of the collective that waits for one. -/
def summing (n : Nat) : EngOp := { copying 1 with kind := 3, co := 0, imm := BitVec.ofNat 24 (1024 * n), ports := [port 0, port 0] }

def joined : Elem := { agent 0 with ag := { (agent 0).ag with cos := (agent 0).ag.cos.set 0 (coMake 1 0 3 0), colls := [(1, [0, 1])], eng := [summing 1] } }

theorem hyp_HomesCorners : (let x := { cached with bad := true }
      rdcFind { on (loading req0 []) with rdc := [x] } 1 1 0x20000 = some x ∧ x.bad = true)
    ∧ l2Bad (module (on (loading req0 []))) 0x20000 = false ∧ fillWays (module (on (loading req0 []))) 0x20000 0 ≠ [] ∧ isHbm 0x20000 = true
    ∧ (let o := (joined.ag.eng.find? (fun x => x.co == 0)).getD (summing 0)
       o.kind = 3 ∧ o.res = none ∧ coRunning (joined.co 0) = true ∧ collMembers joined 1 = some [0, 1] ∧ memberOp (on joined) 1 1 = none)
    ∧ coRunning (joined.co 1) = false ∧ (module (on (loading req0 []))).migr = [] := by
  repeat' apply And.intro
  all_goals decide +kernel

/-- A beacon before its minimum delay, in time, and lost; and one of a die that no synchronisation has reached. -/
def late1 (now dmin : Nat) (x : BitVec 512) : State :=
  { State.reset with
    now := now
    dies := [(1, { die0 with brs := [(0, { Bridge.initial with dmin := dmin, beacons := [(5, x)] })] })] }

theorem hyp_BeaconDelays : ((late1 9 5 0).bridge 1 0).beacons = [(5, 0)] ∧ (late1 9 5 0).now < 5 + ((late1 9 5 0).bridge 1 0).dmin
    ∧ (late1 10 5 0).now = 5 + ((late1 10 5 0).bridge 1 0).dmin
    ∧ (let b := (late1 10 5 0).bridge 1 0
       (late1 12 5 0).now ≤ 5 + (b.dmin + (if b.wideB then 2500 else 2)) ∧ 5 + (b.dmin + (if b.wideB then 2500 else 2)) < (late1 2511 5 0).now)
    ∧ (let x : BitVec 512 := BitVec.ofNat 512 ((2 ^ 64 - 1) * 2 ^ 64)
       (x.extractLsb' 0 64).toNat = 0 ∧ (x.extractLsb' 64 64).toNat = 2 ^ 64 - 1 ∧ ((late1 10 5 x).bridge 1 0).beacons = [(5, x)]) := by
  repeat' apply And.intro
  all_goals decide +kernel

/-- A descriptor of another context, one whose tail is out of bounds, and a queue that is not known. -/
theorem hyp_QueueMappingCorners : (let x := { Queue.initial with addr := some 0x5000 }
      (x.addr ≠ none ∨ x.desc.extractLsb' 192 32 = 0) ∧ x.halt = false ∧ qdCtx ((1 : BitVec 512) <<< 320) ≠ qdCtx x.desc)
    ∧ (let d := BitVec.ofNat 512 (memNat (memWrite [] 0x5000 (littleBytes 64 (fieldsNat [(256, 2), (192, 1)]))) 0x5000 64)
       2 ^ (d.extractLsb' 172 4).toNat < ((d.extractLsb' 256 32).toNat + 2 ^ 32 - (d.extractLsb' 288 32).toNat) % 2 ^ 32 ∧ d.extractLsb' 192 32 ≠ 0)
    ∧ ({ Queue.initial with mapped := true, halt := true } : Queue).halt = true := by
  repeat' apply And.intro
  all_goals decide +kernel

/-- A snapshot area that holds the snapshot of region 1, and one that does not; and folios of a peer's die. -/
def areaOf (l : List (Nat × Nat)) : State :=
  let s := running (reg 3) 1 0 []
  { s with mem := memWrite (memWrite [] s.ctxAt (ctxRec [(384, 0x40000), (352, 1)])) 0x40000 (littleBytes 128 (fieldsNat l)) }

theorem hyp_AreaHolds : areaHolds (areaOf [(736, 3), (704, 1), (656, 1), (0, 0x50414E53)]) 0 1 snap = true ∧ areaHolds (areaOf []) 0 1 snap = false
    ∧ (reg 3).last = some snap ∧ freeId State.reset = some 1
    ∧ (running (reg 2) 0 0 []).launches.find? (fun x => x.phase == 1 && x.rgn == 1) = none := by
  repeat' apply And.intro
  all_goals decide +kernel

theorem no_free_id (s : State) (h : ∀ i < 65535, i + 1 ∈ usedIds s) : freeId s = none := by
  simp only [freeId, List.find?_eq_none, List.mem_map, List.mem_range]
  rintro _ ⟨i, hi, rfl⟩
  simpa using h i (by omega)

/-- A module in which regions hold every id up to a number. -/
def full (n : Nat) : State := { State.reset with regions := (List.range n).map (fun i => (i + 1, reg 2)) }

theorem full_holds (n i : Nat) (h : i < n) : i + 1 ∈ usedIds (full n) := by
  have r : (reg 2).stt = 2 := rfl
  simp only [usedIds, full, List.mem_append, List.mem_map, List.mem_filter, List.mem_range]
  exact Or.inl ⟨(i + 1, reg 2), ⟨⟨i, h, rfl⟩, by rw [r]; rfl⟩, rfl⟩

/-- With every id from 1 to 65,535 held there is no free one. -/
theorem hyp_NoFreeId : freeId (full 65535) = none := no_free_id _ (full_holds 65535)

-- Restores, streams, copies and units that are held ---------------------------------------------------------------------------------------

/-- A launch whose region was taken away with a snapshot of its one actor, which stands in the context's area, or does not. -/
def snap1 : Snap := { snap with elems := [{ el .ve with rgn := 1 }], folios := [(0, 0)] }
def evicted (same : Bool) : Launch := { waiting 1 2 with rgn := 1, same := same, held := some { Region.blank with last := some snap1 } }

def restorable (same bad : Bool) (mkn : Nat) : State :=
  { configured 0 0 with
    configs := [(7, { config with obj := object1 })]
    mapBad := bad
    launches := [evicted same]
    mem := memWrite (memWrite [] State.reset.ctxAt (ctxRec [(384, 0x9000)])) 0x9000
      (littleBytes 128 (fieldsNat [(800, 128), (736, mkn), (704, 1), (656, 1), (0, 0x50414E53)])) }

theorem hyp_RegionRestored : (∀ b, readyOrder (restorable b false 3) = [evicted b]) ∧ (restorable true false 3).safe = false
    ∧ (evicted true).phase = 2 ∧ (evicted true).same = true ∧ (evicted false).same = false ∧ pkFold (evicted true).pkt ≠ 0xFF
    ∧ (∀ x ∈ (restorable true false 3).launches, x.phase = 2 → x.order ≠ 0)
    ∧ (∀ f ∈ snap1.folios, f ∈ freeFolios (restorable true false 3) f.1)
    ∧ chooseFolios (restorable false false 3) (pkNfol (evicted false).pkt) (pkMdie (evicted false).pkt) (pkPeer (evicted false).pkt) = some [(0, 0), (0, 1)]
    ∧ savedChoices (evicted true) { config with obj := object1 } snap1 = [0]
    ∧ (let g : Region := { Region.blank with last := some snap1 }
       let s := restorable true false 3
       savedUnder s (evicted true) { config with obj := object1 } g snap1 0 = some snap1
       ∧ placed (placeGraph s object1 [(0, 0)] 0 |>.mapError (fun x => (0, x)) |>.map (fun p => (0, p))) = true
       ∧ placed (placeGraph (restorable true true 3) object1 [(0, 0)] 0 |>.mapError (fun x => (0, x)) |>.map (fun p => (0, p))) = false
       ∧ areaHolds s 0 1 snap1 = true ∧ areaHolds (restorable true false 4) 0 1 snap1 = false ∧ ctxLid (s.ctx 0) = 0
       ∧ snap1.elems.all (fun e => (List.range 4).all (fun i => !(e.port i).bnd)) = true
       ∧ (actorsOf object1 0).all (fun i => (snap1.elems.find? (fun e => e.act == i)).isSome) = true ∧ s.elems = []) := by
  repeat' apply And.intro
  all_goals decide +kernel

theorem hyp_RegionReused : (let s : State := { configured 0 0 with launches := [{ waiting 1 0 with pkt := launch [(528, 3)] }], regions := [(3, { kept with cfg := 7 })] }
      readyOrder s = s.launches ∧ s.safe = false ∧ keptFree s 0 3 = true ∧ (s.region 3).cfg = pkCfg (launch [(528, 3)])
      ∧ (s.region 3).fold = pkFold (launch [(528, 3)]) ∧ pkRgn (launch [(528, 3)]) = 3 ∧ pkPeer (launch [(528, 3)]) = false
      ∧ (giveStreams (clearElems s 3) (keptWays s (s.region 3) 3 config.obj) []).isSome = true
      ∧ keptFree { s with regions := [] } 0 3 = false ∧ readyOrder { s with regions := [] } = s.launches ∧ Tab.find s.configs 7 = some config) := by
  repeat' apply And.intro
  all_goals decide +kernel

/-- A stream actor whose firing at work has left S1, with words for one more behind it, and one whose clause has nothing. -/
def streaming (l : List CWord) : Elem :=
  { facing (word 5) (word 6) with busy := true, strm := true, run := { Run.idle with pos := 1 }, ins := ((facing (word 5) (word 6)).ins.set 0 (inp l)).set 1 (inp [word 6, word 7]) }
theorem hyp_StreamFollows : (let e := streaming [word 5, word 5]
      let x := e.ahead (on e)
      (on e).elems[0]? = some e ∧ e.active = true ∧ e.role = .actor ∧ e.busy = true ∧ e.strm = true ∧ (∀ r ∈ e.run :: e.pipe, r.wait = none)
      ∧ (e.cls4.toList.getD 0 Clause.unused).entry < (e.pipe.getLast?.getD e.run).pos ∧ e.parked = false ∧ headFault x = none ∧ armDue x = false
      ∧ allHeads x 4 = false ∧ allHeads x 6 = false ∧ runnable x (x.cls4.toList.getD 0 Clause.unused) = true)
    ∧ (let e := streaming []
       e.active = true ∧ (List.range 4).all (fun i => !runnable (e.ahead (on e)) (e.cls4.toList.getD i Clause.unused)) = true)
    ∧ (let e := { streaming [word 5] with run := Run.idle }
       (e.pipe.getLast?.getD e.run).pos ≤ (e.cls4.toList.getD 0 Clause.unused).entry) := by
  repeat' apply And.intro
  all_goals decide +kernel

/-- A stream of `take`, `nop`, `give` and `end` (R80): a firing about to give, which waits or does not, and one behind it about to take. -/
def staging (wait : Option Hold) (p : Nat) : Elem :=
  { el .ve with
    strm := true
    ins := (Vector.replicate 32 InChan.unbound).set 0 (inp [word 5, word 6])
    body := [(encodeWord (.take { Fields.initial with a := 0x200, wa := 1 })).getD 0, 0, (encodeWord (.give { Fields.initial with d := 0x300, imm := 1 })).getD 0,
             (encodeWord (.endFiring Fields.initial)).getD 0]
    run := { Run.idle with pos := 2, wait := wait }
    pipe := [{ Run.idle with pos := p }] }

theorem hyp_StagesAdvance : (let e := staging none 0
      let v := e.staged (on e) 1 { Run.idle with pos := 0 }
      (on e).elems[0]? = some e ∧ (e.run :: e.pipe)[1]? = some { Run.idle with pos := 0 } ∧ 0 + 2 ≤ e.run.pos
      ∧ (∀ y ∈ (e.run :: e.pipe).take 1, y.wait = none) ∧ e.strm = true ∧ e.busy = true ∧ e.parked = false ∧ e.active = true ∧ e.role = .actor
      ∧ (decodeWord (e.body.getD 0 0)).isSome = true ∧ stageHolds e v (e.body.drop 2) (e.body.getD 0 0) = false
      ∧ ((decodeWord (e.body.getD 0 0)).map (fun i => next (exec i ((on e).setUnit (.el 0) v)))) = some true)
    ∧ (∃ x ∈ ((staging (some .slots) 0).run :: (staging (some .slots) 0).pipe).take 1, x.wait ≠ none) ∧ (staging none 1).run.pos < 1 + 2
    ∧ (staging none 0).blot = false := by
  repeat' apply And.intro
  all_goals decide +kernel

/-- Where the firings of an element stand after a step, and how many words are left on its input 0. -/
def stages (o : Host.Outcome State Fault Refusal) : Option (List Nat × Nat) :=
  match o with
  | .next t => (t.elems[0]?).map (fun (x : Elem) => ((x.run :: x.pipe).map Run.pos, (x.inch 0).q.length))
  | _ => none

/-- R80: the second firing consumes its word while the first stands at its third, and holds in its stage while that one waits. -/
theorem test_stage_takes : stages (stageTurn (on (staging none 0)) 0 1) = some ([2, 1], 1) := by decide +kernel

theorem test_stage_holds : stages (stageTurn (on (staging (some .slots) 0)) 0 1) = some ([2, 0], 2) := by decide +kernel

/-- The module with the record of a memory unit waiting in a full ring of die 0, that unit the home of 0x20000. -/
def ringFull (ek no : Nat) (s : State) : State :=
  { s with dies := [(0, { die0 with waiting := [BitVec.ofNat 2048 (ek * 2 ^ 1152 + no * 2 ^ 992)] })] }

theorem hyp_HomeHeld : homeHeld (ringFull 9 (homeFolio 0x20000) (module (on (loading req0 [])))) 0 0x20000 = true
    ∧ homeHeld (module (on (loading req0 []))) 0 0x20000 = false ∧ unitHeld (ringFull 10 0 crossing) 0 10 0 = true ∧ unitHeld crossing 1 10 0 = false
    ∧ req0.addr = 0x20000 ∧ (store0 true).base = 0x20000 ∧ homeHeld (ringFull 9 (homeFolio 0x4000) (onCore core)) 32 0x4000 = true
    ∧ homeHeld (onCore core) 32 0x4000 = false ∧ lineWay (module (on (loading req0 []))) 0x20000 = none
    ∧ fillWays (module (on (loading req0 []))) 0x20000 0 ≠ [] := by
  repeat' apply And.intro
  all_goals decide +kernel

theorem hyp_CoreCopyEnds : (let o := copying 2
      let e := copier 2
      (onCore e).unit (.fc 2) = some e ∧ e.ag.eng.find? (fun x => x.co == 3) = some o ∧ coRunning (e.co 3) = true ∧ o.kind = 1 ∧ o.done = 0
      ∧ o.writes = [] ∧ o.spoilt = none ∧ (o.args.lane 4).toNat / 64 = 2
      ∧ (∀ k < 2, let a := 0x4000 + 64 * k
          let b := 0x5000 + 64 * k
          coreReach (onCore e) a 64 = true ∧ coreReach (onCore e) b 64 = true ∧ homeHeld (onCore e) 32 a = false ∧ homeHeld (onCore e) 32 b = false
          ∧ (onCore e).bad.contains (a / 64) = false ∧ l2Bad (onCore e) a = false ∧ isHost b = false))
    ∧ coreReach (onCore core) 0x100000000000 64 = true ∧ isHost 0x100000000000 = true ∧ coreReach (onCore core) (2 ^ 60) 64 = false
    ∧ (ownView [] 0 0x4000 (homeGran { onCore core with gpz := [0x100] } 0x4000)).pz = true := by
  repeat' apply And.intro
  all_goals decide +kernel

/-- A copy of an agent between two tensors of its tile, one word done, of n words from a word on, and a collective that has its words. -/
def copyingAg (first n : Nat) : EngOp :=
  { copying 1 with co := 0, args := Payload.ofList [BitVec.ofNat 32 first, 0, BitVec.ofNat 32 n], done := 1, ports := [port 0, port 0] }
def agentAt (o : EngOp) : Elem :=
  { agent 0 with ag := { (agent 0).ag with cos := AgPart.empty.cos.set 0 (coMake 1 0 o.kind 0), eng := [o] } }
def nowhere (o : EngOp) : State := { module (on (agentAt o)) with tiles := [] }
theorem hyp_AgentCopyEnds : (let o := { copyingAg 0 3 with ports := [{ port 0 with tile := none }, port 0] }
      let s := nowhere o
      let q := o.port 0
      s.unit (.el 0) = some (agentAt o) ∧ (agentAt o).cls = .ag ∧ (agentAt o).ag.eng.find? (fun x => x.co == 0) = some o
      ∧ coRunning ((agentAt o).co 0) = true ∧ o.kind = 1 ∧ o.done < (o.args.lane 2).toNat ∧ tensorFmt (srCode q.srec) = some .i32
      ∧ freshPort s q 0 = q ∧ handleOk s 0 q.hdl = true ∧ q.tile = none ∧ shapeOk q.srec = true ∧ q.tsz = srTsz q.srec
      ∧ insideTensor q.srec (wordCoords q.srec .i32 (0 + o.done)) = true
      ∧ tileOf q.srec (wordCoords q.srec .i32 (0 + o.done)) = some 0 ∧ 0 < heLim (heAt s 0 (hdlSlot q.hdl))
      ∧ (let s' := { s with mem := memWrite s.mem 0x2000 (littleBytes 32 (fieldsNat [(192, 0x3000), (149, 1)])) }
         handleOk s' 0 q.hdl = true ∧ heLim (heAt s' 0 (hdlSlot q.hdl)) ≤ 0))
    ∧ (let o := copyingAg 0 3
       (match findFrame (nowhere o) 0 (agentAt o).agFolio { ctx := 0, slot := 0, tile := 0 } 0 (srTsz shape) (srTtab shape)
          (inTile shape (wordCoords shape .i32 1) * 4) with | .error (some 1) => true | _ => false) = true)
    ∧ (let o := { copyingAg 0 1 with kind := 3, res := some [Reg.zero], done := 1 }
       o.kind = 3 ∧ o.res = some [Reg.zero] ∧ [Reg.zero].length ≤ o.done ∧ o.spoilt = none ∧ coRunning ((agentAt o).co 0) = true)
    ∧ NoReset (module (on (agent 0))) := by
  unfold NoReset; repeat' apply And.intro
  all_goals decide +kernel

theorem hyp_MoreFlits : ((flit 0 5 0 5 1 true).extractLsb' 84 12).toNat = 1 ∧ flSound (flit 0 5 0 5 1 true) = true
    ∧ ((flit 0 5 0 5 1 true).extractLsb' 74 10).toNat = 5 ∧ peerBridge 1 0 = some (0, 1) ∧ (flit 2 0 0 0 0 false).extractLsb' 96 2 = 2
    ∧ flSound (flit 2 0 0 0 0 false) = false := by
  repeat' apply And.intro
  all_goals decide +kernel

/-- A beacon sent before and after the last retrain of its link, whose minimum delay it carries. -/
theorem hyp_BeaconDelay : (let s : State := { told 0 0 false with now := 12 }
      let x : BitVec 512 := BitVec.ofNat 512 (fieldsNat [(128, 10)])
      (x.extractLsb' 128 32).toNat = 10 ∧ 0 + 10 ≤ s.now ∧ s.now ≤ 0 + 10 + 2 ∧ ¬ 13 ≤ 0 + 10 + 2 ∧ 9 < 0 + 10 ∧ (1 : Nat) < 32
      ∧ (let b : Bridge := { Bridge.initial with wideB := true, rtAt := 1 }
         b.wideB = true ∧ (0 : Nat) < b.rtAt ∧ ¬ (1 : Nat) < b.rtAt)) := by
  repeat' apply And.intro
  all_goals decide +kernel

/-- A region whose context's area holds its snapshot, and one whose area does not. -/
theorem hyp_ReleaseSaved : (∀ b, (let s := { retrying { reg 7 with last := some snap1, fault := some (13, .granule 64, b) } with mem := (restorable true false 3).mem }
      memWf s.mem = true ∧ (s.region 1).last = some snap1 ∧ areaHolds s (s.region 1).ctx 1 snap1 = true ∧ (s.queue 0).ctl.getLsbD 32 = true))
    ∧ (let s := { retrying { reg 7 with last := some snap1 } with mem := (restorable true false 4).mem }
       areaHolds s (s.region 1).ctx 1 snap1 = false) := by
  repeat' apply And.intro
  all_goals decide +kernel

end Sys2Proof.Tests
end

section
/-! PROOFS. Nothing stops the machine while a unit exists (R16, R63; log 2): an instruction with an op does all its work
through `issue`, which checks the class of its unit first, and a step of the device always answers with a state. -/
namespace Sys2Proof.Machine

open Sys2Proof.Claim

variable {i : Instr} {op : BitVec 8} {body : Body} {f : Fields} {s : State} {e : Elem} {c : Cls}

/-- Without a unit there is nothing to execute an instruction. -/
theorem issue_noUnit (h : s.unit s.cur = none) : issue op body f s = .fault .noUnit := by
  rw [issue, h]

/-- An instruction with an op is issued with that op and those fields, so that what holds of `issue` for every body holds
of it. The work of `fma` clears its fields' `wb` first, and is written out. -/
theorem exec_eq_issue (h : opFields i = some (op, f)) : ∃ body : Body, ∀ s, exec i s = issue op body f s := by
  cases i
  case fma f =>
    cases h
    exact ⟨fun s f e => floatBody usesABC 2 fusedNum s { f with wb := 0 } e, fun _ => rfl⟩
  all_goals cases h <;> exact ⟨_, fun _ => rfl⟩

/-- A step of the device has no op, and its arm of `exec` is an answer `.next` of a state: the one it was given, where the
step is not due (log 1). -/
theorem exec_next_of_opFields_none (h : opFields i = none) (s : State) : ∃ t, exec i s = .next t := by
  cases i <;> cases h <;> exact ⟨_, rfl⟩

/-- The table of R63 as the statements give it, class by class, and as the model gives it, op by op, agree on every op that
is barred. -/
theorem not_mem_classesOf_of_barred :
    (barred c).any (fun r => decide (r.1 ≤ op.toNat ∧ op.toNat ≤ r.2)) = true → (classesOf op).contains c = false := by
  cases c <;> revert op <;> decide

/-- A barred instruction traps at its own word, whatever its work would have been (R63, log 108). -/
theorem traps_of_barred (hr : Runs s e) (ho : opFields i = some (op, f))
    (hb : (barred e.cls).any (fun r => decide (r.1 ≤ op.toNat ∧ op.toNat ≤ r.2)) = true) :
    Traps i s e .instr (wordOf op f) := by
  obtain ⟨body, hx⟩ := exec_eq_issue ho
  rw [Traps, hx]
  exact issue_class hr (not_mem_classesOf_of_barred hb)

/-- While its unit exists, an instruction leaves a next state (log 2). -/
theorem exec_next_of_runs (i : Instr) (hr : Runs s e) : ∃ t, exec i s = .next t := by
  cases ho : opFields i with
  | none => exact exec_next_of_opFields_none ho s
  | some p =>
    obtain ⟨body, hx⟩ := exec_eq_issue (op := p.1) (f := p.2) ho
    rw [hx]
    exact issue_next hr

/-- Where no unit is current, an instruction stops the machine (log 2). -/
theorem exec_noUnit (h : s.unit s.cur = none) (ho : opFields i = some (op, f)) : exec i s = .fault .noUnit := by
  obtain ⟨body, hx⟩ := exec_eq_issue ho
  rw [hx, issue_noUnit h]

/-- Settles O59: an instruction with an op is an `issue` (`exec_eq_issue`), and a step of the device is a next state. -/
theorem neverStops : Obligations.NeverStops := by
  unfold Obligations.NeverStops
  exact ⟨fun _ _ _ _ _ => traps_of_barred, fun i _ _ => exec_next_of_runs i, fun _ s ho => exec_next_of_opFields_none ho s,
    fun _ _ _ _ => exec_noUnit⟩

end Sys2Proof.Machine
end

section
/-! PROOFS. What leaves memory: one equation per shared operation of the model, in the order of the definitions
they speak of (R18, R161). -/
namespace Sys2Proof.Machine
open Sys2Proof.Claim

@[simp] theorem giveCredit_mem (s : State) (src : ChanEnd) (n : Nat) : (giveCredit s src n).mem = s.mem := by
  unfold giveCredit; split <;> rfl

@[simp] theorem blotTurn_mem (s : State) (n : Nat) (e : Elem) : (blotTurn s n e).mem = s.mem := by
  refine foldl_mem _ (fun s c => ?_) _ s
  repeat' split
  all_goals simp

@[simp] theorem consume_mem (s : State) (e : Elem) (c n : Nat) : (consume s e c n).1.mem = s.mem := by
  unfold consume; dsimp only; repeat' split
  all_goals simp

@[simp] theorem consumeWith_mem (s : State) (e : Elem) (c n : Nat) : (consumeWith s e c n).1.mem = s.mem := by
  unfold consumeWith; dsimp only; split <;> simp

@[simp] theorem dropPins_mem (s : State) (u : UnitId) : (dropPins s u).mem = s.mem := by
  unfold dropPins; split <;> rfl

@[simp] theorem eoiSide_mem (s : State) (e : Elem) (kind : Nat) : (eoiSide s e kind).mem = s.mem := by
  unfold eoiSide; split <;> simp

@[simp] theorem setSupply_mem (s : State) (die folio : Nat) (x : Supply) : (setSupply s die folio x).mem = s.mem := by
  unfold setSupply; dsimp only; split <;> simp

@[simp] theorem blameSupply_mem (s : State) (die folio : Nat) : (blameSupply s die folio).1.mem = s.mem := by
  unfold blameSupply; dsimp only; split <;> simp

@[simp] theorem spend_mem (s : State) : (State.spend s).mem = s.mem := rfl

@[simp] theorem putStore_mem (s : State) (e : Elem) (r : Reach) (st : Store) : (putStore s e r st).1.mem = s.mem := by
  unfold putStore; split <;> rfl

@[simp] theorem wholeBits_mem (s : State) (st : Store) (g : Nat) (pz tn : Bool) : (wholeBits s st g pz tn).1.mem = s.mem := by
  unfold wholeBits; split <;> rfl

@[simp] theorem coverBits_mem (s : State) (addr : Nat → Nat) (n : Nat) (lanes : List Nat) (pz tn : Bool) (st : Store) :
    (coverBits s addr n lanes pz tn st).1.mem = s.mem := by
  unfold coverBits
  generalize (lanes.map (fun i => granule (addr i))).eraseDups = l
  induction l generalizing s st with
  | nil => rfl
  | cons g r ih =>
    rw [List.foldl_cons, ih]
    split <;> simp

@[simp] theorem sendReq_mem (s : State) (e : Elem) (pno : Nat) (p : Port) (r : Req) : (sendReq s e pno p r).1.mem = s.mem := rfl

@[simp] theorem tileFill_mem (s : State) (die folio : Nat) (u : TileUse) (gen : Nat) (piece : Option Nat) (ent : BitVec 64) :
    (tileFill s die folio u gen piece ent).mem = s.mem :=
  rfl

@[simp] theorem l2Put_mem (s : State) (a w tcl : Nat) : (l2Put s a w tcl).mem = s.mem := rfl

@[simp] theorem l2Evict_mem (s : State) (a w : Nat) : (l2Evict s a w).mem = s.mem := rfl

@[simp] theorem l2Alloc_mem (s : State) (a tcl : Nat) : (l2Alloc s a tcl).mem = s.mem := by
  unfold l2Alloc; dsimp only; repeat' split
  all_goals simp

@[simp] theorem pinLine_mem (s0 : State) (a tcl agent : Nat) : (pinLine s0 a tcl agent).mem = s0.mem := by
  unfold pinLine; dsimp only; repeat' split
  all_goals simp

@[simp] theorem pinFor_mem (s : State) (u : UnitId) (die base pol tcl : Nat) : (pinFor s u die base pol tcl).mem = s.mem := by
  unfold pinFor; repeat' split
  all_goals simp

@[simp] theorem l2Count_mem (s : State) (a : Nat) : (l2Count s a).mem = s.mem := by
  unfold l2Count; split <;> rfl

@[simp] theorem l2Fill_mem (s : State) (a tcl : Nat) : (l2Fill s a tcl).mem = s.mem := by
  simp [l2Fill]

@[simp] theorem l2Serve_mem (s : State) (a pol tcl : Nat) : (l2Serve s a pol tcl).mem = s.mem := by
  unfold l2Serve; split <;> simp

@[simp] theorem agentFill_mem (s : State) (u : UnitId) (die base pol tcl : Nat) : (agentFill s u die base pol tcl).mem = s.mem := by
  simp [agentFill]

@[simp] theorem rdcRoom_mem (s : State) (die : Nat) : (rdcRoom s die).mem = s.mem := by
  unfold rdcRoom; repeat' split
  all_goals simp

@[simp] theorem rdcFill_mem (s : State) (die rgn a : Nat) : (rdcFill s die rgn a).mem = s.mem := by
  simp [rdcFill]

@[simp] theorem prefetch_mem (s : State) (e : Elem) (a : Access) : (prefetch s e a).mem = s.mem := by
  unfold prefetch; repeat' split
  all_goals simp

@[simp] theorem cureGran_mem (s : State) (g : Nat) : (cureGran s g).mem = s.mem := rfl

@[simp] theorem acceptCmd_mem (s : State) (r : Nat) : (acceptCmd s r).mem = s.mem := rfl

@[simp] theorem mapRegion_mem (s : State) (r : Nat) (g : Elem → Elem) : (State.mapRegion s r g).mem = s.mem := rfl

@[simp] theorem refuseCmd_mem (s : State) (r : Nat) : (refuseCmd s r).mem = s.mem := by
  unfold refuseCmd; split <;> rfl

@[simp] theorem cmdHalt_mem (s : State) (r : Nat) : (cmdHalt s r).mem = s.mem := by
  unfold cmdHalt; split <;> simp

@[simp] theorem joined_mem (s : State) : (State.joined s).mem = s.mem := rfl

@[simp] theorem unboostAt_mem (s : State) (folios : List (Nat × Nat)) : (unboostAt s folios).mem = s.mem := by
  refine foldl_mem _ (fun s f => ?_) _ s
  dsimp only
  split <;> simp

@[simp] theorem unboost_mem (s : State) (r : Nat) : (unboost s r).mem = s.mem := by
  simp [unboost]

@[simp] theorem rdcRegion_mem (s : State) (rgn : Nat) : (rdcRegion s rgn).mem = s.mem := rfl

@[simp] theorem clearElems_mem (s : State) (r : Nat) : (clearElems s r).mem = s.mem := rfl

@[simp] theorem freeRegion_mem (s : State) (r : Nat) : (freeRegion s r).mem = s.mem := by
  simp [freeRegion]

@[simp] theorem holdLaunch_mem (s : State) (r : Nat) (g : Region) (same once : Bool) : (holdLaunch s r g same once).mem = s.mem := rfl

@[simp] theorem markUnsound_mem (s : State) (die kind a b : Nat) : (markUnsound s die kind a b).mem = s.mem := by
  unfold markUnsound; split <;> rfl

@[simp] theorem markUnit_mem (s : State) (unit : FaultUnit) : (markUnit s unit).mem = s.mem := by
  unfold markUnit; split <;> simp

@[simp] theorem patternTested_mem (s : State) (unit : FaultUnit) (blamed : Bool) : (patternTested s unit blamed).mem = s.mem := by
  unfold patternTested; dsimp only; repeat' split
  all_goals simp

@[simp] theorem setQueue_mem (s : State) (q : Nat) (x : Queue) : (State.setQueue s q x).mem = s.mem := rfl

@[simp] theorem rdcAcquire_mem (s : State) (die rgn : Nat) : (rdcAcquire s die rgn).mem = s.mem := rfl

@[simp] theorem acquire_mem (s : State) (e : Elem) (scp : Nat) : (acquire s e scp).mem = s.mem := by
  unfold acquire; repeat' split
  all_goals simp

@[simp] theorem injectSnap_mem (s : State) (r mkn : Nat) : (injectSnap s r mkn).mem = s.mem := rfl

@[simp] theorem refill_mem (s : State) (e : Elem) : (refill s e).1.mem = s.mem := by
  unfold refill; split <;> rfl

@[simp] theorem haltByCode_mem (s : State) (e : Elem) (code : Nat) : (haltByCode s e code).mem = s.mem := by
  simp [haltByCode]

/-- A step on an element leaves memory where what it does to the element does. -/
theorem onElem_mem (s : State) (n : Nat) (g : Elem → State) (h : ∀ e, (g e).mem = s.mem) : (onElem s n g).mem = s.mem := by
  unfold onElem
  split
  · rfl
  · exact h _

@[simp] theorem followFiring_mem (s : State) (u : Nat) (e : Elem) : (followFiring s u e).mem = s.mem := by
  unfold followFiring; dsimp only; repeat' split
  all_goals simp

@[simp] theorem setOutAt_mem (s : State) (x : ChanEnd) (o : OutChan) : (State.setOutAt s x o).mem = s.mem := by
  unfold State.setOutAt; split <;> rfl

@[simp] theorem eatAt_mem (s : State) (n c k : Nat) : (eatAt s n c k).mem = s.mem := by
  unfold eatAt; dsimp only; split <;> simp

@[simp] theorem eatPair_mem (s : State) (n c : Nat) : (eatPair s n c).mem = s.mem := by
  unfold eatPair; dsimp only; repeat' split
  all_goals simp

@[simp] theorem installSwitch_mem (s : State) (n id : Nat) : (installSwitch s n id).mem = s.mem := by
  unfold installSwitch; repeat' split
  all_goals simp

@[simp] theorem armElem_mem (s : State) (n : Nat) (e : Elem) : (armElem s n e).mem = s.mem := by
  unfold armElem; dsimp only; repeat' split
  all_goals simp

@[simp] theorem putOp_mem (s : State) (n : Nat) (o : EngOp) : (putOp s n o).mem = s.mem := rfl

@[simp] theorem engMark_mem (s : State) (u : UnitId) (co kind : Nat) (x : EngEnd) : (engMark s u co kind x).mem = s.mem := by
  unfold engMark; repeat' split
  all_goals simp

@[simp] theorem recqNext_mem (s : State) (n : Nat) : (recqNext s n).mem = s.mem := by
  refine onElem_mem _ _ _ (fun e => ?_)
  split <;> simp

@[simp] theorem recqSend_mem (s : State) (n m : Nat) (e : Elem) : (recqSend s n m e).mem = s.mem := by
  unfold recqSend; dsimp only; repeat' split
  all_goals simp

@[simp] theorem recqPublish_mem (n : Nat) (s : State) : (recqPublish n s).mem = s.mem := by
  refine onElem_mem _ _ _ (fun e => ?_)
  repeat' split
  all_goals simp

@[simp] theorem recqTake_mem (n : Nat) (s : State) (m : Nat) : (recqTake n s m).mem = s.mem := by
  refine onElem_mem _ _ _ (fun e => ?_)
  dsimp only
  repeat' split
  all_goals simp

@[simp] theorem recqClear_mem (n : Nat) (s : State) (e : Elem) : (recqClear n s e).mem = s.mem := by
  simp [recqClear, foldl_mem _ (fun s m => eatAt_mem s n (m + 1) 1)]

@[simp] theorem setGate_mem (s : State) (r g : Nat) (x : Gate) : (setGate s r g x).mem = s.mem := rfl

@[simp] theorem haltAtGate_mem (s : State) (r arg : Nat) : (haltAtGate s r arg).mem = s.mem := by
  simp [haltAtGate]

@[simp] theorem setBridge_mem (s : State) (d b : Nat) (x : Bridge) : (State.setBridge s d b x).mem = s.mem := rfl

@[simp] theorem flitCredits_mem (s : State) (die br : Nat) (f : BitVec 640) : (flitCredits s die br f).mem = s.mem := by
  unfold flitCredits; dsimp only; repeat' split
  all_goals simp

@[simp] theorem sendBeacon_mem (n : Nat) (s : State) (b : Nat) : (sendBeacon n s b).mem = s.mem := by
  unfold sendBeacon; split <;> rfl

@[simp] theorem steal_mem (s : State) : (steal s).mem = s.mem := by
  unfold steal; repeat' split
  all_goals simp

@[simp] theorem leaveWork_mem (s : State) (q : Nat) : (leaveWork s q).mem = s.mem := by
  simp [leaveWork]

@[simp] theorem enterWork_mem (s : State) (q : Nat) : (enterWork s q).mem = s.mem := by
  unfold enterWork; split <;> simp

@[simp] theorem wakeQueue_mem (s : State) (q : Nat) : (wakeQueue s q).mem = s.mem := by
  unfold wakeQueue; dsimp only; repeat' split
  all_goals simp

@[simp] theorem pastHead_mem (s : State) (q : Nat) : (pastHead s q).mem = s.mem := by
  unfold pastHead; extract_lets x t
  split
  · exact (leaveWork_mem t q).trans (setQueue_mem ..)
  · exact setQueue_mem ..

@[simp] theorem interrupt_mem (s : State) (q : Nat) (p : BitVec 1536) : (interrupt s q p).mem = s.mem := by
  unfold interrupt; split <;> rfl

@[simp] theorem readyEvicted_mem (s : State) : (readyEvicted s).mem = s.mem := by
  unfold readyEvicted; dsimp only; split <;> simp

@[simp] theorem openStreams_mem (s : State) (ways : List (Wire × List Hop)) : (openStreams s ways).mem = s.mem := by
  refine foldl_mem _ (fun s h => ?_) _ s
  split <;> simp

@[simp] theorem grantedLaunch_mem (s : State) (l : Launch) (id : Nat) : (grantedLaunch s l id).mem = s.mem := rfl

@[simp] theorem installFresh_mem (s : State) (l : Launch) (c : Config) (p : Placed) : (installFresh s l c p).mem = s.mem := by
  simp [installFresh]

@[simp] theorem refusePage_mem (s : State) (e : Elem) : (refusePage s e).mem = s.mem := by
  simp [refusePage]

@[simp] theorem markStep_mem (s : State) (r step : Nat) : (markStep s r step).mem = s.mem := by
  unfold markStep
  split
  · exact foldl_mem _ (fun s h => markUnsound_mem _ _ _ _ _) _ s
  · refine foldl_mem _ (fun s e => ?_) _ s
    split <;> simp

@[simp] theorem dropTiles_mem (s : State) (die : Nat) : (dropTiles s die).mem = s.mem := rfl

@[simp] theorem haltDue_mem (s : State) : (haltDue s).mem = s.mem :=
  foldl_mem _ (fun s p => by simp) _ s

@[simp] theorem passCores_mem (s : State) (ns : Nat) : (passCores s ns).mem = s.mem := rfl

@[simp] theorem passDies_mem (s : State) (ns : Nat) : (passDies s ns).mem = s.mem := rfl

@[simp] theorem upset_mem (s : State) (x : Upset) : (upset s x).mem = s.mem := by
  unfold upset; dsimp only; repeat' split
  all_goals simp

@[simp] theorem upsetAll_mem (s : State) (l : List Upset) : (upsetAll s l).mem = s.mem := foldl_mem _ upset_mem _ s

@[simp] theorem unstage_mem (s : State) (u k : Nat) (r : Run) (t : State) : (unstage s u k r t).mem = t.mem := by
  unfold unstage; split <;> rfl

@[simp] theorem emitSwitch_mem (s : State) (rgn g : Nat) (cfg : Lane) : (emitSwitch s rgn g cfg).mem = s.mem := by
  unfold emitSwitch; dsimp only; repeat' split
  all_goals simp
end Sys2Proof.Machine
end

section
/-! PROOFS. What a computation yields, and what an instruction leaves: the rules for the sequencing of its checks, and for the
taking of words and marks from channels. -/
namespace Sys2Proof.Machine
open Sys2Proof.Claim

-- What a computation yields --------------------------------------------------------------------------------------------------

/-- What holds of the result of a computation, where it has one. -/
def Yields {ε α : Type} (P : α → Prop) (r : Except ε α) : Prop := ∀ a, r = .ok a → P a

section
variable {ε α β : Type} {P : α → Prop} {Q : β → Prop}

@[simp] theorem yields_ok (a : α) : Yields P (.ok a : Except ε α) ↔ P a := by simp [Yields]

@[simp] theorem yields_error (x : ε) : Yields P (.error x : Except ε α) := by simp [Yields]

@[simp] theorem yields_pure (a : α) : Yields P (pure a : Except ε α) ↔ P a := yields_ok a

@[simp] theorem yields_throw (x : ε) : Yields P (throw x : Except ε α) := yields_error x

/-- A computation with a first part: what follows yields it for every result of that part. -/
@[simp] theorem yields_bind (x : Except ε β) (g : β → Except ε α) :
    Yields P (x >>= g) ↔ Yields (fun b => Yields P (g b)) x := by
  cases x with
  | error e => simp [Yields, Bind.bind, Except.bind]
  | ok b => simp [Yields, Bind.bind, Except.bind]

theorem Yields.mono {R : α → Prop} {r : Except ε α} (h : Yields P r) (hR : ∀ a, P a → R a) : Yields R r :=
  fun a ha => hR a (h a ha)

theorem yields_of_forall {r : Except ε α} (h : ∀ a, P a) : Yields P r := fun a _ => h a

@[simp] theorem yields_ite {c : Prop} [Decidable c] (x y : Except ε α) :
    Yields P (if c then x else y) ↔ (c → Yields P x) ∧ (¬ c → Yields P y) := by
  split <;> simp_all

end

/-- The memory is canonical in what an instruction leaves. -/
abbrev KeepsWf (r : Res Done) : Prop := Yields (fun d => memWf d.st.mem = true) r

@[simp] theorem keepsWf_done (s : State) (e : Elem) : KeepsWf (done s e) ↔ memWf s.mem = true := yields_ok _

@[simp] theorem keepsWf_doneAt (s : State) (e : Elem) (fl : Flow) : KeepsWf (doneAt s e fl) ↔ memWf s.mem = true := yields_ok _

@[simp] theorem yields_trap {α : Type} {P : α → Prop} (t : Trap) : Yields P (trap t : Res α) := yields_error _

@[simp] theorem yields_holdCount {α : Type} {P : α → Prop} : Yields P (holdCount : Res α) := yields_error _

@[simp] theorem yields_holdFree {α : Type} {P : α → Prop} : Yields P (holdFree : Res α) := yields_error _

@[simp] theorem keepsWf_doneOrPoison (s : State) (e : Elem) (pz : Bool) (which : Nat) (d : BitVec 10) :
    KeepsWf (doneOrPoison s e pz which d) ↔ memWf s.mem = true := by
  unfold doneOrPoison; split <;> simp

theorem yields_unit {ε : Type} {P : Unit → Prop} (x : Except ε Unit) (h : P ()) : Yields P x := fun _ _ => h

@[simp] theorem yields_need {P : Unit → Prop} (ok : Bool) (t : Trap) : Yields P (need ok t) ↔ (ok = true → P ()) := by
  cases ok <;> simp

@[simp] theorem yields_await {P : Unit → Prop} (ok : Bool) : Yields P (await ok) ↔ (ok = true → P ()) := by
  cases ok <;> simp

@[simp] theorem yields_awaitCount {P : Unit → Prop} (ok : Bool) : Yields P (awaitCount ok) ↔ (ok = true → P ()) := by
  cases ok <;> simp

@[simp] theorem yields_awaitFree {P : Unit → Prop} (ok : Bool) : Yields P (awaitFree ok) ↔ (ok = true → P ()) := by
  cases ok <;> simp

@[simp] theorem yields_needDes {P : Unit → Prop} (ok : Bool) (d : BitVec 10) : Yields P (needDes ok d) ↔ (ok = true → P ()) := by
  cases ok <;> simp

@[simp] theorem yields_noBad {P : Unit → Prop} (bad : Option (BitVec 10)) : Yields P (noBad bad) ↔ (bad = none → P ()) := by
  cases bad <;> simp

/-- A first part without an interesting result. -/
theorem yields_const {ε β : Type} {p : Prop} (x : Except ε β) (h : p) : Yields (fun _ => p) x := fun _ _ => h

-- Accesses that may fail ------------------------------------------------------------------------------------------------------

theorem takeMark_mem {s t : State} {src : ChanEnd} {k : Nat} (h : takeMark s src = some (k, t)) : t.mem = s.mem := by
  unfold takeMark at h
  split at h
  · cases h
  · split at h
    · cases h; simp
    · cases h

theorem takeWord_mem {s t : State} {src : ChanEnd} {w : CWord} (h : takeWord s src = some (w, t)) : t.mem = s.mem := by
  unfold takeWord at h
  repeat' split at h
  all_goals cases h
  simp

end Sys2Proof.Machine
end

section
/-! PROOFS. What keeps the memory canonical (log 4): one rule per shared operation that may write it, each from the rules of its parts. -/
namespace Sys2Proof.Machine
open Sys2Proof.Claim

section
variable {s : State} (hs : memWf s.mem = true)
include hs

/-- A fold of operations that each keep the form keeps it. -/
theorem memWf_foldl {α : Type} (g : State → α → State) (h : ∀ s x, memWf s.mem = true → memWf (g s x).mem = true) (l : List α) :
    memWf (l.foldl g s).mem = true := foldl_canonical g h l s hs

@[simp] theorem memWf_flushRing (n d : Nat) : memWf (flushRing n d s).mem = true := canonical_flushRing n d s hs

@[simp] theorem memWf_putRecord (d : Nat) (r : BitVec 2048) : memWf (putRecord s d r).mem = true := canonical_putRecord _ _ _ hs

@[simp] theorem memWf_raiseFault (n : Nat) (e : Elem) (t : Trap) (w : BitVec 96) : memWf (raiseFault s n e t w).mem = true :=
  canonical_raiseFault _ _ _ _ _ hs

@[simp] theorem memWf_startImage (core : Nat) (img : List Byte) : memWf (startImage s core img).mem = true := canonical_startImage _ _ _ hs

@[simp] theorem memWf_restartImage (core : Nat) (img : List Byte) : memWf (restartImage s core img).mem = true :=
  canonical_restartImage _ _ _ hs

@[simp] theorem memWf_nibRestart  : memWf (nibRestart s).mem = true := canonical_nibRestart _ hs

@[simp] theorem memWf_coreTrap (n : Nat) (e : Elem) (epc : Nat) (t : Trap) (w : BitVec 96) : memWf (coreTrap s n e epc t w).mem = true :=
  canonical_coreTrap _ _ _ _ _ _ hs

@[simp] theorem memWf_takeTrap (u : UnitId) (e : Elem) (t : Trap) (w : BitVec 96) : memWf (takeTrap s u e t w).mem = true :=
  canonical_takeTrap _ _ _ _ _ hs

@[simp] theorem memWf_badEvent (owner : Elem) (g : Nat) : memWf (badEvent owner s g).mem = true := by simp [badEvent, hs]

@[simp] theorem memWf_badEvents (owner : Elem) (st : Store) (grans : List Nat) : memWf (badEvents s owner st grans).mem = true :=
  memWf_foldl hs _ (fun _ g h => memWf_badEvent h owner g) _

@[simp] theorem memWf_mgStatus (m : Migr) (v : Nat) : memWf (mgStatus s m v).mem = true := by
  unfold mgStatus
  split
  · exact memWf_memWrite _ _ hs
  · exact hs

@[simp] theorem memWf_settleMigr : memWf (settleMigr s).mem = true :=
  memWf_foldl hs _ (fun s m h => memWf_mgStatus (s := { s with migr := s.migr.erase m }) h m 0) _

@[simp] theorem memWf_landBytes (base : Nat) (data mask : BitVec 512) : memWf (landBytes s base data mask).mem = true :=
  canonical_landBytes _ _ _ _ hs

@[simp] theorem memWf_landStore (die : Option Nat) (p : PStore) : memWf (landStore s die p).mem = true := canonical_landStore _ _ _ hs

@[simp] theorem memWf_setCtx (c : Nat) (v : BitVec 512) : memWf (s.setCtx c v).mem = true := by
  unfold State.setCtx
  generalize littleBytes 64 _ = l
  exact memWf_memWrite l _ hs

@[simp] theorem memWf_unfreeze (r : Nat) : memWf (unfreeze s r).mem = true := by
  unfold unfreeze; dsimp only; split <;> simp [hs]

@[simp] theorem memWf_cmdResume (r : Nat) : memWf (cmdResume s r).mem = true := by
  unfold cmdResume; dsimp only; repeat' split
  all_goals simp [hs]

@[simp] theorem memWf_landRegion (r : Nat) (pick : Elem → List PStore) : memWf (landRegion s r pick).mem = true :=
  memWf_foldl hs _ (fun _ x h => memWf_landStore h (some x.1) x.2) _

@[simp] theorem memWf_resetUnits (r step : Nat) : memWf (resetUnits s r step).mem = true := by
  unfold resetUnits; dsimp only; repeat' split
  all_goals simp [hs]

@[simp] theorem memWf_resetPass (n r : Nat) : memWf (resetPass n s r).mem = true := by
  induction n generalizing s with
  | zero => exact hs
  | succ n ih =>
    unfold resetPass
    dsimp only
    split
    · exact ih (by simp [hs])
    · exact hs

@[simp] theorem memWf_cmdReset (r : Nat) : memWf (cmdReset s r).mem = true := by
  unfold cmdReset
  dsimp only
  split
  · exact memWf_resetPass (by simp [hs]) _ _
  · simp [hs]

@[simp] theorem memWf_endLease (ctx : Nat) : memWf (endLease s ctx).mem = true := by
  unfold endLease; dsimp only; split <;> simp [hs]

@[simp] theorem memWf_returnLease (r : Nat) : memWf (returnLease s r).mem = true := by
  unfold returnLease; dsimp only; split <;> simp [hs]

@[simp] theorem memWf_cmdBlot (r : Nat) : memWf (cmdBlot s r).mem = true := by
  unfold cmdBlot; dsimp only; split <;> simp [hs]

@[simp] theorem memWf_setDisp (rgn addr v : Nat) : memWf (setDisp s rgn addr v).mem = true := by
  unfold setDisp
  split
  · exact hs
  · split
    · exact hs
    · exact memWf_memSet _ _ hs

@[simp] theorem memWf_dropLaunch (r : Nat) (g : Region) : memWf (dropLaunch s r g).mem = true := by simp [dropLaunch, hs]

@[simp] theorem memWf_removeLaunch (r : Nat) : memWf (removeLaunch s r).mem = true := by
  unfold removeLaunch; dsimp only; repeat' split
  all_goals simp [hs]

@[simp] theorem memWf_cmdRelease (r : Nat) : memWf (cmdRelease s r).mem = true := by
  unfold cmdRelease; split <;> simp [hs]

@[simp] theorem memWf_regionCmd (r cmd : Nat) : memWf (regionCmd s r cmd).mem = true := by
  unfold regionCmd; repeat' split
  all_goals simp [hs]

@[simp] theorem memWf_regWrite (r : RegName) (v : Nat) : memWf (regWrite s r v).mem = true := by
  cases r with
  | ringHead d => exact memWf_flushRing (by simpa using hs) _ _
  | tileInv d h => cases h <;> exact hs
  | supply d f => simp [regWrite, hs]
  | region r h => simp only [regWrite]; split <;> simp [hs]
  | route k => simp only [regWrite]; split <;> exact hs
  | _ => exact hs

@[simp] theorem memWf_landAny (die : Option Nat) (p : PStore) : memWf (landAny s die p).mem = true := by
  unfold landAny; repeat' split
  all_goals simp [hs]

@[simp] theorem memWf_landEach (die : Option Nat) (l : List PStore) : memWf (landEach s die l).mem = true :=
  memWf_foldl hs _ (fun _ p h => memWf_landAny h die p) _

@[simp] theorem memWf_release (e : Elem) : memWf (release s e).1.mem = true := by simp [release, hs]

@[simp] theorem memWf_raiseUnitFault (d ek no rgn : Nat) (u : FaultUnit) (t : Trap) :
    memWf (raiseUnitFault s d ek no rgn u t).mem = true := by
  unfold raiseUnitFault; dsimp only; split <;> simp [hs]

@[simp] theorem memWf_eccNote (base rgn : Nat) : memWf (eccNote s base rgn).mem = true := by
  unfold eccNote; dsimp only; repeat' split
  all_goals simp [hs]

@[simp] theorem memWf_homeRead (e : Elem) (addr size : Nat) : memWf (homeRead s e addr size).1.mem = true := by
  unfold homeRead; dsimp only; split <;> simp [hs]

@[simp] theorem memWf_widenUnit (n : Nat) (u : UnitId) : memWf (widenUnit n s u).mem = true := by
  unfold widenUnit; repeat' split
  all_goals simp [hs]

@[simp] theorem memWf_changeDie (n : Nat) (d : Die) : memWf (changeDie s n d).mem = true := by
  have h := memWf_foldl (s := s.setDie n d.judged) (by simpa using hs) (widenUnit n) (fun _ u h => memWf_widenUnit h n u)
  unfold changeDie
  dsimp only
  split <;> split <;> simp [h, hs]

@[simp] theorem memWf_suspendLease (r : Nat) : memWf (suspendLease s r).mem = true := by
  unfold suspendLease; dsimp only; split <;> simp [hs]

@[simp] theorem memWf_completeSnap (r : Nat) : memWf (completeSnap s r).mem = true := by
  unfold completeSnap
  dsimp only
  repeat' split
  all_goals simp [hs, memWf_memWrite]

@[simp] theorem memWf_judgeHeads (n : Nat) : memWf (judgeHeads s n).mem = true := by
  unfold judgeHeads; repeat' split
  all_goals simp [hs]

@[simp] theorem memWf_phaseEffect (n : Nat) (e : Elem) : memWf (phaseEffect s n e).mem = true := by
  unfold phaseEffect; dsimp only; split <;> simp [hs]

@[simp] theorem memWf_passWord (n : Nat) (e : Elem) (kind : Nat) : memWf (passWord s n e kind).mem = true := by
  unfold passWord
  dsimp only
  repeat' split
  all_goals simp [hs, foldl_mem _ (fun s c => eatPair_mem s n c)]

/-- A step on an element keeps the form where what it does to the element does. -/
theorem memWf_onElem (n : Nat) (g : Elem → State) (h : ∀ e, memWf (g e).mem = true) : memWf (onElem s n g).mem = true := by
  unfold onElem
  split
  · exact hs
  · exact h _

@[simp] theorem memWf_passAction (u kind : Nat) : memWf (passAction s u kind).mem = true := by
  refine memWf_onElem hs _ _ (fun e => ?_)
  repeat' split
  all_goals simp [hs]

@[simp] theorem memWf_resetAll : memWf (resetAll s).mem = true :=
  memWf_foldl hs _ (fun _ p h => memWf_resetPass h 5 p.1) _

@[simp] theorem memWf_rdcHit (die rgn base : Nat) (x : RdcSec) : memWf (rdcHit s die rgn base x).1.mem = true := by
  unfold rdcHit; dsimp only; split <;> simp [hs]

@[simp] theorem memWf_readGran (die rgn base pol tcl : Nat) (skip : Bool) : memWf (readGran s die rgn base pol tcl skip).1.mem = true := by
  unfold readGran; dsimp only; repeat' split
  all_goals simp [hs]

@[simp] theorem memWf_agentGran (u : UnitId) (die rgn base pol tcl : Nat) (skip : Bool) :
    memWf (agentGran s u die rgn base pol tcl skip).1.mem = true :=
  by simp [agentGran, hs]

@[simp] theorem memWf_loadAnswer (u pno : Nat) (e : Elem) (r : Req) : memWf (loadAnswer s u pno e r).mem = true := by
  unfold loadAnswer; dsimp only; repeat' split
  all_goals simp [hs]

@[simp] theorem memWf_acceptStore (a : UnitId) : memWf (acceptStore s a).mem = true := by
  unfold acceptStore; dsimp only; repeat' split
  all_goals simp [hs]

@[simp] theorem memWf_tstsArrive (u : Nat) (e : Elem) (t : Tsts) : memWf (tstsArrive s u e t).mem = true := by
  unfold tstsArrive; dsimp only; repeat' split
  all_goals simp [hs]

@[simp] theorem memWf_landGran (die : Option Nat) (base : Nat) (data mask : BitVec 512) (whole pz tn : Bool) :
    memWf (landGran s die base data mask whole pz tn).mem = true :=
  canonical_landGran _ _ _ _ _ _ _ _ hs

@[simp] theorem memWf_dryOne (w : Wet) : memWf (dryOne s w).mem = true := by
  unfold dryOne; dsimp only; split <;> simp [hs]

@[simp] theorem memWf_dryDie (d : Nat) : memWf (dryDie s d).mem = true :=
  memWf_foldl (by exact hs) dryOne (fun _ w h => memWf_dryOne h w) _

@[simp] theorem memWf_tldaAnswer (u pno : Nat) (e : Elem) (r : Req) (st : Nat) : memWf (tldaAnswer s u pno e r st).mem = true := by
  unfold tldaAnswer; dsimp only; repeat' split
  all_goals simp [hs]

@[simp] theorem memWf_engRead (u : UnitId) (e : Elem) (o : EngOp) (base pol tcl : Nat) (skip : Bool) :
    memWf (engRead s u e o base pol tcl skip).1.mem = true := by
  unfold engRead; dsimp only; split <;> simp [hs]

@[simp] theorem memWf_engWord (u : UnitId) (e : Elem) (o : EngOp) (a : Access) : memWf (engWord s u e o a).1.mem = true :=
  by simp [engWord, hs]

@[simp] theorem memWf_engBytes (u : UnitId) (e : Elem) (o : EngOp) (a : Nat) : memWf (engBytes s u e o a).1.mem = true := by
  unfold engBytes; dsimp only; split <;> simp [hs]

@[simp] theorem memWf_engSpoilt (u : UnitId) (co : Nat) : memWf (engSpoilt s u co).mem = true := by
  unfold engSpoilt; dsimp only; repeat' split
  all_goals simp [hs]

@[simp] theorem memWf_recqStep (n : Nat) (g : Elem → State) (h : ∀ e, memWf (g e).mem = true) : memWf (recqStep s n g).mem = true := by
  refine memWf_onElem hs _ _ (fun e => ?_)
  dsimp only
  repeat' split
  all_goals simp [hs, h]

@[simp] theorem memWf_gateTakes (r g : Nat) (x : Gate) (w : CWord) : memWf (gateTakes s r g x w).mem = true := by
  unfold gateTakes
  dsimp only
  repeat' split
  all_goals simp [hs, memWf_memWrite]

@[simp] theorem memWf_flitWord (die br : Nat) (f : BitVec 640) : memWf (flitWord s die br f).mem = true := by
  unfold flitWord; dsimp only; repeat' split
  all_goals simp [hs]

@[simp] theorem memWf_setClock (n : Nat) (d : Die) : memWf (setClock s n d).mem = true := by simp [setClock, hs]

@[simp] theorem memWf_markArrives (dst : ChanEnd) : memWf (markArrives s dst).mem = true := by
  unfold markArrives
  split
  · refine memWf_onElem hs _ _ (fun e => ?_)
    split
    · exact hs
    · split
      · exact hs
      · next k t ht => exact memWf_completeSnap (by simp [takeMark_mem ht, hs]) _
  · repeat' split
    any_goals exact hs
    next k t ht => exact memWf_completeSnap (by simp [takeMark_mem ht, hs]) _

@[simp] theorem memWf_snapStopped (n : Nat) (e : Elem) : memWf (snapStopped s n e).mem = true := by
  unfold snapStopped; split <;> simp [hs]

@[simp] theorem memWf_recordElem (n : Nat) (e : Elem) (k : Nat) : memWf (recordElem s n e k).mem = true := by simp [recordElem, hs]

@[simp] theorem memWf_hostStore (a : Nat) (bytes : List Byte) : memWf (hostStore s a bytes).mem = true :=
  memWf_foldl hs _ (fun _ _ h => memWf_landStore h _ _) _

@[simp] theorem memWf_devStore (a : Nat) (bytes : List Byte) : memWf (devStore s a bytes).mem = true := by
  unfold devStore
  split
  · exact memWf_hostStore hs a bytes
  · exact memWf_memWrite _ _ hs

@[simp] theorem memWf_qdStore (a off n v : Nat) : memWf (qdStore s a off n v).mem = true := by simp [qdStore, hs]

@[simp] theorem memWf_ringBell (q tail : Nat) : memWf (ringBell s q tail).mem = true := by
  unfold ringBell; dsimp only; repeat' split
  all_goals simp [hs]

@[simp] theorem memWf_latchedBells (q addr : Nat) : memWf (latchedBells s q addr).mem = true := by
  unfold latchedBells; dsimp only; split <;> simp [hs]

@[simp] theorem memWf_writeRecord (p : BitVec 1536) (c : Compl) : memWf (writeRecord s p c).mem = true := by simp [writeRecord, hs]

@[simp] theorem memWf_finishPacket (q : Nat) (p : BitVec 1536) (c : Compl) : memWf (finishPacket s q p c).mem = true :=
  by simp [finishPacket, hs]

@[simp] theorem memWf_noteSeq (q ep seq : Nat) : memWf (noteSeq s q ep seq).mem = true := by
  unfold noteSeq; dsimp only; repeat' split
  all_goals simp [hs]

@[simp] theorem memWf_settleDrops : memWf (settleDrops s).mem = true := by
  refine memWf_foldl hs _ (fun s c h => ?_) _
  repeat' split
  all_goals simp [h]

@[simp] theorem memWf_closeLaunch (l : Launch) (c : Compl) : memWf (closeLaunch s l c).mem = true :=
  memWf_settleDrops (by simp [hs])

@[simp] theorem memWf_markReady (n : Nat) : memWf (markReady n s).mem = true := by
  induction n generalizing s with
  | zero => exact hs
  | succ n ih =>
    unfold markReady
    dsimp only
    split
    · exact ih (memWf_closeLaunch hs _ _)
    · split <;> exact hs

@[simp] theorem memWf_refreshReady : memWf (refreshReady s).mem = true := by
  have h := memWf_markReady hs (s.launches.length + 1)
  unfold refreshReady
  dsimp only
  split
  · exact h
  · exact memWf_markReady (memWf_foldl h _ (fun _ x h => memWf_closeLaunch h x _) _) _

@[simp] theorem memWf_finishLaunch (l : Launch) (c : Compl) : memWf (finishLaunch s l c).mem = true := by simp [finishLaunch, hs]

@[simp] theorem memWf_takeLaunch (q : Nat) (p : BitVec 1536) : memWf (takeLaunch q s p).mem = true := by
  unfold takeLaunch; dsimp only; repeat' split
  all_goals simp [hs]

@[simp] theorem memWf_imageStore (a : Nat) (v : Payload) : memWf (imageStore s a v).mem = true := by
  unfold imageStore
  dsimp only
  split
  · exact memWf_landGran (by exact hs) _ _ _ _ _ _ _
  · generalize littleBytes 64 _ = l
    exact memWf_memWrite l _ hs

@[simp] theorem memWf_writeImage (link ctx : Nat) (o : List Byte) (t : TnsRec) (r : ImgRec) (hdl : Nat) :
    memWf (writeImage link ctx o t r hdl s).mem = true := by
  unfold writeImage
  dsimp only
  split
  · exact hs
  · refine memWf_foldl hs _ (fun s w h => ?_) _
    split
    · exact memWf_imageStore h _ _
    · exact h

@[simp] theorem memWf_writeImages (link ctx : Nat) (o : List Byte) (l : List (BitVec 128)) :
    memWf (writeImages link ctx o l s).mem = true := by
  refine memWf_foldl hs _ (fun s p h => ?_) _
  split <;> simp [h]

@[simp] theorem memWf_takeRegister (q : Nat) (p : BitVec 1536) : memWf (takeRegister q s p).mem = true := by
  unfold takeRegister; dsimp only; repeat' split
  all_goals simp [hs]

@[simp] theorem memWf_takeUnregister (q : Nat) (p : BitVec 1536) : memWf (takeUnregister q s p).mem = true := by
  unfold takeUnregister; repeat' split
  all_goals simp [hs]

@[simp] theorem memWf_takeRelease (q : Nat) (p : BitVec 1536) : memWf (takeRelease q s p).mem = true := by
  unfold takeRelease; repeat' split
  all_goals simp [hs]

@[simp] theorem memWf_backLease (l : Launch) : memWf (backLease s l).mem = true := by
  unfold backLease; dsimp only; repeat' split
  all_goals simp [hs]

@[simp] theorem memWf_failFit (l : Launch) (c : Config) (folios : List (Nat × Nat)) (fold : Nat) (x : NoFit) (kept : Option Nat) :
    memWf (failFit s l c folios fold x kept).mem = true := by
  unfold failFit
  dsimp only
  refine memWf_finishLaunch (memWf_devStore ?_ _ _) _ _
  split <;> simp [hs]

@[simp] theorem memWf_judgePorts (ctx rgn : Nat) : memWf (judgePorts s ctx rgn).mem = true := by
  refine memWf_foldl hs _ (fun s n h => memWf_onElem h _ _ (fun e => ?_)) _
  repeat' split
  all_goals simp [h]

@[simp] theorem memWf_restoreLease (ctx rgn : Nat) (same : Bool) (old : List (Nat × Nat)) :
    memWf (restoreLease s ctx rgn same old).mem = true := by
  unfold restoreLease; dsimp only; repeat' split
  all_goals simp [hs]

@[simp] theorem memWf_installSaved (l : Launch) (c : Config) (p : Placed) (g0 : Region) (sn : Snap) :
    memWf (installSaved s l c p g0 sn).mem = true :=
  by simp [installSaved, hs]

@[simp] theorem memWf_openGates (r now : Nat) (d : Die) : memWf (openGates s r now d).mem = true := by
  unfold openGates; dsimp only; split <;> simp [hs]

@[simp] theorem memWf_waveDone (r : Nat) : memWf (waveDone s r).mem = true := by
  unfold waveDone; dsimp only; split <;> simp [hs]

@[simp] theorem memWf_completeRemoved (l : Launch) : memWf (completeRemoved s l).mem = true := by
  unfold completeRemoved; dsimp only; split <;> simp [hs]

@[simp] theorem memWf_publishAll (r : Nat) : memWf (publishAll s r).mem = true := by simp [publishAll, hs]

@[simp] theorem memWf_completeRun (l : Launch) : memWf (completeRun s l).mem = true := by
  have h := memWf_foldl (memWf_publishAll hs l.rgn) _ (fun s (x : Retry) h => memWf_setDisp h l.rgn x.frec 3)
  unfold completeRun
  dsimp only
  split <;> simp [h]

@[simp] theorem memWf_mgMeet (m : Migr) : memWf (mgMeet s m).mem = true := by
  unfold mgMeet; repeat' split
  all_goals simp [hs]

@[simp] theorem memWf_migrate (ctx addr : Nat) : memWf (migrate s ctx addr).mem = true := by
  have h := memWf_settleMigr hs
  unfold migrate
  generalize hostKey addr = a
  dsimp only
  split
  · exact memWf_mgStatus (by exact h) _ _
  · rw [postEvent_mem]
    exact memWf_mgMeet (by exact h) _

omit hs in
/-- Queues that leave one inbox and enter another leave memory. -/
theorem reenterWork_mem (s : State) (l : List Nat) : (l.foldl (fun s q => enterWork (leaveWork s q) q) s).mem = s.mem := by
  induction l generalizing s with
  | nil => rfl
  | cons q r ih => rw [List.foldl_cons, ih, enterWork_mem, leaveWork_mem]

@[simp] theorem memWf_startUpdate (addr len : Nat) : memWf (startUpdate s addr len).mem = true := by
  unfold startUpdate
  dsimp only
  split
  · exact hs
  · rw [reenterWork_mem]
    exact memWf_startImage (by exact hs) 14 _

@[simp] theorem memWf_bar0Write (link off : Nat) (bytes : List Byte) : memWf (bar0Write s link off bytes).mem = true := by
  unfold bar0Write
  generalize leNat bytes = v
  dsimp only
  repeat' split
  all_goals simp [hs]

@[simp] theorem memWf_resetModule : memWf (resetModule s).mem = true := by
  unfold resetModule
  extract_lets z0 fw z
  have hz : memWf z.mem = true := hs
  split
  · exact hz
  · exact memWf_foldl hz _ (fun t c h => memWf_startImage h c t.fw.image) _

@[simp] theorem memWf_refuseEvicted (link ctx page : Nat) (l : Launch) : memWf (refuseEvicted link ctx page s l).mem = true := by
  unfold refuseEvicted; dsimp only; repeat' split
  all_goals simp [hs]

@[simp] theorem memWf_landAll (die : Option Nat) (l : List PStore) : memWf (landAll s die l).mem = true := canonical_landAll _ _ _ hs

@[simp] theorem memWf_landCovered (v : BitVec 128) (n : Nat) : memWf (landCovered v s n).mem = true :=
  memWf_onElem hs _ _ (fun e => by simp [hs])

@[simp] theorem memWf_restartCores : memWf (restartCores s).mem = true := by
  have h := memWf_foldl hs _ (fun s c h => memWf_startImage h c s.fw.image)
  unfold restartCores
  dsimp only
  split
  · exact memWf_startImage (by exact h _) 0 _
  · exact h _

@[simp] theorem memWf_gatesPass (now ns : Nat) (d : Die) : memWf (gatesPass now ns d s).mem = true := by
  refine memWf_foldl hs _ (fun s p h => ?_) _
  split <;> simp [h]

@[simp] theorem memWf_settleRetries (r : Nat) : memWf (settleRetries s r).mem = true := by
  unfold settleRetries
  dsimp only
  split
  · exact hs
  · exact memWf_foldl (by simpa using hs) _ (fun _ x h => memWf_setDisp h r x.frec 3) _

@[simp] theorem memWf_settleAll : memWf (settleAll s).mem = true :=
  memWf_foldl hs _ (fun _ p h => memWf_settleRetries h p.1) _

@[simp] theorem memWf_dryDue : memWf (dryDue s).mem = true := memWf_foldl hs _ (fun _ d h => memWf_dryDie h d) _

@[simp] theorem memWf_judgeDies : memWf (judgeDies s).mem = true :=
  memWf_foldl hs _ (fun s n h => memWf_changeDie h n (s.die n)) _

@[simp] theorem memWf_elapse (ns : Nat) : memWf (elapse ns s).mem = true := by
  have h := memWf_dryDue (memWf_judgeDies (s := passCores (passDies { s with now := s.now + ns } ns) ns) hs)
  unfold elapse
  split
  · exact hs
  · exact memWf_gatesPass (memWf_settleAll (by simpa using h)) _ _ _

end
end Sys2Proof.Machine
end

section
/-! PROOFS. Accesses through ports and the engine keep the memory canonical (R159, R185, R187). -/
namespace Sys2Proof.Machine
open Sys2Proof.Claim

section
variable {ε α β : Type} {P : α → Prop} {Q : β → Prop}
theorem Yields.bind {x : Except ε β} {g : β → Except ε α} (h : Yields Q x)
    (hg : ∀ b, Q b → Yields P (g b)) : Yields P (x >>= g) :=
  (yields_bind x g).2 (h.mono hg)
end

theorem findFrame_mem (s : State) (die folio : Nat) (u : TileUse) (gen tsz ttab off : Nat) :
    Yields (fun x => x.1.mem = s.mem) (findFrame s die folio u gen tsz ttab off) := by
  unfold findFrame
  dsimp only
  repeat' split
  all_goals simp

theorem checkAccess_mem (s : State) (die folio link ctx pno : Nat) (p0 : Port) (c : List Int) (k : Kind) :
    Yields (fun x => x.1.mem = s.mem) (checkAccess s die folio link ctx pno p0 c k) := by
  unfold checkAccess
  extract_lets p tile crossing h t bounds u
  repeat' split
  all_goals simp only [yields_error]
  split
  · exact yields_error _
  · exact yields_error _
  · next hf =>
    have hm := findFrame_mem _ _ _ _ _ _ _ _ _ hf
    dsimp only at hm
    repeat' split
    all_goals simp [hm]

theorem portAccess_mem (s : State) (e : Elem) (d : BitVec 10) (pno : Nat) (c : List Int) (k : Kind) :
    Yields (fun x => x.1.mem = s.mem) (portAccess s e d pno c k) := by
  unfold portAccess
  split
  · simp
  · split
    · next h => simpa using checkAccess_mem _ _ _ _ _ _ _ _ _ _ h
    · simp

theorem engAccess_mem (s : State) (e : Elem) (o : EngOp) (i : Nat) (c : List Int) (k : Kind) :
    Yields (fun x => x.1.mem = s.mem) (engAccess s e o i c k) := by
  unfold engAccess
  split
  · next h => split <;> simp; exact checkAccess_mem _ _ _ _ _ _ _ _ _ _ h
  · simp

@[simp] theorem yields_map {ε α β : Type} {P : α → Prop} (f : β → α) (x : Except ε β) :
    Yields P (f <$> x) ↔ Yields (fun b => P (f b)) x := by
  cases x <;> simp [Yields, Functor.map, Except.map]

/-- The memory is canonical where an engine operation stands after one of its accesses. -/
abbrev EngWf {α : Type} (r : Except EngEnd (State × α)) : Prop := Yields (fun x => memWf x.1.mem = true) r

section
variable {s : State} (hs : memWf s.mem = true)
include hs

theorem engWf_engAccess (e : Elem) (o : EngOp) (i : Nat) (c : List Int) (k : Kind) : EngWf (engAccess s e o i c k) :=
  (engAccess_mem s e o i c k).mono (fun _ h => by rw [h, hs])

theorem engWf_engPut (o : EngOp) (b : Access) (r : Reg) : EngWf (engPut s o b r) := by
  unfold engPut
  split <;> simp [hs]

theorem engWf_copyWord (u : UnitId) (e : Elem) (o : EngOp) (i w j v : Nat) : EngWf (copyWord s u e o i w j v) := by
  unfold copyWord
  refine (engWf_engAccess hs _ _ _ _ _).bind fun ⟨t, o, a⟩ ht => ?_
  refine (engWf_engAccess (memWf_engWord ht u e o a) _ _ _ _ _).bind fun ⟨_, o, b⟩ h => ?_
  exact engWf_engPut h _ _ _

theorem engWf_copyBytes (u : UnitId) (e : Elem) (o : EngOp) (src dst n : Nat) : EngWf (copyBytes s u e o src dst n) := by
  have h := memWf_engBytes hs u e o src
  unfold copyBytes
  generalize engBytes s u e o src = x at h ⊢
  obtain ⟨t, r⟩ := x
  dsimp only
  repeat' split
  all_goals simp [h, hs]

theorem engWf_copyRun (u : UnitId) (e : Elem) (k : Nat) (o : EngOp) (src dst n : Nat) : EngWf (copyRun u e k s o src dst n) := by
  induction k generalizing s o src dst n with
  | zero => simpa [copyRun] using hs
  | succ k ih => exact (engWf_copyBytes hs u e o src dst _).bind fun ⟨_, o⟩ h => ih h o _ _ _

/-- The index that a core's gather reads. -/
theorem engWf_indexOfBytes (u : UnitId) (e : Elem) (o : EngOp) (a : Nat) :
    EngWf (match engBytes s u e o a with | (s, r) => (pure (s, o, (r.pay.lane 0).toInt) : Except EngEnd _)) := by
  have h := memWf_engBytes hs u e o a
  generalize engBytes s u e o a = x at h ⊢
  exact (yields_pure _).2 h

theorem engWf_gatherIndex (u : UnitId) (e : Elem) (o : EngOp) (j : Nat) : EngWf (gatherIndex s u e o j) := by
  unfold gatherIndex
  split
  · exact (yields_ite _ _).2 ⟨fun _ => yields_error _, fun _ => engWf_indexOfBytes hs u e o _⟩
  · extract_lets ix
    refine (engWf_engAccess hs _ _ _ _ _).bind fun ⟨t, o, a⟩ h => ?_
    simp [h]

theorem engWf_gatherStep (u : UnitId) (e : Elem) (o : EngOp) (w : Nat) : EngWf (gatherStep s u e o w) := by
  unfold gatherStep
  split
  · refine (engWf_gatherIndex hs _ _ _ _).bind fun ⟨t, o, ix⟩ h => ?_
    simp [engWf_copyRun h]
  · refine (engWf_gatherIndex hs _ _ _ _).bind fun ⟨t, o, ix⟩ h => ?_
    dsimp only
    split
    · simp
    refine (engWf_engAccess h _ _ _ _ _).bind fun ⟨t, o, a⟩ h => ?_
    refine (engWf_engAccess (memWf_engWord h u e o a) _ _ _ _ _).bind fun ⟨_, o, b⟩ h => ?_
    exact engWf_engPut h _ _ _

theorem engWf_adaptStep (u : UnitId) (e : Elem) (o : EngOp) (w : Nat) : EngWf (adaptStep s u e o w) := by
  unfold adaptStep
  extract_lets out
  split
  · extract_lets c n
    split
    · simp
    refine (engWf_engAccess hs _ _ _ _ _).bind fun ⟨t, o, a⟩ h => ?_
    simp [h]
  · simp

theorem engWf_engStep (u : UnitId) (e : Elem) (o : EngOp) (w : Nat) : EngWf (engStep s u e o w) := by
  unfold engStep
  split
  · split
    · exact engWf_copyBytes hs _ _ _ _ _ _
    · exact engWf_copyWord hs _ _ _ _ _ _ _
  · split
    · exact engWf_gatherStep hs _ _ _ _
    · exact engWf_adaptStep hs _ _ _ _

theorem memWf_engLoop (u : UnitId) (e : Elem) (n : Nat) (o : EngOp) : memWf (engLoop u e n s o).1.mem = true := by
  induction n generalizing s o with
  | zero => exact hs
  | succ n ih =>
    unfold engLoop
    split
    · next h => exact ih (engWf_engStep hs _ _ _ _ _ h) _
    · exact hs

theorem engWf_contribution (u : UnitId) (e : Elem) (n : Nat) (o : EngOp) : EngWf (contribution u e n s o) := by
  induction n generalizing s o with
  | zero => simpa [contribution] using hs
  | succ n ih =>
    refine (ih hs o).bind fun ⟨t, o, l⟩ h => ?_
    refine (engWf_engAccess h _ _ _ _ _).bind fun ⟨t, o, a⟩ h => ?_
    simp [h]

theorem engWf_collReads (me : Nat) (l : List (Nat × Elem × EngOp)) : EngWf (collReads me l s) := by
  induction l generalizing s with
  | nil => simpa [collReads] using hs
  | cons x r ih =>
    obtain ⟨n, e, o⟩ := x
    unfold collReads
    split
    · simp
    · next h => exact (ih (engWf_contribution hs _ _ _ _ _ h)).bind fun ⟨t, ms, ls⟩ h => by simpa using h

theorem memWf_collWrites (e : Elem) (l : List Reg) (o : EngOp) : memWf (collWrites e l s o).1.mem = true := by
  induction l generalizing s o with
  | nil => exact hs
  | cons r rest ih =>
    unfold collWrites
    split
    · next h =>
      have hw : EngWf (do let (s, o, b) ← engAccess s e o 1 (o.coords 1 o.done) .engWrite; engPut s o b r) :=
        (engWf_engAccess hs _ _ _ _ _).bind fun ⟨_, o, b⟩ h => engWf_engPut h o b r
      exact ih (hw _ h) _
    · exact hs

/-- A collective that has read every member's words, or has stopped before. -/
theorem memWf_collGather (me : Nat) (e : Elem) (o : EngOp) :
    (∀ t, collGather s me e o = .ok t → memWf t.mem = true) ∧ ∀ x, collGather s me e o = .error x → memWf x.1.mem = true := by
  unfold collGather
  split
  · simpa using hs
  · split
    · simpa [foldl_mem _ (fun s (m : Nat × Elem × EngOp) => updElem_mem s m.1 _)] using hs
    · split
      · simpa using hs
      · next h => simpa [foldl_mem _ (fun s (m : Nat × EngOp) => putOp_mem s m.1 _)] using engWf_collReads hs _ _ _ h

theorem memWf_collRun (me : Nat) (e : Elem) (o : EngOp) : memWf (collRun s me e o).1.mem = true := by
  obtain ⟨hok, herr⟩ := memWf_collGather hs me e o
  unfold collRun
  split
  · next h =>
    split at h
    · cases h
    · exact herr _ h
  · next t h =>
    have ht : memWf t.mem = true := by
      split at h
      · cases h; exact hs
      · exact hok _ h
    split
    · exact ht
    · next o _ => simpa using memWf_collWrites ht e ((o.res.getD []).drop o.done) o

@[simp] theorem memWf_engRun (u : UnitId) (e : Elem) (o : EngOp) : memWf (engRun s u e o).1.mem = true := by
  unfold engRun
  split
  · split
    · exact memWf_collRun hs _ _ _
    · exact hs
  · simpa using memWf_engLoop hs u e _ o

@[simp] theorem memWf_engineEvent (u : UnitId) (co : Nat) (due : EngEnd → Bool) : memWf (engineEvent s u co due).mem = true := by
  unfold engineEvent
  split
  · exact hs
  · next e _ =>
    split
    · exact hs
    · next o _ =>
      have h := memWf_engRun hs u e o
      generalize engRun s u e o = x at h ⊢
      obtain ⟨t, x⟩ := x
      dsimp only
      repeat' split
      all_goals simp [h, hs]

end
end Sys2Proof.Machine
end

section
/-! PROOFS. Grants keep the memory canonical (R341, R344, R370). -/
namespace Sys2Proof.Machine
open Sys2Proof.Claim

/-- The memory is canonical in what an attempt to grant leaves. -/
def Tried.Wf : Tried → Prop
  | .done t => memWf t.mem = true
  | .waits t => memWf t.mem = true

section
variable {s : State} (hs : memWf s.mem = true)
include hs

omit hs in
/-- A plan is installed where the streams it needs are free. -/
theorem memWf_installPlan {t : State} {id : Nat} {folios : List (Nat × Nat)} {fold : Nat} {sites : Tab Nat} {hops : Nat}
    {ways : List (Wire × List (Nat × Nat))} {go : Placed → State} (hg : ∀ p, memWf (go p).mem = true)
    (h : installPlan s id folios fold sites hops ways go = some t) : memWf t.mem = true := by
  obtain ⟨w, -, rfl⟩ := Option.map_eq_some_iff.1 h
  exact hg _

theorem memWf_grantOn {t : State} {l : Launch} {c : Config} {id : Nat} {folios : List (Nat × Nat)} {kept : Option Nat}
    (h : grantOn s l c id folios kept = some t) : memWf t.mem = true := by
  unfold grantOn at h
  split at h
  · cases h; simp [hs]
  · exact memWf_installPlan (fun p => by simp [hs]) h

theorem memWf_grantKept {t : State} {l : Launch} {c : Config} (h : grantKept s l c = some t) : memWf t.mem = true := by
  unfold grantKept at h
  dsimp only at h
  split at h
  · cases h
  · split at h
    · exact memWf_installPlan (fun p => by simp [hs]) h
    · exact memWf_grantOn (by simpa using hs) h

theorem wf_triedOf {x : Option State} (h : ∀ t, x = some t → memWf t.mem = true) : (Tried.of s x).Wf := by
  cases x with
  | none => exact hs
  | some t => exact h t rfl

theorem wf_trySaved (l : Launch) (c : Config) (g : Region) (sn : Snap) (fs : List (Nat × Nat)) (only : Bool) (why : Option (Nat × NoFit))
    (ks : List Nat) : (trySaved s l c g sn fs only why ks).Wf := by
  induction ks generalizing why with
  | nil =>
    cases why with
    | none => exact hs
    | some x =>
      rw [trySaved]
      split
      · exact memWf_failFit hs _ _ _ _ _ _
      · exact memWf_devStore (by exact hs) _ _
  | cons k r ih =>
    rw [trySaved]
    split
    · exact ih why
    · split
      · next h => exact memWf_installPlan (fun p => memWf_installSaved hs _ _ _ _ _) h
      · exact hs
    · exact ih _

theorem wf_grantSaved (l : Launch) (c : Config) : (grantSaved s l c).Wf := by
  unfold grantSaved
  split
  · dsimp only
    split
    · exact hs
    · exact wf_trySaved hs _ _ _ _ _ _ _ _
  · exact hs

theorem wf_tryGrant (l : Launch) : (tryGrant s l).Wf := by
  unfold tryGrant
  split
  · exact hs
  · split
    · exact wf_grantSaved hs l _
    · split
      · exact wf_triedOf hs (fun t h => memWf_grantKept hs h)
      · split
        · exact wf_triedOf hs (fun t h => memWf_grantOn hs h)
        · exact hs

@[simp] theorem memWf_grantFirst (l : List Launch) : memWf (grantFirst s l).mem = true := by
  induction l generalizing s with
  | nil => exact hs
  | cons x r ih =>
    have h := wf_tryGrant hs x
    unfold grantFirst
    split
    · next ht => rw [ht] at h; exact h
    · next ht => rw [ht] at h; exact ih h

end
end Sys2Proof.Machine
end

section
/-! PROOFS. Each step of the device keeps the memory canonical (R16, R18). -/
namespace Sys2Proof.Machine
open Sys2Proof.Claim

/-- The memory is canonical in the state that an outcome answers, if it answers one. -/
def EndsWf (o : Host.Outcome State Fault Refusal) : Prop := ∀ t, o = .next t → memWf t.mem = true

@[simp] theorem endsWf_next (t : State) : EndsWf (.next t) ↔ memWf t.mem = true := by simp [EndsWf]

section
variable {s : State} (hs : memWf s.mem = true)
include hs

theorem memWf_readPacket (q : Nat) (kinds : Nat → Bool) (g : State → BitVec 1536 → State)
    (hg : ∀ t p, memWf t.mem = true → memWf (g t p).mem = true) : memWf (readPacket s q kinds g).mem = true := by
  unfold readPacket
  repeat' split
  · exact hg _ _ (by simpa using hs)
  · exact hs
  · exact hs

theorem endsWf_execFiringStart (u : Nat) : EndsWf (execFiringStart u s) := by
  refine (endsWf_next _).2 (memWf_onElem hs _ _ (fun e => ?_))
  repeat' split
  all_goals simp [hs]

theorem endsWf_execChannelWordArrive (u ch : Nat) : EndsWf (execChannelWordArrive u ch s) := by
  refine (endsWf_next _).2 (memWf_onElem hs _ _ (fun e => ?_))
  repeat' split
  · exact hs
  · exact hs
  · next w t h => exact memWf_judgeHeads (by simpa [takeWord_mem h] using hs) _

theorem endsWf_execCreditReturn (src : ChanEnd) : EndsWf (execCreditReturn src s) := by
  simp only [execCreditReturn, endsWf_next]
  split <;> simp [hs]

theorem endsWf_execDrainAction (u : Nat) : EndsWf (execDrainAction u s) := by
  simp [execDrainAction, hs]

theorem endsWf_execSwitchAction (u : Nat) : EndsWf (execSwitchAction u s) := by
  simp [execSwitchAction, hs]

theorem endsWf_execArmAction (u : Nat) : EndsWf (execArmAction u s) := by
  refine (endsWf_next _).2 (memWf_onElem hs _ _ (fun e => ?_))
  repeat' split
  all_goals simp [hs]

theorem endsWf_execLoadResponse (u p : Nat) : EndsWf (execLoadResponse u p s) := by
  refine (endsWf_next _).2 (memWf_onElem hs _ _ (fun e => ?_))
  repeat' split
  all_goals simp [hs]

theorem endsWf_execStoreAccept (a : UnitId) : EndsWf (execStoreAccept a s) := by
  simp [execStoreAccept, hs]

theorem endsWf_execStampedStoreArrive (u : Nat) : EndsWf (execStampedStoreArrive u s) := by
  refine (endsWf_next _).2 (memWf_onElem hs _ _ (fun e => ?_))
  split <;> simp [hs]

theorem endsWf_execStampedStoreDry (die : Nat) : EndsWf (execStampedStoreDry die s) := by
  simp [execStampedStoreDry, hs]

theorem endsWf_execTldaHomeServe (u p : Nat) : EndsWf (execTldaHomeServe u p s) := by
  refine (endsWf_next _).2 (memWf_onElem hs _ _ (fun e => ?_))
  repeat' split
  all_goals simp [hs]

theorem endsWf_execEngineOpComplete (a : UnitId) (co : Nat) : EndsWf (execEngineOpComplete a co s) := by
  simp [execEngineOpComplete, hs]

theorem endsWf_execEngineOpStop (a : UnitId) (co : Nat) : EndsWf (execEngineOpStop a co s) := by
  simp [execEngineOpStop, hs]

theorem endsWf_execEngineOpFail (a : UnitId) (co : Nat) : EndsWf (execEngineOpFail a co s) := by
  simp [execEngineOpFail, hs]

theorem endsWf_execRaResultReady (u : Nat) : EndsWf (execRaResultReady u s) := by
  simp [execRaResultReady, hs]

theorem endsWf_execRecqBroadcast (u m : Nat) : EndsWf (execRecqBroadcast u m s) := by
  simp [execRecqBroadcast, hs]

theorem endsWf_execRecqDeal (u : Nat) : EndsWf (execRecqDeal u s) := by
  refine (endsWf_next _).2 (memWf_recqStep hs _ _ (fun e => ?_))
  repeat' split
  all_goals simp [hs]

theorem endsWf_execRecqPublishPair (u : Nat) : EndsWf (execRecqPublishPair u s) := by
  refine (endsWf_next _).2 (memWf_recqStep hs _ _ (fun e => ?_))
  simpa [foldl_mem _ (recqTake_mem u)] using hs

theorem endsWf_execRecqEoi (u : Nat) : EndsWf (execRecqEoi u s) := by
  refine (endsWf_next _).2 (memWf_recqStep hs _ _ (fun e => ?_))
  split <;> simp [hs]

theorem endsWf_execRecqDrainFeed (u : Nat) : EndsWf (execRecqDrainFeed u s) := by
  refine (endsWf_next _).2 (memWf_recqStep hs _ _ (fun e => ?_))
  dsimp only
  repeat' split
  all_goals simp [hs]

theorem endsWf_execRecqDrainOut (u : Nat) : EndsWf (execRecqDrainOut u s) := by
  refine (endsWf_next _).2 (memWf_recqStep hs _ _ (fun e => ?_))
  repeat' split
  all_goals simp [hs]

theorem endsWf_execSeedAdmit (rgn g : Nat) : EndsWf (execSeedAdmit rgn g s) := by
  simp only [execSeedAdmit, endsWf_next]
  repeat' split
  all_goals simp [hs]

theorem endsWf_execOutputGateWord (rgn g : Nat) : EndsWf (execOutputGateWord rgn g s) := by
  refine (endsWf_next _).2 ?_
  repeat' split
  · exact hs
  · exact hs
  · exact hs
  · next w t h => simpa using memWf_gateTakes (by simpa [takeWord_mem h] using hs) _ _ _ _

theorem endsWf_execBridgeFlitReceive (die br : Nat) (flit : BitVec 640) : EndsWf (execBridgeFlitReceive die br flit s) := by
  simp only [execBridgeFlitReceive, endsWf_next]
  repeat' split
  all_goals simp [hs]

theorem endsWf_execLinkRetrain (die br : Nat) : EndsWf (execLinkRetrain die br s) := by
  simp only [execLinkRetrain, endsWf_next]
  split <;> simp [hs]

theorem endsWf_execBeaconSend (die : Nat) : EndsWf (execBeaconSend die s) := by
  simp only [execBeaconSend, endsWf_next]
  split
  · exact hs
  · simpa [foldl_mem _ (sendBeacon_mem die)] using hs

theorem endsWf_execBeaconReceive (die br : Nat) : EndsWf (execBeaconReceive die br s) := by
  simp only [execBeaconReceive, endsWf_next]
  repeat' split
  all_goals simp [hs]

theorem endsWf_execBeaconHoldTimeout (die : Nat) : EndsWf (execBeaconHoldTimeout die s) := by
  simp only [execBeaconHoldTimeout, endsWf_next]
  split <;> simp [hs]

theorem endsWf_execPtpSync (now unc : Nat) : EndsWf (execPtpSync now unc s) := by
  simp only [execPtpSync, endsWf_next]
  split <;> simp [hs]

theorem endsWf_execPtpLockTimeout : EndsWf (execPtpLockTimeout s) := by
  simp only [execPtpLockTimeout, endsWf_next]
  split <;> simp [hs]

theorem endsWf_execFiringWatchdog (u : Nat) : EndsWf (execFiringWatchdog u s) := by
  refine (endsWf_next _).2 (memWf_onElem hs _ _ (fun e => ?_))
  split <;> simp [hs]

theorem endsWf_execLaunchWatchdog (rgn : Nat) : EndsWf (execLaunchWatchdog rgn s) := by
  simp only [execLaunchWatchdog, endsWf_next]
  repeat' split
  all_goals simp [hs]

theorem endsWf_execSnapMarkerArrive (dst : ChanEnd) : EndsWf (execSnapMarkerArrive dst s) := by
  simp [execSnapMarkerArrive, hs]

theorem endsWf_execSnapshotRecord (u : Nat) : EndsWf (execSnapshotRecord u s) := by
  refine (endsWf_next _).2 (memWf_onElem hs _ _ (fun e => ?_))
  repeat' split
  all_goals simp [hs]

theorem endsWf_execRestartableStopTimeout (u : Nat) : EndsWf (execRestartableStopTimeout u s) := by
  refine (endsWf_next _).2 (memWf_onElem hs _ _ (fun e => ?_))
  dsimp only
  split
  · exact memWf_completeSnap (by simpa using hs) _
  · exact hs

theorem endsWf_execDoorbellWrite (q : Nat) (data : BitVec 64) : EndsWf (execDoorbellWrite q data s) := by
  simp only [execDoorbellWrite, endsWf_next]
  split <;> simp [hs]

theorem endsWf_execQueueMap (q addr : Nat) : EndsWf (execQueueMap q addr s) := by
  simp only [execQueueMap, endsWf_next]
  repeat' split
  all_goals simp [hs]

theorem endsWf_execQueueUnmap (q : Nat) : EndsWf (execQueueUnmap q s) := by
  refine (endsWf_next _).2 ?_
  dsimp only
  split
  · rw [leaveWork_mem, setQueue_mem]
    exact memWf_qdStore (memWf_qdStore (memWf_qdStore hs _ _ _ _) _ _ _ _) _ _ _ _
  · exact hs

theorem endsWf_execPacketLaunch (q : Nat) : EndsWf (execPacketLaunch q s) := by
  exact (endsWf_next _).2 (memWf_readPacket hs q _ _ (fun t p h => memWf_takeLaunch h q p))

theorem endsWf_execPacketRegister (q : Nat) : EndsWf (execPacketRegister q s) := by
  exact (endsWf_next _).2 (memWf_readPacket hs q _ _ (fun t p h => memWf_takeRegister h q p))

theorem endsWf_execPacketUnregister (q : Nat) : EndsWf (execPacketUnregister q s) := by
  exact (endsWf_next _).2 (memWf_readPacket hs q _ _ (fun t p h => memWf_takeUnregister h q p))

theorem endsWf_execPacketReleaseKept (q : Nat) : EndsWf (execPacketReleaseKept q s) := by
  exact (endsWf_next _).2 (memWf_readPacket hs q _ _ (fun t p h => memWf_takeRelease h q p))

theorem endsWf_execRegionGrant : EndsWf (execRegionGrant s) := by
  simp only [execRegionGrant, endsWf_next]
  repeat' split
  all_goals simp [hs]

theorem endsWf_execConfigurationCompleteWave (rgn : Nat) : EndsWf (execConfigurationCompleteWave rgn s) := by
  simp only [execConfigurationCompleteWave, endsWf_next]
  split <;> simp [hs]

theorem endsWf_execGatesOpen (rgn : Nat) : EndsWf (execGatesOpen rgn s) := by
  simp only [execGatesOpen, endsWf_next]
  split <;> simp [hs]

theorem endsWf_execLaunchComplete (rgn : Nat) : EndsWf (execLaunchComplete rgn s) := by
  simp only [execLaunchComplete, endsWf_next]
  repeat' split
  all_goals simp [hs]

theorem endsWf_execHostMemoryWrite (link addr : Nat) (bytes : List Byte) : EndsWf (execHostMemoryWrite link addr bytes s) := by
  refine (endsWf_next _).2 ?_
  generalize (isHost addr && isHost (addr + bytes.length - 1)) = host
  generalize (isOwn addr && isOwn (addr + bytes.length - 1)) = own
  repeat' split
  · exact hs
  · exact memWf_memWrite bytes addr hs
  · exact hs
  · exact memWf_hostStore hs addr bytes
  · exact memWf_bar0Write hs link _ bytes
  · exact hs

theorem endsWf_execHostMemoryRead (link addr size : Nat) : EndsWf (execHostMemoryRead link addr size s) := by
  simp only [execHostMemoryRead, endsWf_next]
  split <;> simp [hs]

theorem endsWf_execMigrationRequest (ctx addr : Nat) : EndsWf (execMigrationRequest ctx addr s) := by
  simp [execMigrationRequest, hs]

theorem endsWf_execPriResponse (src tile addr : Nat) (grant : Bool) : EndsWf (execPriResponse src tile addr grant s) := by
  refine (endsWf_next _).2 ?_
  dsimp only
  rw [postEvent_mem]
  split
  · exact hs
  · refine memWf_foldl ?_ _ (fun t l h => memWf_refuseEvicted h _ _ _ l) _
    rw [foldl_mem _ refusePage_mem]
    exact hs

theorem endsWf_execRegionResume (rgn : Nat) : EndsWf (execRegionResume rgn s) := by
  simp [execRegionResume, hs]

theorem endsWf_execRegionHaltCmd (rgn : Nat) : EndsWf (execRegionHaltCmd rgn s) := by
  simp [execRegionHaltCmd, hs]

theorem endsWf_execRegionReset (rgn : Nat) : EndsWf (execRegionReset rgn s) := by
  simp [execRegionReset, hs]

theorem endsWf_execResetStepTimeout (rgn : Nat) : EndsWf (execResetStepTimeout rgn s) := by
  simp only [execResetStepTimeout, endsWf_next]
  split <;> simp [hs]

theorem endsWf_execRegionBlot (rgn : Nat) : EndsWf (execRegionBlot rgn s) := by
  simp [execRegionBlot, hs]

theorem endsWf_execBlotComplete (rgn : Nat) : EndsWf (execBlotComplete rgn s) := by
  simp only [execBlotComplete, endsWf_next]
  split <;> simp [hs]

theorem endsWf_execRegionRelease (rgn : Nat) : EndsWf (execRegionRelease rgn s) := by
  simp [execRegionRelease, hs]

theorem endsWf_execTileInvalidate (die : Nat) : EndsWf (execTileInvalidate die s) := by
  simp only [execTileInvalidate, endsWf_next]
  split <;> simp [hs]

theorem endsWf_execTileInvalidateDone (die : Nat) : EndsWf (execTileInvalidateDone die s) := by
  refine (endsWf_next _).2 ?_
  dsimp only
  split
  · exact hs
  · refine memWf_settleMigr ?_
    rw [setDie_mem]
    refine memWf_foldl (by simpa using hs) _ (fun t n h => ?_) _
    split
    · exact memWf_landCovered h _ n
    · exact h

theorem endsWf_execRegisterWrite (addr size : Nat) (data : BitVec 64) : EndsWf (execRegisterWrite addr size data s) := by
  simp only [execRegisterWrite, endsWf_next]
  split <;> simp [hs]

theorem endsWf_execHeartbeatMissed (core : Nat) : EndsWf (execHeartbeatMissed core s) := by
  simp only [execHeartbeatMissed, endsWf_next]
  repeat' split
  all_goals simp [hs]

theorem endsWf_execLockstepMismatch : EndsWf (execLockstepMismatch s) := by
  simp [execLockstepMismatch, hs]

theorem endsWf_execFirmwareUpdateRequest (addr len : Nat) : EndsWf (execFirmwareUpdateRequest addr len s) := by
  simp [execFirmwareUpdateRequest, hs]

theorem endsWf_execFirmwareCommit : EndsWf (execFirmwareCommit s) := by
  refine (endsWf_next _).2 ?_
  split
  · dsimp only
    split
    · exact hs
    · refine memWf_restartCores ?_
      rw [foldl_mem _ (fun t q => addWork_mem t (2 + q % 12) q)]
      exact hs
  · exact memWf_restartCores hs

theorem endsWf_execSpdmGetMeasurements (link : Nat) : EndsWf (execSpdmGetMeasurements link s) := by
  simp only [execSpdmGetMeasurements, endsWf_next]
  split <;> simp [hs]

theorem endsWf_execSpdmChallenge (link : Nat) (nonce : BitVec 256) : EndsWf (execSpdmChallenge link nonce s) := by
  simp only [execSpdmChallenge, endsWf_next]
  split <;> simp [hs]

theorem endsWf_execUndervoltWindow (die folio errs : Nat) : EndsWf (execUndervoltWindow die folio errs s) := by
  simp only [execUndervoltWindow, endsWf_next]
  repeat' split
  all_goals simp [hs]

theorem endsWf_execL2WayGating (die folio way : Nat) (fewerWays : Bool) (missesPerMi : Nat) :
    EndsWf (execL2WayGating die folio way fewerWays missesPerMi s) := by
  simp only [execL2WayGating, endsWf_next]
  repeat' split
  all_goals simp [hs]

theorem endsWf_execModuleReset : EndsWf (execModuleReset s) := by
  simp [execModuleReset, hs]

theorem endsWf_execIntervalDriftTooWide (die : Nat) : EndsWf (execIntervalDriftTooWide die s) := by
  simp only [execIntervalDriftTooWide, endsWf_next]
  split <;> simp [hs]

theorem endsWf_execRdcSectorEviction (die i : Nat) : EndsWf (execRdcSectorEviction die i s) := by
  simp only [execRdcSectorEviction, endsWf_next]
  split <;> simp [hs]

theorem endsWf_execRegionEviction (rgn : Nat) : EndsWf (execRegionEviction rgn s) := by
  simp only [execRegionEviction, endsWf_next]
  split <;> simp [hs]

theorem endsWf_execBoostLeaseGrant (rgn lid lvl time : Nat) : EndsWf (execBoostLeaseGrant rgn lid lvl time s) := by
  refine (endsWf_next _).2 ?_
  extract_lets g c t time' u
  have ht : memWf t.mem = true := memWf_foldl hs _ (fun t f h => by dsimp only; split <;> simp [h]) _
  have hu : memWf u.mem = true := memWf_setCtx ht g.ctx (setLease c false rgn lid time')
  clear_value u
  split
  · exact hs
  · exact hu

theorem endsWf_execBoostLeaseExpiry (ctx : Nat) : EndsWf (execBoostLeaseExpiry ctx s) := by
  simp only [execBoostLeaseExpiry, endsWf_next]
  repeat' split
  all_goals simp [hs]

theorem endsWf_execHostLinkDown (link : Nat) (down : Bool) : EndsWf (execHostLinkDown link down s) := by
  simp [execHostLinkDown, hs]

end
end Sys2Proof.Machine
end

section
/-! PROOFS. The work of each instruction keeps the memory canonical (R18, R161). -/
namespace Sys2Proof.Machine
open Sys2Proof.Claim

section
variable {s : State} (hs : memWf s.mem = true)
include hs

omit hs in
theorem consumeAll_mem (n : Nat) (l : List Nat) (x : State × Elem) : (consumeAll n l x).1.mem = x.1.mem := by
  induction l generalizing x with
  | nil => rfl
  | cons c r ih => rw [consumeAll, ih, consumeWith_mem]

@[simp] theorem keepsWf_storeAccess (e : Elem) (f : Fields) (r : Reach) (a b : Reg) (addr : Nat → Nat) (n : Nat) :
    KeepsWf (storeAccess s e f r a b addr n) := by
  simp [storeAccess, hs, yields_const]

@[simp] theorem keepsWf_matrixStep (e : Elem) (f : Fields) (base : Nat) (extra : List Reg) : KeepsWf (matrixStep s e f base extra) := by
  unfold matrixStep
  dsimp only
  split <;> simp [hs]

@[simp] theorem keepsWf_loadLanes (e : Elem) (f : Fields) (r : Reach) (a : Reg) (addr : Nat → Nat) (n : Nat) (ext : Nat → Lane)
    (lanes : List Nat) : KeepsWf (loadLanes s e f r a addr n ext lanes) := by
  unfold loadLanes
  split <;> simp [hs]

theorem wf_syncAddr (e : Elem) (f : Fields) (size : Nat) (k : Kind) :
    Yields (fun x => memWf x.1.mem = true) (syncAddr s e f size k) := by
  unfold syncAddr
  dsimp only
  split
  · simp [hs]
  · refine (portAccess_mem s e f.a _ _ k).bind (fun x hx => ?_)
    simp only [yields_bind, yields_need, yields_awaitFree, yields_pure]
    intro _ _
    split <;> simp [hx, hs]

theorem keepsWf_readModify (e : Elem) (f : Fields) (srcs : List Reg) (size : Nat) (taint : Bool) (fn : Nat → Option Nat) :
    KeepsWf (readModify s e f srcs size taint fn) := by
  simp only [readModify, yields_bind, yields_awaitFree, yields_need]
  intro _ _
  refine (wf_syncAddr hs e f size .atomic).mono (fun x hx => ?_)
  refine yields_unit _ ?_
  refine (keepsWf_done _ _).2 ?_
  rw [acquire_mem]
  have hr := memWf_homeRead (memWf_release hx x.2.1) (release x.1 x.2.1).2 x.2.2 size
  split
  · exact memWf_landStore hr _ _
  · rw [granBits_mem]
    exact hr

theorem keepsWf_bodyNop (f : Fields) (e : Elem) : KeepsWf (bodyNop s f e) := by
  simp [bodyNop, hs]

theorem keepsWf_bodyEnd (f : Fields) (e : Elem) : KeepsWf (bodyEnd s f e) := by
  simp only [bodyEnd]
  repeat' split
  all_goals simp [hs, yields_const]

theorem keepsWf_bodyTake (f : Fields) (e : Elem) : KeepsWf (bodyTake s f e) := by
  simp only [bodyTake]
  repeat' split
  all_goals simp [hs, yields_const, consumeAll_mem]

theorem keepsWf_bodyGive (f : Fields) (e : Elem) : KeepsWf (bodyGive s f e) := by
  simp [bodyGive, hs]

theorem keepsWf_bodyWait (f : Fields) (e : Elem) : KeepsWf (bodyWait s f e) := by
  simp [bodyWait, hs]

theorem keepsWf_bodySbt (f : Fields) (e : Elem) : KeepsWf (bodySbt s f e) := by
  simp [bodySbt, hs]

theorem keepsWf_bodyCtlw (f : Fields) (e : Elem) : KeepsWf (bodyCtlw s f e) := by
  simp [bodyCtlw, hs, yields_const]

theorem keepsWf_bodyCfwd (f : Fields) (e : Elem) : KeepsWf (bodyCfwd s f e) := by
  simp only [bodyCfwd]
  repeat' split
  all_goals simp [hs, yields_const]

theorem keepsWf_bodyCpeek (f : Fields) (e : Elem) : KeepsWf (bodyCpeek s f e) := by
  simp [bodyCpeek, hs]

theorem keepsWf_bodyMskop (f : Fields) (e : Elem) : KeepsWf (bodyMskop s f e) := by
  simp [bodyMskop, hs]

theorem keepsWf_bodyMskmv (f : Fields) (e : Elem) : KeepsWf (bodyMskmv s f e) := by
  simp only [bodyMskmv]
  repeat' split
  all_goals simp [hs, yields_const]

theorem keepsWf_bodyBra (f : Fields) (e : Elem) : KeepsWf (bodyBra s f e) := by
  simp [bodyBra, hs]

theorem keepsWf_bodyLoop (f : Fields) (e : Elem) : KeepsWf (bodyLoop s f e) := by
  simp [bodyLoop, hs]

theorem keepsWf_bodyBrk (f : Fields) (e : Elem) : KeepsWf (bodyBrk s f e) := by
  simp only [bodyBrk]
  repeat' split
  all_goals simp [hs, yields_const]

theorem keepsWf_satBody (u : Uses) (g : Int → Int → Int → Int) (f : Fields) (e : Elem) : KeepsWf (satBody u g s f e) := by
  simp [satBody, hs, yields_const]

theorem keepsWf_unsBody (u : Uses) (g : Nat → Int → Int → Int) (f : Fields) (e : Elem) : KeepsWf (unsBody u g s f e) := by
  simp [unsBody, hs, yields_const]

theorem keepsWf_bitBody (g : Lane → Lane → Lane) (f : Fields) (e : Elem) : KeepsWf (bitBody g s f e) := by
  simp [bitBody, hs, yields_const]

theorem keepsWf_shiftBody (g : Nat → Nat → Nat → Nat) (f : Fields) (e : Elem) : KeepsWf (shiftBody g s f e) := by
  simp [shiftBody, hs, yields_const]

theorem keepsWf_countBody (g : Nat → Nat → Nat) (f : Fields) (e : Elem) : KeepsWf (countBody g s f e) := by
  simp [countBody, hs, yields_const]

theorem keepsWf_bodyBfx (f : Fields) (e : Elem) : KeepsWf (bodyBfx s f e) := by
  simp [bodyBfx, hs, yields_const]

theorem keepsWf_bodyBfi (f : Fields) (e : Elem) : KeepsWf (bodyBfi s f e) := by
  simp [bodyBfi, hs, yields_const]

theorem keepsWf_bodyCmp (f : Fields) (e : Elem) : KeepsWf (bodyCmp s f e) := by
  simp [bodyCmp, hs, yields_const]

theorem keepsWf_bodySel (f : Fields) (e : Elem) : KeepsWf (bodySel s f e) := by
  simp [bodySel, hs, yields_const]

theorem keepsWf_bodyMov (f : Fields) (e : Elem) : KeepsWf (bodyMov s f e) := by
  simp [bodyMov, hs, yields_const]

theorem keepsWf_bodyMovi (f : Fields) (e : Elem) : KeepsWf (bodyMovi s f e) := by
  simp [bodyMovi, hs, yields_const]

theorem keepsWf_bodyPack (f : Fields) (e : Elem) : KeepsWf (bodyPack s f e) := by
  simp [bodyPack, hs, yields_const]

theorem keepsWf_bodyUnpk (f : Fields) (e : Elem) : KeepsWf (bodyUnpk s f e) := by
  simp [bodyUnpk, hs, yields_const]

theorem keepsWf_bodyShuf (f : Fields) (e : Elem) : KeepsWf (bodyShuf s f e) := by
  simp [bodyShuf, hs, yields_const]

theorem keepsWf_bodyBcst (f : Fields) (e : Elem) : KeepsWf (bodyBcst s f e) := by
  simp [bodyBcst, hs, yields_const]

theorem keepsWf_bodyLred (f : Fields) (e : Elem) : KeepsWf (bodyLred s f e) := by
  simp [bodyLred, hs, yields_const]

theorem keepsWf_floatBody (u : Uses) (vars : Nat) (fn : Nat → Num → Num → Num → Num × Flags) (f : Fields) (e : Elem) :
    KeepsWf (floatBody u vars fn s f e) := by
  simp [floatBody, hs, yields_const]

theorem keepsWf_pickBody (larger : Bool) (f : Fields) (e : Elem) : KeepsWf (pickBody larger s f e) := by
  simp [pickBody, hs, yields_const]

theorem keepsWf_elemBody (g : Fmt → Nat → Nat) (f : Fields) (e : Elem) : KeepsWf (elemBody g s f e) := by
  simp [elemBody, hs, yields_const]

theorem keepsWf_bodyFcmp (f : Fields) (e : Elem) : KeepsWf (bodyFcmp s f e) := by
  simp [bodyFcmp, hs, yields_const]

theorem keepsWf_bodyFsts (f : Fields) (e : Elem) : KeepsWf (bodyFsts s f e) := by
  simp [bodyFsts, hs]

theorem keepsWf_bodyFrnd (f : Fields) (e : Elem) : KeepsWf (bodyFrnd s f e) := by
  simp [bodyFrnd, hs, yields_const]

theorem keepsWf_bodyCvt (f : Fields) (e : Elem) : KeepsWf (bodyCvt s f e) := by
  simp [bodyCvt, hs, yields_const]

theorem keepsWf_bodyDq (f : Fields) (e : Elem) : KeepsWf (bodyDq s f e) := by
  simp [bodyDq, hs, yields_const]

theorem keepsWf_bodyQnt (f : Fields) (e : Elem) : KeepsWf (bodyQnt s f e) := by
  simp [bodyQnt, hs, yields_const]

theorem keepsWf_bodyScl (f : Fields) (e : Elem) : KeepsWf (bodyScl s f e) := by
  simp [bodyScl, hs]

theorem keepsWf_bodyLscan (f : Fields) (e : Elem) : KeepsWf (bodyLscan s f e) := by
  simp [bodyLscan, hs, yields_const]

theorem keepsWf_bodyDot (f : Fields) (e : Elem) : KeepsWf (bodyDot s f e) := by
  simp [bodyDot, hs, yields_const]

theorem keepsWf_bodyTpq (f : Fields) (e : Elem) : KeepsWf (bodyTpq s f e) := by
  simp [bodyTpq, hs, yields_const]

theorem keepsWf_bodyTpqr (f : Fields) (e : Elem) : KeepsWf (bodyTpqr s f e) := by
  simp [bodyTpqr, hs]

theorem keepsWf_bodyAccrd (f : Fields) (e : Elem) : KeepsWf (bodyAccrd s f e) := by
  simp [bodyAccrd, hs]

theorem keepsWf_bodyAccz (f : Fields) (e : Elem) : KeepsWf (bodyAccz s f e) := by
  simp [bodyAccz, hs]

theorem keepsWf_bodyWsel (f : Fields) (e : Elem) : KeepsWf (bodyWsel s f e) := by
  simp [bodyWsel, hs]

theorem keepsWf_bodyRst (f : Fields) (e : Elem) : KeepsWf (bodyRst s f e) := by
  simp [bodyRst, hs, yields_const]

theorem keepsWf_bodySst (f : Fields) (e : Elem) : KeepsWf (bodySst s f e) := by
  simp [bodySst, hs, yields_const]

theorem keepsWf_bodySstv (f : Fields) (e : Elem) : KeepsWf (bodySstv s f e) := by
  simp [bodySstv, hs, yields_const]

theorem keepsWf_bodyNest (f : Fields) (e : Elem) : KeepsWf (bodyNest s f e) := by
  simp [bodyNest, hs, yields_const]

theorem keepsWf_bodyNstr (f : Fields) (e : Elem) : KeepsWf (bodyNstr s f e) := by
  simp [bodyNstr, hs, yields_const]

theorem keepsWf_bodyGen (f : Fields) (e : Elem) : KeepsWf (bodyGen s f e) := by
  simp [bodyGen, hs, yields_const]

theorem keepsWf_bodyTld (f : Fields) (e : Elem) : KeepsWf (bodyTld s f e) := by
  simp only [bodyTld, yields_bind, yields_awaitCount]
  refine yields_unit _ (fun _ => ?_)
  split
  · simp [hs, yields_const]
  · exact (portAccess_mem _ _ _ _ _ _).bind (fun x hx => by simpa [hx] using hs)

theorem keepsWf_bodyTst (f : Fields) (e : Elem) : KeepsWf (bodyTst s f e) := by
  simp only [bodyTst, yields_bind, yields_awaitCount, yields_need]
  refine yields_unit _ (fun _ _ => ?_)
  exact (portAccess_mem _ _ _ _ _ _).mono (fun x hx => by simpa [hx] using hs)

theorem keepsWf_bodyTlda (f : Fields) (e : Elem) : KeepsWf (bodyTlda s f e) := by
  simp only [bodyTlda, yields_bind, yields_awaitCount, yields_awaitFree]
  refine yields_unit _ (yields_unit _ (fun _ _ => ?_))
  split
  · simp [hs, yields_const]
  · exact (portAccess_mem _ _ _ _ _ _).bind (fun x hx => by simpa [hx] using hs)

theorem keepsWf_bodyTsts (f : Fields) (e : Elem) : KeepsWf (bodyTsts s f e) := by
  simp only [bodyTsts, yields_bind, yields_awaitCount, yields_need]
  refine yields_unit _ (fun _ => yields_unit _ (fun _ _ _ => ?_))
  exact (portAccess_mem _ _ _ _ _ _).mono (fun x hx => by simpa [hx] using hs)

theorem keepsWf_bodyPref (f : Fields) (e : Elem) : KeepsWf (bodyPref s f e) := by
  simp only [bodyPref]
  split
  · simp [hs, yields_const]
  · refine (yields_bind _ _).2 (yields_unit _ ?_)
    split
    · next t p a h =>
      have ht : t.mem = s.mem := portAccess_mem _ _ _ _ _ _ _ h
      split <;> simpa [ht] using hs
    · simpa using hs

theorem keepsWf_bodyHbind (f : Fields) (e : Elem) : KeepsWf (bodyHbind s f e) := by
  simp [bodyHbind, hs, yields_const]

theorem keepsWf_bodyPgsz (f : Fields) (e : Elem) : KeepsWf (bodyPgsz s f e) := by
  simp [bodyPgsz, hs]

theorem keepsWf_bodyRcfnc (f : Fields) (e : Elem) : KeepsWf (bodyRcfnc s f e) := by
  simp [bodyRcfnc, hs, yields_const]

theorem keepsWf_bodyQpsh (f : Fields) (e : Elem) : KeepsWf (bodyQpsh s f e) := by
  simp [bodyQpsh, hs, yields_const]

theorem keepsWf_bodyQpop (f : Fields) (e : Elem) : KeepsWf (bodyQpop s f e) := by
  simp only [bodyQpop]
  repeat' split
  all_goals simp [hs, yields_const]

theorem keepsWf_bodyQwt (f : Fields) (e : Elem) : KeepsWf (bodyQwt s f e) := by
  simp [bodyQwt, hs]

theorem keepsWf_bodyCpy (f : Fields) (e : Elem) : KeepsWf (bodyCpy s f e) := by
  simp [bodyCpy, hs, yields_const]

theorem keepsWf_bodyGth (f : Fields) (e : Elem) : KeepsWf (bodyGth s f e) := by
  simp [bodyGth, hs, yields_const]

theorem keepsWf_bodyColl (f : Fields) (e : Elem) : KeepsWf (bodyColl s f e) := by
  simp only [bodyColl]
  repeat' split
  all_goals simp [hs, yields_const]

theorem keepsWf_bodyCwt (f : Fields) (e : Elem) : KeepsWf (bodyCwt s f e) := by
  simp only [bodyCwt]
  repeat' split
  all_goals simp [hs, yields_const]

theorem keepsWf_bodyCtst (f : Fields) (e : Elem) : KeepsWf (bodyCtst s f e) := by
  simp only [bodyCtst]
  repeat' split
  all_goals simp [hs, yields_const]

theorem keepsWf_bodyClkr (f : Fields) (e : Elem) : KeepsWf (bodyClkr s f e) := by
  simp [bodyClkr, hs]

theorem keepsWf_bodyStmp (f : Fields) (e : Elem) : KeepsWf (bodyStmp s f e) := by
  simp [bodyStmp, hs, yields_const]

theorem keepsWf_bodyCmtw (f : Fields) (e : Elem) : KeepsWf (bodyCmtw s f e) := by
  simp [bodyCmtw, hs, yields_const]

theorem keepsWf_bodyTick (f : Fields) (e : Elem) : KeepsWf (bodyTick s f e) := by
  simp [bodyTick, hs, yields_const]

theorem keepsWf_bodyTacf (f : Fields) (e : Elem) : KeepsWf (bodyTacf s f e) := by
  simp [bodyTacf, hs]

theorem keepsWf_bodyTafd (f : Fields) (e : Elem) : KeepsWf (bodyTafd s f e) := by
  simp [bodyTafd, hs]

theorem keepsWf_bodyTamk (f : Fields) (e : Elem) : KeepsWf (bodyTamk s f e) := by
  simp only [bodyTamk]
  repeat' split
  all_goals simp [hs, yields_const]

theorem keepsWf_bodyTalv (f : Fields) (e : Elem) : KeepsWf (bodyTalv s f e) := by
  simp only [bodyTalv]
  repeat' split
  all_goals simp [hs, yields_const]

theorem keepsWf_bodyTach (f : Fields) (e : Elem) : KeepsWf (bodyTach s f e) := by
  simp [bodyTach, hs]

theorem keepsWf_bodyTntt (f : Fields) (e : Elem) : KeepsWf (bodyTntt s f e) := by
  simp [bodyTntt, hs, yields_const]

theorem keepsWf_bodyTntc (f : Fields) (e : Elem) : KeepsWf (bodyTntc s f e) := by
  simp [bodyTntc, hs, yields_const]

theorem keepsWf_bodyPzt (f : Fields) (e : Elem) : KeepsWf (bodyPzt s f e) := by
  simp [bodyPzt, hs, yields_const]

theorem keepsWf_bodyConf (f : Fields) (e : Elem) : KeepsWf (bodyConf s f e) := by
  simp only [bodyConf]
  repeat' split
  all_goals simp [hs, yields_const]

theorem keepsWf_bodyConfr (f : Fields) (e : Elem) : KeepsWf (bodyConfr s f e) := by
  simp only [bodyConfr]
  repeat' split
  all_goals simp [hs, yields_const]

omit hs in
theorem keepsWf_bodyTrap (f : Fields) (e : Elem) : KeepsWf (bodyTrap s f e) := by
  simp [bodyTrap]

theorem keepsWf_bodyEret (f : Fields) (e : Elem) : KeepsWf (bodyEret s f e) := by
  simp [bodyEret, hs]

theorem keepsWf_bodySysr (f : Fields) (e : Elem) : KeepsWf (bodySysr s f e) := by
  simp only [bodySysr]
  repeat' split
  all_goals simp [hs, yields_const]

theorem keepsWf_bodySysw (f : Fields) (e : Elem) : KeepsWf (bodySysw s f e) := by
  simp only [bodySysw]
  repeat' split
  all_goals simp [hs, yields_const]

theorem keepsWf_bodyIcacheFlush (f : Fields) (e : Elem) : KeepsWf (bodyIcacheFlush s f e) := by
  simp [bodyIcacheFlush, hs, yields_const]

theorem keepsWf_bodyHeartbeatWrite (f : Fields) (e : Elem) : KeepsWf (bodyHeartbeatWrite s f e) := by
  simp [bodyHeartbeatWrite, hs, yields_const]

theorem keepsWf_bodyIdle (f : Fields) (e : Elem) : KeepsWf (bodyIdle s f e) := by
  simp [bodyIdle, hs]

theorem keepsWf_bodyEvrd (f : Fields) (e : Elem) : KeepsWf (bodyEvrd s f e) := by
  simp only [bodyEvrd]
  repeat' split
  all_goals simp [hs, yields_const]

theorem keepsWf_bodyStp (f : Fields) (e : Elem) : KeepsWf (bodyStp s f e) := by
  unfold bodyStp
  refine (yields_bind _ _).2 (yields_unit _ ((yields_bind _ _).2 (yields_unit _ ?_)))
  split
  · exact yields_trap _
  · exact yields_trap _
  · exact (keepsWf_done _ _).2 hs

theorem keepsWf_bodyBkpt (f : Fields) (e : Elem) : KeepsWf (bodyBkpt s f e) := by
  simp [bodyBkpt, hs]

theorem keepsWf_bodyHalt (f : Fields) (e : Elem) : KeepsWf (bodyHalt s f e) := by
  simp [bodyHalt, hs]

theorem keepsWf_bodyFjmp (f : Fields) (e : Elem) : KeepsWf (bodyFjmp s f e) := by
  simp [bodyFjmp, hs, yields_const]

theorem keepsWf_bodyFcall (f : Fields) (e : Elem) : KeepsWf (bodyFcall s f e) := by
  simp [bodyFcall, hs, yields_const]

theorem keepsWf_bodyFret (f : Fields) (e : Elem) : KeepsWf (bodyFret s f e) := by
  simp only [bodyFret]
  repeat' split
  all_goals simp [hs, yields_const]

omit hs in
theorem keepsWf_bodyXtrap (f : Fields) (e : Elem) : KeepsWf (bodyXtrap s f e) := by
  simp [bodyXtrap]

theorem keepsWf_bodyMma (f : Fields) (e : Elem) : KeepsWf (bodyMma s f e) := by
  simp [bodyMma, hs, yields_const]

theorem keepsWf_bodyMmag (f : Fields) (e : Elem) : KeepsWf (bodyMmag s f e) := by
  simp [bodyMmag, hs, yields_const]

theorem keepsWf_bodyBmm (f : Fields) (e : Elem) : KeepsWf (bodyBmm s f e) := by
  simp [bodyBmm, hs, yields_const]

theorem keepsWf_bodyRld (f : Fields) (e : Elem) : KeepsWf (bodyRld s f e) := by
  simp [bodyRld, hs, yields_const]

theorem keepsWf_bodySld (f : Fields) (e : Elem) : KeepsWf (bodySld s f e) := by
  simp [bodySld, hs, yields_const]

theorem keepsWf_bodySldv (f : Fields) (e : Elem) : KeepsWf (bodySldv s f e) := by
  simp [bodySldv, hs, yields_const]

theorem keepsWf_bodySatm (f : Fields) (e : Elem) : KeepsWf (bodySatm s f e) := by
  simp [bodySatm, hs, yields_const]

theorem keepsWf_bodyAtom (f : Fields) (e : Elem) : KeepsWf (bodyAtom s f e) := by
  simp only [bodyAtom, yields_bind]
  exact yields_unit _ (keepsWf_readModify hs _ _ _ _ _ _)

theorem keepsWf_bodyCas (f : Fields) (e : Elem) : KeepsWf (bodyCas s f e) := by
  simp only [bodyCas, yields_bind]
  exact yields_unit _ (keepsWf_readModify hs _ _ _ _ _ _)

theorem keepsWf_bodyPhase (f : Fields) (e : Elem) : KeepsWf (bodyPhase s f e) := by
  simp [bodyPhase, hs, yields_const]

theorem keepsWf_bodyFence (f : Fields) (e : Elem) : KeepsWf (bodyFence s f e) := by
  simp only [bodyFence]
  repeat' split
  all_goals simp [hs, yields_const]

theorem keepsWf_bodyLdaq (f : Fields) (e : Elem) : KeepsWf (bodyLdaq s f e) := by
  simp only [bodyLdaq, yields_bind]
  refine yields_unit _ ?_
  split
  · simpa using hs
  · simp only [yields_bind]
    refine (wf_syncAddr hs _ _ _ _).mono (fun x hx => yields_unit _ ?_)
    simpa using memWf_homeRead hx _ _ _

theorem keepsWf_bodyStrl (f : Fields) (e : Elem) : KeepsWf (bodyStrl s f e) := by
  simp only [bodyStrl, yields_bind, yields_awaitFree, yields_need]
  refine yields_unit _ (fun _ _ => ?_)
  refine (wf_syncAddr hs _ _ _ _).mono (fun x hx => ?_)
  exact (keepsWf_done _ _).2 (memWf_landStore (memWf_release hx _) _ _)

theorem keepsWf_bodyIvlm (f : Fields) (e : Elem) : KeepsWf (bodyIvlm s f e) := by
  simp [bodyIvlm, hs, yields_const]

theorem keepsWf_bodySnap (f : Fields) (e : Elem) : KeepsWf (bodySnap s f e) := by
  simp [bodySnap, hs, yields_const]

theorem keepsWf_bodyLdp (f : Fields) (e : Elem) : KeepsWf (bodyLdp s f e) := by
  unfold bodyLdp
  refine (yields_bind _ _).2 (yields_unit _ ((yields_ite _ _).2 ⟨fun _ => (keepsWf_done _ _).2 hs, fun _ => ?_⟩))
  split
  · exact yields_trap _
  · exact (keepsWf_done _ _).2 hs
  · refine (yields_bind _ _).2 (yields_unit _ ((keepsWf_done _ _).2 ?_))
    exact memWf_homeRead (by rw [l2Fill_mem]; exact hs) e (physOf (readDes s e f.a).pay) (physSize f)

end
end Sys2Proof.Machine
end

section
/-! PROOFS. O58: a step keeps the memory canonical (R18, R161; log 4). -/
namespace Sys2Proof.Machine
open Sys2Proof.Claim

/-- The memory is canonical in the state that a fetch answers, if it answers one. -/
def FetchedWf (x : Fetched) : Prop := (∀ i t, x = .run i t → memWf t.mem = true) ∧ ∀ t, x = .idle t → memWf t.mem = true

@[simp] theorem fetchedWf_run (i : Instr) (t : State) : FetchedWf (.run i t) ↔ memWf t.mem = true := by simp [FetchedWf]

@[simp] theorem fetchedWf_idle (t : State) : FetchedWf (.idle t) ↔ memWf t.mem = true := by simp [FetchedWf]

@[simp] theorem fetchedWf_missing : FetchedWf .missing := by simp [FetchedWf]

section
variable {s : State} (hs : memWf s.mem = true)
include hs

/-- An instruction keeps the canonical form where its work does. -/
theorem endsWf_issue {op : BitVec 8} {body : Body} {f : Fields} (hb : ∀ e, KeepsWf (body s f e)) : EndsWf (issue op body f s) :=
  fun _ h => canonical_issue hs (fun e d _ hd => hb e d hd) h

/-- Every instruction and every step of the device keeps the canonical form: each by the lemma about its own work. -/
theorem endsWf_exec (i : Instr) : EndsWf (exec i s) := by
  cases i with
  | nop f => exact endsWf_issue hs (keepsWf_bodyNop hs f)
  | endFiring f => exact endsWf_issue hs (keepsWf_bodyEnd hs f)
  | take f => exact endsWf_issue hs (keepsWf_bodyTake hs f)
  | give f => exact endsWf_issue hs (keepsWf_bodyGive hs f)
  | wait f => exact endsWf_issue hs (keepsWf_bodyWait hs f)
  | sbt f => exact endsWf_issue hs (keepsWf_bodySbt hs f)
  | ctlw f => exact endsWf_issue hs (keepsWf_bodyCtlw hs f)
  | cfwd f => exact endsWf_issue hs (keepsWf_bodyCfwd hs f)
  | cpeek f => exact endsWf_issue hs (keepsWf_bodyCpeek hs f)
  | mskop f => exact endsWf_issue hs (keepsWf_bodyMskop hs f)
  | mskmv f => exact endsWf_issue hs (keepsWf_bodyMskmv hs f)
  | bra f => exact endsWf_issue hs (keepsWf_bodyBra hs f)
  | loop f => exact endsWf_issue hs (keepsWf_bodyLoop hs f)
  | brk f => exact endsWf_issue hs (keepsWf_bodyBrk hs f)
  | add f => exact endsWf_issue hs (keepsWf_satBody hs _ _ f)
  | sub f => exact endsWf_issue hs (keepsWf_satBody hs _ _ f)
  | mul f => exact endsWf_issue hs (keepsWf_satBody hs _ _ f)
  | mulh f => exact endsWf_issue hs (keepsWf_unsBody hs _ _ f)
  | mad f => exact endsWf_issue hs (keepsWf_satBody hs _ _ f)
  | div f => exact endsWf_issue hs (keepsWf_unsBody hs _ _ f)
  | rem f => exact endsWf_issue hs (keepsWf_unsBody hs _ _ f)
  | abs f => exact endsWf_issue hs (keepsWf_satBody hs _ _ f)
  | neg f => exact endsWf_issue hs (keepsWf_satBody hs _ _ f)
  | min f => exact endsWf_issue hs (keepsWf_unsBody hs _ _ f)
  | max f => exact endsWf_issue hs (keepsWf_unsBody hs _ _ f)
  | and f => exact endsWf_issue hs (keepsWf_bitBody hs _ f)
  | or f => exact endsWf_issue hs (keepsWf_bitBody hs _ f)
  | xor f => exact endsWf_issue hs (keepsWf_bitBody hs _ f)
  | andn f => exact endsWf_issue hs (keepsWf_bitBody hs _ f)
  | shl f => exact endsWf_issue hs (keepsWf_shiftBody hs _ f)
  | shr f => exact endsWf_issue hs (keepsWf_shiftBody hs _ f)
  | sar f => exact endsWf_issue hs (keepsWf_shiftBody hs _ f)
  | rot f => exact endsWf_issue hs (keepsWf_shiftBody hs _ f)
  | clz f => exact endsWf_issue hs (keepsWf_countBody hs _ f)
  | popc f => exact endsWf_issue hs (keepsWf_countBody hs _ f)
  | bfx f => exact endsWf_issue hs (keepsWf_bodyBfx hs f)
  | bfi f => exact endsWf_issue hs (keepsWf_bodyBfi hs f)
  | cmp f => exact endsWf_issue hs (keepsWf_bodyCmp hs f)
  | sel f => exact endsWf_issue hs (keepsWf_bodySel hs f)
  | mov f => exact endsWf_issue hs (keepsWf_bodyMov hs f)
  | movi f => exact endsWf_issue hs (keepsWf_bodyMovi hs f)
  | pack f => exact endsWf_issue hs (keepsWf_bodyPack hs f)
  | unpk f => exact endsWf_issue hs (keepsWf_bodyUnpk hs f)
  | shuf f => exact endsWf_issue hs (keepsWf_bodyShuf hs f)
  | bcst f => exact endsWf_issue hs (keepsWf_bodyBcst hs f)
  | lred f => exact endsWf_issue hs (keepsWf_bodyLred hs f)
  | fadd f => exact endsWf_issue hs (keepsWf_floatBody hs _ _ _ f)
  | fsub f => exact endsWf_issue hs (keepsWf_floatBody hs _ _ _ f)
  | fmul f => exact endsWf_issue hs (keepsWf_floatBody hs _ _ _ f)
  | fma f =>
    exact endsWf_issue (body := fun s f e => floatBody usesABC 2 fusedNum s { f with wb := 0 } e) hs
      (keepsWf_floatBody hs usesABC 2 fusedNum { f with wb := 0 })
  | fmin f => exact endsWf_issue hs (keepsWf_pickBody hs _ f)
  | fmax f => exact endsWf_issue hs (keepsWf_pickBody hs _ f)
  | fabs f => exact endsWf_issue hs (keepsWf_elemBody hs _ f)
  | fneg f => exact endsWf_issue hs (keepsWf_elemBody hs _ f)
  | fcmp f => exact endsWf_issue hs (keepsWf_bodyFcmp hs f)
  | frcp f => exact endsWf_issue hs (keepsWf_floatBody hs _ _ _ f)
  | frsq f => exact endsWf_issue hs (keepsWf_floatBody hs _ _ _ f)
  | fex2 f => exact endsWf_issue hs (keepsWf_floatBody hs _ _ _ f)
  | flg2 f => exact endsWf_issue hs (keepsWf_floatBody hs _ _ _ f)
  | fcls f => exact endsWf_issue hs (keepsWf_elemBody hs _ f)
  | fsts f => exact endsWf_issue hs (keepsWf_bodyFsts hs f)
  | frnd f => exact endsWf_issue hs (keepsWf_bodyFrnd hs f)
  | cvt f => exact endsWf_issue hs (keepsWf_bodyCvt hs f)
  | dq f => exact endsWf_issue hs (keepsWf_bodyDq hs f)
  | qnt f => exact endsWf_issue hs (keepsWf_bodyQnt hs f)
  | scl f => exact endsWf_issue hs (keepsWf_bodyScl hs f)
  | lscan f => exact endsWf_issue hs (keepsWf_bodyLscan hs f)
  | dot f => exact endsWf_issue hs (keepsWf_bodyDot hs f)
  | mma f => exact endsWf_issue hs (keepsWf_bodyMma hs f)
  | mmag f => exact endsWf_issue hs (keepsWf_bodyMmag hs f)
  | bmm f => exact endsWf_issue hs (keepsWf_bodyBmm hs f)
  | tpq f => exact endsWf_issue hs (keepsWf_bodyTpq hs f)
  | tpqr f => exact endsWf_issue hs (keepsWf_bodyTpqr hs f)
  | accrd f => exact endsWf_issue hs (keepsWf_bodyAccrd hs f)
  | accz f => exact endsWf_issue hs (keepsWf_bodyAccz hs f)
  | wsel f => exact endsWf_issue hs (keepsWf_bodyWsel hs f)
  | rld f => exact endsWf_issue hs (keepsWf_bodyRld hs f)
  | rst f => exact endsWf_issue hs (keepsWf_bodyRst hs f)
  | sld f => exact endsWf_issue hs (keepsWf_bodySld hs f)
  | sst f => exact endsWf_issue hs (keepsWf_bodySst hs f)
  | sldv f => exact endsWf_issue hs (keepsWf_bodySldv hs f)
  | sstv f => exact endsWf_issue hs (keepsWf_bodySstv hs f)
  | satm f => exact endsWf_issue hs (keepsWf_bodySatm hs f)
  | nest f => exact endsWf_issue hs (keepsWf_bodyNest hs f)
  | nstr f => exact endsWf_issue hs (keepsWf_bodyNstr hs f)
  | gen f => exact endsWf_issue hs (keepsWf_bodyGen hs f)
  | tld f => exact endsWf_issue hs (keepsWf_bodyTld hs f)
  | tst f => exact endsWf_issue hs (keepsWf_bodyTst hs f)
  | tlda f => exact endsWf_issue hs (keepsWf_bodyTlda hs f)
  | tsts f => exact endsWf_issue hs (keepsWf_bodyTsts hs f)
  | pref f => exact endsWf_issue hs (keepsWf_bodyPref hs f)
  | hbind f => exact endsWf_issue hs (keepsWf_bodyHbind hs f)
  | pgsz f => exact endsWf_issue hs (keepsWf_bodyPgsz hs f)
  | atom f => exact endsWf_issue hs (keepsWf_bodyAtom hs f)
  | cas f => exact endsWf_issue hs (keepsWf_bodyCas hs f)
  | phase f => exact endsWf_issue hs (keepsWf_bodyPhase hs f)
  | fence f => exact endsWf_issue hs (keepsWf_bodyFence hs f)
  | rcfnc f => exact endsWf_issue hs (keepsWf_bodyRcfnc hs f)
  | ldaq f => exact endsWf_issue hs (keepsWf_bodyLdaq hs f)
  | strl f => exact endsWf_issue hs (keepsWf_bodyStrl hs f)
  | qpsh f => exact endsWf_issue hs (keepsWf_bodyQpsh hs f)
  | qpop f => exact endsWf_issue hs (keepsWf_bodyQpop hs f)
  | qwt f => exact endsWf_issue hs (keepsWf_bodyQwt hs f)
  | cpy f => exact endsWf_issue hs (keepsWf_bodyCpy hs f)
  | gth f => exact endsWf_issue hs (keepsWf_bodyGth hs f)
  | coll f => exact endsWf_issue hs (keepsWf_bodyColl hs f)
  | cwt f => exact endsWf_issue hs (keepsWf_bodyCwt hs f)
  | ctst f => exact endsWf_issue hs (keepsWf_bodyCtst hs f)
  | clkr f => exact endsWf_issue hs (keepsWf_bodyClkr hs f)
  | stmp f => exact endsWf_issue hs (keepsWf_bodyStmp hs f)
  | cmtw f => exact endsWf_issue hs (keepsWf_bodyCmtw hs f)
  | tick f => exact endsWf_issue hs (keepsWf_bodyTick hs f)
  | ivlm f => exact endsWf_issue hs (keepsWf_bodyIvlm hs f)
  | tacf f => exact endsWf_issue hs (keepsWf_bodyTacf hs f)
  | tafd f => exact endsWf_issue hs (keepsWf_bodyTafd hs f)
  | tamk f => exact endsWf_issue hs (keepsWf_bodyTamk hs f)
  | talv f => exact endsWf_issue hs (keepsWf_bodyTalv hs f)
  | tach f => exact endsWf_issue hs (keepsWf_bodyTach hs f)
  | tntt f => exact endsWf_issue hs (keepsWf_bodyTntt hs f)
  | tntc f => exact endsWf_issue hs (keepsWf_bodyTntc hs f)
  | pzt f => exact endsWf_issue hs (keepsWf_bodyPzt hs f)
  | snap f => exact endsWf_issue hs (keepsWf_bodySnap hs f)
  | conf f => exact endsWf_issue hs (keepsWf_bodyConf hs f)
  | confr f => exact endsWf_issue hs (keepsWf_bodyConfr hs f)
  | trap f => exact endsWf_issue hs (keepsWf_bodyTrap f)
  | eret f => exact endsWf_issue hs (keepsWf_bodyEret hs f)
  | sysr f => exact endsWf_issue hs (keepsWf_bodySysr hs f)
  | sysw f => exact endsWf_issue hs (keepsWf_bodySysw hs f)
  | icacheFlush f => exact endsWf_issue hs (keepsWf_bodyIcacheFlush hs f)
  | heartbeatWrite f => exact endsWf_issue hs (keepsWf_bodyHeartbeatWrite hs f)
  | idle f => exact endsWf_issue hs (keepsWf_bodyIdle hs f)
  | evrd f => exact endsWf_issue hs (keepsWf_bodyEvrd hs f)
  | ldp f => exact endsWf_issue hs (keepsWf_bodyLdp hs f)
  | stp f => exact endsWf_issue hs (keepsWf_bodyStp hs f)
  | bkpt f => exact endsWf_issue hs (keepsWf_bodyBkpt hs f)
  | halt f => exact endsWf_issue hs (keepsWf_bodyHalt hs f)
  | fjmp f => exact endsWf_issue hs (keepsWf_bodyFjmp hs f)
  | fcall f => exact endsWf_issue hs (keepsWf_bodyFcall hs f)
  | fret f => exact endsWf_issue hs (keepsWf_bodyFret hs f)
  | xtrap f => exact endsWf_issue hs (keepsWf_bodyXtrap f)
  | firingStart u => exact endsWf_execFiringStart hs u
  | channelWordArrive u ch => exact endsWf_execChannelWordArrive hs u ch
  | creditReturn src => exact endsWf_execCreditReturn hs src
  | drainAction u => exact endsWf_execDrainAction hs u
  | switchAction u => exact endsWf_execSwitchAction hs u
  | armAction u => exact endsWf_execArmAction hs u
  | loadResponse u p => exact endsWf_execLoadResponse hs u p
  | storeAccept a => exact endsWf_execStoreAccept hs a
  | stampedStoreArrive u => exact endsWf_execStampedStoreArrive hs u
  | stampedStoreDry die => exact endsWf_execStampedStoreDry hs die
  | tldaHomeServe u p => exact endsWf_execTldaHomeServe hs u p
  | engineOpComplete a co => exact endsWf_execEngineOpComplete hs a co
  | engineOpStop a co => exact endsWf_execEngineOpStop hs a co
  | engineOpFail a co => exact endsWf_execEngineOpFail hs a co
  | raResultReady u => exact endsWf_execRaResultReady hs u
  | recqBroadcast u m => exact endsWf_execRecqBroadcast hs u m
  | recqDeal u => exact endsWf_execRecqDeal hs u
  | recqPublishPair u => exact endsWf_execRecqPublishPair hs u
  | recqEoi u => exact endsWf_execRecqEoi hs u
  | recqDrainFeed u => exact endsWf_execRecqDrainFeed hs u
  | recqDrainOut u => exact endsWf_execRecqDrainOut hs u
  | seedAdmit rgn g => exact endsWf_execSeedAdmit hs rgn g
  | outputGateWord rgn g => exact endsWf_execOutputGateWord hs rgn g
  | bridgeFlitReceive die br flit => exact endsWf_execBridgeFlitReceive hs die br flit
  | linkRetrain die br => exact endsWf_execLinkRetrain hs die br
  | beaconSend die => exact endsWf_execBeaconSend hs die
  | beaconReceive die br => exact endsWf_execBeaconReceive hs die br
  | beaconHoldTimeout die => exact endsWf_execBeaconHoldTimeout hs die
  | ptpSync now unc => exact endsWf_execPtpSync hs now unc
  | ptpLockTimeout  => exact endsWf_execPtpLockTimeout hs
  | firingWatchdog u => exact endsWf_execFiringWatchdog hs u
  | launchWatchdog rgn => exact endsWf_execLaunchWatchdog hs rgn
  | snapMarkerArrive dst => exact endsWf_execSnapMarkerArrive hs dst
  | snapshotRecord u => exact endsWf_execSnapshotRecord hs u
  | restartableStopTimeout u => exact endsWf_execRestartableStopTimeout hs u
  | doorbellWrite q data => exact endsWf_execDoorbellWrite hs q data
  | queueMap q addr => exact endsWf_execQueueMap hs q addr
  | queueUnmap q => exact endsWf_execQueueUnmap hs q
  | packetLaunch q => exact endsWf_execPacketLaunch hs q
  | packetRegister q => exact endsWf_execPacketRegister hs q
  | packetUnregister q => exact endsWf_execPacketUnregister hs q
  | packetReleaseKept q => exact endsWf_execPacketReleaseKept hs q
  | regionGrant  => exact endsWf_execRegionGrant hs
  | configurationCompleteWave rgn => exact endsWf_execConfigurationCompleteWave hs rgn
  | gatesOpen rgn => exact endsWf_execGatesOpen hs rgn
  | launchComplete rgn => exact endsWf_execLaunchComplete hs rgn
  | hostMemoryWrite link addr bytes => exact endsWf_execHostMemoryWrite hs link addr bytes
  | hostMemoryRead link addr size => exact endsWf_execHostMemoryRead hs link addr size
  | migrationRequest ctx addr => exact endsWf_execMigrationRequest hs ctx addr
  | priResponse src tile addr grant => exact endsWf_execPriResponse hs src tile addr grant
  | regionResume rgn => exact endsWf_execRegionResume hs rgn
  | regionHaltCmd rgn => exact endsWf_execRegionHaltCmd hs rgn
  | regionReset rgn => exact endsWf_execRegionReset hs rgn
  | resetStepTimeout rgn => exact endsWf_execResetStepTimeout hs rgn
  | regionBlot rgn => exact endsWf_execRegionBlot hs rgn
  | blotComplete rgn => exact endsWf_execBlotComplete hs rgn
  | regionRelease rgn => exact endsWf_execRegionRelease hs rgn
  | tileInvalidate die => exact endsWf_execTileInvalidate hs die
  | tileInvalidateDone die => exact endsWf_execTileInvalidateDone hs die
  | registerWrite addr size data => exact endsWf_execRegisterWrite hs addr size data
  | heartbeatMissed core => exact endsWf_execHeartbeatMissed hs core
  | lockstepMismatch  => exact endsWf_execLockstepMismatch hs
  | firmwareUpdateRequest addr len => exact endsWf_execFirmwareUpdateRequest hs addr len
  | firmwareCommit  => exact endsWf_execFirmwareCommit hs
  | spdmGetMeasurements link => exact endsWf_execSpdmGetMeasurements hs link
  | spdmChallenge link nonce => exact endsWf_execSpdmChallenge hs link nonce
  | undervoltWindow die folio errs => exact endsWf_execUndervoltWindow hs die folio errs
  | l2WayGating die folio way fewerWays missesPerMi => exact endsWf_execL2WayGating hs die folio way fewerWays missesPerMi
  | moduleReset  => exact endsWf_execModuleReset hs
  | intervalDriftTooWide die => exact endsWf_execIntervalDriftTooWide hs die
  | rdcSectorEviction die k => exact endsWf_execRdcSectorEviction hs die k
  | regionEviction rgn => exact endsWf_execRegionEviction hs rgn
  | boostLeaseGrant rgn lid lvl time => exact endsWf_execBoostLeaseGrant hs rgn lid lvl time
  | boostLeaseExpiry ctx => exact endsWf_execBoostLeaseExpiry hs ctx
  | hostLinkDown link down => exact endsWf_execHostLinkDown hs link down

theorem fetchedWf_decoded (u : UnitId) (e : Elem) (w : BitVec 96) : FetchedWf (decoded s u e w) := by
  unfold decoded
  split <;> simp [hs]

theorem fetchedWf_fetchElem (n : Nat) (e : Elem) : FetchedWf (fetchElem s n e) := by
  unfold fetchElem
  repeat' split
  · simp [hs]
  · simp [hs]
  · simp [hs]
  · simp [hs]
  · exact fetchedWf_decoded hs _ _ _

theorem fetchedWf_fetchCore (n : Nat) (e : Elem) : FetchedWf (fetchCore s n e) := by
  unfold fetchCore
  split
  · simp [hs]
  · dsimp only
    split
    · simp [hs]
    · exact fetchedWf_decoded (by simpa using hs) _ _ _

theorem fetchedWf_fetch : FetchedWf (fetch s) := by
  unfold fetch
  repeat' split
  · simp
  · exact fetchedWf_fetchElem hs _ _
  · exact fetchedWf_fetchCore hs _ _

theorem endsWf_unitTurn : EndsWf (unitTurn s) := by
  obtain ⟨hrun, hidle⟩ := fetchedWf_fetch hs
  unfold unitTurn
  split
  · next i t h => exact endsWf_exec (hrun i t h) i
  · next t h => exact (endsWf_next t).2 (hidle t h)
  · simp [EndsWf]

theorem memWf_fetchStage {u k : Nat} {r : Run} {i : Instr} {t : State} (h : fetchStage s u k = some (r, i, t)) :
    memWf t.mem = true := by
  unfold fetchStage at h
  split at h
  · cases h
  · split at h
    · cases h
    · obtain ⟨j, _, hj⟩ := Option.map_eq_some_iff.1 h
      cases hj
      simpa using hs

theorem endsWf_stageTurn (u k : Nat) : EndsWf (stageTurn s u k) := by
  unfold stageTurn
  split
  · simpa using hs
  · next r i t h =>
    have hx := endsWf_exec (memWf_fetchStage hs h) i
    split
    · next t' h' => simpa using hx t' h'
    · exact hx

end

/-- Settles O58: memory is written through `memSet` alone, which keeps the form, and what a step does besides leaves memory. -/
theorem stepKeepsCanonical : Obligations.StepKeepsCanonical := by
  unfold Obligations.StepKeepsCanonical
  intro s t hs
  refine (show EndsWf (step s) from ?_) t
  have hs : memWf s.mem = true := hs
  unfold step
  split
  · exact endsWf_unitTurn hs
  · next x r _ =>
    have hr : memWf (elapse x.ns (upsetAll { s with agenda := r } x.ups)).mem = true :=
      memWf_elapse (by simpa using hs) _
    split
    · exact endsWf_unitTurn (by exact hr)
    · exact endsWf_stageTurn (by exact hr) _ _
    · simpa using hr
    · exact endsWf_exec hr _

end Sys2Proof.Machine
end

section
/-! PROOFS. O13: loads from a local store (R147 to R149, R151, R152). -/
namespace Sys2Proof.Machine
open Sys2Proof.Claim

section
variable {i : Instr} {op : BitVec 8} {body : Body} {s t : State} {e : Elem} {f : Fields} {r : Reach} {st : Store}

-- What a destination keeps ----------------------------------------------------------------------------------------------------

/-- A state register that a class has is one of the 64 that a designator can name. -/
theorem desOf_of_isState {d : BitVec 10} (h : isState e d = true) : desOf d = .state d.toNat := by
  have hn : d.toNat < 64 := by
    have := of_decide_eq_true h
    have : e.cls.nState ≤ 64 := by cases e.cls <;> decide
    omega
  simp [desOf, Nat.div_eq_of_lt (show d.toNat < 256 by omega), Nat.mod_eq_of_lt (show d.toNat < 256 by omega), hn]

/-- What a destination register or output slot holds depends neither on the module nor on the local store of its unit. -/
theorem readDes_of_badReg (h : badReg e f = none) (s t : State) (st : Store) :
    readDes t { e with store := st } f.d = readDes s e f.d := by
  have hd : regOrOut e f.d = true := by
    by_contra hd
    simp [badReg, hd] at h
  rcases Bool.or_eq_true_iff.1 hd with hs | ho
  · simp only [readDes, desOf_of_isState hs]
  · have ho : f.d.toNat / 256 = 3 := by
      have := (Bool.and_eq_true_iff.1 ho).1
      simpa [isOut] using this
    simp only [readDes, desOf, ho]
    rfl

/-- A destination written after the local store of its unit changed is written as before. -/
theorem put_store (h : badReg e f = none) (g : Nat → Lane) (srcs : List Reg) :
    put t { e with store := st } f g srcs = writeDes { e with store := st } f.d
      { pay := mergeLanes (laneActive e f) g (readDes s e f.d).pay, pz := destPz e f srcs (readDes s e f.d) (allActive e f),
        tn := destTn e f srcs (readDes s e f.d) (allActive e f) } := by
  rw [put, readDes_of_badReg h s t st]
  rfl

/-- A store put back changes no more of its unit than the store. -/
theorem putStore_elem (s : State) (e : Elem) (r : Reach) (st : Store) :
    (putStore s e r st).2 = { e with store := (putStore s e r st).2.store } := by
  cases r <;> rfl

/-- The scratchpad of R151 is reached from an SE or a VE alone, and both have the instructions that reach it. -/
theorem classes_of_reachOf (h : reachOf s e f = some r) : (classesOf 0x72).contains e.cls = true
    ∧ (classesOf 0x74).contains e.cls = true ∧ (classesOf 0x73).contains e.cls = true ∧ (classesOf 0x75).contains e.cls = true := by
  unfold reachOf at h
  split at h
  · next hc => rw [hc]; decide
  · next hc => rw [hc]; decide
  · cases h

/-- An illegal operand beside the sources, in the order of R44. -/
theorem checkRaw_bad {u : Uses} {ok : Bool} {bad : Option (BitVec 10)} {d : BitVec 10} (hl : Legal e f u none) (hok : ok = true)
    (hb : bad = some d) : checkRaw e f u ok bad = .error (.trap (.operand d.toNat)) := by
  obtain ⟨hw, hs, -, -⟩ := hl
  simp [checkRaw, hw, hs, hb, hok]

theorem needReach_some (h : reachOf s e f = some r) : needReach s e f = .ok r := by rw [needReach, h]

theorem badReach_some (h : reachOf s e f = some r) (bad : Option (BitVec 10)) : badReach s e f bad = bad := by rw [badReach, h]

theorem badReach_none (h : reachOf s e f = none) (bad : Option (BitVec 10)) : badReach s e f bad = some f.a := by rw [badReach, h]

-- Loads (R147, R148) ----------------------------------------------------------------------------------------------------------

/-- What O13 says of one load: `size` bytes at the address `at'` of each active lane of the store that `r` names, made a lane by
`ext`. -/
def Loads (i : Instr) (s : State) (e : Elem) (f : Fields) (r : Reach) (at' : Nat → Nat) (size : Nat) (ext : Nat → Lane) : Prop :=
  let a := srcA s e f
  let own := reachElem s e r
  let st := own.store
  let grans := (activeLanes e f).map (fun n => granule (at' n))
  let after := putStore (badEvents s own st grans) e r (st.marked grans)
  let read : Reg := { pay := 0, pz := (st.bits grans).1, tn := (st.bits grans).2 }
  (a.pz = false → ∃ v : Reg, Completes i s e after.1 (writeDes after.2 f.d v)
      ∧ (∀ n < 16, v.pay.lane n = if laneActive e f n then ext (st.num (at' n) size) else (readDes s e f.d).pay.lane n)
      ∧ v.pz = destPz e f [a, read] (readDes s e f.d) (allActive e f)
      ∧ v.tn = destTn e f [a, read] (readDes s e f.d) (allActive e f))
  ∧ (a.pz = true → ∃ v : Reg, Completes i s e s.spend (writeDes e f.d v)
      ∧ v.pz = true ∧ v.tn = destTn e f [a] (readDes s e f.d) (allActive e f)
      ∧ ∀ n < 16, laneActive e f n = false → v.pay.lane n = (readDes s e f.d).pay.lane n)

/-- An instruction whose work is a load of its active lanes leaves what O13 says. -/
theorem loads_of_body {at' : Nat → Nat} {size : Nat} {ext : Nat → Lane} (hx : exec i s = issue op body f s) (hr : Runs s e)
    (hc : (classesOf op).contains e.cls = true) (hbad : badReg e f = none)
    (hb : body s f e = loadLanes s e f r (srcA s e f) at' size ext (activeLanes e f)) : Loads i s e f r at' size ext := by
  refine ⟨fun ha => ?_, fun ha => ?_⟩
  · rw [loadLanes, ha, if_neg Bool.false_ne_true] at hb
    dsimp only at hb
    rw [putStore_elem, put_store (s := s) hbad, ← putStore_elem] at hb
    exact ⟨_, hx.trans (issue_done (by simp) hr hc hb), fun n hn => lane_mergeLanes _ _ _ n hn, rfl, rfl⟩
  · rw [loadLanes, if_pos ha] at hb
    refine ⟨_, hx.trans (issue_done (by simp) hr hc hb), ?_, rfl, fun n hn hi => ?_⟩
    · simp [destPz, ha]
    · simp [lane_mergeLanes _ _ _ n hn, hi]

section
variable (hl : Legal e f usesA none) (hln : f.ln ≠ 3) (hbad : badReg e f = none)
include hl hln hbad

theorem bodyRld_eq (hv : f.var.toNat ≤ 1) : bodyRld s f e = loadLanes s e f .own (srcA s e f)
    (if f.var = 0 then rowAddr (srcA s e f) f else localAddr (srcA s e f) f 4) 4 (fun x => BitVec.ofNat 32 x) (activeLanes e f) := by
  rw [bodyRld, checkRaw_ok (hbad ▸ hl) (by simpa [hv] using hln)]
  rfl

theorem bodySld_eq (hv : f.var.toNat ≤ 4) (hre : reachOf s e f = some r) : bodySld s f e = loadLanes s e f r (srcA s e f)
    (localAddr (srcA s e f) f (sldSize f.var.toNat)) (sldSize f.var.toNat) (sldExt f.var.toNat) (activeLanes e f) := by
  rw [bodySld, badReach_some hre, checkRaw_ok (hbad ▸ hl) (by simpa [hv] using hln), needReach_some hre]
  rfl

theorem bodySldv_eq (hv : f.var = 0) (hre : reachOf s e f = some r) : bodySldv s f e = loadLanes s e f r (srcA s e f)
    (rowAddr (srcA s e f) f) 4 (fun x => BitVec.ofNat 32 x) (activeLanes e f) := by
  rw [bodySldv, badReach_some hre, checkRaw_ok (hbad ▸ hl) (by simpa [hv] using hln), needReach_some hre]
  rfl

end

/-- Settles O13: a load's work is `loadLanes` at its lanes' addresses. -/
theorem localLoads : Obligations.LocalLoads := by
  unfold Obligations.LocalLoads
  intro s e f hr hln hbad hl
  have sld {r : Reach} (v : Nat) (hv : f.var.toNat = v) (h4 : v ≤ 4) (hre : reachOf s e f = some r) :
      Loads (.sld f) s e f r (localAddr (srcA s e f) f (sldSize v)) (sldSize v) (sldExt v) := by
    subst hv
    exact loads_of_body rfl hr (classes_of_reachOf hre).1 hbad (bodySld_eq hl hln hbad h4 hre)
  refine ⟨fun hc hv => ?_, fun hc hv => ?_,
    fun r hre => ⟨fun hv => ⟨?_, ?_⟩, fun hv => ?_, fun hv => ?_, fun hv => ?_, fun hv => ?_⟩,
    fun hc hre => ⟨fun hv => ?_, fun hv => ?_⟩⟩
  · refine loads_of_body rfl hr (by rw [hc]; decide) hbad ((bodyRld_eq hl hln hbad (by simp [hv])).trans ?_)
    rw [if_pos hv]
    rfl
  · refine loads_of_body rfl hr (by rw [hc]; decide) hbad ((bodyRld_eq hl hln hbad (by simp [hv])).trans ?_)
    rw [if_neg (by simp [hv])]
    rfl
  · exact sld 0 (by rw [hv]; rfl) (by decide) hre
  · exact loads_of_body rfl hr (classes_of_reachOf hre).2.1 hbad (bodySldv_eq hl hln hbad hv hre)
  · exact sld 1 (by rw [hv]; rfl) (by decide) hre
  · exact sld 2 (by rw [hv]; rfl) (by decide) hre
  · exact sld 3 (by rw [hv]; rfl) (by decide) hre
  · exact sld 4 (by rw [hv]; rfl) (by decide) hre
  · refine issue_trap hr (by rw [hc]; decide) ?_
    rw [bodySld, badReach_none hre, checkRaw_bad hl (by simpa [hv] using hln) rfl]
    rfl
  · refine issue_trap hr (by rw [hc]; decide) ?_
    rw [bodySldv, badReach_none hre, checkRaw_bad hl (by simpa [hv] using hln) rfl]
    rfl

end
end Sys2Proof.Machine
end

section
/-! PROOFS. O14: stores to a local store, their bytes and the bits of their granules (R83, R147 to R149, R151, R152; log 5). -/
namespace Sys2Proof.Machine
open Sys2Proof.Claim

section
variable {i : Instr} {op : BitVec 8} {body : Body} {s : State} {e : Elem} {f : Fields} {r : Reach}

-- Where lanes write (R149, R152) ----------------------------------------------------------------------------------------------

/-- Byte `x` of a store is one of those that lane `n` writes. -/
def hits (at' : Nat → Nat) (size n x : Nat) : Bool := decide (at' n % storeSize ≤ x ∧ x < at' n % storeSize + size)

/-- The bytes that a lane writes stand in one granule. -/
def Aligned (at' : Nat → Nat) (size : Nat) : Prop := 0 < size ∧ ∀ n < 16, at' n % storeSize % 64 + size ≤ 64

theorem sstSize_cases (v : Nat) : sstSize v = 4 ∨ sstSize v = 2 ∨ sstSize v = 1 := by
  unfold sstSize
  split
  · simp
  · split <;> simp

theorem localAddr_aligned (a : Reg) (f : Fields) {size : Nat} (h : size = 4 ∨ size = 2 ∨ size = 1) :
    Aligned (localAddr a f size) size := by
  refine ⟨by omega, fun n _ => ?_⟩
  rcases h with rfl | rfl | rfl <;> simp only [localAddr, storeSize] <;> omega

theorem rowAddr_aligned (a : Reg) (f : Fields) : Aligned (rowAddr a f) 4 := by
  refine ⟨by omega, fun n _ => ?_⟩
  simp only [rowAddr, localAddr, storeSize]
  omega

section
variable {at' : Nat → Nat} {size n x : Nat} (hal : Aligned at' size)
include hal

/-- A lane writes in its own granule alone. -/
theorem granule_of_hits (hn : n < 16) (h : hits at' size n x = true) : granule (at' n) = x / 64 := by
  have h := of_decide_eq_true h
  have := hal.2 n hn
  unfold granule
  omega

/-- A lane writes at least one byte of its granule. -/
theorem hits_self : hits at' size n (at' n % storeSize) = true := by
  have := hal.1
  simp [hits, this]

end

/-- Whether some lane's address stands in a granule. -/
def touches (at' : Nat → Nat) (lanes : List Nat) (g : Nat) : Bool := lanes.any (fun n => decide (granule (at' n) = g))

/-- The granules of lanes to which one is added. -/
theorem touches_concat (at' : Nat → Nat) (lanes : List Nat) (n g : Nat) :
    touches at' (lanes ++ [n]) g = (touches at' lanes g || decide (granule (at' n) = g)) := by
  simp [touches]

/-- The granules that lanes touch are those they write a byte of. -/
theorem touches_iff {at' : Nat → Nat} {size : Nat} (hal : Aligned at' size) {lanes : List Nat} (hl : ∀ n ∈ lanes, n < 16)
    (g : Nat) : touches at' lanes g = true ↔ ∃ x n, x / 64 = g ∧ n ∈ lanes ∧ hits at' size n x = true := by
  simp only [touches, List.any_eq_true, decide_eq_true_eq]
  constructor
  · rintro ⟨n, hn, rfl⟩
    exact ⟨_, n, rfl, hn, hits_self hal⟩
  · rintro ⟨x, n, rfl, hn, h⟩
    exact ⟨n, hn, granule_of_hits hal (hl n hn) h⟩

/-- A granule is covered where every byte of it is written. -/
theorem coversGranule_iff (at' : Nat → Nat) (size : Nat) (lanes : List Nat) (g : Nat) :
    coversGranule at' size lanes g = true ↔ ∀ x, x / 64 = g → ∃ n ∈ lanes, hits at' size n x = true := by
  simp only [coversGranule, List.all_eq_true, List.mem_range, List.any_eq_true]
  constructor
  · rintro h x rfl
    have := h (x % 64) (Nat.mod_lt _ (by decide))
    rwa [Nat.div_add_mod] at this
  · intro h b hb
    exact h (64 * g + b) (by omega)

-- The lanes of a store, one after another (R83, R147) -------------------------------------------------------------------------

/-- Bits put into a granule that writes part of it. -/
theorem contains_orBits (l : List Nat) (g x : Nat) (v : Bool) :
    (if v then granSet l g true else l).contains x = (l.contains x || (v && decide (g = x))) := by
  cases v
  · simp
  · rw [Bool.eq_iff_iff]
    by_cases h : x = g
    · simp [mem_granSet, h]
    · simp [mem_granSet, h, Ne.symm h]

/-- The bits of a granule that is written whole. -/
theorem contains_granSet (l : List Nat) (g x : Nat) (v : Bool) : (granSet l g v).contains x = if x = g then v else l.contains x := by
  rw [Bool.eq_iff_iff]
  by_cases h : x = g <;> simp [mem_granSet, h]

section
variable (e : Elem) (at' : Nat → Nat) (size : Nat) (a b : Reg) (lanes : List Nat) (st : Store)

theorem storeLanes_concat (n : Nat) : storeLanes e at' size a b (lanes ++ [n]) st =
    storePart (storeLanes e at' size a b lanes st) (at' n) size (b.pay.lane n).toNat (a.pz || b.pz || e.flowP)
      (a.tn || b.tn || e.flowT) :=
  List.foldl_concat ..

theorem memWf_storeLanes (h : memWf st.bytes = true) : memWf (storeLanes e at' size a b lanes st).bytes = true := by
  induction lanes using List.reverseRecOn with
  | nil => exact h
  | append_singleton l n ih => rw [storeLanes_concat]; exact memWf_memWrite _ _ ih

/-- The highest lane that writes a byte decides it (R83). -/
theorem memGet_storeLanes (h : memWf st.bytes = true) (x : Nat) : memGet (storeLanes e at' size a b lanes st).bytes x =
    match lanes.reverse.find? (fun n => hits at' size n x) with
    | some n => BitVec.ofNat 8 ((b.pay.lane n).toNat / 2 ^ (8 * (x - at' n % storeSize)))
    | none => memGet st.bytes x := by
  induction lanes using List.reverseRecOn with
  | nil => rfl
  | append_singleton l n ih =>
    have hwf := memWf_storeLanes e at' size a b l st h
    rw [storeLanes_concat, List.reverse_concat, List.find?_cons]
    simp only [storePart, Store.orBits, Store.write]
    by_cases hx : hits at' size n x = true
    · obtain ⟨hlo, hhi⟩ := of_decide_eq_true hx
      have := memGet_memWrite (littleBytes size (b.pay.lane n).toNat) (at' n % storeSize) (x - at' n % storeSize)
        (by rw [littleBytes_length]; omega) hwf
      rw [Nat.add_sub_cancel' hlo, littleBytes_get _ _ _ (by omega)] at this
      rw [this, hx]
    · have hout : x < at' n % storeSize ∨ at' n % storeSize + size ≤ x := by
        have := of_decide_eq_false (Bool.eq_false_iff.2 hx)
        omega
      rw [memGet_memWrite_outside _ _ _ hwf (by rw [littleBytes_length]; exact hout), ih, Bool.eq_false_iff.2 hx]

theorem pz_storeLanes (g : Nat) : (storeLanes e at' size a b lanes st).pz.contains g =
    (st.pz.contains g || ((a.pz || b.pz || e.flowP) && touches at' lanes g)) := by
  induction lanes using List.reverseRecOn with
  | nil => simp [storeLanes, touches]
  | append_singleton l n ih =>
    rw [storeLanes_concat]
    simp only [storePart, Store.orBits, contains_orBits, Store.write, ih, touches_concat, Bool.and_or_distrib_left, Bool.or_assoc]

theorem tn_storeLanes (g : Nat) : (storeLanes e at' size a b lanes st).tn.contains g =
    (st.tn.contains g || ((a.tn || b.tn || e.flowT) && touches at' lanes g)) := by
  induction lanes using List.reverseRecOn with
  | nil => simp [storeLanes, touches]
  | append_singleton l n ih =>
    rw [storeLanes_concat]
    simp only [storePart, Store.orBits, contains_orBits, Store.write, ih, touches_concat, Bool.and_or_distrib_left, Bool.or_assoc]

end

-- The granules that a store writes whole (R147; log 5) -------------------------------------------------------------------------

/-- What the granules of `l` that `p` picks receive, and what every other keeps: `x` stands after them, `y` before. -/
def SetWhole (p : Nat → Bool) (pz tn : Bool) (l : List Nat) (y x : State × Store) : Prop :=
  (∃ k, x.1 = { y.1 with freeCtr := y.1.freeCtr + k }) ∧ x.2.bytes = y.2.bytes
  ∧ ∀ g, x.2.pz.contains g = (if g ∈ l ∧ p g = true then pz else y.2.pz.contains g)
      ∧ x.2.tn.contains g = (if g ∈ l ∧ p g = true then tn else y.2.tn.contains g)

theorem setWhole_wholeBits (y : State × Store) (g : Nat) (pz tn : Bool) :
    SetWhole (fun _ => true) pz tn [g] y (wholeBits y.1 y.2 g pz tn) := by
  unfold wholeBits
  split
  · exact ⟨⟨1, rfl⟩, rfl, fun x => by simp only [Store.setBits, contains_granSet, List.mem_singleton, and_true, and_self]⟩
  · exact ⟨⟨0, rfl⟩, rfl, fun x => by simp only [Store.setBits, contains_granSet, List.mem_singleton, and_true, and_self]⟩

theorem setWhole_fold (p : Nat → Bool) (pz tn : Bool) (l : List Nat) (y : State × Store) :
    SetWhole p pz tn l y (l.foldl (fun x g => if p g then wholeBits x.1 x.2 g pz tn else x) y) := by
  induction l using List.reverseRecOn with
  | nil => exact ⟨⟨0, rfl⟩, rfl, fun g => by simp⟩
  | append_singleton l g ih =>
    rw [List.foldl_concat]
    obtain ⟨⟨k, hk⟩, hb, hg⟩ := ih
    split
    · next hp =>
      obtain ⟨⟨j, hj⟩, hb', hg'⟩ :=
        setWhole_wholeBits (l.foldl (fun x g => if p g then wholeBits x.1 x.2 g pz tn else x) y) g pz tn
      refine ⟨⟨k + j, ?_⟩, hb'.trans hb, fun x => ?_⟩
      · rw [hj, hk]
        simp [Nat.add_assoc]
      · rw [(hg' x).1, (hg' x).2, (hg x).1, (hg x).2]
        by_cases hx : x = g <;> simp [hx, hp]
    · next hp =>
      refine ⟨⟨k, hk⟩, hb, fun x => ?_⟩
      rw [(hg x).1, (hg x).2]
      by_cases hx : x = g <;> simp [hx, hp]

/-- The work of a store whose address is sound (R147, R148). -/
theorem storeAccess_ok (a b : Reg) (at' : Nat → Nat) (size : Nat)
    (h : activeLanes e f = [] ∨ (a.pz = false ∧ e.flowP = false)) :
    storeAccess s e f r a b at' size =
      (let x := coverBits s at' size (activeLanes e f) b.pz (a.tn || b.tn || e.flowT)
        (storeLanes e at' size a b (activeLanes e f) (reachElem s e r).store)
       done (putStore x.1 e r x.2).1 (putStore x.1 e r x.2).2) := by
  have hs : (activeLanes e f == [] || (!a.pz && !e.flowP)) = true := by
    rcases h with h | ⟨ha, hf⟩
    · simp [h]
    · simp [ha, hf]
  rw [storeAccess]
  dsimp only
  rw [needSound, hs]
  rfl

/-- A store through a poisoned address, or under FP, is a trap (R148). -/
theorem storeAccess_poisoned (a b : Reg) (at' : Nat → Nat) (size : Nat) (h : activeLanes e f ≠ [])
    (hp : a.pz = true ∨ e.flowP = true) :
    ∃ x, storeAccess s e f r a b at' size = .error (.trap (.poison 0 f.d.toNat x)) := by
  have hs : (activeLanes e f == [] || (!a.pz && !e.flowP)) = false := by
    rcases hp with hp | hp <;> simp [h, hp]
  refine ⟨if a.pz then 0 else at' ((activeLanes e f).headD 0) % storeSize, ?_⟩
  rw [storeAccess]
  dsimp only
  rw [needSound, hs]
  rfl

/-- What O14 says of one store: `size` bytes at the address `at'` of each active lane of the store that `r` names. -/
def Stores (i : Instr) (s : State) (e : Elem) (f : Fields) (r : Reach) (at' : Nat → Nat) (size : Nat) : Prop :=
  let a := srcA s e f
  let b := srcB s e f
  let lanes := activeLanes e f
  let own := (reachElem s e r).store
  let by' := fun n x => at' n % storeSize ≤ x ∧ x < at' n % storeSize + size
  let tn := a.tn || b.tn || e.flowT
  memWf own.bytes = true → ∃ (k : Nat) (st : Store), Completes i s e (putStore { s with freeCtr := s.freeCtr + k } e r st).1
      (putStore { s with freeCtr := s.freeCtr + k } e r st).2
    ∧ (∀ x < storeSize, memGet st.bytes x =
        (match lanes.reverse.find? (fun n => decide (by' n x)) with
         | some n => BitVec.ofNat 8 ((b.pay.lane n).toNat / 2 ^ (8 * (x - at' n % storeSize)))
         | none => memGet own.bytes x))
    ∧ (own.pz.Pairwise (· < ·) → own.tn.Pairwise (· < ·) → ∀ g,
        ((∀ x, x / 64 = g → ∃ n ∈ lanes, by' n x) → st.pz.contains g = b.pz ∧ st.tn.contains g = tn)
        ∧ ((∃ x, x / 64 = g ∧ ∀ n ∈ lanes, ¬ by' n x) → (∃ x n, x / 64 = g ∧ n ∈ lanes ∧ by' n x) →
            st.pz.contains g = (own.pz.contains g || b.pz) ∧ st.tn.contains g = (own.tn.contains g || tn))
        ∧ ((∀ x n, x / 64 = g → n ∈ lanes → ¬ by' n x) →
            st.pz.contains g = own.pz.contains g ∧ st.tn.contains g = own.tn.contains g))

/-- What the lanes of a sound store leave: the bytes of `storeLanes`, and the bits of the granules they touch. -/
theorem coverBits_storeLanes (s : State) {at' : Nat → Nat} {size : Nat} (a b : Reg) (lanes : List Nat) (own : Store)
    (hok : lanes = [] ∨ (a.pz = false ∧ e.flowP = false)) :
    ∃ k st, coverBits s at' size lanes b.pz (a.tn || b.tn || e.flowT) (storeLanes e at' size a b lanes own)
        = ({ s with freeCtr := s.freeCtr + k }, st)
      ∧ st.bytes = (storeLanes e at' size a b lanes own).bytes
      ∧ ∀ g, (st.pz.contains g = if touches at' lanes g = true ∧ coversGranule at' size lanes g = true then b.pz
            else own.pz.contains g || (b.pz && touches at' lanes g))
          ∧ (st.tn.contains g = if touches at' lanes g = true ∧ coversGranule at' size lanes g = true then a.tn || b.tn || e.flowT
            else own.tn.contains g || ((a.tn || b.tn || e.flowT) && touches at' lanes g)) := by
  obtain ⟨⟨k, hk⟩, hb, hg⟩ := setWhole_fold (coversGranule at' size lanes) b.pz (a.tn || b.tn || e.flowT)
    ((lanes.map (fun n => granule (at' n))).eraseDups) (s, storeLanes e at' size a b lanes own)
  have hmem (g : Nat) : g ∈ (lanes.map (fun n => granule (at' n))).eraseDups ↔ touches at' lanes g = true := by simp [touches]
  have hpz (g : Nat) : ((a.pz || b.pz || e.flowP) && touches at' lanes g) = (b.pz && touches at' lanes g) := by
    rcases hok with rfl | ⟨ha, hf⟩
    · simp [touches]
    · simp [ha, hf]
  refine ⟨k, _, Prod.ext hk rfl, hb, fun g => ?_⟩
  obtain ⟨hp, ht⟩ := hg g
  simp only [hmem] at hp ht
  refine ⟨hp.trans ?_, ht.trans ?_⟩
  · rw [pz_storeLanes, hpz]
  · rw [tn_storeLanes]

/-- An instruction whose work is a sound store of its active lanes leaves what O14 says. -/
theorem stores_of_body {f0 : Fields} {at' : Nat → Nat} {size : Nat} (hx : exec i s = issue op body f0 s) (hr : Runs s e)
    (hc : (classesOf op).contains e.cls = true) (hal : Aligned at' size)
    (hok : activeLanes e f = [] ∨ ((srcA s e f).pz = false ∧ e.flowP = false))
    (hb : body s f0 e = storeAccess s e f r (srcA s e f) (srcB s e f) at' size) : Stores i s e f r at' size := by
  unfold Stores
  extract_lets a b lanes own by' tn
  intro hwf
  have hlanes : ∀ n ∈ lanes, n < 16 := fun n hn => List.mem_range.1 (List.mem_of_mem_filter hn)
  obtain ⟨k, st, hst, hbytes, hbits⟩ := coverBits_storeLanes s (at' := at') (size := size) a b lanes own hok
  rw [storeAccess_ok _ _ _ _ hok] at hb
  dsimp only at hb
  rw [hst] at hb
  have hby (n x : Nat) : hits at' size n x = true ↔ by' n x := decide_eq_true_iff
  have htouch (g : Nat) : touches at' lanes g = true ↔ ∃ x n, x / 64 = g ∧ n ∈ lanes ∧ by' n x := by
    simpa only [hby] using touches_iff hal hlanes g
  have hcover (g : Nat) : coversGranule at' size lanes g = true ↔ ∀ x, x / 64 = g → ∃ n ∈ lanes, by' n x := by
    simpa only [hby] using coversGranule_iff at' size lanes g
  refine ⟨k, st, hx.trans (issue_done (by simp) hr hc hb), fun x _ => ?_,
    fun _ _ g => ⟨fun hall => ?_, fun hnot hsome => ?_, fun hnone => ?_⟩⟩
  · rw [hbytes]
    exact memGet_storeLanes e at' size a b lanes own hwf x
  · have ht : touches at' lanes g = true := by
      obtain ⟨n, hn, h⟩ := hall (64 * g) (by omega)
      exact (htouch g).2 ⟨_, n, by omega, hn, h⟩
    rw [(hbits g).1, (hbits g).2, if_pos ⟨ht, (hcover g).2 hall⟩, if_pos ⟨ht, (hcover g).2 hall⟩]
    exact ⟨rfl, rfl⟩
  · have hnc : ¬ coversGranule at' size lanes g = true := by
      obtain ⟨x, hxg, hno⟩ := hnot
      intro h
      obtain ⟨n, hn, hh⟩ := (hcover g).1 h x hxg
      exact hno n hn hh
    rw [(hbits g).1, (hbits g).2, if_neg (fun h => hnc h.2), if_neg (fun h => hnc h.2), (htouch g).2 hsome,
      Bool.and_true, Bool.and_true]
    exact ⟨rfl, rfl⟩
  · have hnt : touches at' lanes g = false := by
      refine Bool.eq_false_iff.2 (fun h => ?_)
      obtain ⟨x, n, hxg, hn, hh⟩ := (htouch g).1 h
      exact hnone x n hxg hn hh
    simp only [(hbits g).1, (hbits g).2, hnt, Bool.and_false, Bool.or_false, Bool.false_eq_true, false_and, if_false, and_self]

theorem bodyRst_eq {f0 : Fields} (hl : Legal e { f0 with ln := 0 } usesStore none) (hv : f0.var.toNat ≤ 1) :
    bodyRst s f0 e = (let f := { f0 with ln := 0 }
      storeAccess s e f .own (srcA s e f) (srcB s e f)
        (if f.var = 0 then rowAddr (srcA s e f) f else localAddr (srcA s e f) f 4) 4) := by
  rw [bodyRst]
  dsimp only
  rw [checkRaw_ok hl (by simpa using hv)]
  rfl

theorem bodySst_eq {f0 : Fields} (hl : Legal e { f0 with ln := 0 } usesStore none) (hv : f0.var.toNat ≤ 2)
    (hre : reachOf s e { f0 with ln := 0 } = some r) :
    bodySst s f0 e = (let f := { f0 with ln := 0 }
      storeAccess s e f r (srcA s e f) (srcB s e f) (localAddr (srcA s e f) f (sstSize f.var.toNat)) (sstSize f.var.toNat)) := by
  rw [bodySst]
  dsimp only
  rw [badReach_some hre, checkRaw_ok hl (by simpa using hv), needReach_some hre]
  rfl

theorem bodySstv_eq {f0 : Fields} (hl : Legal e { f0 with ln := 0 } usesStore none) (hv : f0.var = 0)
    (hre : reachOf s e { f0 with ln := 0 } = some r) :
    bodySstv s f0 e = (let f := { f0 with ln := 0 }
      storeAccess s e f r (srcA s e f) (srcB s e f) (rowAddr (srcA s e f) f) 4) := by
  rw [bodySstv]
  dsimp only
  rw [badReach_some hre, checkRaw_ok hl (by simpa using hv), needReach_some hre]
  rfl

theorem localStores_stores : Claim.LocalStores := by
  unfold Claim.LocalStores
  intro s e f0 hr
  extract_lets f a b lanes addr row stores
  intro hl hok
  have sst {r : Reach} (v : Nat) (hv : f.var.toNat = v) (h2 : v ≤ 2) (hre : reachOf s e f = some r)  :
      Stores (.sst f0) s e f r (localAddr (srcA s e f) f (sstSize v)) (sstSize v) := by
    subst hv
    exact stores_of_body rfl hr (classes_of_reachOf hre).2.2.1
      (localAddr_aligned _ _ (sstSize_cases _)) hok (bodySst_eq hl h2 hre)
  refine ⟨fun hc hv => ?_, fun hc hv => ?_, fun r hre => ⟨fun hv => ⟨?_, ?_⟩, fun hv => ?_, fun hv => ?_⟩⟩
  · refine stores_of_body rfl hr (by rw [hc]; decide) (rowAddr_aligned _ _) hok
      ((bodyRst_eq hl (by simp [show f0.var = 0 from hv])).trans ?_)
    dsimp only
    rw [if_pos hv]
    rfl
  · refine stores_of_body rfl hr (by rw [hc]; decide) (localAddr_aligned _ _ (.inl rfl)) hok
      ((bodyRst_eq hl (by simp [show f0.var = 1 from hv])).trans ?_)
    dsimp only
    rw [if_neg (by simp [show f0.var = 1 from hv])]
    rfl
  · exact sst 0 (by rw [hv]; rfl) (by decide) hre
  · exact stores_of_body rfl hr (classes_of_reachOf hre).2.2.2 (rowAddr_aligned _ _) hok
      (bodySstv_eq hl hv hre)
  · exact sst 1 (by rw [hv]; rfl) (by decide) hre
  · exact sst 2 (by rw [hv]; rfl) (by decide) hre

/-- A store whose work is a poisoned access of some active lane traps (R148). -/
theorem traps_of_storeAccess {f0 : Fields} {at' : Nat → Nat} {size : Nat} (hx : exec i s = issue op body f0 s) (hr : Runs s e)
    (hc : (classesOf op).contains e.cls = true) (hp : (srcA s e f).pz = true ∨ e.flowP = true)
    (hany : (List.range 16).any (laneActive e f) = true)
    (hb : body s f0 e = storeAccess s e f r (srcA s e f) (srcB s e f) at' size) :
    ∃ x, Traps i s e (.poison 0 f.d.toNat x) (wordOf op f0) := by
  have hne : activeLanes e f ≠ [] := by
    obtain ⟨n, hn, h⟩ := List.any_eq_true.1 hany
    exact List.ne_nil_of_mem (List.mem_filter.2 ⟨hn, h⟩)
  obtain ⟨x, hx'⟩ := storeAccess_poisoned (s := s) (e := e) (f := f) (r := r) (srcA s e f) (srcB s e f) at' size hne hp
  exact ⟨x, hx.trans (issue_trap hr hc (hb.trans hx'))⟩

theorem localStores_traps : Claim.PoisonedLocalStore := by
  unfold Claim.PoisonedLocalStore
  intro s e f0 hr
  extract_lets f a
  intro hl
  refine ⟨fun hp hany => ⟨fun hc hv => ?_, fun hre hv => ?_, fun hre hv => ?_⟩, fun hc hre => ⟨fun hv => ?_, fun hv => ?_⟩⟩
  · exact traps_of_storeAccess rfl hr (by rw [hc]; decide) hp hany (bodyRst_eq hl hv)
  · obtain ⟨r, hre⟩ := Option.isSome_iff_exists.1 hre
    exact traps_of_storeAccess rfl hr (classes_of_reachOf hre).2.2.1 hp hany (bodySst_eq hl hv hre)
  · obtain ⟨r, hre⟩ := Option.isSome_iff_exists.1 hre
    exact traps_of_storeAccess rfl hr (classes_of_reachOf hre).2.2.2 hp hany (bodySstv_eq hl hv hre)
  · refine issue_trap hr (by rw [hc]; decide) ?_
    rw [bodySst]
    dsimp only
    rw [badReach_none hre, checkRaw_bad hl (by simpa using hv) rfl]
    rfl
  · refine issue_trap hr (by rw [hc]; decide) ?_
    rw [bodySstv]
    dsimp only
    rw [badReach_none hre, checkRaw_bad hl (by simpa using hv) rfl]
    rfl

/-- Settles O14: a sound store's work is `storeAccess`, whose bytes and bits are those of its lanes one after another; a poisoned one
is stopped before it. -/
theorem localStores : Obligations.LocalStores := ⟨localStores_stores, localStores_traps⟩

end
end Sys2Proof.Machine
end

section
/-! PROOFS. The tile of a matrix step and the sum of a lane (R139, R42). -/
namespace Sys2Proof.Machine
open Sys2Proof.Claim

section
variable {i : Instr} {op : BitVec 8} {body : Body} {s : State} {e : Elem} {f : Fields} {base : Nat} {extra : List Reg}

-- The tile of a matrix step (R139) ---------------------------------------------------------------------------------------------

/-- Element `el` of a tile that stands at a multiple of its size: its bytes do not wrap. -/
theorem tileElem_eq (st : Store) {v el : Nat} (hv : v ≤ 4) (hb : base % (tileFmt v).2 = 0) (hlt : base < 2 ^ 17) (hel : el < 128) :
    tileElem st base (tileFmt v).1 el = memNat st.bytes (base + (tileFmt v).1.bits * el / 8) (max 1 ((tileFmt v).1.bits / 8))
      / 2 ^ ((tileFmt v).1.bits * el % 8) % 2 ^ (tileFmt v).1.bits := by
  have hin : base + (tileFmt v).1.bits * el / 8 < storeSize := by
    unfold storeSize
    interval_cases v <;> simp only [tileFmt, Fmt.bits] at hb ⊢ <;> omega
  rw [tileElem, Store.num, Nat.mod_eq_of_lt hin]

/-- The code of W(k, n), as R139 states its place. -/
def tileCode (st : Store) (v base k n : Nat) : Nat :=
  let fm := (tileFmt v).1
  let bit := fm.bits * (8 * k + n)
  memNat st.bytes (base + bit / 8) (max 1 (fm.bits / 8)) / 2 ^ (bit % 8) % 2 ^ fm.bits

/-- W(k, n) as a BF16 code, with the flags of its scaling (R139). -/
def codeWeight (e : Elem) (f : Fields) (base k n : Nat) : Nat × Flags :=
  let v := f.var.toNat
  if v = 0 then (tileCode e.store v base k n, 0)
  else dequant (tileFmt v).1 (tileCode e.store v base k n) unitScale (scaleNum e (wxs f))

/-- A(r, k) × W(k, n) for lane `l` = 8r + n (R139). -/
def tileTerm (e : Elem) (f : Fields) (base : Nat) (a : Payload) (l k : Nat) : Num × Flags :=
  let w := codeWeight e f base k (l % 8)
  let p := (Fmt.decode .bf16 (elemAt .bf16 a (16 * (l / 8) + k))).mul (Fmt.decode .bf16 w.1)
  (p.1, w.2 ||| p.2)

/-- The sum that a matrix step leaves in lane `l` on the partial sums `p` (R139, R42). -/
def tileSum (e : Elem) (f : Fields) (base : Nat) (a : Payload) (p : Reg) (l : Nat) : Nat × Flags :=
  sumTerms (Fmt.decode .fp32 (p.pay.lane l).toNat)
    ((List.range 16).map (fun k => if laneActive e f (8 * (l / 8) + k / 2) then tileTerm e f base a l k else (.zero false, 0)))

section
variable (hv : f.var.toNat ≤ 4) (hb : base % (tileFmt f.var.toNat).2 = 0) (hlt : base < 2 ^ 17)
include hv hb hlt

theorem tileWeight_eq {k n : Nat} (hk : k < 16) (hn : n < 8) : tileWeight e f.var.toNat base (wxs f) (8 * k + n)
    = (Fmt.decode .bf16 (codeWeight e f base k n).1, (codeWeight e f base k n).2) := by
  have hc : tileElem e.store base (tileFmt f.var.toNat).1 (8 * k + n) = tileCode e.store f.var.toNat base k n :=
    tileElem_eq e.store hv hb hlt (by omega)
  unfold tileWeight codeWeight
  dsimp only
  rw [hc]
  split <;> rfl

/-- A lane of a matrix step is the sum of R139. -/
theorem mmaLane_eq (a : Payload) (p : Reg) (l : Nat) :
    mmaLane e f base a (p.pay.lane l) l = (BitVec.ofNat 32 (tileSum e f base a p l).1, (tileSum e f base a p l).2) := by
  have hterms : (List.range 16).map (fun k => if laneActive e f ((16 * (l / 8) + k) / 2) then
        (let w := tileWeight e f.var.toNat base (wxs f) (8 * k + l % 8)
         let q := (Fmt.decode .bf16 (elemAt .bf16 a (16 * (l / 8) + k))).mul w.1
         (q.1, w.2 ||| q.2))
        else (.zero false, 0))
      = (List.range 16).map (fun k => if laneActive e f (8 * (l / 8) + k / 2) then tileTerm e f base a l k else (.zero false, 0)) := by
    refine List.map_congr_left (fun k hk => ?_)
    rw [show (16 * (l / 8) + k) / 2 = 8 * (l / 8) + k / 2 by omega,
      tileWeight_eq hv hb hlt (List.mem_range.1 hk) (Nat.mod_lt l (by decide))]
    rfl
  rw [tileSum, ← hterms]
  rfl

end

end
end Sys2Proof.Machine
end

section
/-! PROOFS. What the work of a matrix step leaves, to a destination and to an accumulator word (R139, R141, R136). -/
namespace Sys2Proof.Machine
open Sys2Proof.Claim

section
variable {i : Instr} {op : BitVec 8} {body : Body} {s s1 : State} {e e1 : Elem} {f f0 : Fields} {base : Nat} {extra : List Reg}

/-- An instruction whose work ends in a fault: its effects take place, and the fault follows (R136). -/
theorem issue_fault {t : Trap} (hr : Runs s e) (hc : (classesOf op).contains e.cls = true)
    (hb : body s f e = .ok { elem := e1, st := s1, flow := .fault t }) :
    issue op body f s = .next (takeTrap s1 s.cur ((rejoin s1 s.cur e e1).advance e.nextPos (.fault t)) t (wordOf op f)) := by
  unfold issue
  rw [show s.unit s.cur = some e from hr]
  simp only [hc, if_true, hb, settle]

-- What a matrix step leaves (R139, R141, R136) ---------------------------------------------------------------------------------

/-- The granules of the tile, where some lane is active. -/
def stepGrans (e : Elem) (f : Fields) (base : Nat) : List Nat := if someActive e f then tileGrans base (tileFmt f.var.toNat).2 else []

/-- The sources of a matrix step beside its partial sums. -/
def stepSrcs (s : State) (e : Elem) (f : Fields) (base : Nat) (extra : List Reg) : List Reg :=
  [srcA s e f] ++ extra ++ (if f.var.toNat = 0 then [] else [scaleReg e (wxs f)])
    ++ [{ pay := 0, pz := (e.store.bits (stepGrans e f base)).1, tn := (e.store.bits (stepGrans e f base)).2 }]

/-- The unit after the defective granules of its tile were marked. -/
def stepElem (e : Elem) (f : Fields) (base : Nat) : Elem := { e with store := e.store.marked (stepGrans e f base) }

/-- The flags of a matrix step on the partial sums `p`. -/
def stepFlags (s : State) (e : Elem) (f : Fields) (base : Nat) (p : Reg) : Flags :=
  laneFlags (laneActive e f) (fun l => (tileSum e f base (srcA s e f).pay p l).2)

/-- What a matrix step leaves on the partial sums `p` where `old` stood. -/
def stepReg (s : State) (e : Elem) (f : Fields) (base : Nat) (extra : List Reg) (p old : Reg) (whole : Bool) : Reg :=
  { pay := mergeLanes (laneActive e f) (fun l => BitVec.ofNat 32 (tileSum e f base (srcA s e f).pay p l).1) old.pay,
    pz := destPz e f (p :: stepSrcs s e f base extra) old whole, tn := destTn e f (p :: stepSrcs s e f base extra) old whole }

theorem var_eq_zero_iff : f.var = 0 ↔ f.var.toNat = 0 := by rw [← BitVec.toNat_inj]; rfl

theorem stepSrcs_eq : stepSrcs s e f base extra = [srcA s e f] ++ extra ++ (if f.var = 0 then [] else [scaleReg e (wxs f)])
    ++ [{ pay := 0, pz := (e.store.bits (stepGrans e f base)).1, tn := (e.store.bits (stepGrans e f base)).2 }] := by
  simp only [stepSrcs, var_eq_zero_iff]

section
variable (hv : f.var.toNat ≤ 4) (hb : base % (tileFmt f.var.toNat).2 = 0) (hlt : base < 2 ^ 17)
include hv hb hlt

/-- A lane of a matrix step: its tile reads as before the marks. -/
theorem mmaLane_stepElem (a : Payload) (p : Reg) (l : Nat) :
    mmaLane (stepElem e f base) f base a (p.pay.lane l) l = (BitVec.ofNat 32 (tileSum e f base a p l).1, (tileSum e f base a p l).2) :=
  mmaLane_eq (e := stepElem e f base) hv hb hlt a p l

/-- A matrix step to a destination. -/
theorem matrixStep_dest (hacm : acm f = false) (hbad : badReg e f = none) : matrixStep s e f base extra =
    (let v := stepReg s e f base extra (srcC s e f) (readDes s e f.d) (allActive e f)
     doneOrPoison (badEvents s e e.store (stepGrans e f base))
       (writeDes ((stepElem e f base).raise (stepFlags s e f base (srcC s e f))) f.d v) v.pz 256 f.d) := by
  have hprev (fl : Flags) (t : State) : readDes t ((stepElem e f base).raise fl) f.d = readDes s e f.d :=
    (readDes_of_badReg (e := e.raise fl) hbad s t (e.store.marked (stepGrans e f base))).trans rfl
  have hraw : matrixStep s e f base extra = doneOrPoison (badEvents s e e.store (stepGrans e f base))
      (putFlags (badEvents s e e.store (stepGrans e f base)) (stepElem e f base) f
        (fun l => mmaLane (stepElem e f base) f base (srcA s e f).pay ((srcC s e f).pay.lane l) l)
        (srcC s e f :: stepSrcs s e f base extra))
      (destPz e f (srcC s e f :: stepSrcs s e f base extra)
        (readDes (badEvents s e e.store (stepGrans e f base)) ((stepElem e f base).raise 0) f.d) (allActive e f)) 256 f.d := by
    rw [stepSrcs_eq, raise_none]
    unfold matrixStep
    dsimp only
    rw [if_neg (by simp [hacm])]
    rfl
  rw [hraw, hprev]
  simp only [mmaLane_stepElem hv hb hlt, putFlags, put, hprev]
  rfl

/-- A matrix step on an accumulator word. -/
theorem matrixStep_acc (hacm : acm f = true) : matrixStep s e f base extra =
    (let v := stepReg s e f base extra (e.accReg (aix f)) (e.accReg (aix f)) true
     doneOrPoison (badEvents s e e.store (stepGrans e f base))
       (((stepElem e f base).raise (stepFlags s e f base (e.accReg (aix f)))).setAcc (aix f) v) v.pz (2 ^ aix f) f.d) := by
  have hl := mmaLane_stepElem (e := e) (f := f) hv hb hlt (srcA s e f).pay (e.accReg (aix f))
  unfold stepReg stepFlags
  rw [stepSrcs_eq]
  unfold matrixStep
  dsimp only
  rw [if_pos hacm]
  unfold stepElem stepGrans at hl ⊢
  simp only [Elem.accReg] at hl ⊢
  simp only [hl]
  rfl

end

end
end Sys2Proof.Machine
end

section
/-! PROOFS. How an instruction ends whose work is a matrix step, and its checks in their order (R139, R44). -/
namespace Sys2Proof.Machine
open Sys2Proof.Claim

section
variable {i : Instr} {op : BitVec 8} {body : Body} {s : State} {e : Elem} {f f0 : Fields} {base : Nat} {extra : List Reg} {u : Uses}

/-- A destination without poison has sources without poison (R22). -/
theorem pz_of_destPz {srcs : List Reg} {old r : Reg} {whole : Bool} (h : destPz e f srcs old whole = false) (hr : r ∈ srcs) :
    r.pz = false := by
  have hany : srcs.any Reg.pz = false := by
    simp only [destPz, Bool.or_eq_false_iff] at h
    tauto
  simpa using List.any_eq_false.1 hany r hr

/-- Where a matrix step leaves no poison its tile has no defective granule, so that nothing is recorded and nothing marked. -/
theorem step_clean {p old : Reg} {whole : Bool} (h : destPz e f (p :: stepSrcs s e f base extra) old whole = false) :
    badEvents s e e.store (stepGrans e f base) = s ∧ stepElem e f base = e := by
  have hbad : (stepGrans e f base).filter (fun g => e.store.bad.contains g) = [] := by
    have htile : (e.store.bits (stepGrans e f base)).1 = false := pz_of_destPz h (r :=
      { pay := 0, pz := (e.store.bits (stepGrans e f base)).1, tn := (e.store.bits (stepGrans e f base)).2 }) (by simp [stepSrcs])
    refine List.filter_eq_nil_iff.2 (fun g hg hd => List.any_eq_false.1 htile g hg ?_)
    rw [hd, Bool.or_true]
  refine ⟨?_, ?_⟩
  · rw [badEvents, hbad]
    rfl
  · rw [stepElem, Store.marked, hbad]
    rfl

/-- What O10 says of a matrix step with its tile at `base`. -/
def MatrixLeaves (i : Instr) (op : BitVec 8) (s : State) (e : Elem) (f0 f : Fields) (base : Nat) (extra : List Reg) : Prop :=
  let act := laneActive e f
  let c := srcC s e f
  let srcs := stepSrcs s e f base extra
  let sum := tileSum e f base (srcA s e f).pay
  let flags := stepFlags s e f base
  let old := e.accReg (aix f)
  let s1 := badEvents s e e.store (stepGrans e f base)
  let e0 := stepElem e f base
  (acm f = false →
    (destPz e f (c :: srcs) (readDes s e f.d) (allActive e f) = false →
      Lanes i s e f (c :: srcs) (flags c) (fun l x => x = BitVec.ofNat 32 (sum c l).1))
    ∧ (destPz e f (c :: srcs) (readDes s e f.d) (allActive e f) = true → ∃ r : Reg,
      EndsIn (.poison 256 f.d.toNat 0) (wordOf op f0) i s e s1 (writeDes (e0.raise (flags c)) f.d r) ∧ r.pz = true
      ∧ ∀ l < 16, r.pay.lane l = if act l then BitVec.ofNat 32 (sum c l).1 else (readDes s e f.d).pay.lane l))
  ∧ (acm f = true → ∃ r : Reg, r.pz = destPz e f (old :: srcs) old true ∧ r.tn = destTn e f (old :: srcs) old true
    ∧ (∀ l < 16, r.pay.lane l = if act l then BitVec.ofNat 32 (sum old l).1 else old.pay.lane l)
    ∧ (destPz e f (old :: srcs) old true = false → Completes i s e s ((e.raise (flags old)).setAcc (aix f) r))
    ∧ (destPz e f (old :: srcs) old true = true →
        EndsIn (.poison (2 ^ aix f) f.d.toNat 0) (wordOf op f0) i s e s1 ((e0.raise (flags old)).setAcc (aix f) r)))

/-- A clean result completes the instruction. -/
theorem completes_of_doneOrPoison {s1 : State} {e1 : Elem} {pz : Bool} {which : Nat} {d : BitVec 10}
    (hx : exec i s = issue op body f0 s) (hr : Runs s e) (hc : (classesOf op).contains e.cls = true)
    (hb : body s f0 e = doneOrPoison s1 e1 pz which d) (hp : pz = false) :
    Completes i s e s1 e1 :=
  hx.trans (issue_done (by simp) hr hc (hb.trans (by rw [hp]; rfl)))

/-- A poisoned result raises poison consumption after it is written (R136). -/
theorem endsIn_of_doneOrPoison {s1 : State} {e1 : Elem} {pz : Bool} {which : Nat} {d : BitVec 10}
    (hx : exec i s = issue op body f0 s) (hr : Runs s e) (hc : (classesOf op).contains e.cls = true)
    (hb : body s f0 e = doneOrPoison s1 e1 pz which d) (hp : pz = true) :
    EndsIn (.poison which d.toNat 0) (wordOf op f0) i s e s1 e1 :=
  hx.trans (issue_fault hr hc (hb.trans (by rw [hp]; rfl)))

/-- What must stand in c and d: 0x0FF beside an accumulator word, else a destination (R139). -/
def badEnds (e : Elem) (f : Fields) : Option (BitVec 10) :=
  if acm f then (if f.c != 0x0FF then some f.c else if f.d != 0x0FF then some f.d else none) else badReg e f

/-- An instruction whose work is a matrix step leaves what O10 says. -/
theorem matrixLeaves_of_body (hx : exec i s = issue op body f0 s) (hr : Runs s e) (hc : (classesOf op).contains e.cls = true)
    (hv : f.var.toNat ≤ 4) (hb : base % (tileFmt f.var.toNat).2 = 0) (hlt : base < 2 ^ 17) (hends : badEnds e f = none)
    (hbody : body s f0 e = matrixStep s e f base extra) : MatrixLeaves i op s e f0 f base extra := by
  refine ⟨fun hacm => ?_, fun hacm => ?_⟩
  · have hbad : badReg e f = none := by rwa [badEnds, hacm, if_neg Bool.false_ne_true] at hends
    have hstep := hbody.trans (matrixStep_dest hv hb hlt hacm hbad)
    refine ⟨fun hp => ?_, fun hp => ⟨_, endsIn_of_doneOrPoison hx hr hc hstep hp, hp, fun l hl => lane_mergeLanes _ _ _ l hl⟩⟩
    have hdone := completes_of_doneOrPoison hx hr hc hstep hp
    rw [(step_clean hp).1, (step_clean hp).2] at hdone
    refine ⟨_, hdone, fun l hl => ?_, rfl, rfl⟩
    rw [stepReg, lane_mergeLanes _ _ _ l hl]
    split <;> rfl
  · have hstep := hbody.trans (matrixStep_acc hv hb hlt hacm)
    refine ⟨_, rfl, rfl, fun l hl => lane_mergeLanes _ _ _ l hl, fun hp => ?_, fun hp => endsIn_of_doneOrPoison hx hr hc hstep hp⟩
    have hdone := completes_of_doneOrPoison hx hr hc hstep hp
    rwa [(step_clean hp).1, (step_clean hp).2] at hdone

-- The checks of a matrix step (R139, R44) -------------------------------------------------------------------------------------

theorem matrixCheck_eq (bad : Option (BitVec 10)) : matrixCheck e f u bad =
    (do let _ ← check e f u (decide (f.var.toNat ≤ 4)) (fun t => t == 6) (bad.or (badEnds e f)); pure ()) := by
  cases bad <;> rfl

theorem matrixCheck_ok {bad : Option (BitVec 10)} (hl : Legal e f u none) (hln : f.ln ≠ 3) (hv : f.var.toNat ≤ 4)
    (ht : typeIn e f u = 6) (hbad : bad = none) (hends : badEnds e f = none) : matrixCheck e f u bad = .ok () := by
  rw [matrixCheck_eq, check_ok (by rw [hbad, hends]; exact hl) hln (decide_eq_true hv) (by simp [ht])]
  rfl

theorem matrixCheck_instr (bad : Option (BitVec 10)) (h : 4 < f.var.toNat ∨ waitsOk u f = false) :
    matrixCheck e f u bad = .error (.trap .instr) := by
  rw [matrixCheck_eq, check_instr]
  · rfl
  · rintro ⟨hv, -, hw⟩
    have := of_decide_eq_true hv
    rcases h with h | h
    · omega
    · simp [h] at hw

section
variable (hv : f.var.toNat ≤ 4) (hln : f.ln ≠ 3) (hw : waitsOk u f = true)
include hv hln hw

theorem matrixCheck_type (bad : Option (BitVec 10)) (ht : typeIn e f u ≠ 6) :
    matrixCheck e f u bad = .error (.trap (.type (typeIn e f u))) := by
  rw [matrixCheck_eq, (check_later ⟨decide_eq_true hv, hln, hw⟩).1 (by simpa using ht)]
  rfl

theorem matrixCheck_operand {bad : Option (BitVec 10)} {d : BitVec 10} (ht : typeIn e f u = 6) (hs : badSrc u e f = none)
    (hbad : bad.or (badEnds e f) = some d) : matrixCheck e f u bad = .error (.trap (.operand d.toNat)) := by
  rw [matrixCheck_eq, (check_later ⟨decide_eq_true hv, hln, hw⟩).2.2.1 d (by simp [ht]) hs hbad]
  rfl

end

end
end Sys2Proof.Machine
end

section
/-! PROOFS. O10: `mma` and `mmag` (R139, R140, R141). -/
namespace Sys2Proof.Machine
open Sys2Proof.Claim

section
variable {s : State} {e : Elem} {f0 : Fields}

theorem bodyMma_eq (hc : matrixCheck e { f0 with ln := 0 } { usesABC with b := false } none = .ok ())
    (hb : tadr { f0 with ln := 0 } % (tileFmt f0.var.toNat).2 = 0) :
    bodyMma s f0 e = matrixStep s e { f0 with ln := 0 } (tadr { f0 with ln := 0 }) [] := by
  rw [bodyMma]
  dsimp only
  rw [if_pos hb, hc]
  rfl

theorem bodyMma_error {x : Halt} (hc : matrixCheck e { f0 with ln := 0 } { usesABC with b := false }
      (if tadr { f0 with ln := 0 } % (tileFmt f0.var.toNat).2 = 0 then none else some f0.a) = .error x) :
    bodyMma s f0 e = .error x := by
  rw [bodyMma]
  dsimp only
  rw [hc]
  rfl

theorem bodyMmag_error {x : Halt} (hc : matrixCheck e { f0 with ln := 0 } usesABC
      (if isSlot f0.b || isState e f0.b then none else some f0.b) = .error x) :
    bodyMmag s f0 e = .error x := by
  rw [bodyMmag]
  dsimp only
  rw [hc]
  rfl

/-- The slot of the adapter bank register that b names, and the address of its tile (R140). -/
def bankIndex (s : State) (e : Elem) (f : Fields) : Nat := ((srcB s e f).pay.lane 0).toNat % 65536
def bankTile (s : State) (e : Elem) (f : Fields) : Nat :=
  (bankBase e.ve.abank + bankIndex s e f * bankStrd e.ve.abank + tadr f) % 2 ^ 17

theorem bodyMmag_eq (hc : matrixCheck e { f0 with ln := 0 } usesABC none = .ok ())
    (hs : (isSlot f0.b || isState e f0.b) = true) : bodyMmag s f0 e = (do
      let f := { f0 with ln := 0 }
      needDes (decide (bankIndex s e f < bankCnt e.ve.abank) && decide (bankTile s e f % (tileFmt f.var.toNat).2 = 0)) f.b
      matrixStep s e f (bankTile s e f) [srcB s e f, { pay := 0, pz := e.ve.abPz, tn := e.ve.abTn }]) := by
  rw [bodyMmag]
  dsimp only
  rw [if_pos hs, hc]
  rfl

theorem badEnds_none {f : Fields} (h : if acm f then f.c = 0x0FF ∧ f.d = 0x0FF else badReg e f = none) : badEnds e f = none := by
  unfold badEnds
  split at h
  · next ha => simp [ha, h]
  · next ha => simpa [ha] using h

theorem badEnds_c {f : Fields} (ha : acm f = true) (hc : f.c ≠ 0x0FF) : badEnds e f = some f.c := by
  rw [badEnds, if_pos ha, if_pos (by simpa using hc)]

theorem badEnds_d {f : Fields} (ha : acm f = true) (hc : f.c = 0x0FF) (hd : f.d ≠ 0x0FF) : badEnds e f = some f.d := by
  rw [badEnds, if_pos ha, if_neg (by simp [hc]), if_pos (by simpa using hd)]

/-- The check on the slot of the adapter bank register passes (R140, R44). -/
theorem bankOk {f : Fields} (hlt : bankIndex s e f < bankCnt e.ve.abank) (hal : bankTile s e f % (tileFmt f.var.toNat).2 = 0) :
    needDes (decide (bankIndex s e f < bankCnt e.ve.abank) && decide (bankTile s e f % (tileFmt f.var.toNat).2 = 0)) f.b = .ok () := by
  rw [decide_eq_true hlt, decide_eq_true hal]
  rfl

theorem bankBad {f : Fields} (h : bankCnt e.ve.abank ≤ bankIndex s e f ∨ bankTile s e f % (tileFmt f.var.toNat).2 ≠ 0) :
    needDes (decide (bankIndex s e f < bankCnt e.ve.abank) && decide (bankTile s e f % (tileFmt f.var.toNat).2 = 0)) f.b
      = .error (.trap (.operand f.b.toNat)) := by
  have : (decide (bankIndex s e f < bankCnt e.ve.abank) && decide (bankTile s e f % (tileFmt f.var.toNat).2 = 0)) = false := by
    rcases h with h | h
    · rw [decide_eq_false (by omega), Bool.false_and]
    · rw [decide_eq_false h, Bool.and_false]
  rw [this]
  rfl

theorem matrixSteps_step : Claim.MatrixStep := by
  unfold Claim.MatrixStep
  intro s e f0 base extra hr hcls
  extract_lets
  intro hv hends
  have hends : badEnds e { f0 with ln := 0 } = none := badEnds_none hends
  have hln : ({ f0 with ln := 0 } : Fields).ln ≠ 3 := by simp
  refine ⟨fun hx hbase hal hl ht => ?_, fun ix hix hlt hbase hal hx hsb hl ht => ?_⟩
  · subst hx hbase
    exact matrixLeaves_of_body rfl hr (by rw [hcls]; decide) hv hal (Nat.mod_lt _ (by decide)) hends
      (bodyMma_eq (matrixCheck_ok hl hln hv ht rfl hends) hal)
  · subst hx hbase hix
    refine matrixLeaves_of_body rfl hr (by rw [hcls]; decide) hv hal (Nat.mod_lt _ (by decide)) hends
      ((bodyMmag_eq (matrixCheck_ok hl hln hv ht rfl hends) hsb).trans ?_)
    dsimp only
    rw [bankOk hlt hal]
    rfl

theorem matrixSteps_traps : Claim.MatrixTraps := by
  unfold Claim.MatrixTraps
  intro s e f0 hr hcls
  extract_lets
  have hln : ({ f0 with ln := 0 } : Fields).ln ≠ 3 := by simp
  have hc : (classesOf 0x61).contains e.cls = true ∧ (classesOf 0x62).contains e.cls = true := by rw [hcls]; decide
  have mma {t : Trap} (h : matrixCheck e { f0 with ln := 0 } { usesABC with b := false }
      (if tadr { f0 with ln := 0 } % (tileFmt f0.var.toNat).2 = 0 then none else some f0.a) = .error (.trap t)) :
      Traps (.mma f0) s e t (wordOf 0x61 f0) := issue_trap hr hc.1 (bodyMma_error h)
  have mmag {t : Trap} (h : matrixCheck e { f0 with ln := 0 } usesABC (if isSlot f0.b || isState e f0.b then none else some f0.b)
      = .error (.trap t)) : Traps (.mmag f0) s e t (wordOf 0x62 f0) := issue_trap hr hc.2 (bodyMmag_error h)
  refine ⟨⟨fun h => mma (matrixCheck_instr _ h), fun hv hw ht => mma (matrixCheck_type hv hln hw _ ht)⟩,
    ⟨fun h => mmag (matrixCheck_instr _ h), fun hv hw ht => mmag (matrixCheck_type hv hln hw _ ht)⟩,
    fun hv hw ht hs hal => ?_, fun hv hw ht hs hal hacm => ⟨fun hcc => ?_, fun hcc hd => ?_⟩,
    fun hv hw ht hs => ⟨fun hsb => ?_, fun hsb hacm => ⟨fun hcc => ?_, fun hcc hd => ?_⟩⟩,
    fun hv hl ht hsb hends hbank => ?_⟩
  · exact mma (matrixCheck_operand hv hln hw ht hs (by rw [if_neg hal]; rfl))
  · exact mma (matrixCheck_operand hv hln hw ht hs (by rw [if_pos hal]; exact badEnds_c hacm hcc))
  · exact mma (matrixCheck_operand hv hln hw ht hs (by rw [if_pos hal]; exact badEnds_d hacm hcc hd))
  · exact mmag (matrixCheck_operand hv hln hw ht hs (by rw [show (isSlot f0.b || isState e f0.b) = false from hsb]; rfl))
  · exact mmag (matrixCheck_operand hv hln hw ht hs (by rw [if_pos hsb]; exact badEnds_c hacm hcc))
  · exact mmag (matrixCheck_operand hv hln hw ht hs (by rw [if_pos hsb]; exact badEnds_d hacm hcc hd))
  · refine issue_trap hr hc.2 ((bodyMmag_eq (matrixCheck_ok hl hln hv ht rfl (badEnds_none hends)) hsb).trans ?_)
    dsimp only
    rw [bankBad hbank]
    rfl

/-- Settles O10: a matrix step's work is `matrixStep`, each lane of which is `tileSum`; its checks stand before it. -/
theorem matrixSteps : Obligations.MatrixSteps := ⟨matrixSteps_step, matrixSteps_traps⟩

end
end Sys2Proof.Machine
end

section
/-! PROOFS. The byte stream of an internal word (R49, R50): bytes and the number they stand for, the fields of a form in that
number, and that a form's bytes expand to its word (R51). -/
namespace Sys2Proof

-- Bytes and numbers ------------------------------------------------------------------------------------------------------

@[simp] theorem bigBytes_length (n v : Nat) : (bigBytes n v).length = n := by simp [bigBytes]

theorem littleBytes_succ_last (n v : Nat) : littleBytes (n + 1) v = littleBytes n v ++ [BitVec.ofNat 8 (v / 2 ^ (8 * n))] := by
  induction n generalizing v with
  | zero => simp [littleBytes]
  | succ n ih =>
    rw [littleBytes, ih, littleBytes, Nat.div_div_eq_div_mul, show 8 * (n + 1) = 8 + 8 * n by ring, pow_add]
    rfl

theorem bigBytes_succ (n v : Nat) : bigBytes (n + 1) v = BitVec.ofNat 8 (v / 2 ^ (8 * n)) :: bigBytes n v := by
  simp [bigBytes, littleBytes_succ_last]

theorem bigEndian_append_one (l : List Byte) (b : Byte) : bigEndian (l ++ [b]) = bigEndian l * 256 + b.toNat := by
  simp [bigEndian]

theorem bigEndian_bigBytes (n v : Nat) : bigEndian (bigBytes n v) = v % 2 ^ (8 * n) := by
  induction n generalizing v with
  | zero => simp [bigBytes, littleBytes, bigEndian, Nat.mod_one]
  | succ n ih =>
    rw [show bigBytes (n + 1) v = bigBytes n (v / 256) ++ [BitVec.ofNat 8 v] by simp [bigBytes, littleBytes],
      bigEndian_append_one, ih, BitVec.toNat_ofNat, show 8 * (n + 1) = 8 + 8 * n by ring, pow_add, Nat.mod_mul,
      Nat.add_comm, Nat.mul_comm]
    rfl

/-- A field of a word, read from a number that holds the word below other bits. -/
theorem ofNat_field {M N : Nat} (p : BitVec N) (k lo n : Nat) (hM : M = N) (h : lo + n ≤ N) :
    BitVec.ofNat n ((k * 2 ^ M + p.toNat) / 2 ^ lo) = p.extractLsb' lo n := by
  subst hM
  obtain ⟨m, rfl⟩ := Nat.exists_eq_add_of_le h
  apply BitVec.eq_of_toNat_eq
  rw [BitVec.toNat_ofNat, BitVec.extractLsb'_toNat, Nat.shiftRight_eq_div_pow,
    show k * 2 ^ (lo + n + m) = 2 ^ lo * (2 ^ n * (k * 2 ^ m)) by rw [pow_add, pow_add]; ring,
    Nat.mul_add_div (Nat.two_pow_pos lo), Nat.mul_add_mod]

/-- Bits above `n` bytes do not reach them. -/
theorem littleBytes_add_mul (n k v : Nat) : littleBytes n (2 ^ (8 * n) * k + v) = littleBytes n v := by
  induction n generalizing v with
  | zero => rfl
  | succ n ih =>
    have hpow : 2 ^ (8 * (n + 1)) * k = 256 * (2 ^ (8 * n) * k) := by
      rw [show 8 * (n + 1) = 8 + 8 * n by ring, pow_add]; ring
    have hbyte : BitVec.ofNat 8 (256 * (2 ^ (8 * n) * k) + v) = BitVec.ofNat 8 v :=
      BitVec.eq_of_toNat_eq (by simp)
    rw [littleBytes, littleBytes, hpow, hbyte, Nat.mul_add_div (by decide), ih]

/-- The first byte of a form holds the lead nibble and the high bits of the payload (R49). -/
theorem formBytes_succ (k n p : Nat) :
    formBytes k (n + 1) p = BitVec.ofNat 8 (k * 16 + p / 2 ^ (8 * n)) :: bigBytes n p := by
  rw [formBytes, bigBytes_succ, show 8 * (n + 1) - 4 = 8 * n + 4 by omega,
    show k * 2 ^ (8 * n + 4) = 2 ^ (8 * n) * (k * 16) by rw [pow_add]; ring, Nat.mul_add_div (Nat.two_pow_pos _),
    bigBytes, littleBytes_add_mul, bigBytes]

-- Forms --------------------------------------------------------------------------------------------------------------------

/-- The lead nibble of a form (R50). -/
def Form.lead : Form → Nat
  | .pad => 0
  | .short => 1
  | .tri => 2
  | .waited => 3
  | .imm => 4
  | .quad => 5
  | .full => 15

/-- The fields that a form carries; it leaves the rest at their initial values (R43, R50). -/
def Form.keep (fm : Form) (f : Fields) : Fields :=
  let i := Fields.initial
  match fm with
  | .pad => i
  | .short => { i with d := f.d, a := f.a }
  | .tri => { i with var := f.var, d := f.d, a := f.a, b := f.b, ln := f.ln }
  | .waited => { i with var := f.var, ty := f.ty, d := f.d, a := f.a, b := f.b, wa := f.wa, wb := f.wb, wd := f.wd, ln := f.ln }
  | .imm => { i with var := f.var, ty := f.ty, d := f.d, imm := f.imm, pm := f.pm }
  | .quad => { i with var := f.var, ty := f.ty, d := f.d, a := f.a, b := f.b, c := f.c, wa := f.wa, wd := f.wd, pm := f.pm, ln := f.ln }
  | .full => f

/-- The bits of a form's bytes behind the lead nibble: four zeros stand before the word of a FULL form (R50). -/
def Form.payload (fm : Form) (op : BitVec 8) (f : Fields) : Nat :=
  match fm with
  | .pad => 0
  | .short => (op ++ f.d ++ f.a).toNat
  | .tri => (op ++ f.var ++ f.d ++ f.a ++ f.b ++ f.ln).toNat
  | .waited => (op ++ f.var ++ f.ty ++ f.d ++ f.a ++ f.b ++ f.wa ++ f.wb ++ f.wd ++ f.ln).toNat
  | .imm => (op ++ f.var ++ f.ty ++ f.d ++ f.imm ++ f.pm).toNat
  | .quad => (op ++ f.var ++ f.ty ++ f.d ++ f.a ++ f.b ++ f.c ++ f.wa ++ f.wd ++ f.pm ++ f.ln).toNat
  | .full => ((0 : BitVec 4) ++ wordOf op f).toNat

theorem Form.payload_lt (fm : Form) (op : BitVec 8) (f : Fields) : fm.payload op f < 2 ^ (8 * fm.length - 4) := by
  cases fm with
  | pad => exact Nat.two_pow_pos _
  | short | tri | waited | imm | quad | full => exact BitVec.isLt _

/-- The bytes of a form that carries an op and fields (R49, R50). -/
def Form.bytes (fm : Form) (op : BitVec 8) (f : Fields) : List Byte := formBytes fm.lead fm.length (fm.payload op f)

@[simp] theorem Form.bytes_length (fm : Form) (op : BitVec 8) (f : Fields) : (fm.bytes op f).length = fm.length :=
  bigBytes_length _ _

@[simp] theorem Form.payload_full (op : BitVec 8) (f : Fields) : Form.full.payload op f = (wordOf op f).toNat := by
  change ((0 : BitVec 4) ++ wordOf op f).toNat = _
  rw [BitVec.toNat_append]
  simp

/-- The bits that a FULL form leaves above its word are zero (R50). -/
theorem Form.payload_full_high (op : BitVec 8) (f : Fields) : Form.full.payload op f / 2 ^ (8 * 12) = 0 := by
  rw [Form.payload_full]
  exact Nat.div_eq_of_lt (wordOf op f).isLt

/-- A FULL form is the lead byte 0xF0 and the internal word (R49). -/
theorem Form.bytes_full (op : BitVec 8) (f : Fields) : Form.full.bytes op f = 0xF0 :: bigBytes 12 (wordOf op f).toNat := by
  rw [Form.bytes, Form.length, formBytes_succ, Form.payload_full_high, Form.payload_full]
  rfl

theorem Form.length_pos (fm : Form) : 0 < fm.length := by cases fm <;> decide

/-- The number that a form's bytes stand for. -/
theorem Form.bigEndian_bytes (fm : Form) (op : BitVec 8) (f : Fields) :
    bigEndian (fm.bytes op f) = fm.lead * 2 ^ (8 * fm.length - 4) + fm.payload op f := by
  rw [Form.bytes, formBytes, bigEndian_bigBytes, Nat.mod_eq_of_lt]
  have hp := fm.payload_lt op f
  generalize fm.payload op f = p at hp ⊢
  cases fm <;> simp only [Form.lead, Form.length] at hp ⊢ <;> omega

/-- A form's bytes hold the internal word of its op and of the fields that it carries (R43, R50). -/
theorem Form.unpack_bytes {fm : Form} (hfm : fm ≠ .pad) (op : BitVec 8) (f : Fields) :
    unpack fm (fm.bytes op f) = wordOf op (fm.keep f) := by
  have hb := fm.bigEndian_bytes op f
  unfold unpack
  rw [hb]
  cases fm with
  | pad => exact absurd rfl hfm
  | short | tri | waited | imm | quad | full =>
    simp only [Form.lead, Form.length, Form.payload, Form.keep, Nat.reduceMul, Nat.reduceSub]
    simp (disch := decide) only [ofNat_field, extract_high, extract_last, extract_whole, Nat.reduceSub]

-- Expansion ----------------------------------------------------------------------------------------------------------------

/-- A lead byte with a form's lead nibble names the form. -/
theorem formOf_of_lead {fm : Form} (hfm : fm ≠ .pad) {b : Byte} (h : b.toNat / 16 = fm.lead) : formOf b = some fm := by
  have hb : b ≠ 0 := by
    rintro rfl
    cases fm <;> simp [Form.lead] at h hfm
  have hn : (b.extractLsb' 4 4).toNat = fm.lead := by
    rw [BitVec.extractLsb'_toNat, Nat.shiftRight_eq_div_pow]; omega
  rw [formOf, if_neg hb, hn]
  cases fm with
  | pad => exact absurd rfl hfm
  | short | tri | waited | imm | quad | full => rfl

/-- The lead byte of a form's bytes holds its lead nibble, in a FULL form above four zeros. -/
theorem Form.bytes_eq_cons (fm : Form) (op : BitVec 8) (f : Fields) : ∃ (b : Byte) (l : List Byte),
    fm.bytes op f = b :: l ∧ b.toNat / 16 = fm.lead ∧ (fm = .full → b.toNat % 16 = 0) := by
  obtain ⟨n, hn⟩ := Nat.exists_eq_add_of_le' fm.length_pos
  have hlead : fm.lead < 16 := by cases fm <;> decide
  have hp : fm.payload op f / 2 ^ (8 * n) < 16 := by
    have hlt := fm.payload_lt op f
    rw [hn, show 8 * (n + 1) - 4 = 8 * n + 4 by omega, pow_add] at hlt
    exact Nat.div_lt_of_lt_mul hlt
  have hfull : fm = .full → fm.payload op f / 2 ^ (8 * n) = 0 := by
    rintro rfl
    obtain rfl : n = 12 := by simpa [Form.length] using hn.symm
    exact Form.payload_full_high op f
  refine ⟨_, _, by rw [Form.bytes, hn, formBytes_succ], ?_, fun h => ?_⟩
  · rw [BitVec.toNat_ofNat, Nat.mod_eq_of_lt (by omega), Nat.mul_comm, Nat.mul_add_div (by decide), Nat.div_eq_of_lt hp, Nat.add_zero]
  · rw [BitVec.toNat_ofNat, hfull h]; omega

/-- The bytes of a form whose op is assigned, followed by any others, expand to its word (R51). -/
theorem expandOne_bytes {fm : Form} (hfm : fm ≠ .pad) {op : BitVec 8} (hop : opAssigned op = true) (f : Fields) (off : Nat) (r : List Byte) :
    expandOne off (fm.bytes op f ++ r) = (some (wordOf op (fm.keep f)), fm.length) := by
  obtain ⟨b, l, hl, hlead, hlow⟩ := fm.bytes_eq_cons op f
  have htake : (fm.bytes op f ++ r).take fm.length = fm.bytes op f := by rw [← fm.bytes_length op f, List.take_left]
  have hlen : ¬ (fm.bytes op f ++ r).length < fm.length := by simp
  have hform := formOf_of_lead hfm hlead
  have hfull : fm = .full → b.extractLsb' 0 4 = 0 := fun h => BitVec.eq_of_toNat_eq (by simpa using hlow h)
  have hunpack := Form.unpack_bytes hfm op f
  rw [← htake] at hunpack
  rw [hl, List.cons_append] at hunpack hlen ⊢
  cases fm with
  | pad => exact absurd rfl hfm
  | short | tri | waited | imm | quad | full =>
    simp only [expandOne, hform, if_neg hlen, hunpack, op_wordOf, hop, hfull, ne_eq, not_true_eq_false, and_false, reduceCtorEq,
      false_and, Bool.not_true, Bool.false_eq_true, if_false]

/-- What the bytes of a form followed by others decode to. -/
theorem decodeBytes_bytes {fm : Form} (hfm : fm ≠ .pad) {op : BitVec 8} (hop : opAssigned op = true) (f : Fields) (r : List Byte) :
    decodeBytes (fm.bytes op f ++ r) = (instrOf op (fm.keep f)).map (fun i => (i, fm.length)) := by
  have hx := expandOne_bytes hfm hop f 0 r
  unfold decodeBytes
  split
  · next h => simp [h, expandOne] at hx
  · rw [hx]; simp

end Sys2Proof
end

section
/-! PROOFS. O55: decoding gives back what was encoded (R43, R49 to R51, R59). -/
namespace Sys2Proof

/-- The op and fields of a well-formed instruction stand for it (R60, R216). -/
theorem instrOf_opFields {i : Instr} (hi : i.wf = true) {op : BitVec 8} {f : Fields} (h : opFields i = some (op, f)) :
    instrOf op f = some i := by
  cases i with
  | sysw f => cases h; exact (decodeWord_wordOf _ f).symm.trans (Laws.Shape.sysw f hi _ rfl)
  | icacheFlush f => cases h; exact (decodeWord_wordOf _ f).symm.trans (Laws.Shape.icacheFlush f hi _ rfl)
  | heartbeatWrite f => cases h; exact (decodeWord_wordOf _ f).symm.trans (Laws.Shape.heartbeatWrite f hi _ rfl)
  | _ => cases h <;> rfl

/-- The op of every instruction but `xtrap` may come from a byte stream (R51, R60). -/
theorem opAssigned_opFields {i : Instr} {op : BitVec 8} {f : Fields} (h : opFields i = some (op, f)) (hop : op ≠ 0xFF) :
    opAssigned op = true := by
  cases i with
  | xtrap => cases h; exact absurd rfl hop
  | _ => cases h <;> rfl

/-- The form that `oluby` gives an internal word carries every field that is not at its initial value (R59). -/
theorem encodeForm_keep (op : BitVec 8) (f : Fields) :
    ∃ fm : Form, fm ≠ .pad ∧ fm.keep f = f ∧ (encodeForm op f).2 = fm.bytes op f := by
  unfold encodeForm
  dsimp only
  split
  · next h => exact ⟨.short, by decide, h.symm, rfl⟩
  split
  · next h => exact ⟨.tri, by decide, h.symm, rfl⟩
  split
  · next h => exact ⟨.imm, by decide, h.symm, rfl⟩
  split
  · next h => exact ⟨.waited, by decide, h.symm, rfl⟩
  split
  · next h => exact ⟨.quad, by decide, h.symm, rfl⟩
  · exact ⟨.full, by decide, rfl, (Form.bytes_full op f).symm⟩

/-- The bytes of an instruction in a form that carries its fields read back as it, whatever follows them. -/
theorem decodeBytes_of_keep {i : Instr} (hi : i.wf = true) {op : BitVec 8} {f : Fields} (h : opFields i = some (op, f)) (hop : op ≠ 0xFF)
    {fm : Form} (hfm : fm ≠ .pad) (hk : fm.keep f = f) (r : List Byte) :
    decodeBytes (fm.bytes op f ++ r) = some (i, (fm.bytes op f).length) := by
  rw [decodeBytes_bytes hfm (opAssigned_opFields h hop), hk, instrOf_opFields hi h, Form.bytes_length]
  rfl

/-- Settles O55: a form's bytes expand to its word, and the word of an op and its fields gives both back. -/
theorem decodeEncode : Obligations.DecodeEncode := by
  unfold Obligations.DecodeEncode
  intro i hi
  refine ⟨fun w hw => ?_, fun op f h hop => ⟨?_, ?_⟩⟩
  · obtain ⟨⟨op, f⟩, h, rfl⟩ := Option.map_eq_some_iff.1 hw
    rw [decodeWord_wordOf, instrOf_opFields hi h]
  · obtain ⟨fm, hfm, hk, hb⟩ := encodeForm_keep op f
    refine ⟨fm.bytes op f, by rw [encode, h, Option.map_some, hb], decodeBytes_of_keep hi h hop hfm hk⟩
  · refine ⟨Form.full.bytes op f, by rw [encodeFull, encodeWord, h, Form.bytes_full]; rfl, Form.bytes_length _ _ _, fun r => ?_⟩
    rw [decodeBytes_of_keep hi h hop (by decide) rfl, Form.bytes_length]
    rfl

end Sys2Proof
end

section
/-! PROOFS. O54: what a turn of a unit executes (R53, R54, R60, R77, R91), and that a step is a turn (log 1). -/
namespace Sys2Proof.Machine

-- Turns --------------------------------------------------------------------------------------------------------------------

theorem unitTurn_of_run {s t : State} {i : Instr} (h : fetch s = .run i t) : unitTurn s = exec i t := by rw [unitTurn, h]

theorem unitTurn_of_idle {s t : State} (h : fetch s = .idle t) : unitTurn s = .next t := by rw [unitTurn, h]

theorem decoded_some {w : BitVec 96} {i : Instr} (h : decodeWord w = some i) (s : State) (u : UnitId) (e : Elem) :
    decoded s u e w = .run i s := by rw [decoded, h]

theorem decoded_none {w : BitVec 96} (h : decodeWord w = none) (s : State) (u : UnitId) (e : Elem) :
    decoded s u e w = .idle (takeTrap s u e .instr w) := by rw [decoded, h]

-- Units --------------------------------------------------------------------------------------------------------------------

theorem unit_setUnit {s : State} {u : UnitId} {e : Elem} (h : s.unit u = some e) (x : Elem) : (s.setUnit u x).unit u = some x := by
  cases u with
  | el n =>
    have hn : n < s.elems.length := (List.getElem?_eq_some_iff.1 h).1
    simp [State.unit, hn]
  | fc n =>
    unfold State.unit at h ⊢
    dsimp only at h ⊢
    split at h
    · cases h
    · next h1 =>
      have hn : n < 16 := (Vector.getElem?_eq_some_iff.1 h).1
      simp [h1, hn]

theorem setUnit_unit {s : State} {u : UnitId} {e : Elem} (h : s.unit u = some e) : s.setUnit u e = s := by
  cases u with
  | el n =>
    obtain ⟨hn, rfl⟩ := List.getElem?_eq_some_iff.1 h
    simp [State.setUnit]
  | fc n =>
    unfold State.unit at h
    dsimp only at h
    split at h
    · cases h
    · obtain ⟨hn, rfl⟩ := Vector.getElem?_eq_some_iff.1 h
      have hset : s.cores.setIfInBounds n s.cores[n] = s.cores := by
        ext1 k hk
        rw [Vector.getElem_setIfInBounds]
        split
        · next h => subst h; rfl
        · rfl
      rw [State.setUnit, hset]

theorem setUnit_setUnit (s : State) (u : UnitId) (e x : Elem) : (s.setUnit u e).setUnit u x = s.setUnit u x := by
  cases u with
  | el n => simp [State.setUnit]
  | fc n => simp [State.setUnit]

-- Elements -----------------------------------------------------------------------------------------------------------------

section
variable {s : State} {n : Nat} {e : Elem}

theorem fetch_el (hc : s.cur = .el n) (he : s.elems[n]? = some e) : fetch s = fetchElem s n e := by
  have hu : s.unit (.el n) = some e := he
  simp only [fetch, hc, hu]

theorem fetch_fc (hc : s.cur = .fc n) (he : s.unit (.fc n) = some e) : fetch s = fetchCore s n e := by
  simp only [fetch, hc, he]

section
variable (hb : e.blot = false)
include hb

theorem fetchElem_stopped (ha : (e.dead || e.halted || e.frozen || e.stop.isSome || e.role != .actor || e.parked) = true) :
    fetchElem s n e = .idle s := by
  simp only [fetchElem, hb, ha, Bool.false_eq_true, if_false, if_true]

variable (ha : (e.dead || e.halted || e.frozen || e.stop.isSome || e.role != .actor || e.parked) = false)
include ha

theorem fetchElem_free (hf : e.busy = false) : fetchElem s n e = .run (.firingStart n) s := by
  simp only [fetchElem, hb, ha, hf, Bool.not_false, Bool.false_eq_true, if_false, if_true]

/-- An element with a firing goes by the word at its position (R77). -/
theorem fetchElem_word (hf : e.busy = true) {w : BitVec 96} (hw : e.body[e.run.pos]? = some w) :
    fetchElem s n e = decoded s (.el n) e w := by
  simp only [fetchElem, hb, ha, hf, hw, Bool.not_true, Bool.false_eq_true, if_false]

/-- A firing that runs past its body traps (R91). -/
theorem fetchElem_past (hf : e.busy = true) (hw : e.body.length ≤ e.run.pos) :
    fetchElem s n e = .idle (takeTrap s (.el n) e .instr 0) := by
  simp only [fetchElem, hb, ha, hf, List.getElem?_eq_none hw, Bool.not_true, Bool.false_eq_true, if_false]

end

-- Firmware cores -----------------------------------------------------------------------------------------------------------

theorem filled_of_ne {m : List Host.Cell} (h : e.fc.icache ≠ []) : e.filled m = e := if_neg h

@[simp] theorem filled_filled (e : Elem) (m : List Host.Cell) : (e.filled m).filled m = e.filled m := by
  by_cases h : e.fc.icache = []
  · simp [Elem.filled, h]
  · rw [filled_of_ne h, filled_of_ne h]

@[simp] theorem filled_halted (e : Elem) (m : List Host.Cell) : (e.filled m).fc.halted = e.fc.halted := by
  unfold Elem.filled; split <;> rfl

@[simp] theorem filled_dead (e : Elem) (m : List Host.Cell) : (e.filled m).fc.dead = e.fc.dead := by
  unfold Elem.filled; split <;> rfl

theorem fetchCore_stopped (h : (e.fc.halted || e.fc.dead) = true) : fetchCore s n e = .idle s := if_pos h

/-- The cache of a core whose cache is empty fills before its word is read (R53). -/
theorem fetchCore_filled : fetchCore (s.setUnit (.fc n) (e.filled s.mem)) n (e.filled s.mem)
    = if (e.fc.halted || e.fc.dead) = true then .idle (s.setUnit (.fc n) (e.filled s.mem)) else fetchCore s n e := by
  simp only [fetchCore, filled_halted, filled_dead, setUnit_mem, filled_filled, setUnit_setUnit]
  split <;> rfl

section
variable (he : s.unit (.fc n) = some e) (hr : (e.fc.halted || e.fc.dead) = false) (hc : e.fc.icache ≠ [])
include he hr hc

/-- A core goes by the word of its cache at its address, while the bytes it stands for are as they were (R53). -/
theorem fetchCore_word {w : CacheWord} (hw : wordAt e.fc.icache e.run.pos = some w) (hm : memBytes s.mem w.addr w.len = w.bytes) :
    fetchCore s n e = decoded s (.fc n) e w.word := by
  simp only [fetchCore, hr, filled_of_ne hc, setUnit_unit he, coreWord, hw, hm, Bool.false_eq_true, if_false, if_true]

/-- A core at an address that no word has traps (R53). -/
theorem fetchCore_missing (hw : wordAt e.fc.icache e.run.pos = none) : fetchCore s n e = .idle (takeTrap s (.fc n) e .instr 0) := by
  simp only [fetchCore, hr, filled_of_ne hc, setUnit_unit he, coreWord, hw, Bool.false_eq_true, if_false]

end
end

-- Steps --------------------------------------------------------------------------------------------------------------------

theorem step_no_turn {s : State} (h : s.agenda = []) : step s = unitTurn s := by rw [step, h]

section
variable {s : State} {t : Turn} {r : List Turn} (h : s.agenda = t :: r)
include h

theorem step_dev {i : Instr} (ht : t.act = .dev i) : step s = exec i (elapse t.ns (upsetAll { s with agenda := r } t.ups)) := by
  simp only [step, h, ht]

theorem step_unit {u : UnitId} (ht : t.act = .unit u) :
    step s = unitTurn { elapse t.ns (upsetAll { s with agenda := r } t.ups) with cur := u } := by
  simp only [step, h, ht, State.at]

theorem step_stage {u k : Nat} (ht : t.act = .stage u k) :
    step s = stageTurn { elapse t.ns (upsetAll { s with agenda := r } t.ups) with cur := .el u } u k := by
  simp only [step, h, ht, State.at]

theorem step_reconf {g n : Nat} {cfg : Lane} (ht : t.act = .reconf g n cfg) :
    step s = .next (emitSwitch (elapse t.ns (upsetAll { s with agenda := r } t.ups)) g n cfg) := by
  simp only [step, h, ht]

end

/-- Settles O54: each clause is what `fetch` answers for the unit at its turn, or `step` for the head of the agenda. -/
theorem stepRunsDecoded : Obligations.StepRunsDecoded := by
  unfold Obligations.StepRunsDecoded
  refine ⟨fun s => step_no_turn, fun s t r h => ⟨fun i => step_dev h, fun u => step_unit h, fun u k => step_stage h,
    fun g n cfg => step_reconf h⟩, fun s n e hc he hb => ?_, fun s n e hc he => ?_⟩
  · have hf := fetch_el hc he
    rw [hc]
    refine ⟨fun ha => unitTurn_of_idle (hf.trans (fetchElem_stopped hb ha)), fun ha => ⟨fun hfree => ?_, fun w i hbusy hw hd => ?_,
      fun w hbusy hw hd => ?_, fun hbusy hlen => ?_⟩⟩
    · exact unitTurn_of_run (hf.trans (fetchElem_free hb ha hfree))
    · exact unitTurn_of_run (hf.trans ((fetchElem_word hb ha hbusy hw).trans (decoded_some hd _ _ _)))
    · exact unitTurn_of_idle (hf.trans ((fetchElem_word hb ha hbusy hw).trans (decoded_none hd _ _ _)))
    · exact unitTurn_of_idle (hf.trans (fetchElem_past hb ha hbusy hlen))
  · have hf := fetch_fc hc he
    refine ⟨fun hr => unitTurn_of_idle (hf.trans (fetchCore_stopped hr)), fun hr hcache => ⟨fun w i hw hm hd => ?_, fun hw => ?_⟩,
      fun hr _ _ => ?_⟩
    · exact unitTurn_of_run (hf.trans ((fetchCore_word he hr hcache hw hm).trans (decoded_some hd _ _ _)))
    · rw [hc]
      exact unitTurn_of_idle (hf.trans (fetchCore_missing he hr hcache hw))
    · have hf' := fetch_fc (s := s.setUnit (.fc n) (e.filled s.mem)) ((setUnit_cur _ _ _).trans hc) (unit_setUnit he _)
      rw [fetchCore_filled, hr, if_neg (by decide), ← hf] at hf'
      rw [unitTurn, unitTurn, hf']

end Sys2Proof.Machine
end

section
/-! PROOFS. O56: words written out from the tables of the forms (R50 to R54, R60). -/
namespace Sys2Proof

/-- Settles O56: each line is computed from the decoder, or from the expansion and R54's fates. -/
theorem decodedWords : Obligations.DecodedWords := by
  unfold Obligations.DecodedWords
  refine ⟨?short, ?tri, ?waited, ?imm, ?quad, ?full, ?pad, ?fates⟩
  all_goals decide +kernel

end Sys2Proof
end

section
/-! PROOFS. O34: words and credits arrive on channels, and the faults of the words at the heads (R69, R70, R231, R21); an array's
oldest record becomes a result (R205). -/
namespace Sys2Proof.Machine
open Sys2Proof.Claim

section
variable {s : State} {u ch : Nat} {e : Elem} {o : OutChan} {w : CWord} {k : Nat} {rest : List Flight}

-- Steps on an element ---------------------------------------------------------------------------------------------------------

/-- A step on an element that is there. -/
theorem onElem_some (h : s.elems[u]? = some e) (g : Elem → State) : onElem s u g = g e := by rw [onElem, h]

/-- An element changed by a function is the element replaced. -/
theorem updElem_eq_setUnit (h : s.elems[u]? = some e) (g : Elem → Elem) : s.updElem u g = s.setUnit (.el u) (g e) := by
  rw [State.updElem, State.setUnit, List.modify_eq_set_getElem?, h]
  rfl

-- What stands at the far end of a channel -------------------------------------------------------------------------------------

/-- A word that has crossed every bridge on its way is taken from what is in flight (R70). -/
theorem takeWord_arrived {src : ChanEnd} (ho : s.outAt src = some o) (hf : o.flight = .word w k :: rest) (hk : o.via.length ≤ k) :
    takeWord s src = some (w, s.setOutAt src { o with flight := rest }) := by
  simp only [takeWord, ho, hf, if_pos hk]

/-- Where nothing is in flight, or a word that has bridges to cross still, none is taken. -/
theorem takeWord_none {src : ChanEnd} (ho : s.outAt src = some o)
    (hf : o.flight = [] ∨ ∃ w k rest, o.flight = .word w k :: rest ∧ k < o.via.length) : takeWord s src = none := by
  obtain hf | ⟨w, k, rest, hf, hk⟩ := hf
  · simp only [takeWord, ho, hf]
  · simp only [takeWord, ho, hf, if_neg (Nat.not_le.2 hk)]

/-- A word arrives behind the words of its channel, and the heads are judged (R69, R70, R231). -/
theorem channelWordArrive_arrived (he : s.elems[u]? = some e) (hd : e.dead = false) (hen : entEn (e.inch ch).ent = true)
    (ho : s.outAt (e.inch ch).src = some o) (hf : o.flight = .word w k :: rest) (hk : o.via.length ≤ k) :
    Steps (.channelWordArrive u ch) s (judgeHeads ((s.setOutAt (e.inch ch).src { o with flight := rest }).updElem u
      (fun x => x.setIn ch { x.inch ch with q := (x.inch ch).q ++ [w] })) u) := by
  change execChannelWordArrive u ch s = _
  simp only [execChannelWordArrive, onElem_some he, hd, hen, Bool.not_true, Bool.or_self, Bool.false_eq_true, if_false,
    takeWord_arrived ho hf hk]

/-- No word arrives at a removed element, on an input that is not bound, or where none has come to the end of its way. -/
theorem channelWordArrive_idle (he : s.elems[u]? = some e) (ho : s.outAt (e.inch ch).src = some o)
    (h : e.dead = true ∨ entEn (e.inch ch).ent = false ∨ o.flight = []
      ∨ ∃ w k rest, o.flight = .word w k :: rest ∧ k < o.via.length) : Steps (.channelWordArrive u ch) s s := by
  change execChannelWordArrive u ch s = _
  rw [execChannelWordArrive, onElem_some he]
  by_cases hc : (e.dead || !entEn (e.inch ch).ent) = true
  · rw [if_pos hc]
  · have hf := (h.resolve_left (by simp_all)).resolve_left (by simp_all)
    rw [if_neg hc, takeWord_none ho hf]

/-- The credits on their way reach the producer's free count (R69). -/
theorem creditReturn_some {x : ChanEnd} (ho : s.outAt x = some o) :
    Steps (.creditReturn x) s (s.setOutAt x { o with free := o.free + o.cred, cred := 0 }) := by
  change execCreditReturn x s = _
  rw [execCreditReturn, ho]

-- The heads -------------------------------------------------------------------------------------------------------------------

theorem judgeHeads_quiet (he : s.elems[u]? = some e) (h : e.active = false ∨ headFault e = none) : judgeHeads s u = s := by
  unfold judgeHeads
  rw [he]
  obtain h | h := h <;> simp [h]

theorem judgeHeads_fault {t : Trap} (he : s.elems[u]? = some e) (ha : e.active = true) (h : headFault e = some t) :
    judgeHeads s u = raiseFault s u e t 0 := by
  unfold judgeHeads
  rw [he]
  simp [ha, h]

/-- The fault of the word at the head of one input (R231, R21; log 161). -/
def headStray (e : Elem) (c : Nat) : Option Trap :=
  match (e.inch c).q.head? with
  | some w =>
    let k := kindOf w
    if w.isCtl && (malformed w || (!(k == 4 || k == 5 || k == 6) && !someAccepts e c k)) then some (.align c none k) else none
  | none => none

theorem strayHead_eq (e : Elem) : strayHead e = e.boundIns.findSome? (headStray e) := rfl

/-- A data word, or no word, at a head is no stray. -/
theorem headStray_none {c : Nat} (h : (e.inch c).q = [] ∨ (e.slot c 0).isData = true) : headStray e c = none := by
  unfold headStray
  cases hq : (e.inch c).q with
  | nil => rfl
  | cons w q =>
    have hw : w.isCtl = false := by simpa [hq, Elem.slot, CWord.isData] using h
    simp [hw]

/-- A control word at a head that is malformed, or that no clause accepts and the element does not take itself, is a stray. -/
theorem headStray_some {c : Nat} {q : List CWord} (hq : (e.inch c).q = w :: q) (hw : w.isCtl = true)
    (h : malformed w = true ∨ ((∀ k ∈ [4, 5, 6], w.kind ≠ k) ∧ someAccepts e c w.kind.toNat = false)) :
    headStray e c = some (.align c none w.kind.toNat) := by
  have hk : kindOf w = w.kind.toNat := if_pos hw
  unfold headStray
  rw [hq, List.head?_cons]
  obtain hm | ⟨hk', ha⟩ := h
  · simp [hk, hw, hm]
  · have hne (k : Lane) (hm : k ∈ [4, 5, 6]) : w.kind.toNat ≠ k.toNat := fun h => hk' k hm (BitVec.eq_of_toNat_eq h)
    simp [hk, hw, ha, show w.kind.toNat ≠ 4 from hne 4 (by simp), show w.kind.toNat ≠ 5 from hne 5 (by simp),
      show w.kind.toNat ≠ 6 from hne 6 (by simp)]

/-- The first input of a list at which a function finds something, where it finds nothing at the inputs below. -/
theorem findSome?_range_filter {α : Type} {p : Nat → Bool} {g : Nat → Option α} {n c : Nat} {x : α} (hc : c < n) (hp : p c = true)
    (hg : g c = some x) (hlow : ∀ b < c, p b = true → g b = none) : ((List.range n).filter p).findSome? g = some x := by
  obtain ⟨m, rfl⟩ := Nat.exists_eq_add_of_lt hc
  have hlow' : ((List.range c).filter p).findSome? g = none := by simpa [List.findSome?_eq_none_iff] using hlow
  rw [Nat.add_assoc, List.range_add, List.range_succ_eq_map, List.map_cons, List.filter_append, List.findSome?_append, hlow',
    Nat.add_zero, List.filter_cons_of_pos hp, List.findSome?_cons_of_isSome (by simp [hg]), hg]
  rfl

/-- The lowest input whose head is a stray decides the fault of an actor, also while a firing is in progress (R231). -/
theorem headFault_stray {c : Nat} {t : Trap} (hr : e.role = .actor) (hc : c < 32) (hen : entEn (e.inch c).ent = true)
    (ht : headStray e c = some t) (hlow : ∀ b < c, entEn (e.inch b).ent = true → headStray e b = none) : headFault e = some t := by
  have hs : strayHead e = some t := (strayHead_eq e).trans (findSome?_range_filter hc hen ht hlow)
  simp only [headFault, hr, actorFault, hs]

end

theorem wordsArrive_channelTraffic : Claim.ChannelTraffic := by
  intro s
  refine ⟨fun u ch e o w k rest he hd hen ho hf hk => channelWordArrive_arrived he hd hen ho hf hk,
    fun u ch e o he ho h => channelWordArrive_idle he ho h, fun u e he h => judgeHeads_quiet he h,
    fun u e c w q he ha hr hc hen hq hw hbad hlow => ?_, fun x o ho => creditReturn_some ho⟩
  refine judgeHeads_fault he ha (headFault_stray hr hc hen (headStray_some hq hw hbad) fun b hb hb' => headStray_none ?_)
  exact (hlow b hb).resolve_left (by simp [hb'])

theorem wordsArrive_arrayResult : Claim.ArrayResult := by
  intro s u e x r he hp
  change execRaResultReady u s = _
  rw [execRaResultReady, updElem_eq_setUnit he, raReady, hp]

/-- Settles O34: each step by what it takes from its channel, and a stray by the lowest input at which one stands. -/
theorem wordsArriveAndResults : Obligations.WordsArriveAndResults := ⟨wordsArrive_channelTraffic, wordsArrive_arrayResult⟩

end Sys2Proof.Machine
end

section
/-! PROOFS. What a source designator reads, and what a destination receives (R45 to R48, R71, R72). -/
namespace Sys2Proof.Machine
open Sys2Proof.Claim

-- Designators taken apart (R45) -----------------------------------------------------------------------------------------------

theorem toNat_designator {n : Nat} (h : n < 1024) : (BitVec.ofNat 10 n).toNat = n := by
  rw [BitVec.toNat_ofNat, Nat.mod_eq_of_lt h]

theorem desOf_state {n : Nat} (h : n < 64) : desOf (BitVec.ofNat 10 n) = .state n := by
  simp only [desOf, toNat_designator (show n < 1024 by omega), show n / 256 = 0 by omega, show n % 256 = n by omega, if_pos h]

theorem desOf_special {n : Nat} (h : 0xC0 ≤ n ∧ n < 256) : desOf (BitVec.ofNat 10 n) = .special n := by
  simp only [desOf, toNat_designator (show n < 1024 by omega), show n / 256 = 0 by omega, show n % 256 = n by omega,
    if_neg (show ¬ n < 64 by omega), if_neg (show ¬ n < 0xC0 by omega)]

theorem desOf_const {n : Nat} (h : n < 64) : desOf (BitVec.ofNat 10 (0x100 + n)) = .const n := by
  simp only [desOf, toNat_designator (show 0x100 + n < 1024 by omega), show (0x100 + n) / 256 = 1 by omega,
    show (0x100 + n) % 256 = n by omega, if_pos h]

theorem desOf_slot {c j : Nat} (hc : c < 32) (hj : j < 8) : desOf (BitVec.ofNat 10 (0x200 + 8 * c + j)) = .slot c j := by
  simp only [desOf, toNat_designator (show 0x200 + 8 * c + j < 1024 by omega), show (0x200 + 8 * c + j) / 256 = 2 by omega,
    show (0x200 + 8 * c + j) % 256 / 8 = c by omega, show (0x200 + 8 * c + j) % 256 % 8 = j by omega]

theorem desOf_out {c j : Nat} (hc : c < 32) (hj : j < 8) : desOf (BitVec.ofNat 10 (0x300 + 8 * c + j)) = .out c j := by
  simp only [desOf, toNat_designator (show 0x300 + 8 * c + j < 1024 by omega), show (0x300 + 8 * c + j) / 256 = 3 by omega,
    show (0x300 + 8 * c + j) % 256 / 8 = c by omega, show (0x300 + 8 * c + j) % 256 % 8 = j by omega]

theorem desOf_of_isOut {d : BitVec 10} (h : isOut d = true) : desOf d = .out (desChan d) (desOfs d) := by
  have h3 : d.toNat / 256 = 3 := by simpa [isOut] using h
  simp only [desOf, h3, desChan, desOfs, show d.toNat % 256 % 8 = d.toNat % 8 by omega]

-- What a source reads ---------------------------------------------------------------------------------------------------------

section
variable {s : State} {e : Elem}

/-- A register reads as a number in each lane, with a PZ and a TN. -/
def ReadsAs (r : Reg) (v : Nat → Nat) (pz tn : Bool) : Prop :=
  (∀ n < 16, (r.pay.lane n).toNat = v n) ∧ r.pz = pz ∧ r.tn = tn

theorem readsAs_splat (x : Lane) (pz tn : Bool) : ReadsAs { pay := Payload.splat x, pz := pz, tn := tn } (fun _ => x.toNat) pz tn :=
  ⟨fun n hn => by rw [lane_splat x n hn], rfl, rfl⟩

theorem readDes_special {n : Nat} (h : 0xC0 ≤ n ∧ n < 256) : readDes s e (BitVec.ofNat 10 n) = special s e n := by
  rw [readDes, desOf_special h]

theorem readsAs_special {n : Nat} {v : Nat → Nat} {pz tn : Bool} (h : 0xC0 ≤ n ∧ n < 256) (hr : ReadsAs (special s e n) v pz tn) :
    ReadsAs (readDes s e (BitVec.ofNat 10 n)) v pz tn := by rwa [readDes_special h]

theorem special_mask {k : Nat} (h : k < 3) : special s e (0xF1 + k) = maskReg (e.m.toList.getD k Mask.installed) := by
  interval_cases k <;> rfl

theorem special_scale {k : Nat} (h : k < 8) : special s e (0xE8 + k) = scaleReg e k := by
  interval_cases k <;> rfl

theorem readsAs_mask (m : Mask) : ReadsAs (maskReg m) (fun _ => m.bits.toNat) m.pz m.tn := by
  have h := readsAs_splat (m.bits.setWidth 32) m.pz m.tn
  rwa [BitVec.toNat_setWidth, Nat.mod_eq_of_lt (by omega)] at h

theorem readsAs_scale (x : Scale) :
    ReadsAs { pay := Payload.splat (x.ts.setWidth 32), pz := x.pz, tn := x.tn } (fun _ => x.ts.toNat) x.pz x.tn := by
  have h := readsAs_splat (x.ts.setWidth 32) x.pz x.tn
  rwa [BitVec.toNat_setWidth, Nat.mod_eq_of_lt (by omega)] at h

theorem vector_getElem?_eq_getD {α : Type} {m n : Nat} (v : Vector α m) (h : n < m) (d : α) : v[n]? = some (v.toList.getD n d) := by
  simp [h, List.getD_eq_getElem?_getD]

/-- The first part of O60: each special by its lanes, each other source by the page of its designator. -/
theorem registerFrames_sources : Claim.Sources := by
  intro s e g rd reads
  refine ⟨fun n hn => ?_, fun n hn => ?_, readsAs_special (by decide) ?zero, readsAs_special (by decide) ?lanes,
    readsAs_special (by decide) (readsAs_splat e.site false false), readsAs_special (by decide) (readsAs_splat e.fcnt false false),
    readsAs_special (by decide) (readsAs_splat (BitVec.ofNat 32 e.rgn) false false),
    readsAs_special (by decide) (readsAs_splat e.invk false false), readsAs_special (by decide) (readsAs_splat e.phnum false false),
    readsAs_special (by decide) ?tick, readsAs_special (by decide) (readsAs_mask (e.mask 0)),
    fun k hk => ⟨_, vector_getElem?_eq_getD e.m hk Mask.installed, readsAs_special (by omega) ?mask⟩,
    fun k hk => ⟨_, vector_getElem?_eq_getD e.x hk Scale.installed, readsAs_special (by omega) ?scale⟩,
    fun c hc j hj w hw => ?slot, fun c hc j hj => ?out⟩
  · simp only [rd, readDes, desOf_state hn, vector_getElem?_eq_getD e.s hn Reg.zero]
  · simp only [rd, readDes, desOf_const hn, vector_getElem?_eq_getD e.k hn Reg.zero]
  case zero =>
    refine ⟨fun n _ => ?_, rfl, rfl⟩
    change (BitVec.extractLsb' (32 * n) 32 0#512).toNat = 0
    rw [BitVec.extractLsb'_zero, BitVec.toNat_zero]
  case lanes =>
    refine ⟨fun n hn => ?_, rfl, rfl⟩
    change ((Payload.ofLanes (fun i => BitVec.ofNat 32 i)).lane n).toNat = n
    rw [lane_ofLanes _ n hn, BitVec.toNat_ofNat, Nat.mod_eq_of_lt (by omega)]
  case tick =>
    change ReadsAs { pay := Payload.splat (if g.clk.tmod = 0 then 0 else BitVec.ofNat 32 g.tick), pz := false, tn := g.clk.tmod == 2 } _ _ _
    have h := readsAs_splat (if g.clk.tmod = 0 then 0 else BitVec.ofNat 32 g.tick) false (g.clk.tmod == 2)
    rwa [apply_ite BitVec.toNat] at h
  case mask => rw [special_mask hk]; exact readsAs_mask _
  case scale => rw [special_scale hk]; exact readsAs_scale _
  case slot =>
    have hs : e.slot c j = w := by rw [Elem.slot, List.getD_eq_getElem?_getD, hw]; rfl
    simp only [rd, readDes, desOf_slot hc hj, hs]
    exact ⟨rfl, rfl, rfl⟩
  case out => simp only [rd, readDes, desOf_out (show c < 32 by omega) (show j < 8 by omega)]; rfl

-- What a destination receives -------------------------------------------------------------------------------------------------

/-- A register as the data word that a staging slot holds (R72). -/
def stagedWord (v : Reg) : CWord := { pay := v.pay, lr := false, ls := false, pz := v.pz, tn := v.tn }

theorem writeDes_state {d : BitVec 10} {n : Nat} (h : desOf d = .state n) (v : Reg) :
    writeDes e d v = { e with s := e.s.setIfInBounds n v } := by rw [writeDes, h]

theorem writeDes_out {d : BitVec 10} {c j : Nat} (h : desOf d = .out c j) (v : Reg) :
    writeDes e d v = { e with run := { e.run with stag := Tab.set e.run.stag (4 * c + j) (stagedWord v) } } := by
  rw [writeDes, h]
  rfl

/-- The second part of O60: a designator of each kind by what its write changes. -/
theorem registerFrames_destinations : Claim.Destinations := by
  intro e v
  refine ⟨rfl, fun n hn => ?_, fun c hc j hj => ?_⟩
  · rw [writeDes_state (desOf_state hn)]
    exact ⟨rfl, Vector.getElem?_setIfInBounds_self_of_lt hn, fun k _ hk => Vector.getElem?_setIfInBounds_ne hk.symm⟩
  · rw [writeDes_out (desOf_out (show c < 32 by omega) (show j < 8 by omega))]
    refine ⟨rfl, ?_, fun c' hc' j' hj' h => ?_⟩
    · rw [Elem.staging, tab_get_set, if_pos rfl]
      rfl
    · rw [Elem.staging, tab_get_set, if_neg (by omega), Elem.staging]

end
end Sys2Proof.Machine
end

section
/-! PROOFS. The frame of the register instructions (R76, R103, R106). -/
namespace Sys2Proof.Machine
open Sys2Proof.Claim

-- What an instruction changes of its unit -------------------------------------------------------------------------------------

/-- Of its unit an instruction with destination `d` has changed no more than that destination and the sticky flags. -/
def OnlyDest (d : BitVec 10) (e e1 : Elem) : Prop :=
  e1 = { e with s := e1.s, m := e1.m, x := e1.x, sticky := e1.sticky, run := { e.run with stag := e1.run.stag } }
  ∧ (∀ k < 64, d.toNat ≠ k → e1.s[k]? = e.s[k]?)
  ∧ (∀ k : Nat, d.toNat ≠ 0x300 + (k / 4) * 8 + k % 4 → Tab.get CWord.zero e1.run.stag k = Tab.get CWord.zero e.run.stag k)
  ∧ (∀ k < 3, d.toNat ≠ 0xF1 + k → e1.m[k]? = e.m[k]?)
  ∧ (∀ k < 8, d.toNat ≠ 0xE8 + k → e1.x[k]? = e.x[k]?)

section
variable {d : BitVec 10} {e e1 : Elem}

theorem onlyDest_refl (d : BitVec 10) (e : Elem) : OnlyDest d e e :=
  ⟨rfl, fun _ _ _ => rfl, fun _ _ => rfl, fun _ _ _ => rfl, fun _ _ _ => rfl⟩

/-- Only the sticky flags set. -/
theorem OnlyDest.sticky (h : OnlyDest d e e1) (g : BitVec 5) : OnlyDest d e { e1 with sticky := g } := by
  obtain ⟨he, hs, hstag, hm, hx⟩ := h
  exact ⟨by rw [he], hs, hstag, hm, hx⟩

/-- What has changed since the sticky flags were raised has changed since before. -/
theorem OnlyDest.of_raise {g : Flags} (h : OnlyDest d (e.raise g) e1) : OnlyDest d e e1 := h

/-- A destination that may be one is written, and nothing else of the unit changes (R45 to R48, R72). -/
theorem onlyDest_writeDes (h : dstOk e d = true) (v : Reg) : OnlyDest d e (writeDes e d v) := by
  simp only [dstOk, regOrOut, Bool.or_eq_true, Bool.and_eq_true, beq_iff_eq] at h
  obtain (hs | ⟨ho, hok⟩) | hz := h
  · rw [writeDes_state (desOf_of_isState hs)]
    refine ⟨rfl, fun k _ hk => ?_, fun _ _ => rfl, fun _ _ _ => rfl, fun _ _ _ => rfl⟩
    exact Vector.getElem?_setIfInBounds_ne hk
  · have hj : desOfs d < 4 := by
      simp only [outOk, Bool.and_eq_true, decide_eq_true_eq] at hok
      exact hok.1.1.2
    rw [writeDes_out (desOf_of_isOut ho)]
    refine ⟨rfl, fun _ _ _ => rfl, fun k hk => ?_, fun _ _ _ => rfl, fun _ _ _ => rfl⟩
    have h3 : d.toNat / 256 = 3 := by simpa [isOut] using ho
    simp only [desOfs] at hj
    rw [tab_get_set, if_neg]
    simp only [desChan, desOfs]
    omega
  · have hw : writeDes e d v = e := by subst hz; rfl
    rw [hw]
    exact onlyDest_refl d e

theorem onlyDest_setMask (h : isMask d = true) (m : Mask) : OnlyDest d e (e.setMask (maskNo d) m) := by
  refine ⟨rfl, fun _ _ _ => rfl, fun _ _ => rfl, fun k _ hk => Vector.getElem?_setIfInBounds_ne fun hk' => hk ?_, fun _ _ _ => rfl⟩
  simp only [isMask, Bool.or_eq_true, beq_iff_eq] at h
  rw [← hk']
  obtain (rfl | rfl) | rfl := h <;> rfl

theorem onlyDest_scale (h : isScale d = true) (x : Scale) : OnlyDest d e { e with x := e.x.setIfInBounds (d.toNat % 8) x } := by
  refine ⟨rfl, fun _ _ _ => rfl, fun _ _ => rfl, fun _ _ _ => rfl, fun k _ hk => Vector.getElem?_setIfInBounds_ne fun hk' => hk ?_⟩
  have h8 : 0xE8 ≤ d.toNat ∧ d.toNat ≤ 0xEF := by simpa [isScale] using h
  omega

end

section
variable {s : State} {e : Elem} {f : Fields}

theorem dstOk_of_badDst (h : badDst e f = none) : dstOk e f.d = true := by
  by_contra hd
  simp [badDst, hd] at h

theorem dstOk_of_badReg (h : badReg e f = none) : dstOk e f.d = true := by
  by_contra hd
  simp_all [badReg, dstOk]

theorem isMask_of_badMask (h : badMask f = none) : isMask f.d = true := by
  by_contra hd
  simp [badMask, hd] at h

theorem onlyDest_put (h : dstOk e f.d = true) (g : Nat → Lane) (srcs : List Reg) : OnlyDest f.d e (put s e f g srcs) :=
  onlyDest_writeDes h _

theorem onlyDest_putFlags (h : dstOk e f.d = true) (g : Nat → Lane × Flags) (srcs : List Reg) :
    OnlyDest f.d e (putFlags s e f g srcs) :=
  OnlyDest.of_raise (onlyDest_put (e := e.raise _) h _ srcs)

theorem onlyDest_putPart (h : dstOk e f.d = true) (n m part : Nat) (g : Nat → Lane × Flags) (srcs : List Reg) :
    OnlyDest f.d e (putPart s e f n m part g srcs) :=
  OnlyDest.of_raise (onlyDest_writeDes (e := e.raise _) h _)

theorem onlyDest_putMask (h : isMask f.d = true) (g : Nat → Bool) (srcs : List Reg) : OnlyDest f.d e (putMask e f g srcs) :=
  onlyDest_setMask h _

-- What the work of an instruction leaves --------------------------------------------------------------------------------------

/-- The work of an instruction leaves the module as it is, goes on to the next word, and changes of its unit no more than the
destination. -/
def Framed (s : State) (d : BitVec 10) (e : Elem) (r : Res Done) : Prop :=
  Yields (fun x => x.st = s ∧ x.flow = .seq ∧ OnlyDest d e x.elem) r

theorem framed_done {d : BitVec 10} {e1 : Elem} (h : OnlyDest d e e1) : Framed s d e (done s e1) := (yields_ok _).2 ⟨rfl, rfl, h⟩

/-- What passes the checks of R44 has no illegal operand. -/
theorem yields_check {P : Nat → Prop} {u : Uses} {ok : Bool} {types : Nat → Bool} {bad : Option (BitVec 10)}
    (h : bad = none → ∀ t, P t) : Yields P (check e f u ok types bad) := by
  simp only [check, yields_bind, yields_need, yields_noBad, yields_await]
  exact fun _ _ _ hbad _ => (yields_pure _).2 (h hbad _)

/-- Work that begins with the checks of R44. -/
theorem framed_check {d : BitVec 10} {f' : Fields} {u : Uses} {ok : Bool} {types : Nat → Bool} {bad : Option (BitVec 10)}
    {g : Nat → Res Done} (h : bad = none → ∀ t, Framed s d e (g t)) : Framed s d e (check e f' u ok types bad >>= g) :=
  (yields_bind _ _).2 (yields_check h)

/-- Work that begins with another check. -/
theorem framed_bind {d : BitVec 10} {x : Res Unit} {g : Unit → Res Done} (h : Framed s d e (g ())) : Framed s d e (x >>= g) :=
  (yields_bind _ _).2 (yields_unit _ h)

/-- Work that begins with a check of an operand. -/
theorem framed_needDes {d d' : BitVec 10} {ok : Bool} {g : Unit → Res Done} (h : ok = true → Framed s d e (g ())) :
    Framed s d e (needDes ok d' >>= g) :=
  (yields_bind _ _).2 ((yields_needDes ok d').2 h)

theorem framed_noBad {d : BitVec 10} {bad : Option (BitVec 10)} {g : Unit → Res Done} (h : bad = none → Framed s d e (g ())) :
    Framed s d e (noBad bad >>= g) :=
  (yields_bind _ _).2 ((yields_noBad bad).2 h)

/-- Checked work that writes a destination which may also be `zero`. -/
theorem framed_put_dst {f' : Fields} {u : Uses} {ok : Bool} {types : Nat → Bool} {g : Nat → Nat → Lane} {srcs : Nat → List Reg} :
    Framed s f.d e (check e f' u ok types (badDst e f) >>= fun t => done s (put s e f (g t) (srcs t))) :=
  framed_check fun h t => framed_done (onlyDest_put (dstOk_of_badDst h) (g t) (srcs t))

/-- Checked work that writes a state register or an output slot. -/
theorem framed_put_reg {f' : Fields} {u : Uses} {ok : Bool} {types : Nat → Bool} {g : Nat → Nat → Lane} {srcs : Nat → List Reg} :
    Framed s f.d e (check e f' u ok types (badReg e f) >>= fun t => done s (put s e f (g t) (srcs t))) :=
  framed_check fun h t => framed_done (onlyDest_put (dstOk_of_badReg h) (g t) (srcs t))

/-- Checked work that writes a state register or an output slot and raises flags. -/
theorem framed_putFlags_reg {f' : Fields} {u : Uses} {ok : Bool} {types : Nat → Bool} {g : Nat → Nat → Lane × Flags}
    {srcs : Nat → List Reg} :
    Framed s f.d e (check e f' u ok types (badReg e f) >>= fun t => done s (putFlags s e f (g t) (srcs t))) :=
  framed_check fun h t => framed_done (onlyDest_putFlags (dstOk_of_badReg h) (g t) (srcs t))

end

/-- The work of an instruction keeps the frame. -/
def KeepsFrame (body : Body) : Prop := ∀ s f e, Framed s f.d e (body s f e)

-- Work that is more than its checks and one write ------------------------------------------------------------------------------

theorem keepsFrame_bodyMskop : KeepsFrame bodyMskop := fun _ _ _ =>
  framed_bind <| framed_bind <| framed_bind <| framed_needDes fun h => framed_done (onlyDest_putMask h _ _)

theorem keepsFrame_bodyMskmv : KeepsFrame bodyMskmv := fun s f e => framed_bind <| by
  dsimp only
  split
  · exact framed_bind <| framed_needDes fun h => framed_bind <| framed_done (onlyDest_putMask h _ _)
  · exact framed_bind <| framed_needDes fun h => framed_bind <| framed_done (onlyDest_put (by simp [dstOk, h]) _ _)
  · exact framed_needDes fun h => framed_done (onlyDest_putMask h _ _)

theorem keepsFrame_bodyCmp : KeepsFrame bodyCmp := fun _ _ _ =>
  framed_check fun h _ => framed_done (onlyDest_putMask (isMask_of_badMask h) _ _)

theorem keepsFrame_bodySel : KeepsFrame bodySel := fun s f e => framed_check fun h _ => by
  split at h
  · exact framed_done (onlyDest_put (dstOk_of_badDst h) _ _)
  · cases h

theorem keepsFrame_bodyLred : KeepsFrame bodyLred := fun s f e => framed_check fun h _ => by
  have hd := dstOk_of_badDst h
  dsimp only
  split
  · exact framed_done (onlyDest_putFlags hd _ _)
  · exact framed_done (onlyDest_put hd _ _)

theorem keepsFrame_bodyFcmp : KeepsFrame bodyFcmp := fun _ f e => framed_check fun h _ => framed_done <|
  OnlyDest.of_raise (onlyDest_putMask (f := { f with ln := 0 }) (e := e.raise _) (isMask_of_badMask h) _ _)

theorem keepsFrame_bodyFsts : KeepsFrame bodyFsts := fun s f e => framed_bind <| by
  dsimp only
  split
  · exact framed_done ((onlyDest_refl f.d e).sticky _)
  · refine framed_noBad fun h => framed_bind <| framed_done ?_
    have hp (g : Nat → Lane) : OnlyDest f.d e (put s e { f with ln := 0, wd := 0 } g []) :=
      onlyDest_put (f := { f with ln := 0, wd := 0 }) (dstOk_of_badReg h) g []
    split
    · exact (hp _).sticky 0
    · exact hp _

theorem keepsFrame_bodyCvt : KeepsFrame bodyCvt := fun _ _ _ =>
  framed_check fun h _ => framed_done (onlyDest_putPart (dstOk_of_badReg h) _ _ _ _ _)

theorem keepsFrame_bodyDq : KeepsFrame bodyDq := fun s f e => framed_bind <| framed_check fun h _ => framed_bind <| by
  split at h
  · cases h
  · exact framed_done (onlyDest_putPart (dstOk_of_badReg h) _ _ _ _ _)

theorem keepsFrame_bodyQnt : KeepsFrame bodyQnt := fun s f e => framed_bind <| framed_check fun h _ => by
  split at h
  · cases h
  · exact framed_done (onlyDest_putPart (dstOk_of_badReg h) _ _ _ _ _)

theorem keepsFrame_bodyScl : KeepsFrame bodyScl := fun _ _ _ =>
  framed_bind <| framed_bind <| framed_needDes fun h => framed_bind <| framed_done (onlyDest_scale h _)

theorem keepsFrame_bodyLscan : KeepsFrame bodyLscan := fun _ f _ =>
  framed_putFlags_reg (f := { f with ln := 0 })

/-- `fma` has no `wb` (R122). -/
theorem keepsFrame_fma : KeepsFrame (fun s f e => floatBody usesABC 2 fusedNum s { f with wb := 0 } e) := fun _ f _ =>
  framed_putFlags_reg (f := { f with wb := 0 })

-- The instructions ------------------------------------------------------------------------------------------------------------

/-- The ops of the register instructions. -/
def IsRegOp (op : BitVec 8) : Prop := 0x0A ≤ op.toNat ∧ op.toNat ≤ 0x0B ∨ 0x20 ≤ op.toNat ∧ op.toNat ≤ 0x54

/-- A register instruction is issued with work that keeps the frame. -/
theorem exec_keepsFrame {i : Instr} {op : BitVec 8} {f : Fields} (ho : opFields i = some (op, f)) (hop : IsRegOp op) :
    ∃ body : Body, (∀ s, exec i s = issue op body f s) ∧ KeepsFrame body := by
  cases i
  case add | sub | mul | mulh | mad | div | rem | abs | neg | min | max | and | or | xor | andn | shl | shr | sar | rot | clz | popc
      | bfx | bfi | mov | movi | pack | unpk | shuf | bcst =>
    cases ho; exact ⟨_, fun _ => rfl, fun _ _ _ => framed_put_dst⟩
  case fmin | fmax | fabs | fneg | fcls => cases ho; exact ⟨_, fun _ => rfl, fun _ _ _ => framed_put_reg⟩
  case fadd | fsub | fmul | frcp | frsq | fex2 | flg2 | frnd => cases ho; exact ⟨_, fun _ => rfl, fun _ _ _ => framed_putFlags_reg⟩
  case fma => cases ho; exact ⟨_, fun _ => rfl, keepsFrame_fma⟩
  case mskop => cases ho; exact ⟨_, fun _ => rfl, keepsFrame_bodyMskop⟩
  case mskmv => cases ho; exact ⟨_, fun _ => rfl, keepsFrame_bodyMskmv⟩
  case cmp => cases ho; exact ⟨_, fun _ => rfl, keepsFrame_bodyCmp⟩
  case sel => cases ho; exact ⟨_, fun _ => rfl, keepsFrame_bodySel⟩
  case lred => cases ho; exact ⟨_, fun _ => rfl, keepsFrame_bodyLred⟩
  case fcmp => cases ho; exact ⟨_, fun _ => rfl, keepsFrame_bodyFcmp⟩
  case fsts => cases ho; exact ⟨_, fun _ => rfl, keepsFrame_bodyFsts⟩
  case cvt => cases ho; exact ⟨_, fun _ => rfl, keepsFrame_bodyCvt⟩
  case dq => cases ho; exact ⟨_, fun _ => rfl, keepsFrame_bodyDq⟩
  case qnt => cases ho; exact ⟨_, fun _ => rfl, keepsFrame_bodyQnt⟩
  case scl => cases ho; exact ⟨_, fun _ => rfl, keepsFrame_bodyScl⟩
  case lscan => cases ho; exact ⟨_, fun _ => rfl, keepsFrame_bodyLscan⟩
  all_goals cases ho <;> exact absurd hop (by unfold IsRegOp; decide)

/-- The third part of O60: an instruction whose work keeps the frame traps, holds issue, or completes within it. -/
theorem registerFrames_frame : Claim.RegisterFrame := by
  intro i s e op f hr ho hop
  obtain ⟨body, hx, hb⟩ := exec_keepsFrame ho hop
  cases hc : (classesOf op).contains e.cls with
  | false => exact .inl ⟨.instr, (hx s).trans (issue_class hr hc)⟩
  | true =>
    cases hw : body s f e with
    | error h => cases h with
      | trap t => exact .inl ⟨t, (hx s).trans (issue_trap hr hc hw)⟩
      | hold c => exact .inr (.inl ⟨c, (hx s).trans (issue_hold hr hc hw)⟩)
    | ok d =>
      obtain ⟨e1, s1, fl⟩ := d
      obtain ⟨rfl, rfl, honly⟩ := hb s f e _ hw
      exact .inr (.inr ⟨e1, (hx _).trans (issue_done (by simp) hr hc hw), honly⟩)

end Sys2Proof.Machine
end

section
/-! PROOFS. O60: the order of the checks of the register instructions (R42, R44, R63, R71 to R73; log 61). -/
namespace Sys2Proof.Machine
open Sys2Proof.Claim

section
variable {s : State} {e : Elem} {f : Fields} {u : Uses}

/-- Work that begins with the checks of R44: of `vars` variants, of the types listed, and of one illegal operand beside the sources. -/
def StartsChecked (e : Elem) (f : Fields) (u : Uses) (vars : Nat) (types : List Nat) (bad : Option (BitVec 10)) (r : Res Done) : Prop :=
  ∃ (ok : Bool) (tys : Nat → Bool) (g : Nat → Res Done),
    r = (check e f u ok tys bad >>= g) ∧ (ok = true ↔ f.var.toNat < vars) ∧ ∀ t, tys t = true ↔ t ∈ types

-- The types and the variants that the bodies name (R30, R106, R120) ------------------------------------------------------------

theorem intTypes_iff (t : Nat) : intTypes t = true ↔ t ∈ [1, 2, 3, 4] := by
  simp only [intTypes, decide_eq_true_eq, List.mem_cons, List.not_mem_nil, or_false]
  omega

theorem allTypes_iff (t : Nat) : allTypes t = true ↔ t ∈ [1, 2, 3, 4, 5, 6, 7, 8, 9, 10, 11, 12] := by
  simp only [allTypes, decide_eq_true_eq, List.mem_cons, List.not_mem_nil, or_false]
  omega

theorem floatTypes_iff (t : Nat) : floatTypes t = true ↔ t ∈ [5, 6, 7] := by
  simp [floatTypes, or_assoc]

theorem var_le_one_iff : decide (f.var.toNat ≤ 1) = true ↔ f.var.toNat < 2 := by
  rw [decide_eq_true_eq, Nat.lt_succ_iff]

theorem var_zero_iff : (f.var == 0) = true ↔ f.var.toNat < 1 := by
  rw [beq_iff_eq, var_eq_zero_iff, Nat.lt_one_iff]

-- The bodies ------------------------------------------------------------------------------------------------------------------

theorem startsChecked_satBody (g : Int → Int → Int → Int) :
    StartsChecked e f u 2 [1, 2, 3, 4] (badDst e f) (satBody u g s f e) := ⟨_, _, _, rfl, var_le_one_iff, intTypes_iff⟩

theorem startsChecked_unsBody (g : Nat → Int → Int → Int) :
    StartsChecked e f u 2 [1, 2, 3, 4] (badDst e f) (unsBody u g s f e) := ⟨_, _, _, rfl, var_le_one_iff, intTypes_iff⟩

theorem startsChecked_bitBody (g : Lane → Lane → Lane) :
    StartsChecked e f usesAB 1 [1, 2, 3, 4, 5, 6, 7, 8, 9, 10, 11, 12] (badDst e f) (bitBody g s f e) :=
  ⟨_, _, _, rfl, var_zero_iff, allTypes_iff⟩

theorem startsChecked_shiftBody (g : Nat → Nat → Nat → Nat) :
    StartsChecked e f (if f.var = 1 then usesA else usesAB) 2 [1, 2, 3, 4] (badDst e f) (shiftBody g s f e) :=
  ⟨_, _, _, rfl, var_le_one_iff, intTypes_iff⟩

theorem startsChecked_countBody (g : Nat → Nat → Nat) :
    StartsChecked e f usesA 1 [1, 2, 3, 4] (badDst e f) (countBody g s f e) := ⟨_, _, _, rfl, var_zero_iff, intTypes_iff⟩

theorem startsChecked_floatBody (vars : Nat) (fn : Nat → Num → Num → Num → Num × Flags) :
    StartsChecked e f u vars [5, 6, 7] (badReg e f) (floatBody u vars fn s f e) := ⟨_, _, _, rfl, decide_eq_true_iff, floatTypes_iff⟩

theorem startsChecked_pickBody (larger : Bool) :
    StartsChecked e f usesAB 2 [5, 6, 7] (badReg e f) (pickBody larger s f e) := ⟨_, _, _, rfl, var_le_one_iff, floatTypes_iff⟩

theorem startsChecked_elemBody (g : Fmt → Nat → Nat) :
    StartsChecked e f usesA 1 [5, 6, 7] (badReg e f) (elemBody g s f e) := ⟨_, _, _, rfl, var_zero_iff, floatTypes_iff⟩

end

/-- What an instruction that R106 to R108 and R120 to R127 list checks first is what they list for it, and its op is one of those
of integer and float instructions. -/
theorem exec_startsChecked {i : Instr} {op : BitVec 8} {f : Fields} {u : Uses} {vars : Nat} {types : List Nat}
    (ho : opFields i = some (op, f)) (hl : Claim.entryOf op.toNat f = some (u, vars, types)) :
    (0x20 ≤ op.toNat ∧ op.toNat ≤ 0x54) ∧ ∃ body : Body, (∀ s, exec i s = issue op body f s)
      ∧ ∀ s e, StartsChecked e f u vars types (if op.toNat < 0x40 then badDst e f else badReg e f) (body s f e) := by
  cases i
  case add | sub | mul | mad | abs | neg => cases ho; cases hl; exact ⟨by decide, _, fun _ => rfl, fun _ _ => startsChecked_satBody _⟩
  case mulh | div | rem | min | max => cases ho; cases hl; exact ⟨by decide, _, fun _ => rfl, fun _ _ => startsChecked_unsBody _⟩
  case and | or | xor | andn => cases ho; cases hl; exact ⟨by decide, _, fun _ => rfl, fun _ _ => startsChecked_bitBody _⟩
  case shl | shr | sar | rot => cases ho; cases hl; exact ⟨by decide, _, fun _ => rfl, fun _ _ => startsChecked_shiftBody _⟩
  case clz | popc => cases ho; cases hl; exact ⟨by decide, _, fun _ => rfl, fun _ _ => startsChecked_countBody _⟩
  case fadd | fsub | fmul | frcp | frsq | fex2 | flg2 =>
    cases ho; cases hl; exact ⟨by decide, _, fun _ => rfl, fun _ _ => startsChecked_floatBody _ _⟩
  case fmin | fmax => cases ho; cases hl; exact ⟨by decide, _, fun _ => rfl, fun _ _ => startsChecked_pickBody _⟩
  case fabs | fneg | fcls => cases ho; cases hl; exact ⟨by decide, _, fun _ => rfl, fun _ _ => startsChecked_elemBody _⟩
  all_goals cases ho <;> cases hl

theorem classesOf_integer {op : BitVec 8} : 0x20 ≤ op.toNat ∧ op.toNat < 0x40 → classesOf op = [.ve, .se, .ag, .fc] := by
  revert op; decide

theorem classesOf_float {op : BitVec 8} : 0x40 ≤ op.toNat ∧ op.toNat ≤ 0x54 → classesOf op = [.ve, .fc] := by
  revert op; decide

/-- The classes of units that R63 lets execute integer and float instructions. -/
theorem mem_classesOf_of_unit {op : BitVec 8} {e : Elem} (hop : 0x20 ≤ op.toNat ∧ op.toNat ≤ 0x54)
    (h : if op.toNat < 0x40 then IntUnit e else FloatUnit e) : (classesOf op).contains e.cls = true := by
  split at h
  · next hi =>
    rw [classesOf_integer ⟨hop.1, hi⟩]
    unfold IntUnit at h
    cases hc : e.cls <;> simp_all
  · next hi =>
    rw [classesOf_float ⟨by omega, hop.2⟩]
    obtain h | h := h <;> rw [h] <;> decide

/-- The fourth part of O60: the first check that fails is the one that `check` finds. -/
theorem registerFrames_checksInOrder : Claim.ChecksInOrder := by
  intro i s e op f u vars types hr ho hl hunit bad sound
  obtain ⟨hop, body, hx, hb⟩ := exec_startsChecked ho hl
  obtain ⟨ok, tys, g, hbody, hok, htys⟩ := hb s e
  have hc := mem_classesOf_of_unit hop hunit
  have hsound : sound ↔ ok = true ∧ f.ln ≠ 3 ∧ waitsOk u f = true := and_congr_left' hok.symm
  have traps {t : Trap} (h : check e f u ok tys bad = .error (.trap t)) : Traps i s e t (wordOf op f) :=
    (hx s).trans (issue_trap hr hc (by rw [hbody, h]; rfl))
  refine ⟨fun h => traps (check_instr (mt hsound.2 h)), fun h ht => ?type, fun d h ht hd => ?source, fun d h ht hn hd => ?dest,
    fun h ht hn hd hw => ?wait⟩
  all_goals obtain ⟨htype, hsource, hdest, hwait⟩ := check_later (types := tys) (bad := bad) (hsound.1 h)
  case type => exact traps (htype (Bool.eq_false_iff.2 (mt (htys _).1 ht)))
  case source => exact traps (hsource d ((htys _).2 ht) hd)
  case dest => exact traps (hdest d ((htys _).2 ht) hn hd)
  case wait => exact (hx s).trans (issue_hold hr hc (by rw [hbody, hwait ((htys _).2 ht) hn hd hw]; rfl))

/-- Settles O60 from its four parts. -/
theorem registerFrames : Obligations.RegisterFrames :=
  ⟨registerFrames_frame, registerFrames_sources, registerFrames_destinations, registerFrames_checksInOrder⟩

end Sys2Proof.Machine
end

section
/-! PROOFS. Integer instructions whose checks pass: what each lane of the destination receives (R37, R42, R44, R106). -/
namespace Sys2Proof.Machine
open Sys2Proof.Claim

section
variable {i : Instr} {op : BitVec 8} {body : Body} {s : State} {e : Elem} {f : Fields} {u : Uses} {fm : Fmt} {srcs : List Reg}

-- Formats and types -----------------------------------------------------------------------------------------------------------

theorem fmtOf_of_code {t : Nat} (h : Fmt.ofCode t = some fm) : fmtOf t = fm := by rw [fmtOf, h]; rfl

/-- A resolved type is never 0: an instruction names one, or its channels do, or it is INT32 (R28, R29). -/
theorem one_le_resolve (e : Elem) (ty : BitVec 4) (used : List (BitVec 10)) : 1 ≤ resolve e ty used := by
  have one_le_typeOfFmt (k : Nat) : 1 ≤ typeOfFmt k := by unfold typeOfFmt; split_ifs <;> omega
  unfold resolve
  split
  · next h => exact Nat.one_le_iff_ne_zero.2 fun h0 => h (BitVec.eq_of_toNat_eq h0)
  · cases hc : used.findSome? (chanType e) with
    | none => exact Nat.le_refl 1
    | some t =>
      obtain ⟨d, -, hd⟩ := List.exists_of_findSome?_eq_some hc
      unfold chanType at hd
      split_ifs at hd <;> cases hd <;> exact one_le_typeOfFmt _

theorem one_le_typeIn (e : Elem) (f : Fields) (u : Uses) : 1 ≤ typeIn e f u := one_le_resolve _ _ _

theorem intTypes_typeIn (h : typeIn e f u ≤ 4) : intTypes (typeIn e f u) = true := decide_eq_true ⟨one_le_typeIn e f u, h⟩

theorem allTypes_typeIn (h : typeIn e f u ≤ 12) : allTypes (typeIn e f u) = true := decide_eq_true ⟨one_le_typeIn e f u, h⟩

-- Checked work ----------------------------------------------------------------------------------------------------------------

/-- The ops that an integer unit executes (R63). -/
theorem mem_classesOf_integer (hi : IntUnit e) (hop : 0x20 ≤ op.toNat ∧ op.toNat < 0x40) : (classesOf op).contains e.cls = true :=
  mem_classesOf_of_unit ⟨hop.1, by omega⟩ (by rwa [if_pos hop.2])

/-- Checked work that writes a destination lane by lane. -/
theorem lanes_of_checked {bad : Option (BitVec 10)} {ok : Bool} {types : Nat → Bool} {g : Nat → Nat → Lane} {R : Nat → Lane → Prop}
    (hx : exec i s = issue op body f s) (hb : body s f e = check e f u ok types bad >>= fun t => done s (put s e f (g t) srcs))
    (hop : 0x20 ≤ op.toNat ∧ op.toNat < 0x40) (hr : Runs s e) (hi : IntUnit e) (hln : f.ln ≠ 3) (hl : Legal e f u bad) (hok : ok = true)
    (ht : types (typeIn e f u) = true) (hg : ∀ n < 16, R n (g (typeIn e f u) n)) : Lanes i s e f srcs 0 R := by
  refine lanes_of_put hx hr (mem_classesOf_integer hi hop) ?_ fun n hn _ => hg n hn
  rw [hb, check_ok hl hln hok ht, raise_none]
  rfl

/-- Checked work whose variant is none of its table. -/
theorem traps_of_variant {bad : Option (BitVec 10)} {ok : Bool} {types : Nat → Bool} {g : Nat → Res Done}
    (hx : exec i s = issue op body f s) (hb : body s f e = check e f u ok types bad >>= g)
    (hop : 0x20 ≤ op.toNat ∧ op.toNat < 0x40) (hr : Runs s e) (hi : IntUnit e) (hok : ok = false) :
    Traps i s e .instr (wordOf op f) := by
  refine hx.trans (issue_trap hr (mem_classesOf_integer hi hop) ?_)
  rw [hb, check_instr (by simp [hok])]
  rfl

-- Lanes computed element by element ---------------------------------------------------------------------------------------------

theorem elemOf_intLane {uns sat : Bool} {g : Int → Int → Int → Int} {x y z : Lane} {j : Nat} (h : j < fm.perLane) :
    elemOf fm (intLane fm uns sat g x y z) j =
      (let v := g (elemInt fm uns (elemOf fm x j)) (elemInt fm uns (elemOf fm y j)) (elemInt fm uns (elemOf fm z j))
       fm.wrap (if sat then fm.clamp v else v)) := by
  rw [intLane, elemOf_laneOf _ _ _ h, Nat.mod_eq_of_lt (wrap_lt _ _)]

end
end Sys2Proof.Machine
end

section
/-! PROOFS. O1: integer arithmetic (R37, R88, R106, R107). -/
namespace Sys2Proof.Machine
open Sys2Proof.Claim

section
variable {i : Instr} {op : BitVec 8} {s : State} {e : Elem} {f : Fields} {u : Uses} {fm : Fmt}

/-- The remainder as R107 gives it: x for a zero divisor, and else what the quotient leaves. -/
theorem rem_eq_tmod (x y : Int) : (if y = 0 then x else x - y * quot x y) = x.tmod y := by
  split
  · next h => rw [h, Int.tmod_zero]
  · next h => rw [quot, if_neg h, Int.tmod_def]

theorem min_eq_ite_lt (x y : Int) : (if y < x then y else x) = min x y := by omega

theorem max_eq_ite_lt (x y : Int) : (if x < y then y else x) = max x y := by omega

section
variable (hop : 0x20 ≤ op.toNat ∧ op.toNat < 0x40) (hr : Runs s e) (hi : IntUnit e) (hln : f.ln ≠ 3) (hv : f.var.toNat ≤ 1)
  (hl : Legal e f u (badDst e f)) (hf : Fmt.ofCode (typeIn e f u) = some fm) (ht : typeIn e f u ≤ 4)
include hop hr hi hln hv hl hf ht

/-- An instruction whose variant 1 clamps, where its work computes `G` (R106). -/
theorem lanes_satBody {g : Int → Int → Int → Int} (hx : exec i s = issue op (satBody u g) f s) (G : Int → Int → Int → Int)
    (hG : ∀ x y z, g x y z = G x y z) : Lanes i s e f (sources s e f u) 0 (Elems fm fun n j =>
      (let v := G (elemInt fm false (elAt (srcA s e f) fm n j)) (elemInt fm false (elAt (srcB s e f) fm n j))
         (elemInt fm false (elAt (srcC s e f) fm n j))
       fm.wrap (if f.var = 1 then fm.clamp v else v))) := by
  refine lanes_of_checked hx rfl hop hr hi hln hl (decide_eq_true hv) (intTypes_typeIn ht) fun n _ j hj => ?_
  rw [fmtOf_of_code hf, elemOf_intLane hj, hG]
  simp only [beq_iff_eq, elAt]

/-- An instruction whose variant 1 reads its elements as unsigned, where its work computes `G` (R106). -/
theorem lanes_unsBody {g : Nat → Int → Int → Int} (hx : exec i s = issue op (unsBody u g) f s) (G : Int → Int → Int)
    (hG : ∀ x y, g fm.bits x y = G x y) : Lanes i s e f (sources s e f u) 0 (Elems fm fun n j =>
      fm.wrap (G (elemInt fm (decide (f.var = 1)) (elAt (srcA s e f) fm n j))
        (elemInt fm (decide (f.var = 1)) (elAt (srcB s e f) fm n j)))) := by
  refine lanes_of_checked hx rfl hop hr hi hln hl (decide_eq_true hv) (intTypes_typeIn ht) fun n _ j hj => ?_
  rw [fmtOf_of_code hf, elemOf_intLane hj, hG]
  rfl

end

/-- Settles O1: each instruction is of the kind that clamps or of the kind that reads unsigned, with its function of R106. -/
theorem integerArithmetic : Obligations.IntegerArithmetic := by
  unfold Obligations.IntegerArithmetic
  intro s e f fm hr hi hln hv
  refine ⟨fun hl hf ht => ⟨?add, ?sub, ?mul, ?mulh, ?div, ?rem, ?min, ?max⟩, fun hl hf ht => ⟨?abs, ?neg⟩, fun hl hf ht => ?mad⟩
  case add => exact lanes_satBody (by decide) hr hi hln hv hl hf ht rfl (fun x y _ => x + y) fun _ _ _ => rfl
  case sub => exact lanes_satBody (by decide) hr hi hln hv hl hf ht rfl (fun x y _ => x - y) fun _ _ _ => rfl
  case mul => exact lanes_satBody (by decide) hr hi hln hv hl hf ht rfl (fun x y _ => x * y) fun _ _ _ => rfl
  case mulh => exact lanes_unsBody (by decide) hr hi hln hv hl hf ht rfl (fun x y => x * y / 2 ^ fm.bits) fun _ _ => rfl
  case div => exact lanes_unsBody (by decide) hr hi hln hv hl hf ht rfl (fun x y => if y = 0 then -1 else x.tdiv y) fun _ _ => rfl
  case rem => exact lanes_unsBody (by decide) hr hi hln hv hl hf ht rfl (fun x y => x.tmod y) rem_eq_tmod
  case min => exact lanes_unsBody (by decide) hr hi hln hv hl hf ht rfl (fun x y => min x y) min_eq_ite_lt
  case max => exact lanes_unsBody (by decide) hr hi hln hv hl hf ht rfl (fun x y => max x y) max_eq_ite_lt
  case abs => exact lanes_satBody (by decide) hr hi hln hv hl hf ht rfl (fun x _ _ => |x|) fun x _ _ => (Int.abs_eq_natAbs x).symm
  case neg => exact lanes_satBody (by decide) hr hi hln hv hl hf ht rfl (fun x _ _ => -x) fun _ _ _ => rfl
  case mad => exact lanes_satBody (by decide) hr hi hln hv hl hf ht rfl (fun x y z => x * y + z) fun _ _ _ => rfl

end
end Sys2Proof.Machine
end

section
/-! PROOFS. O2: bitwise operations, shifts, the rotation and counts (R106, R108). -/
namespace Sys2Proof.Machine
open Sys2Proof.Claim

-- One element of `w` bits (R108) ------------------------------------------------------------------------------------------------

section
variable {w x : Nat} (hx : x < 2 ^ w)
include hx

theorem shrElem_lt (q : Nat) : shrElem w x q < 2 ^ w := by
  unfold shrElem
  split
  · exact Nat.two_pow_pos w
  · exact (Nat.div_le_self _ _).trans_lt hx

/-- The bits that a rotation brings in at the low end stand below those that it moves up. -/
theorem rotElem_lt (q : Nat) : rotElem w x q < 2 ^ w := by
  obtain rfl | hw := Nat.eq_zero_or_pos w
  · obtain rfl : x = 0 := by simpa using hx
    simp [rotElem]
  have hr : q % w < w := Nat.mod_lt q hw
  set r := q % w
  have hpow : 2 ^ w = 2 ^ (w - r) * 2 ^ r := by rw [← pow_add]; congr 1; omega
  have hlow : x / 2 ^ (w - r) < 2 ^ r := Nat.div_lt_of_lt_mul (hpow ▸ hx)
  have hhigh : x * 2 ^ r % 2 ^ w = x % 2 ^ (w - r) * 2 ^ r := by rw [hpow, Nat.mul_mod_mul_right]
  have hmod : x % 2 ^ (w - r) < 2 ^ (w - r) := Nat.mod_lt _ (Nat.two_pow_pos _)
  calc x * 2 ^ r % 2 ^ w + x / 2 ^ (w - r)
      < x % 2 ^ (w - r) * 2 ^ r + 2 ^ r := by omega
    _ = (x % 2 ^ (w - r) + 1) * 2 ^ r := by ring
    _ ≤ 2 ^ w := hpow ▸ Nat.mul_le_mul_right _ hmod

end

theorem shlElem_lt (w x q : Nat) : shlElem w x q < 2 ^ w := by
  unfold shlElem
  split
  · exact Nat.two_pow_pos w
  · exact Nat.mod_lt _ (Nat.two_pow_pos w)

/-- The number of ones below a bit, counted as R108 says. -/
theorem onesBelow_eq_countP (x w : Nat) : onesBelow x w = (List.range w).countP fun k => x.testBit k := by
  induction w with
  | zero => rfl
  | succ w ih =>
    rw [onesBelow, ih, List.range_succ, List.countP_append, List.countP_singleton, Nat.testBit_eq_decide_div_mod_eq]
    obtain h | h := Nat.mod_two_eq_zero_or_one (x / 2 ^ w) <;> simp [h]

theorem countP_range_lt (w : Nat) (p : Nat → Bool) : (List.range w).countP p < 2 ^ w :=
  (List.countP_le_length.trans_eq List.length_range).trans_lt Nat.lt_two_pow_self

-- The instructions --------------------------------------------------------------------------------------------------------------

section
variable {i : Instr} {op : BitVec 8} {s : State} {e : Elem} {f : Fields} {fm : Fmt}

theorem elemOf_bitsLane {g : Nat → Nat → Nat} {x y : Lane} {j : Nat} (h : j < fm.perLane) :
    elemOf fm (bitsLane fm g x y) j = g (elemOf fm x j) (elemOf fm y j) % 2 ^ fm.bits := elemOf_laneOf _ _ _ h

/-- The operands that a shift uses (R108). -/
theorem sources_shift : sources s e f (if f.var = 1 then usesA else usesAB) =
    if f.var = 1 then [srcA s e f] else [srcA s e f, srcB s e f] := by split <;> rfl

section
variable (hop : 0x20 ≤ op.toNat ∧ op.toNat < 0x40) (hr : Runs s e) (hi : IntUnit e)
include hop hr hi

theorem lanes_bitBody {g : Lane → Lane → Lane} (hln : f.ln ≠ 3) (hl : Legal e f usesAB (badDst e f)) (hv : f.var = 0)
    (ht : typeIn e f usesAB ≤ 12) (hx : exec i s = issue op (bitBody g) f s) {R : Nat → Lane → Prop}
    (hR : ∀ n, R n (g ((srcA s e f).pay.lane n) ((srcB s e f).pay.lane n))) :
    Lanes i s e f [srcA s e f, srcB s e f] 0 R :=
  lanes_of_checked hx rfl hop hr hi hln hl (by simp [hv]) (allTypes_typeIn ht) fun n _ => hR n

/-- A shift, where its work on an element of the type's width gives `G`. -/
theorem lanes_shiftBody {g : Nat → Nat → Nat → Nat} (hln : f.ln ≠ 3)
    (hl : Legal e f (if f.var = 1 then usesA else usesAB) (badDst e f)) (hv : f.var.toNat ≤ 1)
    (hf : Fmt.ofCode (typeIn e f (if f.var = 1 then usesA else usesAB)) = some fm)
    (ht : typeIn e f (if f.var = 1 then usesA else usesAB) ≤ 4) (hx : exec i s = issue op (shiftBody g) f s) (G : Nat → Nat → Nat)
    (hG : ∀ x q, x < 2 ^ fm.bits → g fm.bits x q % 2 ^ fm.bits = G x q) :
    Lanes i s e f (if f.var = 1 then [srcA s e f] else [srcA s e f, srcB s e f]) 0 (Elems fm fun n j =>
      G (elAt (srcA s e f) fm n j) (if f.var = 1 then f.imm.toNat % 64 else elAt (srcB s e f) fm n j)) := by
  rw [← sources_shift]
  refine lanes_of_checked hx rfl hop hr hi hln hl (decide_eq_true hv) (intTypes_typeIn ht) fun n _ j hj => ?_
  rw [fmtOf_of_code hf, elemOf_bitsLane hj, hG _ _ (elemOf_lt _ _ _)]
  rfl

/-- A count over one element, where its work gives `G`. -/
theorem lanes_countBody {g : Nat → Nat → Nat} (hln : f.ln ≠ 3) (hl : Legal e f usesA (badDst e f)) (hv : f.var = 0)
    (hf : Fmt.ofCode (typeIn e f usesA) = some fm) (ht : typeIn e f usesA ≤ 4) (hx : exec i s = issue op (countBody g) f s)
    (G : Nat → Nat) (hG : ∀ x, g fm.bits x % 2 ^ fm.bits = G x) :
    Lanes i s e f [srcA s e f] 0 (Elems fm fun n j => G (elAt (srcA s e f) fm n j)) := by
  refine lanes_of_checked hx rfl hop hr hi hln hl (by simp [hv]) (intTypes_typeIn ht) fun n _ j hj => ?_
  rw [fmtOf_of_code hf, elemOf_bitsLane hj, hG]
  rfl

end

/-- Settles O2: each instruction by its function on a lane or on an element, and the bound that keeps it within the element. -/
theorem bitsAndShifts : Obligations.BitsAndShifts := by
  unfold Obligations.BitsAndShifts
  intro s e f fm hr hi hln a b x w u srcs q
  have variant {i : Instr} {op : BitVec 8} {g : Nat → Nat → Nat → Nat} (hx : exec i s = issue op (shiftBody g) f s)
      (hop : 0x20 ≤ op.toNat ∧ op.toNat < 0x40) (hv : 2 ≤ f.var.toNat) : Traps i s e .instr (wordOf op f) :=
    traps_of_variant hx rfl hop hr hi (decide_eq_false (by omega))
  refine ⟨fun hl hv ht => ⟨?and, ?or, ?xor, ?andn⟩, fun hl hv hf ht => ⟨?shl, ?shr, ?sar, ?rot⟩, fun hl hv hf ht => ⟨?clz, ?popc⟩,
    fun hv => ⟨variant rfl (by decide) hv, variant rfl (by decide) hv, variant rfl (by decide) hv, variant rfl (by decide) hv⟩,
    fun hv => ⟨traps_of_variant rfl rfl (by decide) hr hi (beq_false_of_ne hv), traps_of_variant rfl rfl (by decide) hr hi (beq_false_of_ne hv)⟩⟩
  case and => exact lanes_bitBody (by decide) hr hi hln hl hv ht rfl fun n k => BitVec.getLsbD_and
  case or => exact lanes_bitBody (by decide) hr hi hln hl hv ht rfl fun n k => BitVec.getLsbD_or
  case xor => exact lanes_bitBody (by decide) hr hi hln hl hv ht rfl fun n k => BitVec.getLsbD_xor
  case andn => exact lanes_bitBody (by decide) hr hi hln hl hv ht rfl fun n k hk => by simp [hk, a, b]
  case shl =>
    exact lanes_shiftBody (by decide) hr hi hln hl hv hf ht rfl (fun x q => shlElem w x q) fun x q _ => Nat.mod_eq_of_lt (shlElem_lt w x q)
  case shr =>
    exact lanes_shiftBody (by decide) hr hi hln hl hv hf ht rfl (fun x q => shrElem w x q) fun x q hx => Nat.mod_eq_of_lt (shrElem_lt hx q)
  case sar =>
    exact lanes_shiftBody (by decide) hr hi hln hl hv hf ht rfl (fun x q => fm.wrap (signedOf w x / 2 ^ min q w))
      fun x q _ => Nat.mod_eq_of_lt (wrap_lt fm _)
  case rot =>
    exact lanes_shiftBody (by decide) hr hi hln hl hv hf ht rfl (fun x q => rotElem w x q) fun x q hx => Nat.mod_eq_of_lt (rotElem_lt hx q)
  case clz =>
    exact lanes_countBody (by decide) hr hi hln hl hv hf ht rfl (fun x => w - bitLen x)
      fun x => Nat.mod_eq_of_lt ((Nat.sub_le _ _).trans_lt Nat.lt_two_pow_self)
  case popc =>
    refine lanes_countBody (by decide) hr hi hln hl hv hf ht rfl (fun x => (List.range w).countP fun k => x.testBit k) fun x => ?_
    rw [onesBelow_eq_countP, Nat.mod_eq_of_lt (countP_range_lt _ _)]

end
end Sys2Proof.Machine
end

section
/-! PROOFS. O3: moves, bit fields, packing and the permutations of lanes (R109, R111 to R115). -/
namespace Sys2Proof.Machine
open Sys2Proof.Claim

-- Signed values of bits ---------------------------------------------------------------------------------------------------------

/-- The signed value of a number's low bits is that of the word of these bits. -/
theorem signedOf_eq_toInt {w : Nat} (hw : 0 < w) (v : Nat) : signedOf w v = (BitVec.ofNat w v).toInt := by
  have hpow : 2 ^ w = 2 * 2 ^ (w - 1) := by rw [← pow_succ', Nat.sub_add_cancel hw]
  rw [signedOf, BitVec.toInt_eq_toNat_cond, BitVec.toNat_ofNat, hpow]
  exact if_congr (by omega) rfl rfl

theorem signedOf_toNat {w : Nat} (hw : 0 < w) (x : BitVec w) : signedOf w x.toNat = x.toInt := by
  rw [signedOf_eq_toInt hw, BitVec.ofNat_toNat, BitVec.setWidth_eq]

/-- A signed value of at most 32 bits is that of its lane. -/
theorem toInt_ofInt_signedOf {w : Nat} (hw : 0 < w) (hw' : w ≤ 32) (v : Nat) : (BitVec.ofInt 32 (signedOf w v)).toInt = signedOf w v := by
  rw [signedOf_eq_toInt hw]
  exact BitVec.toInt_signExtend_of_le hw'

-- The lanes of each instruction -------------------------------------------------------------------------------------------------

/-- A lane is one element of 32 bits. -/
theorem elemAt_i32 (p : Payload) (n : Nat) : elemAt .i32 p n = (p.lane n).toNat := by
  simp [elemAt, elemOf, Fmt.perLane, Fmt.bits, Nat.mod_one, Nat.mod_eq_of_lt (p.lane n).isLt]

theorem elemAt_lt (fm : Fmt) (p : Payload) (n : Nat) : elemAt fm p n < 2 ^ fm.bits := elemOf_lt _ _ _

/-- The lower halves of a lane of `movi` (R112). -/
theorem moviLane_low (imm : BitVec 24) (old : Lane) : (moviLane 0 imm old).toNat = imm.toNat % 65536 := by
  simp only [moviLane, BitVec.toNat_setWidth]
  omega

/-- Two halves side by side (R112). -/
theorem moviLane_high (imm : BitVec 24) (old : Lane) :
    (moviLane 1 imm old).toNat = imm.toNat % 65536 * 65536 + old.toNat % 65536 := by
  have hold : (old &&& 0xFFFF).toNat = old.toNat % 2 ^ 16 := by
    rw [BitVec.toNat_and]
    exact Nat.and_two_pow_sub_one_eq_mod _ 16
  have himm : ((imm.setWidth 16).setWidth 32 <<< 16).toNat = (imm.toNat % 65536) <<< 16 := by
    simp only [BitVec.toNat_shiftLeft, BitVec.toNat_setWidth, Nat.shiftLeft_eq]
    omega
  rw [moviLane, BitVec.toNat_or, hold, himm, ← Nat.shiftLeft_add_eq_or_of_lt (Nat.mod_lt _ (by decide)), Nat.shiftLeft_eq]

theorem moviLane_signed (imm : BitVec 24) (old : Lane) : (moviLane 2 imm old).toInt = imm.toInt :=
  BitVec.toInt_signExtend_of_le (by decide)

/-- A lane of the first three variants of `pack`, taken from one of the 32 source lanes (R113). -/
theorem packElem_wide {v : Nat} (hv : v ≤ 2) (a b : Payload) (n : Nat) : packElem v a b n =
    (let x := (if n < 16 then a else b).lane (n % 16)
     let y : Int := if v = 0 then x.toInt else if v = 1 then max (-32768) (min 32767 x.toInt) else max 0 (min 65535 x.toInt)
     (y % 65536).toNat) := by
  have hx (p : Payload) (k : Nat) : signedOf 32 (elemAt .i32 p k) = (p.lane k).toInt := by rw [elemAt_i32, signedOf_toNat (by decide)]
  interval_cases v <;> simp [packElem, hx]

/-- A half lane of the other variants, taken from one of the 64 source halves (R113). -/
theorem packElem_narrow {v : Nat} (h3 : 3 ≤ v) (h5 : v ≤ 5) (a b : Payload) (n : Nat) : packElem v a b n % 256 =
    (let x := signedOf 16 (elemAt .i16 (if n < 32 then a else b) (n % 32))
     let y : Int := if v = 3 then x else if v = 4 then max (-128) (min 127 x) else max 0 (min 255 x)
     (y % 256).toNat) := by
  have low (y : Int) : (y % 65536).toNat % 256 = (y % 256).toNat := by omega
  interval_cases v <;> simp [packElem, low]

/-- The variants of `unpk` that extend the sign (R114). -/
theorem toInt_unpkLane {v : Nat} (hv : v % 2 = 0) (imm : Nat) (a : Payload) (n : Nat) : (unpkLane v imm a n).toInt =
    (let t : Fmt := if v < 2 then .i16 else .i8
     signedOf t.bits (elemAt t a (16 * (imm % t.perLane) + n))) := by
  rw [unpkLane, if_pos hv]
  split
  · exact toInt_ofInt_signedOf (by decide) (by decide) _
  · exact toInt_ofInt_signedOf (by decide) (by decide) _

/-- The variants of `unpk` that fill with zeros (R114). -/
theorem toNat_unpkLane {v : Nat} (hv : v % 2 = 1) (imm : Nat) (a : Payload) (n : Nat) : (unpkLane v imm a n).toNat =
    (let t : Fmt := if v < 2 then .i16 else .i8
     elemAt t a (16 * (imm % t.perLane) + n)) := by
  have wide (t : Fmt) (k : Nat) : (BitVec.ofNat 32 (elemAt t a k)).toNat = elemAt t a k := by
    refine Nat.mod_eq_of_lt ((elemAt_lt t a k).trans_le (Nat.pow_le_pow_right (by decide) ?_))
    cases t <;> decide
  rw [unpkLane, if_neg (by omega)]
  exact wide _ _

/-- A bit field extracted is its bits, extended by its sign or by zeros (R109). -/
theorem extractField_eq {p q : Nat} (hq : 0 < q) (sx : Bool) (x : Lane) :
    extractField p q sx x = if sx then (x.extractLsb' p q).signExtend 32 else (x.extractLsb' p q).setWidth 32 := by
  have hv : x.toNat / 2 ^ p % 2 ^ q = (x.extractLsb' p q).toNat := by rw [BitVec.extractLsb'_toNat, Nat.shiftRight_eq_div_pow]
  rw [extractField, hv, signedOf_toNat hq, BitVec.ofNat_toNat]
  rfl

theorem extractField_bit {p q : Nat} (hq : 0 < q) (sx : Bool) (x : Lane) {k : Nat} (hk : k < 32) :
    (extractField p q sx x).getLsbD k = if k < q then x.getLsbD (p + k) else (sx && x.getLsbD (p + q - 1)) := by
  have hmsb : (x.extractLsb' p q).msb = x.getLsbD (p + q - 1) := by
    rw [BitVec.msb_eq_getLsbD_last, BitVec.getLsbD_extractLsb', ← Nat.add_sub_assoc hq]
    simp [hq]
  rw [extractField_eq hq]
  cases sx with
  | false => by_cases hkq : k < q <;> simp [hk, hkq]
  | true =>
    rw [if_pos rfl, BitVec.getLsbD_signExtend, hmsb]
    by_cases hkq : k < q <;> simp [hk, hkq]

/-- The mask of a bit field (R109). -/
theorem fieldMask_bit (p q : Nat) {k : Nat} (hk : k < 32) :
    (BitVec.ofNat 32 ((2 ^ q - 1) * 2 ^ p)).getLsbD k = decide (p ≤ k ∧ k < p + q) := by
  rw [BitVec.getLsbD_ofNat, Nat.testBit_mul_two_pow, Nat.testBit_two_pow_sub_one, Bool.eq_iff_iff]
  simp only [hk, decide_true, Bool.true_and, Bool.and_eq_true, decide_eq_true_eq]
  omega

theorem insertField_bit (p q : Nat) (x y : Lane) {k : Nat} (hk : k < 32) :
    (insertField p q x y).getLsbD k = if p ≤ k ∧ k < p + q then x.getLsbD (k - p) else y.getLsbD k := by
  simp only [insertField, BitVec.getLsbD_or, BitVec.getLsbD_and, BitVec.getLsbD_not, BitVec.getLsbD_shiftLeft, fieldMask_bit p q hk, hk]
  split
  · next h => simp [h, Nat.not_lt.2 h.1]
  · next h => simp [h]

-- The instructions --------------------------------------------------------------------------------------------------------------

section
variable {s : State} {e : Elem} {f : Fields}

theorem laneTypes_typeIn {u : Uses} (h : 1 ≤ typeIn e f u ∧ typeIn e f u ≤ 2) : laneTypes (typeIn e f u) = true := by
  obtain h | h : typeIn e f u = 1 ∨ typeIn e f u = 2 := by omega
  all_goals rw [h]; rfl

theorem fieldOk_iff : fieldOk f = true ↔ f.imm.toNat / 32 % 64 ≠ 0 ∧ f.imm.toNat % 32 + f.imm.toNat / 32 % 64 ≤ 32 :=
  Bool.and_eq_true_iff.trans (and_congr bne_iff_ne decide_eq_true_iff)

/-- The operands of `shuf` by lane numbers in b (R115). -/
theorem bodyShuf_zero (hv : f.var = 0) : bodyShuf s f e = check e f usesAB true allTypes (badDst e f) >>= fun _ =>
    done s (put s e f (fun i => (srcA s e f).pay.lane (((srcB s e f).pay.lane i).toNat % 16)) [srcA s e f, srcB s e f]) := by
  simp only [bodyShuf, hv]
  rfl

/-- `shuf` by a rotation or an exchange that `imm` names (R115). -/
theorem bodyShuf_imm (h1 : 1 ≤ f.var.toNat) (h2 : f.var.toNat ≤ 2) : bodyShuf s f e = check e f usesA true allTypes (badDst e f) >>= fun _ =>
    done s (put s e f (fun i => (srcA s e f).pay.lane
      (if f.var.toNat = 1 then (i + f.imm.toNat % 16) % 16 else i ^^^ (f.imm.toNat % 16))) [srcA s e f]) := by
  have hv0 : f.var ≠ 0 := by rw [Ne, var_eq_zero_iff]; omega
  obtain hv | hv : f.var.toNat = 1 ∨ f.var.toNat = 2 := by omega
  all_goals simp only [bodyShuf, if_neg hv0, hv]; rfl

theorem bodySel_eq (hv : f.var = 0) (hm : isMaskSrc f.c = true) : bodySel s f e = check e f usesAB true allTypes (badDst e f) >>= fun _ =>
    done s (put s e f (fun i => if (e.mask (maskNo f.c)).bits.getLsbD i then (srcA s e f).pay.lane i else (srcB s e f).pay.lane i)
      [srcA s e f, srcB s e f, maskReg (e.mask (maskNo f.c))]) := by
  rw [bodySel, if_pos hm, hv]
  rfl

/-- Settles O3: each instruction by the lane that its work computes. -/
theorem movesAndLanes : Obligations.MovesAndLanes := by
  unfold Obligations.MovesAndLanes
  intro s e f hr hi hln a b old v p q
  have hv0 (h : v = 0) : f.var = 0 := var_eq_zero_iff.2 h
  refine ⟨fun hl ht => ⟨fun hv => ?mov, fun hv => ?bcst, fun hv => ?shufImm, fun hv => ?unpk⟩,
    fun hl ht => ⟨fun hv => ?shuf, fun hv hm => ?sel, fun hv => ?packWide, fun hv => ?packNarrow⟩, fun hl ht hv => ?movi,
    fun hl ht hv hq hpq => ?bfx, fun hl ht hv hq hpq => ?bfi⟩
  case mov => exact lanes_of_checked rfl rfl (by decide) hr hi hln hl (by simp [hv0 hv]) (allTypes_typeIn ht) fun _ _ => rfl
  case bcst => exact lanes_of_checked rfl rfl (by decide) hr hi hln hl (by simp [hv0 hv]) (allTypes_typeIn ht) fun _ _ => rfl
  case shufImm =>
    exact lanes_of_checked rfl (bodyShuf_imm hv.1 hv.2) (by decide) hr hi hln hl rfl (allTypes_typeIn ht) fun _ _ => rfl
  case unpk =>
    refine lanes_of_checked rfl rfl (by decide) hr hi hln hl (decide_eq_true hv) (allTypes_typeIn ht) fun n _ => ?_
    change (v = 0 → (unpkLane v _ _ n).toInt = _) ∧ (v = 1 → (unpkLane v _ _ n).toNat = _)
      ∧ (v = 2 → (unpkLane v _ _ n).toInt = _) ∧ (v = 3 → (unpkLane v _ _ n).toNat = _)
    refine ⟨fun h => ?_, fun h => ?_, fun h => ?_, fun h => ?_⟩
    · rw [h]; exact toInt_unpkLane rfl _ _ _
    · rw [h]; exact toNat_unpkLane rfl _ _ _
    · rw [h]; exact toInt_unpkLane rfl _ _ _
    · rw [h]; exact toNat_unpkLane rfl _ _ _
  case shuf => exact lanes_of_checked rfl (bodyShuf_zero (hv0 hv)) (by decide) hr hi hln hl rfl (allTypes_typeIn ht) fun _ _ => rfl
  case sel => exact lanes_of_checked rfl (bodySel_eq (hv0 hv) hm) (by decide) hr hi hln hl rfl (allTypes_typeIn ht) fun _ _ => rfl
  case packWide =>
    refine lanes_of_checked rfl rfl (by decide) hr hi hln hl (decide_eq_true (show v ≤ 5 by omega)) (allTypes_typeIn ht) fun n _ j hj => ?_
    rw [if_pos (show v < 3 by omega), elemOf_laneOf _ _ _ hj, packElem_wide hv]
    exact Nat.mod_eq_of_lt (by dsimp only [Fmt.bits]; omega)
  case packNarrow =>
    refine lanes_of_checked rfl rfl (by decide) hr hi hln hl (decide_eq_true hv.2) (allTypes_typeIn ht) fun n _ j hj => ?_
    rw [if_neg (show ¬ v < 3 by omega), elemOf_laneOf _ _ _ hj]
    exact packElem_narrow hv.1 hv.2 _ _ _
  case movi =>
    refine lanes_of_checked rfl rfl (by decide) hr hi hln hl (decide_eq_true hv) (allTypes_typeIn ht) fun n _ => ?_
    change (v = 0 → (moviLane v _ _).toNat = _) ∧ (v = 1 → (moviLane v _ _).toNat = _) ∧ (v = 2 → (moviLane v _ _).toInt = _)
    refine ⟨fun h => ?_, fun h => ?_, fun h => ?_⟩
    · rw [h]; exact moviLane_low _ _
    · rw [h]; exact moviLane_high _ _
    · rw [h]; exact moviLane_signed _ _
  case bfx =>
    refine lanes_of_checked rfl rfl (by decide) hr hi hln hl ?_ (laneTypes_typeIn ht) fun n _ k hk => ?_
    · exact Bool.and_eq_true_iff.2 ⟨decide_eq_true hv, fieldOk_iff.2 ⟨hq, hpq⟩⟩
    · have hsx : (f.var == 1) = decide (v = 1) := by rw [Bool.eq_iff_iff, beq_iff_eq, decide_eq_true_eq, ← BitVec.toNat_inj]; rfl
      exact hsx ▸ extractField_bit (Nat.pos_of_ne_zero hq) _ _ hk
  case bfi =>
    refine lanes_of_checked rfl rfl (by decide) hr hi hln hl ?_ (laneTypes_typeIn ht) fun n _ k hk => insertField_bit p q _ _ hk
    exact Bool.and_eq_true_iff.2 ⟨by simp [hv0 hv], fieldOk_iff.2 ⟨hq, hpq⟩⟩

end
end Sys2Proof.Machine
end

section
/-! PROOFS. O4: the instructions that write a mask, and a mask moved to lanes (R96, R100, R101, R110; log 66). -/
namespace Sys2Proof.Machine
open Sys2Proof.Claim

section
variable {i : Instr} {op : BitVec 8} {body : Body} {s : State} {e : Elem} {f f' : Fields} {srcs : List Reg}

-- Checks ------------------------------------------------------------------------------------------------------------------------

theorem need_ok {ok : Bool} (h : ok = true) (t : Trap) : need ok t = .ok () := by rw [h]; rfl

/-- The lane form, as the checks test it. -/
theorem laneForm_ok (h : f.ln ≠ 3) : (f.ln != 3#2) = true := bne_iff_ne.2 h

/-- A wait that stands on a channel of the right kind, or is none, as the checks test it (R44). -/
theorem waitKind_ok {w : BitVec 4} {b : Bool} (h : w = 0 ∨ b = true) : (w == 0#4 || b) = true := by
  obtain rfl | rfl := h
  · rfl
  · exact Bool.or_true _

theorem need_trap {ok : Bool} (h : ok = false) (t : Trap) : need ok t = .error (.trap t) := by rw [h]; rfl

-- Classes (R63) -----------------------------------------------------------------------------------------------------------------

theorem classesOf_every {op : BitVec 8} :
    op.toNat = 0 ∨ op.toNat = 0x0A ∨ op.toNat = 0x0B ∨ 0x10 ≤ op.toNat ∧ op.toNat ≤ 0x12 → classesOf op = [.ve, .se, .ag, .ra, .fc] := by
  revert op; decide

theorem classesOf_elements {op : BitVec 8} : 1 ≤ op.toNat ∧ op.toNat ≤ 8 → classesOf op = [.ve, .se, .ag, .ra] := by
  revert op; decide

/-- The ops that every unit executes. -/
theorem mem_classesOf_every (hop : op.toNat = 0 ∨ op.toNat = 0x0A ∨ op.toNat = 0x0B ∨ 0x10 ≤ op.toNat ∧ op.toNat ≤ 0x12) (e : Elem) :
    (classesOf op).contains e.cls = true := by
  rw [classesOf_every hop]
  cases e.cls <;> decide

/-- The ops that every element executes. -/
theorem mem_classesOf_element (hc : e.cls ≠ .fc) (hop : 1 ≤ op.toNat ∧ op.toNat ≤ 8) : (classesOf op).contains e.cls = true := by
  rw [classesOf_elements hop]
  cases h : e.cls <;> simp_all

theorem not_mem_classesOf_core (hc : e.cls = .fc) (hop : 1 ≤ op.toNat ∧ op.toNat ≤ 8) : (classesOf op).contains e.cls = false := by
  rw [classesOf_elements hop, hc]
  rfl

-- The bits of each instruction --------------------------------------------------------------------------------------------------

/-- Work that writes a mask and raises no flag. -/
theorem maskLanes_of_done {g : Nat → Bool} {R : Nat → Bool} (hx : exec i s = issue op body f s) (hr : Runs s e)
    (hc : (classesOf op).contains e.cls = true) (hb : body s f e = done s (putMask e f' g srcs)) (hg : ∀ n < 16, g n = R n) :
    MaskLanes i s e f' srcs 0 R :=
  maskLanes_of_putMask hx hr hc (by rw [hb, raise_none]) hg

/-- The conditions of R110 on the numbers of two lanes. -/
theorem cmpTest_eq {v : Nat} (hv : v ≤ 9) (x y : Lane) : cmpTest v x y =
    if v = 0 then decide (x = y) else if v = 1 then decide (x ≠ y) else if v = 2 then decide (x.toInt < y.toInt)
    else if v = 3 then decide (x.toInt ≤ y.toInt) else if v = 4 then decide (y.toInt < x.toInt) else if v = 5 then decide (y.toInt ≤ x.toInt)
    else if v = 6 then decide (x.toNat < y.toNat) else if v = 7 then decide (x.toNat ≤ y.toNat)
    else if v = 8 then decide (y.toNat < x.toNat) else decide (y.toNat ≤ x.toNat) := by
  have hne : (x != y) = decide (x ≠ y) := by simp [bne, beq_eq_decide]
  interval_cases v <;>
    simp [cmpTest, hne, beq_eq_decide, BitVec.slt_eq_decide, BitVec.sle_eq_decide, BitVec.ult_eq_decide, BitVec.ule_eq_decide]

/-- The operations of R100 on two masks, bit by bit. -/
theorem maskOp_bit {v : Nat} (hv : v ≤ 3) (x y : BitVec 16) {n : Nat} (hn : n < 16) : (maskOp v x y).getLsbD n =
    if v = 0 then x.getLsbD n && y.getLsbD n else if v = 1 then x.getLsbD n || y.getLsbD n
    else if v = 2 then x.getLsbD n ^^ y.getLsbD n else x.getLsbD n && !y.getLsbD n := by
  interval_cases v <;> simp [maskOp, hn]

theorem maskOp_not (x y : BitVec 16) {n : Nat} (hn : n < 16) : (maskOp 4 x y).getLsbD n = !x.getLsbD n := by
  simp [maskOp, hn]

/-- The tests of `sbt` on a word (R96). -/
theorem sideTest_eq {v : Nat} (hv : v ≤ 4) (w : CWord) (imm : Nat) : sideTest v w imm =
    if v = 0 then w.isData && w.lr else if v = 1 then w.isData && w.ls else if v = 2 then w.isCtl
    else if v = 3 then w.isData else w.isCtl && w.kind.toNat == imm := by
  interval_cases v <;> rfl

-- The work of each instruction --------------------------------------------------------------------------------------------------

theorem bodyCmp_eq (hln : f.ln ≠ 3) (hl : Legal e { f with wd := 0 } usesAB (badMask f)) (ht : laneTypes (typeIn e f usesAB) = true)
    (hv : f.var.toNat ≤ 9) : bodyCmp s f e = done s (putMask e f
      (fun i => cmpTest f.var.toNat ((srcA s e f).pay.lane i) ((srcB s e f).pay.lane i)) [srcA s e f, srcB s e f]) := by
  rw [bodyCmp, check_ok (f := { f with wd := 0 }) hl hln (decide_eq_true hv) ht]
  rfl

section
variable (hd : isMask f.d = true)
include hd

theorem bodyMskop_two (hln : f.ln ≠ 3) (ha : isMaskSrc f.a = true) (hb : isMaskSrc f.b = true) (hv : f.var.toNat ≤ 3) :
    bodyMskop s f e = done s (putMask e f
      (fun i => (maskOp f.var.toNat (e.mask (maskNo f.a)).bits (e.mask (maskNo f.b)).bits).getLsbD i)
      [maskReg (e.mask (maskNo f.a)), maskReg (e.mask (maskNo f.b))]) := by
  simp [bodyMskop, laneForm_ok hln, ha, hb, hd, show f.var.toNat ≤ 4 by omega, show f.var.toNat ≠ 4 by omega]

theorem bodyMskop_not (hln : f.ln ≠ 3) (ha : isMaskSrc f.a = true) (hv : f.var.toNat = 4) :
    bodyMskop s f e = done s (putMask e f
      (fun i => (maskOp 4 (e.mask (maskNo f.a)).bits (e.mask (maskNo f.b)).bits).getLsbD i) [maskReg (e.mask (maskNo f.a))]) := by
  simp [bodyMskop, laneForm_ok hln, ha, hd, hv]

theorem bodyMskmv_lanes (hln : f.ln ≠ 3) (hv : f.var.toNat = 0) (ha : srcOk e f.a = true) (hwa : f.wa = 0 ∨ isSlot f.a = true)
    (hw : inWait e f.a f.wa = true) : bodyMskmv s f e = done s (putMask e f (fun i => (srcA s e f).pay.lane i != 0) [srcA s e f]) := by
  simp [bodyMskmv, laneForm_ok hln, hv, ha, waitKind_ok hwa, hd, hw]

theorem bodyMskmv_imm (hln : f.ln ≠ 3) (hv : f.var.toNat = 2) :
    bodyMskmv s f e = done s (putMask e f (fun i => f.imm.getLsbD i) []) := by
  simp [bodyMskmv, laneForm_ok hln, hv, hd]

theorem bodySbt_eq (hv : f.var.toNat ≤ 4) (ha : isSlot f.a = true) (hok : slotOk e (desChan f.a) (desOfs f.a) = true)
    (hw : inWait e f.a f.wa = true) : bodySbt s f e = done s (putMask e { f with ln := 0 }
      (fun _ => sideTest f.var.toNat (e.slot (desChan f.a) (desOfs f.a)) f.imm.toNat) [wordReg (e.slot (desChan f.a) (desOfs f.a))]) := by
  simp [bodySbt, hv, ha, hok, hd, hw]

end

theorem bodyMskmv_out (hln : f.ln ≠ 3) (hv : f.var = 1) (ha : isMaskSrc f.a = true) (hd : regOrOut e f.d = true)
    (hwd : f.wd = 0 ∨ isOut f.d = true) (hw : outWait e f.d f.wd = true) : bodyMskmv s f e = done s (put s e f
      (fun i => if (e.mask (maskNo f.a)).bits.getLsbD i then 1 else 0) [maskReg (e.mask (maskNo f.a))]) := by
  simp [bodyMskmv, laneForm_ok hln, hv, ha, waitKind_ok hwd, hd, hw]

/-- The first part of O4: each instruction by the mask that its work writes. -/
theorem masks_maskInstructions : Claim.MaskInstructions := by
  intro s e f hr hd a b v ma mb
  have every {op : BitVec 8} (hop : op.toNat = 0x0A ∨ op.toNat = 0x0B) : (classesOf op).contains e.cls = true :=
    mem_classesOf_every (by omega) e
  refine ⟨fun hi hln hl ht hv => ?cmp, fun hln ha hb hv => ?mskop, fun hln ha hv => ?mskopNot, fun hln hv ha hwa hw => ?lanes,
    fun hln hv => ?imm, fun hc hv ha hok hw => ?sbt⟩
  case cmp =>
    exact maskLanes_of_done rfl hr (mem_classesOf_integer hi (by decide)) (bodyCmp_eq hln hl (laneTypes_typeIn ht) hv) fun _ _ => cmpTest_eq hv _ _
  case mskop => exact maskLanes_of_done rfl hr (every (.inl rfl)) (bodyMskop_two hd hln ha hb hv) fun n hn => maskOp_bit hv _ _ hn
  case mskopNot => exact maskLanes_of_done rfl hr (every (.inl rfl)) (bodyMskop_not hd hln ha hv) fun n hn => maskOp_not _ _ hn
  case lanes =>
    refine maskLanes_of_done rfl hr (every (.inr rfl)) (bodyMskmv_lanes hd hln hv ha hwa hw) fun n _ => ?_
    exact Bool.eq_iff_iff.2 (bne_iff_ne.trans decide_eq_true_iff.symm)
  case imm => exact maskLanes_of_done rfl hr (every (.inr rfl)) (bodyMskmv_imm hd hln hv) fun _ _ => rfl
  case sbt =>
    exact maskLanes_of_done rfl hr (mem_classesOf_element hc (by decide)) (bodySbt_eq hd hv ha hok hw) fun _ _ => sideTest_eq hv _ _

/-- The second part of O4: the lanes of R101. -/
theorem masks_maskToLanes : Claim.MaskToLanes := by
  intro s e f hr hln hv ha hd hwd hw
  refine lanes_of_put rfl hr (mem_classesOf_every (op := 0x0B) (by decide) e) ?_ fun _ _ _ => rfl
  rw [raise_none]
  exact bodyMskmv_out hln hv ha hd hwd hw

/-- Settles O4 from its two parts. -/
theorem masks : Obligations.Masks := ⟨masks_maskInstructions, masks_maskToLanes⟩

end
end Sys2Proof.Machine
end

section
/-! PROOFS. O5: reductions of sixteen lanes in the fixed tree (R38, R41, R42, R116; log 159). -/
namespace Sys2Proof.Machine
open Sys2Proof.Claim

-- The fixed tree (R41) ----------------------------------------------------------------------------------------------------------

/-- The model's tree over the values of sixteen lanes is that of the statement. -/
theorem tree_eq_tree16 {α : Type} (c : α → α → α) (v : Nat → α) (d : α) : (tree c ((List.range 16).map v)).headD d = Tree16 c v := rfl

/-- Two trees over related values, whose combines keep the relation, are related. -/
theorem tree16_rel {α β : Type} {r : α → β → Prop} {c : α → α → α} {d : β → β → β}
    (hc : ∀ a b x y, r a x → r b y → r (c a b) (d x y)) {v : Nat → α} {w : Nat → β} (hv : ∀ n, r (v n) (w n)) :
    r (Tree16 c v) (Tree16 d w) := by
  have level {v : Nat → α} {w : Nat → β} (h : ∀ n, r (v n) (w n)) (n : Nat) :
      r (c (v (2 * n)) (v (2 * n + 1))) (d (w (2 * n)) (w (2 * n + 1))) := hc _ _ _ _ (h _) (h _)
  exact level (level (level (level hv))) 0

/-- The tree of a sum is the sum in order. -/
theorem tree16_add (w : Nat → Int) : Tree16 (· + ·) w = ((List.range 16).map w).sum := by
  simp only [Tree16, List.range_succ, List.range_zero, List.nil_append, List.map_append, List.map_cons, List.map_nil, List.sum_append,
    List.sum_cons, List.sum_nil]
  ring

-- Integers in a format (R24, R37) -----------------------------------------------------------------------------------------------

section
variable {fm : Fmt}

theorem wrap_congr {a b : Int} (h : a ≡ b [ZMOD (2 ^ fm.bits : Nat)]) : fm.wrap a = fm.wrap b := congrArg Int.toNat h

theorem wrap_modEq (i : Int) : (fm.wrap i : Int) ≡ i [ZMOD (2 ^ fm.bits : Nat)] := by
  have h : (0 : Int) < (2 ^ fm.bits : Nat) := by exact_mod_cast Nat.two_pow_pos _
  rw [Fmt.wrap, Int.toNat_of_nonneg (Int.emod_nonneg i h.ne')]
  exact Int.mod_modEq _ _

/-- The value of an element is its code, but for a multiple of the format's range. -/
theorem elemInt_modEq (uns : Bool) (c : Nat) : elemInt fm uns c ≡ c [ZMOD (2 ^ fm.bits : Nat)] := by
  have hmod : ((c % 2 ^ fm.bits : Nat) : Int) ≡ c [ZMOD (2 ^ fm.bits : Nat)] := by
    rw [Int.natCast_mod]
    exact Int.mod_modEq _ _
  unfold elemInt signedOf
  split_ifs
  · exact hmod
  · exact Int.sub_modulus_modEq_iff.2 hmod
  · exact hmod

theorem wrap_natCast {c : Nat} (h : c < 2 ^ fm.bits) : fm.wrap c = c := by
  rw [Fmt.wrap, ← Int.natCast_mod, Int.toNat_natCast, Nat.mod_eq_of_lt h]

theorem wrap_elemInt {c : Nat} (h : c < 2 ^ fm.bits) (uns : Bool) : fm.wrap (elemInt fm uns c) = c :=
  (wrap_congr (elemInt_modEq uns c)).trans (wrap_natCast h)

/-- Wrapped values add up as the values do. -/
theorem wrap_elemInt_add (a b : Int) : fm.wrap (elemInt fm false (fm.wrap a) + elemInt fm false (fm.wrap b)) = fm.wrap (a + b) :=
  wrap_congr (((elemInt_modEq false _).trans (wrap_modEq a)).add ((elemInt_modEq false _).trans (wrap_modEq b)))

-- Flags ---------------------------------------------------------------------------------------------------------------------------

@[simp] theorem flagsBelow_zero (n : Nat) : flagsBelow (fun _ => 0) n = 0 := by
  induction n with
  | zero => rfl
  | succ n ih => rw [flagsBelow, ih]; rfl

@[simp] theorem laneFlags_zero (act : Nat → Bool) : laneFlags act (fun _ => 0) = 0 := by
  simp only [laneFlags, ite_self, flagsBelow_zero]

-- The tree of a reduction (R116) --------------------------------------------------------------------------------------------------

/-- A lane as it enters the tree: an inactive one as zero (R42, R116). -/
def treeLane (e : Elem) (f : Fields) (p : Payload) (n : Nat) : Lane := if laneActive e f n then p.lane n else 0

section
variable {e : Elem} {f : Fields} {p : Payload}

theorem elemOf_treeLane (j n : Nat) :
    elemOf fm (treeLane e f p n) j = if laneActive e f n then elemOf fm (p.lane n) j else 0 := by
  unfold treeLane
  split <;> simp [elemOf]

/-- The values of an element of every lane, as they enter the tree. -/
theorem reduceAt_eq (v j : Nat) :
    reduceAt fm v (laneActive e f) p j = Tree16 (reduceElem fm v) (fun n => (elemOf fm (treeLane e f p n) j, 0)) := by
  simp only [elemOf_treeLane]
  rfl

/-- The sum of integers wraps once, at the end or at every node (R37). -/
theorem reduceAt_sum (hfm : fm.isFloat = false) (j : Nat) : reduceAt fm 0 (laneActive e f) p j =
    (fm.wrap ((List.range 16).map fun n => elemInt fm false (elemOf fm (treeLane e f p n) j)).sum, 0) := by
  rw [reduceAt_eq, ← tree16_add]
  refine tree16_rel (r := fun (x : Nat × Flags) (i : Int) => x = (fm.wrap i, 0)) ?_ fun n => ?_
  · rintro _ _ a b rfl rfl
    simp [reduceElem, hfm, wrap_elemInt_add]
  · rw [wrap_elemInt (elemOf_lt _ _ _)]

/-- A combine of integers that picks one of the two leaves at the root the one that the values pick. -/
theorem reduceAt_pick {v : Nat} {G : Int → Int → Int} (hG : ∀ a b, G a b = a ∨ G a b = b)
    (hv : ∀ x y, reduceElem fm v x y = (fm.wrap (G (elemInt fm false x.1) (elemInt fm false y.1)), x.2 ||| y.2)) (j : Nat) :
    reduceAt fm v (laneActive e f) p j =
      (fm.wrap (Tree16 G fun n => elemInt fm false (elemOf fm (treeLane e f p n) j)), 0) := by
  rw [reduceAt_eq]
  refine (tree16_rel (r := fun (x : Nat × Flags) (i : Int) => x = (fm.wrap i, 0) ∧ elemInt fm false (fm.wrap i) = i) ?_ fun n => ?_).1
  · rintro _ _ a b ⟨rfl, ha⟩ ⟨rfl, hb⟩
    refine ⟨by simp [hv, ha, hb], ?_⟩
    obtain h | h := hG a b <;> rw [h] <;> assumption
  · rw [wrap_elemInt (elemOf_lt _ _ _)]
    exact ⟨rfl, rfl⟩

theorem reduceElem_min (hfm : fm.isFloat = false) (x y : Nat × Flags) :
    reduceElem fm 1 x y = (fm.wrap (min (elemInt fm false x.1) (elemInt fm false y.1)), x.2 ||| y.2) := by
  simp only [reduceElem, hfm, Bool.false_eq_true, if_false, min_eq_ite_lt]

theorem reduceElem_max (hfm : fm.isFloat = false) (x y : Nat × Flags) :
    reduceElem fm 2 x y = (fm.wrap (max (elemInt fm false x.1) (elemInt fm false y.1)), x.2 ||| y.2) := by
  simp only [reduceElem, hfm, Bool.false_eq_true, if_false, max_eq_ite_lt]

/-- A sum of two codes with their flags, rounded (R35, R116). -/
def floatSum (fm : Fmt) (x y : Nat × Flags) : Nat × Flags :=
  let r := (fm.decode x.1).add (fm.decode y.1)
  let z := roundTo fm r.1 .rne
  (z.1, x.2 ||| y.2 ||| r.2 ||| z.2)

theorem reduceElem_floatSum (hfm : fm.isFloat = true) : reduceElem fm 0 = floatSum fm := by
  funext x y
  unfold reduceElem
  rw [if_pos hfm]
  rfl

theorem reduceElem_pickCode (hfm : fm.isFloat = true) {v : Nat} (h1 : 1 ≤ v) (h2 : v ≤ 2) (x y : Nat × Flags) :
    reduceElem fm v x y = (pickCode fm (decide (v = 2)) false x.1 y.1, x.2 ||| y.2) := by
  unfold reduceElem
  rw [if_pos hfm]
  interval_cases v <;> rfl

/-- `fmin` or `fmax` at every node raises no flag (R116, R123). -/
theorem reduceAt_pickCode (hfm : fm.isFloat = true) {v : Nat} (h1 : 1 ≤ v) (h2 : v ≤ 2) (j : Nat) :
    reduceAt fm v (laneActive e f) p j =
      (Tree16 (pickCode fm (decide (v = 2)) false) fun n => elemOf fm (treeLane e f p n) j, 0) := by
  rw [reduceAt_eq]
  refine tree16_rel (r := fun (x : Nat × Flags) (c : Nat) => x = (c, 0)) ?_ fun _ => rfl
  rintro _ _ a b rfl rfl
  simp [reduceElem_pickCode hfm h1 h2]

/-- A whole lane of a bitwise reduction, bit by bit (R116). -/
theorem reduceLane_bit {v : Nat} {c : Bool → Bool → Bool}
    (hv : ∀ (x y : Nat × Flags) (k : Nat), (reduceLane v x y).1.testBit k = c (x.1.testBit k) (y.1.testBit k)) {k : Nat} (hk : k < 32) :
    (BitVec.ofNat 32 ((tree (reduceLane v) (treeInputs (laneActive e f) fun i => (p.lane i).toNat)).headD (0, 0)).1).getLsbD k =
      Tree16 c fun n => (treeLane e f p n).getLsbD k := by
  rw [BitVec.getLsbD_ofNat, decide_eq_true hk, Bool.true_and, treeInputs, tree_eq_tree16]
  refine tree16_rel (r := fun (x : Nat × Flags) (b : Bool) => x.1.testBit k = b) ?_ fun n => ?_
  · rintro x y _ _ rfl rfl
    exact hv x y k
  · unfold treeLane
    split <;> simp [BitVec.getLsbD]

end

-- The instruction -----------------------------------------------------------------------------------------------------------------

section
variable {s : State} {e : Elem} {f : Fields}

/-- The types of a reduction: those of its table, and of these the float types on the units that have them (R116; log 159). -/
theorem reduceTypes_iff (c : Cls) (v t : Nat) : reduceTypes c v t = true ↔
    (1 ≤ t ∧ t ≤ if v < 3 then 7 else 12) ∧ (5 ≤ t ∧ t ≤ 7 → c = .ve ∨ c = .fc) := by
  have hfloat : (floatTypes t && !(c == .ve || c == .fc)) = false ↔ (5 ≤ t ∧ t ≤ 7 → c = .ve ∨ c = .fc) := by
    have h567 : floatTypes t = true ↔ 5 ≤ t ∧ t ≤ 7 := by simp [floatTypes]; omega
    rw [← h567]
    cases floatTypes t <;> simp [or_iff_not_imp_left]
  rw [reduceTypes, Bool.and_eq_true, Bool.not_eq_true', hfloat]
  refine and_congr_left' ?_
  split
  · simp [intTypes, floatTypes]; omega
  · simp [allTypes]

/-- A reduction of elements (R116). -/
theorem lanes_lred_elems (hr : Runs s e) (hi : IntUnit e) (hln : f.ln ≠ 3) (hl : Legal e f usesA (badDst e f))
    (hf : Fmt.ofCode (typeIn e f usesA) = some fm) (hv : f.var.toNat < 3) (ht : typeIn e f usesA ≤ 7)
    (hu : 5 ≤ typeIn e f usesA ∧ typeIn e f usesA ≤ 7 → FloatUnit e) :
    Lanes (.lred f) s e f [srcA s e f]
      (laneFlags (laneActive e f) fun _ => flagsBelow (fun j => (reduceAt fm f.var.toNat (laneActive e f) (srcA s e f).pay j).2) fm.perLane)
      (Elems fm fun _ j => (reduceAt fm f.var.toNat (laneActive e f) (srcA s e f).pay j).1 % 2 ^ fm.bits) := by
  have htypes : reduceTypes e.cls f.var.toNat (typeIn e f usesA) = true :=
    (reduceTypes_iff _ _ _).2 ⟨⟨one_le_typeIn _ _ _, by rwa [if_pos hv]⟩, hu⟩
  refine lanes_of_put rfl hr (mem_classesOf_integer (op := 0x3F) hi (by decide))
    (g := fun _ => laneOf fm fun j => (reduceAt fm f.var.toNat (laneActive e f) (srcA s e f).pay j).1) ?_ fun n _ _ j hj => ?_
  · rw [bodyLred, check_ok hl hln (decide_eq_true (by omega)) htypes, res_bind_ok, if_pos hv, fmtOf_of_code hf]
    rfl
  · exact elemOf_laneOf _ _ _ hj

/-- A reduction of elements that raises no flag. -/
theorem lanes_lred_quiet (hr : Runs s e) (hi : IntUnit e) (hln : f.ln ≠ 3) (hl : Legal e f usesA (badDst e f))
    (hf : Fmt.ofCode (typeIn e f usesA) = some fm) {v : Nat} (hv : f.var.toNat = v) (h3 : v < 3) (ht : typeIn e f usesA ≤ 7)
    (hu : 5 ≤ typeIn e f usesA ∧ typeIn e f usesA ≤ 7 → FloatUnit e) {G : Nat → Nat}
    (hG : ∀ j, reduceAt fm v (laneActive e f) (srcA s e f).pay j = (G j, 0)) :
    Lanes (.lred f) s e f [srcA s e f] 0 (Elems fm fun _ j => G j % 2 ^ fm.bits) := by
  subst hv
  simpa only [hG, flagsBelow_zero, laneFlags_zero] using lanes_lred_elems hr hi hln hl hf h3 ht hu

/-- A reduction of whole lanes (R116). -/
theorem lanes_lred_bits (hr : Runs s e) (hi : IntUnit e) (hln : f.ln ≠ 3) (hl : Legal e f usesA (badDst e f)) {v : Nat}
    (hv : f.var.toNat = v) (h3 : 3 ≤ v) (h5 : v ≤ 5) (ht : typeIn e f usesA ≤ 12) (hu : 5 ≤ typeIn e f usesA ∧ typeIn e f usesA ≤ 7 → FloatUnit e)
    {c : Bool → Bool → Bool}
    (hc : ∀ (x y : Nat × Flags) (k : Nat), (reduceLane v x y).1.testBit k = c (x.1.testBit k) (y.1.testBit k)) :
    Lanes (.lred f) s e f [srcA s e f] 0
      (fun _ r => ∀ k < 32, r.getLsbD k = Tree16 c fun n => (treeLane e f (srcA s e f).pay n).getLsbD k) := by
  subst hv
  have htypes : reduceTypes e.cls f.var.toNat (typeIn e f usesA) = true :=
    (reduceTypes_iff _ _ _).2 ⟨⟨one_le_typeIn _ _ _, by rwa [if_neg (by omega)]⟩, hu⟩
  refine lanes_of_put rfl hr (mem_classesOf_integer (op := 0x3F) hi (by decide)) ?_ fun n _ _ k hk => reduceLane_bit hc hk
  rw [bodyLred, check_ok hl hln (decide_eq_true h5) htypes, res_bind_ok, if_neg (by omega), raise_none]

/-- Settles O5: each variant by the value at the root of its tree. -/
theorem integerReductions : Obligations.IntegerReductions := by
  unfold Obligations.IntegerReductions
  intro s e f fm hr hi a t v x num codes sum fsum
  have int (h : Fmt.ofCode t = some fm) (ht : t ≤ 4) : fm.isFloat = false := by
    have := one_le_typeIn e f usesA
    interval_cases t <;> cases h <;> rfl
  have float (h : Fmt.ofCode t = some fm) (h5 : 5 ≤ t) (ht : t ≤ 7) : fm.isFloat = true := by
    interval_cases t <;> cases h <;> rfl
  have wrap_mod (i : Int) : fm.wrap i % 2 ^ fm.bits = fm.wrap i := Nat.mod_eq_of_lt (wrap_lt fm i)
  refine ⟨fun hln hl hf => ⟨fun ht => ?ints, fun ht hu => ?floats⟩, fun hln hl ht hu => ⟨fun hv => ?and, fun hv => ?or, fun hv => ?xor⟩,
    fun hln hw hv hc ht => ?type, fun hv => traps_of_variant rfl rfl (by decide) hr hi (decide_eq_false (by omega))⟩
  case ints =>
    have hu : 5 ≤ t ∧ t ≤ 7 → FloatUnit e := fun h => by omega
    have quiet {n : Nat} {G : Nat → Int} (hv : v = n) (hn : n < 3)
        (hG : ∀ j, reduceAt fm n (laneActive e f) a.pay j = (fm.wrap (G j), 0)) :
        Lanes (.lred f) s e f [a] 0 (Elems fm fun _ j => fm.wrap (G j)) := by
      simpa only [wrap_mod] using lanes_lred_quiet hr hi hln hl hf hv hn (by omega) hu hG
    exact ⟨fun hv => quiet hv (by decide) (reduceAt_sum (int hf ht.2)),
      fun hv => quiet hv (by decide) (reduceAt_pick min_choice (reduceElem_min (int hf ht.2))),
      fun hv => quiet hv (by decide) (reduceAt_pick max_choice (reduceElem_max (int hf ht.2)))⟩
  case floats =>
    have hfm := float hf ht.1 ht.2
    refine ⟨fun hv => ?_, fun hv => ?_, fun hv => ?_⟩
    · have h := lanes_lred_elems hr hi hln hl hf (show v < 3 by omega) ht.2 fun _ => hu
      simp only [reduceAt_eq, show f.var.toNat = 0 from hv, reduceElem_floatSum hfm] at h
      exact h
    · exact lanes_lred_quiet hr hi hln hl hf hv (by decide) ht.2 (fun _ => hu) (reduceAt_pickCode hfm (by decide) (by decide))
    · exact lanes_lred_quiet hr hi hln hl hf hv (by decide) ht.2 (fun _ => hu) (reduceAt_pickCode hfm (by decide) (by decide))
  case and =>
    exact lanes_lred_bits hr hi hln hl hv (by decide) (by decide) ht.2 hu fun _ _ _ => Nat.testBit_and ..
  case or =>
    exact lanes_lred_bits hr hi hln hl hv (by decide) (by decide) ht.2 hu fun _ _ _ => Nat.testBit_or ..
  case xor =>
    exact lanes_lred_bits hr hi hln hl hv (by decide) (by decide) ht.2 hu fun _ _ _ => Nat.testBit_xor ..
  case type =>
    have hno : reduceTypes e.cls v t = false := by
      rw [Bool.eq_false_iff, Ne, reduceTypes_iff]
      obtain h | h := hc <;> simp [h, ht]
    refine issue_trap hr (mem_classesOf_integer (op := 0x3F) hi (by decide)) ?_
    rw [bodyLred, (check_later ⟨decide_eq_true hv, hln, hw⟩).1 hno]
    rfl

end
end
end Sys2Proof.Machine
end

section
/-! PROOFS. O30: nop, wait and cpeek (R90, R95, R99), and what an instruction does whose work is known. -/
namespace Sys2Proof.Machine
open Sys2Proof.Claim

section
variable {i : Instr} {op : BitVec 8} {body : Body} {s s1 : State} {e e1 : Elem} {f : Fields}

-- What the work of an instruction decides ---------------------------------------------------------------------------------------

section
variable (hx : exec i s = issue op body f s) (hr : Runs s e) (hc : (classesOf op).contains e.cls = true)
include hx hr hc

theorem endsBy_of_body {fl : Flow} (hf : ∀ t, fl ≠ .fault t) (hb : body s f e = doneAt s1 e1 fl) : EndsBy fl i s e s1 e1 :=
  hx.trans (issue_done hf hr hc hb)

theorem completes_of_body (hb : body s f e = done s1 e1) : Completes i s e s1 e1 := endsBy_of_body hx hr hc (by simp) hb

theorem traps_of_body {t : Trap} (hb : body s f e = .error (.trap t)) : Traps i s e t (wordOf op f) := hx.trans (issue_trap hr hc hb)

theorem holds_of_body {h : Hold} (hb : body s f e = .error (.hold h)) : Holds i s e h := hx.trans (issue_hold hr hc hb)

end

-- Slots that an instruction names (R45, R47) ------------------------------------------------------------------------------------

/-- An input slot that exists. -/
def slotHere (e : Elem) (d : BitVec 10) : Bool := isSlot d && slotOk e (desChan d) (desOfs d)

/-- An input slot that exists, or no operand. -/
def slotOrNone (e : Elem) (d : BitVec 10) : Bool := d == 0x0FF || slotHere e d

/-- An output slot that exists, or no operand. -/
def outOrNone (e : Elem) (d : BitVec 10) : Bool := d == 0x0FF || (isOut d && outOk e (desChan d) (desOfs d))

theorem slotHere_iff {d : BitVec 10} : slotHere e d = true ↔ isSlot d = true ∧ slotOk e (desChan d) (desOfs d) = true := Bool.and_eq_true_iff

theorem slotOrNone_iff {d : BitVec 10} :
    slotOrNone e d = true ↔ d = 0x0FF ∨ (isSlot d = true ∧ slotOk e (desChan d) (desOfs d) = true) := by
  rw [slotOrNone, Bool.or_eq_true, beq_iff_eq, slotHere_iff]

theorem outOrNone_iff {d : BitVec 10} :
    outOrNone e d = true ↔ d = 0x0FF ∨ (isOut d = true ∧ outOk e (desChan d) (desOfs d) = true) := by
  rw [outOrNone, Bool.or_eq_true, beq_iff_eq, Bool.and_eq_true]

theorem desOf_of_isSlot {d : BitVec 10} (h : isSlot d = true) : desOf d = .slot (desChan d) (desOfs d) := by
  have h2 : d.toNat / 256 = 2 := by simpa [isSlot] using h
  simp only [desOf, h2, desChan, desOfs, show d.toNat % 256 % 8 = d.toNat % 8 by omega]

/-- A source that may be one and is a slot is a slot that exists. -/
theorem slotHere_of_srcOk {d : BitVec 10} (hd : isSlot d = true) (h : srcOk e d = true) : slotHere e d = true := by
  rw [srcOk, desOf_of_isSlot hd] at h
  exact slotHere_iff.2 ⟨hd, h⟩

theorem srcOk_of_badSrc (h : badSrc usesA e f = none) : srcOk e f.a = true := by
  by_contra ha
  simp [badSrc, usesA, ha] at h

-- wait (R95) --------------------------------------------------------------------------------------------------------------------

/-- `wait` is sound as an instruction: it has no variant, and its counts stand on channels (R44, R95). -/
def waitSound (f : Fields) : Bool := f.var == 0 && (f.wa == 0 || isSlot f.a) && (f.wb == 0 || isSlot f.b) && (f.wd == 0 || isOut f.d)

theorem waitSound_iff : waitSound f = true ↔ f.var = 0 ∧ (f.wa = 0 ∨ isSlot f.a = true) ∧ (f.wb = 0 ∨ isSlot f.b = true)
    ∧ (f.wd = 0 ∨ isOut f.d = true) := by
  simp only [waitSound, Bool.and_eq_true, Bool.or_eq_true, beq_iff_eq, and_assoc]

theorem bodyWait_eq : bodyWait s f e = (do
    need (waitSound f) .instr
    needDes (slotOrNone e f.a) f.a
    needDes (slotOrNone e f.b) f.b
    needDes (outOrNone e f.d) f.d
    await (inWait e f.a f.wa && inWait e f.b f.wb && outWait e f.d f.wd)
    done s e) := rfl

section
variable (hs : waitSound f = true)
include hs

theorem bodyWait_operand (h : ¬ (slotOrNone e f.a = true ∧ slotOrNone e f.b = true ∧ outOrNone e f.d = true)) :
    ∃ d, bodyWait s f e = .error (.trap (.operand d)) := by
  rw [bodyWait_eq, need_ok hs, res_bind_ok]
  cases ha : slotOrNone e f.a with
  | false => exact ⟨_, rfl⟩
  | true => cases hb : slotOrNone e f.b with
    | false => exact ⟨_, rfl⟩
    | true => cases hd : outOrNone e f.d with
      | false => exact ⟨_, rfl⟩
      | true => exact absurd ⟨ha, hb, hd⟩ h

/-- Where the operands may be what they are, the counts decide. -/
theorem bodyWait_waits (ha : slotOrNone e f.a = true) (hb : slotOrNone e f.b = true) (hd : outOrNone e f.d = true) :
    bodyWait s f e = await (inWait e f.a f.wa && inWait e f.b f.wb && outWait e f.d f.wd) >>= fun _ => done s e := by
  simp only [bodyWait_eq, hs, ha, hb, hd, need_true, needDes_true, res_bind_ok]

end

-- cpeek (R99) -------------------------------------------------------------------------------------------------------------------

theorem bodyCpeek_eq (hv : f.var = 0) (hln : f.ln ≠ 3) (ht : resolve e f.ty [f.a, f.d] ≤ 12) (ha : isSlot f.a = true)
    (hl : Legal e f usesA none) (hd : regOrOut e f.d = true) : bodyCpeek s f e =
      done s (put s e f (peekLane (e.slot (desChan f.a) (desOfs f.a))) [wordReg (e.slot (desChan f.a) (desOfs f.a))]) := by
  obtain ⟨hw, hsrc, -, hready⟩ := hl
  have hslot := slotHere_iff.1 (slotHere_of_srcOk ha (srcOk_of_badSrc hsrc))
  simp [bodyCpeek, hv, laneForm_ok hln, hw, ht, hslot, hd, hready]

/-- The lanes of a peeked word as R99 lists them. -/
theorem peekLane_eq (w : CWord) (n : Nat) : peekLane w n =
    if n = 0 then (if w.isCtl then w.pay.lane 0 else 0) else if n = 1 then (if w.isCtl then w.pay.lane 1 else 0)
    else if n = 2 then BitVec.ofNat 32 ((if w.lr then 2 else 0) + (if w.ls then 1 else 0)) else 0 := by
  have hside : 2 * bit w.lr + bit w.ls = (if w.lr then 2 else 0) + (if w.ls then 1 else 0) := by
    cases w.lr <;> cases w.ls <;> rfl
  rw [peekLane, hside]
  rfl

/-- Settles O30: `wait` by its guards in their order, `cpeek` by the lanes of the word it names. -/
theorem waitingAndPeeking : Obligations.WaitingAndPeeking := by
  unfold Obligations.WaitingAndPeeking
  intro s e f hr inOk outs kinds met w
  have met_iff : (inWait e f.a f.wa && inWait e f.b f.wb && outWait e f.d f.wd) = true ↔ met := by
    simp only [met, Bool.and_eq_true, and_assoc]
  have hwait (hc : e.cls ≠ .fc) : (classesOf 0x04).contains e.cls = true := mem_classesOf_element hc (by decide)
  have core {i : Instr} {op : BitVec 8} {body : Body} (hc : e.cls = .fc) (hx : exec i s = issue op body f s)
      (hop : 1 ≤ op.toNat ∧ op.toNat ≤ 8) : Traps i s e .instr (wordOf op f) :=
    hx.trans (issue_class hr (not_mem_classesOf_core hc hop))
  have operands (hs : waitSound f = true) (ha : inOk f.a) (hb : inOk f.b) (hd : outs) :=
    bodyWait_waits (s := s) hs (slotOrNone_iff.2 ha) (slotOrNone_iff.2 hb) (outOrNone_iff.2 hd)
  refine ⟨?nop, fun hc hv hk ha hb hd hm => ?done, fun hc => ⟨fun h => ?instr, fun hv hk h => ?operand⟩, fun hc => ⟨core hc rfl (by decide), core hc rfl (by decide)⟩,
    fun hc hv hk ha hb hd hm => ?hold, fun hc hv hln ht ha hl hd => ?cpeek⟩
  case nop => exact completes_of_body (op := 0x00) rfl hr (mem_classesOf_every (by decide) e) rfl
  case done =>
    refine completes_of_body rfl hr (hwait hc) ((operands (waitSound_iff.2 ⟨hv, hk⟩) ha hb hd).trans ?_)
    rw [met_iff.2 hm]
    rfl
  case instr =>
    have hs : waitSound f = false := by
      rw [Bool.eq_false_iff, Ne, waitSound_iff]
      rintro ⟨hv, hk⟩
      exact h.elim (fun h => h hv) fun h => h hk
    refine traps_of_body rfl hr (hwait hc) ?_
    rw [bodyWait_eq, need_trap hs]
    rfl
  case operand =>
    obtain ⟨d, hb⟩ := bodyWait_operand (s := s) (e := e) (waitSound_iff.2 ⟨hv, hk⟩)
      (by rwa [slotOrNone_iff, slotOrNone_iff, outOrNone_iff])
    exact ⟨d, traps_of_body rfl hr (hwait hc) hb⟩
  case hold =>
    refine holds_of_body rfl hr (hwait hc) ((operands (waitSound_iff.2 ⟨hv, hk⟩) ha hb hd).trans ?_)
    rw [Bool.eq_false_iff.2 (mt met_iff.1 hm)]
    rfl
  case cpeek =>
    refine lanes_of_put rfl hr (mem_classesOf_element (op := 0x08) hc (by decide)) ?_ fun n _ _ => peekLane_eq w n
    rw [raise_none]
    exact bodyCpeek_eq hv hln ht ha hl hd

end
end Sys2Proof.Machine
end

section
/-! PROOFS. What the channels of a unit hold after words were sent on an output (R69, R72). -/
namespace Sys2Proof.Machine
open Sys2Proof.Claim

section
variable {e : Elem} {c : Nat}

theorem vector_getD_set {α : Type} {m : Nat} (v : Vector α m) {i : Nat} (hi : i < m) (k : Nat) (x d : α) :
    (v.setIfInBounds i x).toList.getD k d = if k = i then x else v.toList.getD k d := by
  rw [Vector.toList_setIfInBounds, List.getD_eq_getElem?_getD, List.getElem?_set]
  by_cases hk : i = k
  · simp [← hk, hi]
  · simp [hk, Ne.symm hk]

theorem outch_setOut (hc : c < 16) (k : Nat) (x : OutChan) : (e.setOut c x).outch k = if k = c then x else e.outch k :=
  vector_getD_set e.outs hc k x _

theorem inch_setIn (hc : c < 32) (k : Nat) (x : InChan) : (e.setIn c x).inch k = if k = c then x else e.inch k :=
  vector_getD_set e.ins hc k x _

/-- Words sent in order on one output. -/
def Elem.sendAll (e : Elem) (c : Nat) (l : List CWord) : Elem := l.foldl (fun x w => x.send c w) e

/-- Nothing of a unit changes but its outputs and its firing. -/
def OnlyOuts (e e1 : Elem) : Prop := e1 = { e with outs := e1.outs, run := e1.run }

theorem OnlyOuts.trans {e e1 e2 : Elem} (h : OnlyOuts e e1) (h' : OnlyOuts e1 e2) : OnlyOuts e e2 := by
  unfold OnlyOuts at *
  rw [h', h]

/-- What a unit keeps beside its outputs and its firing. -/
theorem OnlyOuts.keeps {e e1 : Elem} (h : OnlyOuts e e1) : e1.s = e.s ∧ e1.ins = e.ins ∧ e1.m = e.m ∧ e1.store = e.store := by
  unfold OnlyOuts at h
  refine ⟨?_, ?_, ?_, ?_⟩ <;> rw [h]

theorem onlyOuts_send (e : Elem) (c : Nat) (w : CWord) : OnlyOuts e (e.send c w) := rfl

theorem onlyOuts_sendAll (l : List CWord) (e : Elem) : OnlyOuts e (e.sendAll c l) := by
  induction l generalizing e with
  | nil => rfl
  | cons w l ih => exact (onlyOuts_send e c w).trans (ih _)

theorem outch_send_ne {k : Nat} (hk : k ≠ c) (e : Elem) (w : CWord) : (e.send c w).outch k = e.outch k := by
  change (e.outs.setIfInBounds c _).toList.getD k _ = _
  rw [Vector.toList_setIfInBounds, List.getD_eq_getElem?_getD, List.getElem?_set_ne hk.symm, ← List.getD_eq_getElem?_getD]
  rfl

theorem outch_sendAll_ne {k : Nat} (hk : k ≠ c) (l : List CWord) (e : Elem) : (e.sendAll c l).outch k = e.outch k := by
  induction l generalizing e with
  | nil => rfl
  | cons w l ih => exact (ih _).trans (outch_send_ne hk e w)

theorem pubs_sendAll (l : List CWord) (e : Elem) : Tab.get 0 (e.sendAll c l).run.pubs c = Tab.get 0 e.run.pubs c + l.length := by
  induction l generalizing e with
  | nil => rfl
  | cons w l ih =>
    have h : Tab.get 0 (e.send c w).run.pubs c = Tab.get 0 e.run.pubs c + 1 := by
      rw [Elem.send, tab_get_set, if_pos rfl]
      rfl
    rw [Elem.sendAll, List.foldl_cons, ← Elem.sendAll, ih, h, List.length_cons, Nat.add_assoc, Nat.add_comm 1]

section
variable (hc : c < 16)
include hc

theorem outch_send_self (e : Elem) (w : CWord) : (e.send c w).outch c =
    { e.outch c with flight := (e.outch c).flight ++ [.word w 0], free := (e.outch c).free - 1 } := by
  refine Eq.trans (outch_setOut hc c _) ?_
  rw [if_pos rfl]

/-- The words sent are in flight in their order, and as many slots are taken (R69). -/
theorem outch_sendAll_self (l : List CWord) (e : Elem) : (e.sendAll c l).outch c =
    { e.outch c with flight := (e.outch c).flight ++ l.map (fun w => .word w 0), free := (e.outch c).free - l.length } := by
  induction l generalizing e with
  | nil => simp [Elem.sendAll]
  | cons w l ih =>
    rw [Elem.sendAll, List.foldl_cons, ← Elem.sendAll, ih, outch_send_self hc]
    simp [Nat.sub_sub, Nat.add_comm]

end
end
end Sys2Proof.Machine
end

section
/-! PROOFS. O31: words published on outputs (R72, R87, R94, R97, R98, R172). -/
namespace Sys2Proof.Machine
open Sys2Proof.Claim

section
variable {s : State} {e : Elem} {f : Fields}

-- Operands (R44, R47) -----------------------------------------------------------------------------------------------------------

/-- The tail of an output that exists. -/
def outTail (e : Elem) (d : BitVec 10) : Bool := isOut d && desOfs d == 0 && outOk e (desChan d) 0

theorem outTail_iff {d : BitVec 10} : outTail e d = true ↔ isOut d = true ∧ desOfs d = 0 ∧ outOk e (desChan d) 0 = true := by
  simp only [outTail, Bool.and_eq_true, beq_iff_eq, and_assoc]

theorem chan_lt_of_outTail {d : BitVec 10} (h : outTail e d = true) : desChan d < 16 := by
  obtain ⟨-, -, h⟩ := outTail_iff.1 h
  simp only [outOk, Bool.and_eq_true, decide_eq_true_eq] at h
  exact h.1.2

theorem isOut_of_outTail {d : BitVec 10} (h : outTail e d = true) : isOut d = true := (outTail_iff.1 h).1

-- Guards that hold where a variant asks for them --------------------------------------------------------------------------------

theorem unless_ok {p q : Bool} (h : p = true → q = true) : (!p || q) = true := by
  cases p with
  | false => rfl
  | true => simpa using h

theorem tail_or_none {d : BitVec 10} {w : BitVec 4} (h : outTail e d = true) : (w == 0 || isOut d) = true := by
  rw [isOut_of_outTail h, Bool.or_true]

-- give (R94) --------------------------------------------------------------------------------------------------------------------

/-- `give` is sound as an instruction (R44, R94). -/
def giveSound (f : Fields) : Bool :=
  decide (f.var.toNat ≤ 3) && decide (slotCount f ≤ 4) && (f.wd == 0 || isOut f.d) && (!(f.var == 3) || f.wa == 0 || isSlot f.a)

/-- The sideband of the last word that `give` publishes, `w` the word that variant 3 copies it from (R94). -/
def giveLr (f : Fields) (w : CWord) : Bool := if f.var == 3 then w.lr else f.var != 0
def giveLs (f : Fields) (w : CWord) : Bool := if f.var == 3 then w.ls else f.var == 2

theorem copies_iff : (f.var == 3) = true ↔ f.var.toNat = 3 := by
  rw [beq_iff_eq, ← BitVec.toNat_inj]
  rfl

theorem giveSound_iff : giveSound f = true ↔ f.var.toNat ≤ 3 ∧ slotCount f ≤ 4 ∧ (f.wd = 0 ∨ isOut f.d = true)
    ∧ (f.var.toNat = 3 → f.wa = 0 ∨ isSlot f.a = true) := by
  rw [← copies_iff]
  simp only [giveSound, Bool.and_eq_true, decide_eq_true_eq, Bool.or_eq_true, beq_iff_eq, Bool.not_eq_true', and_assoc, or_assoc,
    imp_iff_not_or, beq_eq_false_iff_ne, Ne]

theorem giveLr_eq (w : CWord) : giveLr f w = if f.var.toNat = 3 then w.lr else decide (f.var.toNat ≠ 0) := by
  rw [giveLr, if_congr copies_iff rfl rfl]
  congr 1
  rw [Bool.eq_iff_iff, bne_iff_ne, decide_eq_true_iff, Ne, Ne, var_eq_zero_iff]

theorem giveLs_eq (w : CWord) : giveLs f w = if f.var.toNat = 3 then w.ls else decide (f.var.toNat = 2) := by
  rw [giveLs, if_congr copies_iff rfl rfl]
  congr 1
  rw [Bool.eq_iff_iff, beq_iff_eq, decide_eq_true_iff, ← BitVec.toNat_inj]
  rfl

theorem bodyGive_eq : bodyGive s f e = (do
    need (giveSound f) .instr
    needDes (outTail e f.d) f.d
    needDes (!(f.var == 3) || slotHere e f.a) f.a
    await (decide (max (slotCount f) f.wd.toNat ≤ (e.outch (desChan f.d)).free))
    await (!(f.var == 3) || inWait e f.a f.wa)
    need (!(f.var == 3) || (e.slot (desChan f.a) (desOfs f.a)).isData) (.align (desChan f.a) none (headKind e (desChan f.a)))
    done s (publishSlots e (desChan f.d) (slotCount f) (giveLr f (e.slot (desChan f.a) (desOfs f.a)))
      (giveLs f (e.slot (desChan f.a) (desOfs f.a))))) := rfl

theorem bodyGive_unsound (h : giveSound f = false) : bodyGive s f e = .error (.trap .instr) := by
  rw [bodyGive_eq, h]
  rfl

theorem bodyGive_noTail (hs : giveSound f = true) (h : outTail e f.d = false) :
    bodyGive s f e = .error (.trap (.operand f.d.toNat)) := by
  rw [bodyGive_eq, hs, h]
  rfl

section
variable (hs : giveSound f = true) (ho : outTail e f.d = true) (ha : f.var == 3 → slotHere e f.a = true)
include hs ho ha

theorem bodyGive_hold (h : (e.outch (desChan f.d)).free < max (slotCount f) f.wd.toNat) :
    bodyGive s f e = .error (.hold .slots) := by
  rw [bodyGive_eq, hs, ho, unless_ok ha, decide_eq_false (Nat.not_le.2 h)]
  rfl

section
variable (hroom : max (slotCount f) f.wd.toNat ≤ (e.outch (desChan f.d)).free) (hw : f.var == 3 → inWait e f.a f.wa = true)
include hroom hw

theorem bodyGive_word : bodyGive s f e = need (!(f.var == 3) || (e.slot (desChan f.a) (desOfs f.a)).isData)
    (.align (desChan f.a) none (headKind e (desChan f.a))) >>= fun _ =>
      done s (publishSlots e (desChan f.d) (slotCount f) (giveLr f (e.slot (desChan f.a) (desOfs f.a)))
        (giveLs f (e.slot (desChan f.a) (desOfs f.a)))) := by
  rw [bodyGive_eq, hs, ho, unless_ok ha, decide_eq_true hroom, unless_ok hw]
  rfl

end
end

/-- The words that `give` publishes (R87, R94). -/
def giveWords (e : Elem) (c n : Nat) (lr ls : Bool) : List CWord :=
  (List.range n).map fun j => staged e c j (lr && j + 1 == n) (ls && j + 1 == n)

theorem publishSlots_eq (c n : Nat) (lr ls : Bool) : publishSlots e c n lr ls =
    { e.sendAll c (giveWords e c n lr ls) with
      run := { (e.sendAll c (giveWords e c n lr ls)).run with stag := shiftStaging e.run.stag c n } } := by
  rw [Elem.sendAll, giveWords, List.foldl_map]
  rfl

theorem giveWords_length (c n : Nat) (lr ls : Bool) : (giveWords e c n lr ls).length = n := by simp [giveWords]

/-- The sideband stands on the last word alone (R94). -/
theorem giveWords_eq (c n : Nat) (lr ls : Bool) : giveWords e c n lr ls =
    (List.range n).map fun j => if j + 1 = n then staged e c j lr ls else staged e c j false false := by
  refine List.map_congr_left fun j _ => ?_
  by_cases h : j + 1 = n
  · rw [if_pos h, beq_iff_eq.2 h, Bool.and_true, Bool.and_true]
  · rw [if_neg h, beq_false_of_ne h, Bool.and_false, Bool.and_false]

theorem onlyOuts_publishSlots (c n : Nat) (lr ls : Bool) : OnlyOuts e (publishSlots e c n lr ls) := by
  rw [publishSlots_eq]
  exact (onlyOuts_sendAll _ e).trans rfl

/-- The words published are in flight in their order, and as many slots are taken (R69, R94). -/
theorem outch_publishSlots_self {c : Nat} (hc : c < 16) (n : Nat) (lr ls : Bool) : (publishSlots e c n lr ls).outch c =
    { e.outch c with flight := (e.outch c).flight ++ (giveWords e c n lr ls).map (fun w => .word w 0), free := (e.outch c).free - n } := by
  rw [publishSlots_eq]
  refine (outch_sendAll_self hc (giveWords e c n lr ls) e).trans ?_
  rw [giveWords_length]

theorem outch_publishSlots_ne {c k : Nat} (hk : k ≠ c) (n : Nat) (lr ls : Bool) : (publishSlots e c n lr ls).outch k = e.outch k := by
  rw [publishSlots_eq]
  exact outch_sendAll_ne hk _ e

theorem pubs_publishSlots (c n : Nat) (lr ls : Bool) :
    Tab.get 0 (publishSlots e c n lr ls).run.pubs c = Tab.get 0 e.run.pubs c + n := by
  rw [publishSlots_eq]
  exact (pubs_sendAll _ e).trans (by rw [giveWords_length])

-- Refusals of stamped stores (R172) ---------------------------------------------------------------------------------------------

theorem needNoRefusal_none (h : refusal e = none) : needNoRefusal e = .ok () := by rw [needNoRefusal, h]

theorem needNoRefusal_some {p t : Nat} {k : List Nat} (h : refusal e = some (p, t, k)) :
    needNoRefusal e = .error (.trap (.tooOld t p (some k))) := by
  rw [needNoRefusal, h]
  rfl

-- ctlw (R97) --------------------------------------------------------------------------------------------------------------------

/-- Operand a of `ctlw` may be what it is. -/
def ctlSrc (e : Elem) (f : Fields) : Bool := f.a == 0x0FF || srcOk e f.a

/-- `ctlw` is sound as an instruction, its argument included where it can be read (R21, R97). -/
def ctlSound (s : State) (e : Elem) (f : Fields) : Bool :=
  ctlKinds.contains f.var.toNat && (f.wa == 0 || isSlot f.a) && (f.wd == 0 || isOut f.d)
    && !(ctlSrc e f && inWait e f.a f.wa && ctlArgBad f.var.toNat (ctlArg s e f))

theorem ctlSrc_iff : ctlSrc e f = true ↔ f.a = 0x0FF ∨ srcOk e f.a = true := by rw [ctlSrc, Bool.or_eq_true, beq_iff_eq]

theorem ctlArgBad_iff {v arg : Nat} : ctlArgBad v arg = true ↔ (v = 2 ∧ ¬ (2 ≤ arg ∧ arg ≤ 15)) ∨ (v = 7 ∧ arg = 0) := by
  simp only [ctlArgBad, Bool.or_eq_true, Bool.and_eq_true, beq_iff_eq, Bool.not_eq_true', decide_eq_false_iff_not]

theorem bodyCtlw_eq : bodyCtlw s f e = (do
    need (ctlSound s e f) .instr
    needDes (ctlSrc e f) f.a
    needDes (outTail e f.d) f.d
    await (inWait e f.a f.wa && outWait e f.d f.wd)
    if f.var.toNat = 3 then needNoRefusal e
    done (eoiSide s e f.var.toNat) (e.send (desChan f.d) (CWord.ctl (BitVec.ofNat 32 f.var.toNat) (BitVec.ofNat 32 (ctlArg s e f))))) := rfl

section
variable (hv : ctlKinds.contains f.var.toNat = true) (hwa : f.wa = 0 ∨ isSlot f.a = true) (ha : ctlSrc e f = true)
  (ho : outTail e f.d = true)
include hv hwa ha ho

theorem ctlSound_of (harg : inWait e f.a f.wa = true → ctlArgBad f.var.toNat (ctlArg s e f) = false) : ctlSound s e f = true := by
  have hbad : (inWait e f.a f.wa && ctlArgBad f.var.toNat (ctlArg s e f)) = false := by
    cases hw : inWait e f.a f.wa with
    | false => rfl
    | true => exact harg hw
  have hkind : (f.wa == 0 || isSlot f.a) = true := waitKind_ok hwa
  rw [ctlSound, hv, hkind, tail_or_none ho, ha, Bool.and_assoc true (inWait e f.a f.wa), hbad]
  rfl

theorem bodyCtlw_hold (harg : inWait e f.a f.wa = true → ctlArgBad f.var.toNat (ctlArg s e f) = false)
    (h : inWait e f.a f.wa = false ∨ outWait e f.d f.wd = false) : bodyCtlw s f e = .error (.hold .slots) := by
  have hwait : (inWait e f.a f.wa && outWait e f.d f.wd) = false := by
    obtain h | h := h <;> simp [h]
  rw [bodyCtlw_eq, ctlSound_of hv hwa ha ho harg, ha, ho, hwait]
  rfl

section
variable (hw : inWait e f.a f.wa = true) (hwd : outWait e f.d f.wd = true) (harg : ctlArgBad f.var.toNat (ctlArg s e f) = false)
include hw hwd harg

theorem bodyCtlw_done (href : f.var.toNat = 3 → refusal e = none) : bodyCtlw s f e = done (eoiSide s e f.var.toNat)
    (e.send (desChan f.d) (CWord.ctl (BitVec.ofNat 32 f.var.toNat) (BitVec.ofNat 32 (ctlArg s e f)))) := by
  rw [bodyCtlw_eq, ctlSound_of hv hwa ha ho fun _ => harg, ha, ho, hw, hwd]
  by_cases h3 : f.var.toNat = 3
  · simp [h3, needNoRefusal_none (href h3)]
  · simp [h3]

theorem bodyCtlw_refused {p t : Nat} {k : List Nat} (h3 : f.var.toNat = 3) (href : refusal e = some (p, t, k)) :
    bodyCtlw s f e = .error (.trap (.tooOld t p (some k))) := by
  rw [bodyCtlw_eq, ctlSound_of hv hwa ha ho fun _ => harg, ha, ho, hw, hwd]
  simp [h3, needNoRefusal_some href]

end
end

theorem bodyCtlw_unsound (h : ctlSound s e f = false) : bodyCtlw s f e = .error (.trap .instr) := by
  rw [bodyCtlw_eq, h]
  rfl

-- cfwd (R98) --------------------------------------------------------------------------------------------------------------------

/-- `cfwd` is sound as an instruction (R44, R98). -/
def cfwdSound (f : Fields) : Bool :=
  decide (f.var.toNat ≤ 1) && (f.wa == 0 || isSlot f.a) && (!(f.var == 0) || f.wd == 0 || isOut f.d)

/-- The outputs that `cfwd` forwards to: the one named, or every bound one (R98). -/
def cfwdOuts (e : Elem) (f : Fields) : List Nat := if f.var == 0 then [desChan f.d] else e.boundOuts

/-- There is room on them. -/
def cfwdRoom (e : Elem) (f : Fields) : Bool :=
  if f.var == 0 then outWait e f.d f.wd else (cfwdOuts e f).all (fun c => decide (1 ≤ (e.outch c).free))

/-- A control word sent on each of some outputs. -/
def Elem.forward (e : Elem) (outs : List Nat) (w : CWord) : Elem := outs.foldl (fun x c => x.send c (CWord.ctl w.kind w.arg)) e

section
variable (hv : f.var.toNat = 0)
include hv

theorem cfwdOuts_one : cfwdOuts e f = [desChan f.d] := by rw [cfwdOuts, var_eq_zero_iff.2 hv]; rfl

theorem cfwdRoom_one : cfwdRoom e f = outWait e f.d f.wd := by rw [cfwdRoom, var_eq_zero_iff.2 hv]; rfl

end

section
variable (hv : f.var.toNat = 1)
include hv

theorem not_one_of_var : (f.var == 0) = false := by
  rw [beq_eq_false_iff_ne, Ne, var_eq_zero_iff]
  omega

theorem cfwdOuts_all : cfwdOuts e f = e.boundOuts := by rw [cfwdOuts, not_one_of_var hv]; rfl

theorem cfwdRoom_all : cfwdRoom e f = true ↔ ∀ k ∈ e.boundOuts, 1 ≤ (e.outch k).free := by
  rw [cfwdRoom, not_one_of_var hv, cfwdOuts_all hv, if_neg Bool.false_ne_true, List.all_eq_true]
  simp only [decide_eq_true_eq]

end

theorem bodyCfwd_eq : bodyCfwd s f e = (do
    need (cfwdSound f) .instr
    needDes (slotHere e f.a) f.a
    needDes (!(f.var == 0) || outTail e f.d) f.d
    await (inWait e f.a f.wa && cfwdRoom e f)
    need (e.slot (desChan f.a) (desOfs f.a)).isCtl (.align (desChan f.a) none (headKind e (desChan f.a)))
    if (e.slot (desChan f.a) (desOfs f.a)).kind.toNat = 3 ∧ cfwdOuts e f ≠ [] then needNoRefusal e
    done (if cfwdOuts e f = [] then s else eoiSide s e (e.slot (desChan f.a) (desOfs f.a)).kind.toNat)
      (e.forward (cfwdOuts e f) (e.slot (desChan f.a) (desOfs f.a)))) := rfl

theorem cfwdSound_of (hv : f.var.toNat ≤ 1) (ha : slotHere e f.a = true) (ho : f.var == 0 → outTail e f.d = true) :
    cfwdSound f = true := by
  have hd : (!(f.var == 0) || f.wd == 0 || isOut f.d) = true := by
    rw [Bool.or_assoc]
    exact unless_ok fun h => tail_or_none (ho h)
  rw [cfwdSound, decide_eq_true hv, (slotHere_iff.1 ha).1, Bool.or_true, hd]
  rfl

section
variable (hv : f.var.toNat ≤ 1) (ha : slotHere e f.a = true) (ho : f.var == 0 → outTail e f.d = true)
include hv ha ho

theorem bodyCfwd_hold (h : (inWait e f.a f.wa && cfwdRoom e f) = false) : bodyCfwd s f e = .error (.hold .slots) := by
  rw [bodyCfwd_eq, cfwdSound_of hv ha ho, ha, unless_ok ho, h]
  rfl

section
variable (hw : inWait e f.a f.wa = true) (hroom : cfwdRoom e f = true)
include hw hroom

theorem bodyCfwd_data (h : (e.slot (desChan f.a) (desOfs f.a)).isData = true) :
    bodyCfwd s f e = .error (.trap (.align (desChan f.a) none (headKind e (desChan f.a)))) := by
  have hctl : (e.slot (desChan f.a) (desOfs f.a)).isCtl = false := by simpa [CWord.isData] using h
  rw [bodyCfwd_eq, cfwdSound_of hv ha ho, ha, unless_ok ho, hw, hroom, hctl]
  rfl

section
variable (hctl : (e.slot (desChan f.a) (desOfs f.a)).isCtl = true)
include hctl

theorem bodyCfwd_done (href : (e.slot (desChan f.a) (desOfs f.a)).kind = 3 → cfwdOuts e f ≠ [] → refusal e = none) :
    bodyCfwd s f e = done (if cfwdOuts e f = [] then s else eoiSide s e (e.slot (desChan f.a) (desOfs f.a)).kind.toNat)
      (e.forward (cfwdOuts e f) (e.slot (desChan f.a) (desOfs f.a))) := by
  rw [bodyCfwd_eq, cfwdSound_of hv ha ho, ha, unless_ok ho, hw, hroom, hctl]
  by_cases h3 : (e.slot (desChan f.a) (desOfs f.a)).kind.toNat = 3 ∧ cfwdOuts e f ≠ []
  · simp [h3, needNoRefusal_none (href (BitVec.eq_of_toNat_eq h3.1) h3.2)]
  · simp [h3]

theorem bodyCfwd_refused {p t : Nat} {k : List Nat} (h3 : (e.slot (desChan f.a) (desOfs f.a)).kind = 3) (hne : cfwdOuts e f ≠ [])
    (href : refusal e = some (p, t, k)) : bodyCfwd s f e = .error (.trap (.tooOld t p (some k))) := by
  rw [bodyCfwd_eq, cfwdSound_of hv ha ho, ha, unless_ok ho, hw, hroom, hctl]
  simp [h3, hne, needNoRefusal_some href]

end
end
end

theorem bodyCfwd_unsound (h : 1 < f.var.toNat) : bodyCfwd s f e = .error (.trap .instr) := by
  rw [bodyCfwd_eq, cfwdSound, decide_eq_false (Nat.not_le.2 h)]
  rfl

/-- Settles O31: each instruction by its guards in their order, and what it publishes by the words sent on its outputs. -/
theorem publishing : Obligations.Publishing := by
  unfold Obligations.Publishing
  intro s e f hr hc v c n src outHead inHere word sent
  have elem {op : BitVec 8} (hop : 1 ≤ op.toNat ∧ op.toNat ≤ 8) : (classesOf op).contains e.cls = true := mem_classesOf_element hc hop
  have tail (h : outHead) : outTail e f.d = true := outTail_iff.2 h
  have slot (h : inHere) : slotHere e f.a = true := slotHere_iff.2 ⟨h.1, h.2.1⟩
  have one (h : v = 0 → outHead) : f.var == 0 → outTail e f.d = true := fun h0 => tail (h (var_eq_zero_iff.1 (beq_iff_eq.1 h0)))
  have all (h : v = 1) : f.var == 0 → outTail e f.d = true := fun h0 => absurd ((not_one_of_var h).symm.trans h0) Bool.false_ne_true
  refine ⟨fun hv hn hwd ho ha hroom => ?giveHold, fun hv hn ho hroom ha hw => ?giveCtl, fun h => ?giveInstr, fun hv hn hwd hwa ho => ?giveOut,
    fun hv hn ho hroom hroom' ha => ?give, fun hv hwa ha hw harg ho hwd href => ?ctlw, fun hv hwa ha ho harg hw => ?ctlwHold,
    fun hv => ?ctlwKind, fun hv ha hw harg => ?ctlwArg, fun p t k href ho hwa => ⟨fun hv ha hw hwd => ?ctlwRefused, fun hv ha hwd hw hk => ?cfwdRefused⟩,
    fun hv ha hok ho h => ?cfwdHold, fun hv => ?cfwdInstr, fun hv ha hb hw => ?cfwdNone, fun hv ha ho hwd hw href => ?cfwdOne,
    fun hv ha hroom hb hw href => ?cfwdAll, fun hv hwd ha ho hwd' hw => ?cfwdData, fun hv ha hroom hw => ?cfwdDataAll⟩
  case giveHold =>
    have hs : giveSound f = true := giveSound_iff.2 ⟨hv, hn, hwd, fun h => (ha h).1⟩
    exact holds_of_body rfl hr (elem (by decide)) (bodyGive_hold hs (tail ho) (fun h => slot (ha (copies_iff.1 h)).2) hroom)
  case giveCtl =>
    have hs : giveSound f = true := giveSound_iff.2 ⟨hv.le, hn, .inr ho.1, fun _ => .inr ha.1⟩
    have hdata : src.isData = false := by simp [CWord.isData, hw]
    refine ⟨headKind e (desChan f.a),
      traps_of_body rfl hr (elem (by decide)) ((bodyGive_word hs (tail ho) (fun _ => slot ha) hroom fun _ => ha.2.2).trans ?_)⟩
    rw [copies_iff.2 hv, hdata]
    rfl
  case giveInstr =>
    refine traps_of_body rfl hr (elem (by decide)) (bodyGive_unsound (Bool.eq_false_iff.2 fun hs => ?_))
    obtain ⟨hv, hn, -⟩ := giveSound_iff.1 hs
    exact h.elim (fun h => by omega) fun h => absurd hn (Nat.not_le.2 h)
  case giveOut =>
    have hs : giveSound f = true := giveSound_iff.2 ⟨hv, hn, hwd, hwa⟩
    exact traps_of_body rfl hr (elem (by decide)) (bodyGive_noTail hs (Bool.eq_false_iff.2 (mt outTail_iff.1 ho)))
  case give =>
    have hs : giveSound f = true := giveSound_iff.2 ⟨hv, hn, .inr ho.1, fun h => .inr (ha h).1.1⟩
    have here (h : f.var == 3) : inHere ∧ src.isData = true := ha (copies_iff.1 h)
    have hb := bodyGive_word (s := s) hs (tail ho) (fun h => slot (here h).1) (max_le hroom hroom') fun h => (here h).1.2.2
    rw [unless_ok fun h => (here h).2, need_true, res_bind_ok] at hb
    obtain ⟨hregs, hins, hmask, hstore⟩ := onlyOuts_publishSlots (e := e) c n (giveLr f src) (giveLs f src) |>.keeps
    refine ⟨_, completes_of_body rfl hr (elem (by decide)) hb, ?_, hregs, hins, hmask, hstore, fun k hk => outch_publishSlots_ne hk n _ _,
      pubs_publishSlots c n _ _⟩
    have hwords := giveWords_eq (e := e) c n (giveLr f src) (giveLs f src)
    rw [giveLr_eq, giveLs_eq] at hwords
    refine ⟨?_, ?_⟩
    · rw [outch_publishSlots_self (chan_lt_of_outTail (tail ho)), giveLr_eq, giveLs_eq]
      exact congrArg (fun l => (e.outch c).flight ++ l.map fun w => Flight.word w 0) hwords
    · rw [outch_publishSlots_self (chan_lt_of_outTail (tail ho)), List.length_map, List.length_range]
      exact Nat.sub_add_cancel hroom
  case ctlw => exact completes_of_body rfl hr (elem (by decide)) (bodyCtlw_done hv hwa (ctlSrc_iff.2 ha) (tail ho) hw hwd harg href)
  case ctlwHold => exact holds_of_body rfl hr (elem (by decide)) (bodyCtlw_hold hv hwa (ctlSrc_iff.2 ha) (tail ho) harg hw)
  case ctlwKind =>
    refine traps_of_body rfl hr (elem (by decide)) (bodyCtlw_unsound ?_)
    rw [ctlSound, show ctlKinds.contains f.var.toNat = false from hv]
    rfl
  case ctlwArg =>
    refine traps_of_body rfl hr (elem (by decide)) (bodyCtlw_unsound ?_)
    rw [ctlSound, ctlSrc_iff.2 ha, hw, ctlArgBad_iff.2 harg]
    exact Bool.and_false _
  case ctlwRefused =>
    have harg : ctlArgBad f.var.toNat (ctlArg s e f) = false := by rw [show f.var.toNat = 3 from hv]; rfl
    refine traps_of_body rfl hr (elem (by decide)) (bodyCtlw_refused ?_ hwa (ctlSrc_iff.2 ha) (tail ho) hw hwd harg hv href)
    rw [show f.var.toNat = 3 from hv]
    rfl
  case cfwdRefused =>
    exact traps_of_body rfl hr (elem (by decide)) (bodyCfwd_refused (show v ≤ 1 by omega) (slot ha) (one fun _ => ho) ha.2.2
      ((cfwdRoom_one hv).trans hwd) hw hk (by simp [cfwdOuts_one hv]) href)
  case cfwdHold =>
    refine holds_of_body rfl hr (elem (by decide)) (bodyCfwd_hold hv (slotHere_iff.2 ⟨ha, hok⟩) (one ho) ?_)
    obtain h | ⟨h0, h⟩ | ⟨h1, k, hk, h⟩ := h
    · rw [h, Bool.false_and]
    · rw [cfwdRoom_one h0, h, Bool.and_false]
    · have hroom : cfwdRoom e f = false := Bool.eq_false_iff.2 fun hr => absurd ((cfwdRoom_all h1).1 hr k hk) (by omega)
      rw [hroom, Bool.and_false]
  case cfwdInstr => exact traps_of_body rfl hr (elem (by decide)) (bodyCfwd_unsound hv)
  case cfwdNone =>
    have houts : cfwdOuts e f = [] := (cfwdOuts_all hv).trans hb
    refine completes_of_body rfl hr (elem (by decide)) ((bodyCfwd_done hv.le (slot ha) (all hv) ha.2.2
      ((cfwdRoom_all hv).2 (by simp [hb])) hw fun _ h => absurd houts h).trans ?_)
    rw [houts]
    rfl
  case cfwdOne =>
    refine completes_of_body rfl hr (elem (by decide)) ((bodyCfwd_done (show v ≤ 1 by omega) (slot ha) (one fun _ => ho) ha.2.2
      ((cfwdRoom_one hv).trans hwd) hw fun h _ => href h).trans ?_)
    rw [cfwdOuts_one hv]
    rfl
  case cfwdAll =>
    refine completes_of_body rfl hr (elem (by decide)) ((bodyCfwd_done hv.le (slot ha) (all hv) ha.2.2
      ((cfwdRoom_all hv).2 hroom) hw fun h _ => href h).trans ?_)
    rw [cfwdOuts_all hv, if_neg hb]
    rfl
  case cfwdData =>
    exact ⟨_, traps_of_body rfl hr (elem (by decide)) (bodyCfwd_data (show v ≤ 1 by omega) (slot ha) (one fun _ => ho) ha.2.2
      ((cfwdRoom_one hv).trans hwd') hw)⟩
  case cfwdDataAll =>
    exact ⟨_, traps_of_body rfl hr (elem (by decide)) (bodyCfwd_data hv.le (slot ha) (all hv) ha.2.2 ((cfwdRoom_all hv).2 hroom) hw)⟩

end
end Sys2Proof.Machine
end

section
/-! PROOFS. O33: branches and loops within a firing or a core's code (R53, R87, R102 to R105; log 59). -/
namespace Sys2Proof.Machine
open Sys2Proof.Claim

section
variable {s : State} {e : Elem} {f : Fields}

-- Decisions (R87, R102) -----------------------------------------------------------------------------------------------------------

/-- A branch of each variant is taken by all 16 bits of its mask. -/
theorem branchTest_iff {v : Nat} (hv : v ≤ 3) (m : BitVec 16) :
    branchTest v m = true ↔ v = 0 ∨ (v = 1 ∧ m ≠ 0) ∨ (v = 2 ∧ m = 0xFFFF) ∨ (v = 3 ∧ m = 0) := by
  interval_cases v <;> simp [branchTest]

/-- What a branch takes into the flow bits: `.al` takes nothing (log 59). -/
theorem branchFlow_eq : branchFlow e f =
    if f.var.toNat = 0 then e else e.addFlow (e.mask f.pm.toNat).pz (e.mask f.pm.toNat).tn :=
  if_congr var_eq_zero_iff rfl rfl

/-- The target of a branch (R102). -/
theorem branchTarget_eq :
    branchTarget e f = if e.cls = .fc then (((e.run.pos : Int) + f.imm.toInt) % 2 ^ 32).toNat else f.imm.toNat := by
  rw [branchTarget, signedOf_toNat (by decide)]

theorem branchOk_iff {p : Nat} : branchOk e p = true ↔ if e.cls = .fc then sameSegment e p = true else p < e.body.length := by
  unfold branchOk
  split
  · rfl
  · exact decide_eq_true_iff

-- Loops that a branch leaves (R105) ---------------------------------------------------------------------------------------------

theorem holds_iff {l : LoopLvl} {p : Nat} : l.holds p = true ↔ l.start ≤ p ∧ p ≤ l.stop := by
  simp only [LoopLvl.holds, Bool.and_eq_true, decide_eq_true_eq]

/-- The loops popped stand inside those kept; each one kept holds the target, and the outermost one popped does not. -/
theorem loopsAt_split (loops : List LoopLvl) (p : Nat) : ∃ pre, loops = pre ++ loopsAt loops p
    ∧ (∀ l ∈ loopsAt loops p, l.start ≤ p ∧ p ≤ l.stop) ∧ ∀ l, pre.getLast? = some l → ¬ (l.start ≤ p ∧ p ≤ l.stop) := by
  induction loops with
  | nil => exact ⟨[], rfl, by simp [loopsAt], by simp⟩
  | cons l r ih =>
    obtain ⟨pre, hr, hkept, hlast⟩ := ih
    unfold loopsAt
    split
    · next h => exact ⟨[], rfl, fun x hx => holds_iff.1 (List.all_eq_true.1 h x hx), by simp⟩
    · next h =>
      refine ⟨l :: pre, congrArg (l :: ·) hr, hkept, fun x hx hin => ?_⟩
      cases pre with
      | nil =>
        obtain rfl : l = x := by simpa using hx
        refine h (List.all_eq_true.2 fun y hy => holds_iff.2 ?_)
        obtain rfl | hy := List.mem_cons.1 hy
        · exact hin
        · rw [List.nil_append] at hr
          exact hkept y (by rwa [← hr])
      | cons a pre => exact hlast x (by simpa using hx) hin

-- bra (R102) ----------------------------------------------------------------------------------------------------------------------

theorem bodyBra_eq : bodyBra s f e = (do
    need (decide (f.var.toNat ≤ 3) && (!branchTest f.var.toNat (e.mask f.pm.toNat).bits || branchOk e (branchTarget e f))) .instr
    if branchTest f.var.toNat (e.mask f.pm.toNat).bits then
      doneAt s { branchFlow e f with run := { (branchFlow e f).run with loops := loopsAt e.run.loops (branchTarget e f) } }
        (.goto (branchTarget e f))
    else done s (branchFlow e f)) := rfl

section
variable (hv : f.var.toNat ≤ 3)
include hv

theorem bodyBra_taken (ht : branchTest f.var.toNat (e.mask f.pm.toNat).bits = true) (hok : branchOk e (branchTarget e f) = true) :
    bodyBra s f e = doneAt s { branchFlow e f with run := { (branchFlow e f).run with loops := loopsAt e.run.loops (branchTarget e f) } }
      (.goto (branchTarget e f)) := by
  rw [bodyBra_eq, decide_eq_true hv, ht, hok]
  rfl

theorem bodyBra_passed (ht : branchTest f.var.toNat (e.mask f.pm.toNat).bits = false) : bodyBra s f e = done s (branchFlow e f) := by
  rw [bodyBra_eq, decide_eq_true hv, ht]
  rfl

theorem bodyBra_outside (ht : branchTest f.var.toNat (e.mask f.pm.toNat).bits = true) (hok : branchOk e (branchTarget e f) = false) :
    bodyBra s f e = .error (.trap .instr) := by
  rw [bodyBra_eq, decide_eq_true hv, ht, hok]
  rfl

end

theorem bodyBra_variant (hv : 3 < f.var.toNat) : bodyBra s f e = .error (.trap .instr) := by
  rw [bodyBra_eq, decide_eq_false (Nat.not_le.2 hv)]
  rfl

-- loop (R103) ---------------------------------------------------------------------------------------------------------------------

/-- A loop of `len` words behind it ends at `q`: the body or the segment holds them, the loops are at most four, and the one around it holds
`q` too (R103). -/
def LoopEnds (e : Elem) (len q : Nat) : Prop :=
  posAfter e len = some q ∧ 0 < len ∧ e.run.loops.length < 4 ∧ ∀ l, e.run.loops.head? = some l → q ≤ l.stop

/-- A loop fits where it ends somewhere. -/
def loopFits (e : Elem) (len : Nat) : Bool :=
  match posAfter e len with
  | none => false
  | some q => decide (0 < len ∧ e.run.loops.length < 4) && (match e.run.loops with | l :: _ => decide (q ≤ l.stop) | [] => true)

theorem loopFits_iff {len : Nat} : loopFits e len = true ↔ ∃ q, LoopEnds e len q := by
  unfold loopFits LoopEnds
  cases posAfter e len with
  | none => simp
  | some q => cases e.run.loops <;> simp [and_assoc]

/-- The iterations of a loop: of `imm`, or of the register that a names (R103). -/
def loopCount (s : State) (e : Elem) (f : Fields) : Nat :=
  if f.a = 0x0FF then f.imm.toNat / 256 else ((readDes s e f.a).pay.lane 0).toNat % 65536

/-- What a count from a register takes into the flow bits (R87). -/
def loopFlow (s : State) (e : Elem) (f : Fields) : Elem :=
  if f.a = 0x0FF then e else e.addFlow (readDes s e f.a).pz (readDes s e f.a).tn

theorem bodyLoop_eq : bodyLoop s f e = (do
    need (f.var == 0 && (f.wa == 0 || isSlot f.a) && loopFits e (f.imm.toNat % 256)) .instr
    needDes (ctlSrc e f) f.a
    await (inWait e f.a f.wa)
    let q := (posAfter e (f.imm.toNat % 256)).getD 0
    if loopCount s e f = 0 then doneAt s (loopFlow s e f) (.goto (if e.cls = .fc then codeAfter e.fc.icache q else q + 1))
    else doneAt s { loopFlow s e f with run := { (loopFlow s e f).run with
        loops := { start := e.nextPos, stop := q, left := loopCount s e f } :: e.run.loops } } (.goto e.nextPos)) := rfl

theorem bodyLoop_unsound (h : f.var ≠ 0 ∨ loopFits e (f.imm.toNat % 256) = false) : bodyLoop s f e = .error (.trap .instr) := by
  have hs : (f.var == 0 && (f.wa == 0 || isSlot f.a) && loopFits e (f.imm.toNat % 256)) = false := by
    obtain h | h := h
    · rw [beq_false_of_ne h]; rfl
    · rw [h, Bool.and_false]
  rw [bodyLoop_eq, hs]
  rfl

section
variable {q : Nat} (hv : f.var = 0) (hwa : f.wa = 0 ∨ isSlot f.a = true) (ha : ctlSrc e f = true) (hq : LoopEnds e (f.imm.toNat % 256) q)
include hv hwa ha hq

omit ha in
theorem loop_sound : (f.var == 0 && (f.wa == 0 || isSlot f.a) && loopFits e (f.imm.toNat % 256)) = true := by
  have hkind : (f.wa == 0 || isSlot f.a) = true := waitKind_ok hwa
  rw [hv, hkind, loopFits_iff.2 ⟨q, hq⟩]
  rfl

theorem bodyLoop_hold (hw : inWait e f.a f.wa = false) : bodyLoop s f e = .error (.hold .slots) := by
  rw [bodyLoop_eq, loop_sound hv hwa hq, ha, hw]
  rfl

theorem bodyLoop_done (hw : inWait e f.a f.wa = true) : bodyLoop s f e =
    if loopCount s e f = 0 then doneAt s (loopFlow s e f) (.goto (if e.cls = .fc then codeAfter e.fc.icache q else q + 1))
    else doneAt s { loopFlow s e f with run := { (loopFlow s e f).run with
        loops := { start := e.nextPos, stop := q, left := loopCount s e f } :: e.run.loops } } (.goto e.nextPos) := by
  rw [bodyLoop_eq, loop_sound hv hwa hq, ha, hw, hq.1]
  rfl

end

-- brk (R104) ----------------------------------------------------------------------------------------------------------------------

theorem bodyBrk_unsound (h : 3 < f.var.toNat ∨ e.run.loops = []) : bodyBrk s f e = .error (.trap .instr) := by
  have hs : (decide (f.var.toNat ≤ 3) && !e.run.loops.isEmpty) = false := by
    obtain h | h := h
    · rw [decide_eq_false (Nat.not_le.2 h), Bool.false_and]
    · rw [h]; exact Bool.and_false _
  rw [bodyBrk, hs]
  rfl

section
variable {l : LoopLvl} {r : List LoopLvl} (hv : f.var.toNat ≤ 3) (hl : e.run.loops = l :: r)
include hv hl

theorem bodyBrk_taken (ht : branchTest f.var.toNat (e.mask f.pm.toNat).bits = true) : bodyBrk s f e =
    (let x := closeLoops r l.stop (if e.cls = .fc then codeAfter e.fc.icache l.stop else l.stop + 1)
     doneAt s { branchFlow e f with run := { (branchFlow e f).run with loops := x.1 } } (.goto x.2)) := by
  rw [bodyBrk, decide_eq_true hv, hl, ht]
  rfl

theorem bodyBrk_passed (ht : branchTest f.var.toNat (e.mask f.pm.toNat).bits = false) : bodyBrk s f e = done s (branchFlow e f) := by
  rw [bodyBrk, decide_eq_true hv, hl, ht]
  rfl

end

/-- Settles O33: `bra` and `brk` by the decision on their mask, `loop` by where it ends and by its count. -/
theorem branchesAndLoops : Obligations.BranchesAndLoops := by
  unfold Obligations.BranchesAndLoops
  intro s e f hr v m taken dest here inside e1 len after room x imd cnt el src fits
  have every {op : BitVec 8} (hop : 0x10 ≤ op.toNat ∧ op.toNat ≤ 0x12) : (classesOf op).contains e.cls = true :=
    mem_classesOf_every (by omega) e
  have htest (hv : v ≤ 3) : branchTest v m.bits = true ↔ taken := branchTest_iff hv _
  have hpass (hv : v ≤ 3) (h : ¬ taken) : branchTest v m.bits = false := Bool.eq_false_iff.2 (mt (htest hv).1 h)
  have htarget : branchTarget e f = dest := branchTarget_eq
  have hhere : branchOk e (branchTarget e f) = true ↔ here := by rw [htarget]; exact branchOk_iff
  have hflow : branchFlow e f = e1 := branchFlow_eq
  have hends (q : Nat) : LoopEnds e len q ↔ fits q := by
    have hroom : (∀ l, e.run.loops.head? = some l → q ≤ l.stop) ↔ room q := by
      simp only [room]
      cases e.run.loops <;> simp
    exact and_congr_right' (and_congr_right' (and_congr_right' hroom))
  refine ⟨fun hv ht hok => ?taken, fun hv ht => ?passed, fun h => ?outside, fun q hv ha hw hq => ⟨fun h0 => ?skipped, fun h0 => ?entered⟩,
    fun q hv ha hw hq => ?hold, fun h => ?unfit, fun l r hv hl ht => ?brk, fun hv hl ht => ?brkPassed, fun h => ?brkUnsound⟩
  case taken =>
    obtain ⟨pre, hsplit, hkept, hlast⟩ := loopsAt_split e.run.loops dest
    refine ⟨pre, _, hsplit, hkept, hlast, endsBy_of_body rfl hr (every (by decide)) (by simp) ?_⟩
    rw [bodyBra_taken hv ((htest hv).2 ht) (hhere.2 hok), htarget, hflow]
  case passed =>
    refine completes_of_body rfl hr (every (by decide)) ?_
    rw [bodyBra_passed hv (hpass hv ht), hflow]
  case outside =>
    refine traps_of_body rfl hr (every (by decide)) ?_
    obtain hv | hv := Nat.lt_or_ge 3 v
    · exact bodyBra_variant hv
    · obtain h | ⟨ht, hok⟩ := h
      · omega
      · exact bodyBra_outside hv ((htest hv).2 ht) (Bool.eq_false_iff.2 (mt hhere.1 hok))
  case skipped =>
    exact endsBy_of_body rfl hr (every (by decide)) (by simp)
      ((bodyLoop_done hv ha.1 (ctlSrc_iff.2 ha.2) ((hends q).2 hq) hw).trans (if_pos h0))
  case entered =>
    exact endsBy_of_body rfl hr (every (by decide)) (by simp)
      ((bodyLoop_done hv ha.1 (ctlSrc_iff.2 ha.2) ((hends q).2 hq) hw).trans (if_neg h0))
  case hold => exact holds_of_body rfl hr (every (by decide)) (bodyLoop_hold hv ha.1 (ctlSrc_iff.2 ha.2) ((hends q).2 hq) hw)
  case unfit =>
    refine traps_of_body rfl hr (every (by decide)) (bodyLoop_unsound (h.imp_right fun h => Bool.eq_false_iff.2 fun hfit => ?_))
    obtain ⟨q, hq⟩ := loopFits_iff.1 hfit
    exact h q ((hends q).1 hq)
  case brk =>
    refine ⟨_, _, rfl, endsBy_of_body rfl hr (every (by decide)) (by simp) ?_⟩
    rw [bodyBrk_taken hv hl ((htest hv).2 ht), hflow]
  case brkPassed =>
    obtain ⟨l, r, hl⟩ := List.exists_cons_of_ne_nil hl
    refine completes_of_body rfl hr (every (by decide)) ?_
    rw [bodyBrk_passed hv hl (hpass hv ht), hflow]
  case brkUnsound => exact traps_of_body rfl hr (every (by decide)) (bodyBrk_unsound h)

end
end Sys2Proof.Machine
end

section
/-! PROOFS. O32: words consumed, and the end of a firing (R32, R69, R78, R92, R93, R231, R381). -/
namespace Sys2Proof.Machine
open Sys2Proof.Claim

section
variable {s : State} {e : Elem} {f : Fields} {chans : List Nat} {n k : Nat}

-- Positions at which the words of some channels agree (R93) -------------------------------------------------------------------------

/-- The kind of the word at a position of a channel, 0 for data. -/
def kindAt (e : Elem) (c k : Nat) : Nat := kindOf (e.slot c k)

/-- A malformed control word stands at a position (R21). -/
def BadAt (e : Elem) (chans : List Nat) (k : Nat) : Prop := ∃ c ∈ chans, malformed (e.slot c k) = true

/-- The words at a position are sound and of one kind. -/
def AgreeAt (e : Elem) (chans : List Nat) (k : Nat) : Prop :=
  ¬ BadAt e chans k ∧ ∀ c ∈ chans, ∀ d ∈ chans, kindAt e c k = kindAt e d k

/-- What `alignAt` does where no word is malformed: the first channel is compared with each of the others. -/
theorem alignAt_cons {c0 : Nat} {rest : List Nat} (h : ¬ BadAt e (c0 :: rest) k) : alignAt e (c0 :: rest) k =
    (rest.find? fun c => kindAt e c k != kindAt e c0 k).map fun c1 =>
      match (c0 :: rest).find? fun c => kindAt e c k == 6 with
      | some sw =>
        let o := ((c0 :: rest).find? fun c => kindAt e c k != 6).getD c1
        .unbal sw o (e.inch sw).q.length (e.inch o).q.length 6
      | none => .align c0 (some c1) (headKind e c0) := by
  have hnone : (c0 :: rest).find? (fun c => malformed (e.slot c k)) = none :=
    List.find?_eq_none.2 fun c hc hm => h ⟨c, hc, hm⟩
  unfold alignAt
  dsimp only
  rw [hnone]
  change (match rest.find? fun c => kindAt e c k != kindAt e c0 k with | none => none | some c1 => _) = _
  cases rest.find? fun c => kindAt e c k != kindAt e c0 k with
  | none => rfl
  | some c1 =>
    change (match (c0 :: rest).find? fun c => kindAt e c k == 6 with | some sw => _ | none => _) = _
    rw [Option.map_some]
    cases (c0 :: rest).find? fun c => kindAt e c k == 6 <;> rfl

/-- The lowest channel with a malformed word decides the fault of its position. -/
theorem alignAt_malformed (h : BadAt e chans k) :
    ∃ c ∈ chans, malformed (e.slot c k) = true ∧ alignAt e chans k = some (.align c none (headKind e c)) := by
  obtain ⟨b, hb, hm⟩ := h
  obtain ⟨c, hc⟩ := Option.isSome_iff_exists.1 (List.find?_isSome (p := fun c => malformed (e.slot c k)) |>.2 ⟨b, hb, hm⟩)
  refine ⟨c, List.mem_of_find?_eq_some hc, List.find?_some (p := fun c => malformed (e.slot c k)) hc, ?_⟩
  unfold alignAt
  dsimp only
  rw [hc]

theorem alignAt_agree (h : AgreeAt e chans k) : alignAt e chans k = none := by
  cases chans with
  | nil => rfl
  | cons c0 rest =>
    rw [alignAt_cons h.1]
    have hnone : rest.find? (fun c => kindAt e c k != kindAt e c0 k) = none :=
      List.find?_eq_none.2 fun c hc => by simp [h.2 c (List.mem_cons_of_mem _ hc) c0 List.mem_cons_self]
    rw [hnone]
    rfl

/-- Two channels that differ decide the fault of a position without malformed words: a `switch` opposite another kind is an unbalanced
channel, any other pair a misalignment (R93). -/
theorem alignAt_unlike (hbad : ¬ BadAt e chans k) (h : ¬ AgreeAt e chans k) :
    ∃ c ∈ chans, ∃ d ∈ chans, kindAt e c k ≠ kindAt e d k ∧ ∃ t, alignAt e chans k = some t ∧
      if ∃ x ∈ chans, kindAt e x k = 6 then kindAt e c k = 6 ∧ t = .unbal c d (e.inch c).q.length (e.inch d).q.length 6
      else ∃ j, t = .align c (some d) j := by
  cases chans with
  | nil => exact absurd ⟨hbad, by simp⟩ h
  | cons c0 rest =>
    rw [alignAt_cons hbad]
    cases hdiff : rest.find? fun c => kindAt e c k != kindAt e c0 k with
    | none =>
      have hsame (c : Nat) (hc : c ∈ c0 :: rest) : kindAt e c k = kindAt e c0 k := by
        obtain rfl | hc := List.mem_cons.1 hc
        · rfl
        · simpa using List.find?_eq_none.1 hdiff c hc
      exact absurd ⟨hbad, fun c hc d hd => (hsame c hc).trans (hsame d hd).symm⟩ h
    | some c1 =>
      have h1 : c1 ∈ c0 :: rest := List.mem_cons_of_mem _ (List.mem_of_find?_eq_some hdiff)
      have hne : kindAt e c1 k ≠ kindAt e c0 k := by simpa using List.find?_some hdiff
      rw [Option.map_some]
      cases hsw : (c0 :: rest).find? fun c => kindAt e c k == 6 with
      | none =>
        refine ⟨c0, List.mem_cons_self, c1, h1, hne.symm, _, rfl, ?_⟩
        rw [if_neg fun ⟨x, hx, h6⟩ => absurd h6 (by simpa using List.find?_eq_none.1 hsw x hx)]
        exact ⟨_, rfl⟩
      | some sw =>
        have hmem := List.mem_of_find?_eq_some hsw
        have h6 : kindAt e sw k = 6 := by simpa using List.find?_some hsw
        have hother : ∃ o, (c0 :: rest).find? (fun c => kindAt e c k != 6) = some o := by
          refine Option.isSome_iff_exists.1 (List.find?_isSome.2 ?_)
          by_cases h0 : kindAt e c0 k = 6
          · exact ⟨c1, h1, by simpa [h0] using hne⟩
          · exact ⟨c0, List.mem_cons_self, by simpa using h0⟩
        obtain ⟨o, ho⟩ := hother
        have ho6 : kindAt e o k ≠ 6 := by simpa using List.find?_some ho
        refine ⟨sw, hmem, o, List.mem_of_find?_eq_some ho, by rw [h6]; exact ho6.symm, _, rfl, ?_⟩
        rw [if_pos ⟨sw, hmem, h6⟩, ho]
        exact ⟨h6, rfl⟩

theorem alignCheck_none (h : ∀ k < n, AgreeAt e chans k) : alignCheck e chans n = none :=
  List.findSome?_eq_none_iff.2 fun k hk => alignAt_agree (h k (List.mem_range.1 hk))

/-- The first position that fails decides (R93). -/
theorem alignCheck_first {t : Trap} (hk : k < n) (ht : alignAt e chans k = some t) (hlow : ∀ j < k, AgreeAt e chans j) :
    alignCheck e chans n = some t := by
  simpa [alignCheck] using findSome?_range_filter (p := fun _ => true) hk rfl ht fun j hj _ => alignAt_agree (hlow j hj)


-- What take checks, in its order (R92, R93, R32) -----------------------------------------------------------------------------------

/-- `take` is sound as an instruction: it has no variant, at most four words, and its counts stand on channels (R44, R92). -/
def takeSound (f : Fields) : Bool :=
  f.var == 0 && decide (slotCount f ≤ 4) && (f.wa == 0 || isSlot f.a) && (f.wb == 0 || isSlot f.b)

/-- The words that `take` waits for stand in their channels. -/
def takeFilled (e : Elem) (f : Fields) : Bool := (takeChans f (slotCount f)).all fun p => decide (p.2 ≤ (e.inch p.1).q.length)

/-- The fault of the first channel whose companion words are not the ones to be consumed with it (R32). -/
def cmpFault (e : Elem) (chans : List Nat) (n : Nat) : Option Trap :=
  (chans.find? fun c => !cmpRight e c n).map fun c => .align c (some (entCmp (e.inch c).ent)) (headKind e c)

/-- A check that raises the fault it found. -/
def noFault : Option Trap → Res Unit
  | some t => trap t
  | none => .ok ()

/-- The words are consumed, and a word that no clause accepts and that so reaches a head raises its fault (R231). -/
def takeEnd (x : State × Elem) : Res Done :=
  match strayHead x.2 with
  | some t => doneAt x.1 x.2 (.fault t)
  | none => done x.1 x.2

theorem bodyTake_eq : bodyTake s f e = (do
    let n := slotCount f
    let chans := (takeChans f n).map Prod.fst
    need (takeSound f) .instr
    noBad (takeBad e f)
    await (takeFilled e f)
    noFault (alignCheck e chans n)
    await (chans.all fun c => cmpHere e c n)
    noFault (cmpFault e chans n)
    takeEnd (consumeAll n chans (s, e))) := by
  unfold bodyTake cmpFault
  dsimp only
  cases alignCheck e ((takeChans f (slotCount f)).map Prod.fst) (slotCount f) <;>
    cases ((takeChans f (slotCount f)).map Prod.fst).find? fun c => !cmpRight e c (slotCount f) <;> rfl

theorem takeSound_iff : takeSound f = true ↔
    f.var = 0 ∧ slotCount f ≤ 4 ∧ (f.wa = 0 ∨ isSlot f.a = true) ∧ (f.wb = 0 ∨ isSlot f.b = true) := by
  simp [takeSound, and_assoc]

theorem takeFilled_iff : takeFilled e f = true ↔ ∀ p ∈ takeChans f (slotCount f), p.2 ≤ (e.inch p.1).q.length := by
  simp [takeFilled]

theorem bodyTake_unsound (h : takeSound f = false) : bodyTake s f e = .error (.trap .instr) := by
  rw [bodyTake_eq, h]
  rfl

section
variable (hs : takeSound f = true)
include hs

theorem bodyTake_bad {d : BitVec 10} (hb : takeBad e f = some d) : bodyTake s f e = .error (.trap (.operand d.toNat)) := by
  rw [bodyTake_eq, hs, hb]
  rfl

section
variable (hb : takeBad e f = none)
include hb

theorem bodyTake_short (hq : takeFilled e f = false) : bodyTake s f e = .error (.hold .slots) := by
  rw [bodyTake_eq, hs, hb, hq]
  rfl

section
variable (hq : takeFilled e f = true)
include hq

theorem bodyTake_unlike {t : Trap} (ha : alignCheck e ((takeChans f (slotCount f)).map Prod.fst) (slotCount f) = some t) :
    bodyTake s f e = .error (.trap t) := by
  rw [bodyTake_eq, hs, hb, hq]
  dsimp only
  rw [ha]
  rfl

theorem bodyTake_companions (ha : alignCheck e ((takeChans f (slotCount f)).map Prod.fst) (slotCount f) = none) :
    bodyTake s f e = (do
      let n := slotCount f
      let chans := (takeChans f n).map Prod.fst
      await (chans.all fun c => cmpHere e c n)
      noFault (cmpFault e chans n)
      takeEnd (consumeAll n chans (s, e))) := by
  rw [bodyTake_eq, hs, hb, hq]
  dsimp only
  rw [ha]
  rfl

end
end
end

theorem cmpFault_none (h : ∀ c ∈ chans, cmpRight e c n = true) : cmpFault e chans n = none := by
  rw [cmpFault, List.find?_eq_none.2 fun c hc => by simp [h c hc]]
  rfl

theorem cmpFault_some (h : ∃ c ∈ chans, cmpRight e c n = false) :
    ∃ c ∈ chans, cmpFault e chans n = some (.align c (some (entCmp (e.inch c).ent)) (headKind e c)) := by
  obtain ⟨b, hb, hw⟩ := h
  obtain ⟨c, hc⟩ := Option.isSome_iff_exists.1 (List.find?_isSome (p := fun c => !cmpRight e c n) |>.2 ⟨b, hb, by simp [hw]⟩)
  exact ⟨c, List.mem_of_find?_eq_some hc, by rw [cmpFault, hc]; rfl⟩

-- One channel without a companion (R69, R92) -----------------------------------------------------------------------------------------

theorem takeChans_lt {p : Nat × Nat} (hp : p ∈ takeChans f n) : p.1 < 32 := by
  obtain ⟨q, -, hq⟩ := List.mem_filterMap.1 hp
  split at hq
  · cases hq
  · cases hq
    simp only [desChan]
    omega

section
variable {c : Nat}

theorem consumeAll_single (h : e.hasCmp c = false) : consumeAll n [c] (s, e) = consume s e c n := by
  simp [consumeAll, consumeWith, Elem.cmpCount, h]

theorem inch_eat (hc : c < 32) : ((e.eat c n).inch c).q = (e.inch c).q.drop n := by
  change ((e.setIn c _).inch c).q = _
  rw [inch_setIn hc, if_pos rfl]

theorem cons_eat : Tab.get 0 (e.eat c n).run.cons c = Tab.get 0 e.run.cons c + n := by
  rw [Elem.eat, tab_get_set, if_pos rfl]
  rfl

/-- What the executing element keeps of its consumed channel: only an output of its own can change beside (R69). -/
theorem consume_elem : ∃ outs, (consume s e c n).2 = { e.eat c n with outs := outs } := by
  unfold consume
  dsimp only
  split
  · split <;> exact ⟨_, rfl⟩
  · exact ⟨_, rfl⟩

theorem consume_gate {r g : Nat} (h : (e.inch c).src = .gate r g) : (consume s e c n).1 = giveCredit s (.gate r g) n := by
  unfold consume
  rw [h]

theorem consume_other {u k : Nat} (h : (e.inch c).src = .el u k) (hu : s.cur ≠ .el u) :
    (consume s e c n).1 = giveCredit s (.el u k) n := by
  have hself : selfIs s u = false := beq_false_of_ne hu
  unfold consume
  dsimp only
  rw [h]
  dsimp only
  rw [hself]
  rfl

end

-- The end of a firing (R78, R91, R381) -------------------------------------------------------------------------------------------------

theorem bodyEnd_variant (h : f.var ≠ 0) : bodyEnd s f e = .error (.trap .instr) := by
  rw [bodyEnd, need_trap (beq_false_of_ne h)]
  rfl

theorem bodyEnd_miss {c d x y : Nat} (hv : f.var = 0) (h : rateMiss e = some (c, d, x, y)) :
    bodyEnd s f e = .error (.trap (.rate c d x y)) := by
  rw [bodyEnd, need_ok (beq_iff_eq.2 hv), h]
  rfl

theorem bodyEnd_met (hv : f.var = 0) (h : rateMiss e = none) : bodyEnd s f e = doneAt s e.ended .stay := by
  rw [bodyEnd, need_ok (beq_iff_eq.2 hv), h]
  rfl

theorem ended_last (h : e.pipe = []) : e.ended = { e.counted with busy := false, run := Run.idle } := by
  have hp : e.counted.pipe = [] := h
  unfold Elem.ended
  dsimp only
  rw [hp]

/-- The firing that started behind it goes on in its place (R78). -/
theorem ended_next {r : Run} {l : List Run} (h : e.pipe = r :: l) :
    e.ended = { e.counted with run := r, pipe := l, fcnt := e.fcnt + 1 } := by
  have hp : e.counted.pipe = r :: l := h
  unfold Elem.ended
  dsimp only
  rw [hp]
  rfl

/-- Settles O32: `take` by the checks it makes in their order, the fault of the first position whose words differ, and the words it
consumes; `end` by the rates and by the firing that started behind. -/
theorem consumingAndEnding : Obligations.ConsumingAndEnding := by
  unfold Obligations.ConsumingAndEnding
  intro s e f hr hfc n chans kind bad agree legal filled after
  have htake : (classesOf 0x02).contains e.cls = true := mem_classesOf_element hfc (by decide)
  have hend : (classesOf 0x01).contains e.cls = true := mem_classesOf_element hfc (by decide)
  have hsound : takeSound f = true ↔ legal := takeSound_iff
  have hfilled : takeFilled e f = true ↔ filled := takeFilled_iff
  have hshort (h : ¬ filled) : takeFilled e f = false := Bool.eq_false_iff.2 (mt hfilled.1 h)
  have hcomp (hl : legal) (hb : takeBad e f = none) (hq : filled) (h : ∀ k < n, agree k) : bodyTake s f e =
      (do await (chans.all fun c => cmpHere e c n); noFault (cmpFault e chans n); takeEnd after) :=
    bodyTake_companions (hsound.2 hl) hb (hfilled.2 hq) (alignCheck_none h)
  refine ⟨fun hl hb hq ha hw => ?taken, fun hl hb hq => ?short, fun k hk hl hb hq hlow ha => ?unlike, fun hl hb hq ha hw => ?late,
    fun hl hb hq ha hw hx => ?wrong, fun d hl hb => ?operand, fun h => ?unsound, fun c hc hx hq => ?one, fun hv hm => ⟨fun hp => ?last,
    fun r l hp => ?next⟩, fun ch d x y hv hm => ?miss, fun hv => ?variant⟩
  case taken =>
    have hhere : (chans.all fun c => cmpHere e c n) = true := List.all_eq_true.2 fun c hc => (hw c hc).1
    have hright : cmpFault e chans n = none := cmpFault_none fun c hc => (hw c hc).2
    have hbody : bodyTake s f e = takeEnd after := by
      rw [hcomp hl hb hq ha, hhere, hright]
      rfl
    refine ⟨fun hh => completes_of_body rfl hr htake ?_, fun t hh => issue_fault hr htake ?_⟩
    · rw [hbody, takeEnd, hh]
    · rw [hbody, takeEnd, hh]
      rfl
  case short => exact holds_of_body rfl hr htake (bodyTake_short (hsound.2 hl) hb (hshort hq))
  case unlike =>
    have traps {t : Trap} (ht : alignAt e chans k = some t) : Traps (.take f) s e t (wordOf 0x02 f) :=
      traps_of_body rfl hr htake (bodyTake_unlike (hsound.2 hl) hb (hfilled.2 hq) (alignCheck_first hk ht hlow))
    by_cases hbad : bad k
    · obtain ⟨c, hc, hm, ht⟩ := alignAt_malformed (e := e) hbad
      exact ⟨_, traps ht, fun _ => ⟨c, hc, hm, _, rfl⟩, fun h => absurd hbad h⟩
    · obtain ⟨c, hc, d, hd, hne, t, ht, hwhich⟩ := alignAt_unlike (e := e) hbad ha
      exact ⟨t, traps ht, fun h => absurd h hbad, fun _ => ⟨c, hc, d, hd, hne, hwhich⟩⟩
  case late =>
    obtain ⟨c, hc, hw⟩ := hw
    have hhere : (chans.all fun c => cmpHere e c n) = false := List.all_eq_false.2 ⟨c, hc, by simp [hw]⟩
    refine holds_of_body rfl hr htake ?_
    rw [hcomp hl hb hq ha, hhere]
    rfl
  case wrong =>
    have hhere : (chans.all fun c => cmpHere e c n) = true := List.all_eq_true.2 hw
    obtain ⟨c, hc, hfault⟩ := cmpFault_some hx
    refine ⟨c, hc, headKind e c, traps_of_body rfl hr htake ?_⟩
    rw [hcomp hl hb hq ha, hhere, hfault]
    rfl
  case operand => exact traps_of_body rfl hr htake (bodyTake_bad (hsound.2 hl) hb)
  case unsound =>
    refine traps_of_body rfl hr htake (bodyTake_unsound (Bool.eq_false_iff.2 fun hs => ?_))
    obtain ⟨hv, hn, -, -⟩ := hsound.1 hs
    exact h.elim (fun h => h hv) (Nat.not_lt.2 hn)
  case one =>
    have hlt : c < 32 := by
      obtain ⟨p, hp, rfl⟩ := List.mem_map.1 (show c ∈ chans by rw [hc]; exact List.mem_singleton_self c)
      exact takeChans_lt hp
    have hafter : after = consume s e c n := by
      change consumeAll n chans (s, e) = _
      rw [hc, consumeAll_single hx]
    obtain ⟨outs, helem⟩ := consume_elem (s := s) (e := e) (c := c) (n := n)
    rw [hafter, helem]
    exact ⟨inch_eat hlt, consume_mem s e c n, rfl, cons_eat, fun r g => consume_gate, fun u k => consume_other⟩
  case last =>
    refine endsBy_of_body rfl hr hend (by simp) ?_
    rw [bodyEnd_met hv hm, ended_last hp]
    rfl
  case next =>
    refine endsBy_of_body rfl hr hend (by simp) ?_
    rw [bodyEnd_met hv hm, ended_next hp]
    rfl
  case miss => exact traps_of_body rfl hr hend (bodyEnd_miss hv hm)
  case variant => exact traps_of_body rfl hr hend (bodyEnd_variant hv)

end
end Sys2Proof.Machine
end

section
/-! PROOFS. What a destination receives that is written lane by lane, and the flags of its active lanes (R22, R35, R38, R42, R84). -/
namespace Sys2Proof.Machine
open Sys2Proof.Claim

section
variable {i : Instr} {op : BitVec 8} {body : Body} {s : State} {e : Elem} {f f0 : Fields} {fm : Fmt} {srcs : List Reg} {fl : Flags}
  {act : Nat → Bool} {whole : Bool} {g : Nat → Lane} {r : Nat → Nat → Nat × Flags}

/-- The ops that a float unit executes (R63). -/
theorem mem_classesOf_floatUnit (hu : FloatUnit e) (hop : 0x40 ≤ op.toNat ∧ op.toNat ≤ 0x54) : (classesOf op).contains e.cls = true :=
  mem_classesOf_of_unit ⟨by omega, hop.2⟩ (by rwa [if_neg (by omega)])

/-- Variants 0 and 1 as numbers. -/
theorem var_le_one (h : f.var = 0 ∨ f.var = 1) : f.var.toNat ≤ 1 := by obtain h | h := h <;> rw [h] <;> decide

-- A destination of which some lanes change (R22, R42, R84) ------------------------------------------------------------------------

/-- What a destination holds after the lanes of `act` are written: the others keep what they held. -/
def mergedReg (act : Nat → Bool) (whole : Bool) (s : State) (e : Elem) (f : Fields) (g : Nat → Lane) (srcs : List Reg) : Reg :=
  { pay := mergeLanes act g (readDes s e f.d).pay, pz := destPz e f srcs (readDes s e f.d) whole,
    tn := destTn e f srcs (readDes s e f.d) whole }

theorem mergedReg_lane {n : Nat} (hn : n < 16) :
    (mergedReg act whole s e f g srcs).pay.lane n = if act n then g n else (readDes s e f.d).pay.lane n := lane_mergeLanes _ _ _ n hn

/-- A lane of a written destination, where what is written satisfies `R`. -/
theorem mergedReg_lanes {R : Nat → Lane → Prop} (hg : ∀ n < 16, act n = true → R n (g n)) : ∀ n < 16,
    if act n then R n ((mergedReg act whole s e f g srcs).pay.lane n)
    else (mergedReg act whole s e f g srcs).pay.lane n = (readDes s e f.d).pay.lane n := by
  intro n hn
  rw [mergedReg_lane hn]
  split
  · next h => exact hg n hn h
  · rfl

theorem put_eq : put s e f g srcs = writeDes e f.d (mergedReg (laneActive e f) (allActive e f) s e f g srcs) := rfl

section
variable (hx : exec i s = issue op body f0 s) (hr : Runs s e) (hc : (classesOf op).contains e.cls = true)
include hx hr hc

/-- Work that writes a destination lane by lane. -/
theorem lanesOn_of_merged {R : Nat → Lane → Prop}
    (hb : body s f0 e = done s (writeDes (e.raise fl) f.d (mergedReg act whole s e f g srcs)))
    (hg : ∀ n < 16, act n = true → R n (g n)) : LanesOn act whole i s e f srcs fl R :=
  ⟨_, completes_of_body hx hr hc hb, mergedReg_lanes hg, rfl, rfl⟩

/-- Work that writes a destination lane by lane and raises no flag. -/
theorem lanes_of_quiet {R : Nat → Lane → Prop} (hb : body s f0 e = done s (put s e f g srcs))
    (hg : ∀ n < 16, laneActive e f n = true → R n (g n)) : Lanes i s e f srcs 0 R :=
  lanesOn_of_merged hx hr hc (by rw [hb, raise_none, put_eq]) hg

/-- Work that writes part of a destination, element by element with flags (R38, R130). -/
theorem lanesOn_of_putPart {m k part : Nat} (hb : body s f0 e = done s (putPart s e f m k part (fun n => flagLane fm (r n)) srcs)) :
    LanesOn (fun n => laneActive e f n && inPart m k part n) (allActive e f && decide (k ≤ m)) i s e f srcs
      (laneFlags (fun n => laneActive e f n && inPart m k part n) fun n => flagsBelow (fun j => (r n j).2) fm.perLane)
      (Elems fm fun n j => (r n j).1 % 2 ^ fm.bits) :=
  lanesOn_of_merged hx hr hc hb fun _ _ _ _ hj => elemOf_laneOf _ _ _ hj

/-- Work that writes a destination element by element, with flags (R38). -/
theorem lanes_of_putFlags (hb : body s f0 e = done s (putFlags s e f (fun n => flagLane fm (r n)) srcs)) :
    Lanes i s e f srcs (laneFlags (laneActive e f) fun n => flagsBelow (fun j => (r n j).2) fm.perLane)
      (Elems fm fun n j => (r n j).1 % 2 ^ fm.bits) :=
  lanesOn_of_merged hx hr hc hb fun _ _ _ _ hj => elemOf_laneOf _ _ _ hj

end

end
end Sys2Proof.Machine
end

section
/-! PROOFS. O6: float arithmetic (R35, R38, R120 to R122, R126). -/
namespace Sys2Proof.Machine
open Sys2Proof.Claim

section
variable {i : Instr} {op : BitVec 8} {body : Body} {s : State} {e : Elem} {f f0 : Fields} {fm : Fmt} {u : Uses}

/-- An exact value with its flags, rounded once (R35, R122). -/
def roundedOnce (fm : Fmt) (x : Machine.Num × Flags) : Nat × Flags :=
  ((roundTo fm x.1 .rne).1, x.2 ||| (roundTo fm x.1 .rne).2)

theorem mould_eq (fn : Machine.Num → Machine.Num → Machine.Num → Machine.Num × Flags) (x y z : Lane) : mould fm fn x y z =
    flagLane fm fun j => roundedOnce fm (fn (fm.decode (elemOf fm x j)) (fm.decode (elemOf fm y j)) (fm.decode (elemOf fm z j))) := rfl

/-- `fma` computes the exact product, with its sign inverted in variant 1, plus z (R121, R122). -/
theorem fusedNum_var (x y z : Machine.Num) : fusedNum f.var.toNat x y z =
    ((Machine.Num.add (if f.var = 1 then (x.mul y).1.negate else (x.mul y).1) z).1,
      (x.mul y).2 ||| (Machine.Num.add (if f.var = 1 then (x.mul y).1.negate else (x.mul y).1) z).2) := by
  have hv : f.var = 1 ↔ f.var.toNat = 1 := by rw [← BitVec.toNat_inj]; rfl
  simp only [fusedNum, hv]

/-- An instruction of the mould of R122, where its function on exact values gives `G`. -/
theorem lanes_floatBody {vars : Nat} {fn : Nat → Machine.Num → Machine.Num → Machine.Num → Machine.Num × Flags}
    (hx : exec i s = issue op body f0 s) (hb : body s f0 e = floatBody u vars fn s f e) (hop : 0x40 ≤ op.toNat ∧ op.toNat ≤ 0x54)
    (hr : Runs s e) (hu : FloatUnit e) (hln : f.ln ≠ 3) (hl : Legal e f u (badReg e f)) (hv : f.var.toNat < vars)
    (hf : Fmt.ofCode (typeIn e f u) = some fm) (ht : floatTypes (typeIn e f u) = true) (G : Nat → Nat → Machine.Num × Flags)
    (hG : ∀ n j, fn f.var.toNat (fm.decode (elAt (srcA s e f) fm n j)) (fm.decode (elAt (srcB s e f) fm n j))
      (fm.decode (elAt (srcC s e f) fm n j)) = G n j) :
    Lanes i s e f (sources s e f u)
      (laneFlags (laneActive e f) fun n => flagsBelow (fun j => (roundedOnce fm (G n j)).2) fm.perLane)
      (Elems fm fun n j => (roundedOnce fm (G n j)).1 % 2 ^ fm.bits) := by
  refine lanes_of_putFlags hx hr (mem_classesOf_floatUnit hu hop) ?_
  rw [hb, floatBody, check_ok hl hln (decide_eq_true hv) ht, res_bind_ok, fmtOf_of_code hf]
  simp only [mould_eq, ← hG]
  rfl

/-- Settles O6: each instruction is of the mould of R122, with its function on exact values. -/
theorem floatArithmetic : Obligations.FloatArithmetic := by
  unfold Obligations.FloatArithmetic
  intro s e f fm hr hu hln a b c x y z code flags gives
  have lt_one (hv : f.var = 0) : f.var.toNat < 1 := by simp [hv]
  refine ⟨fun hl hv hf ht => ⟨?fadd, ?fsub, ?fmul⟩, fun hl hv hf ht => ⟨?frcp, ?frsq, ?fex2, ?flg2⟩, fun hl hv hf ht => ?fma⟩
  case fadd => exact lanes_floatBody rfl rfl (by decide) hr hu hln hl (lt_one hv) hf ht (fun n j => (x n j).add (y n j)) fun _ _ => rfl
  case fsub =>
    exact lanes_floatBody rfl rfl (by decide) hr hu hln hl (lt_one hv) hf ht (fun n j => (x n j).add (y n j).negate) fun _ _ => rfl
  case fmul => exact lanes_floatBody rfl rfl (by decide) hr hu hln hl (lt_one hv) hf ht (fun n j => (x n j).mul (y n j)) fun _ _ => rfl
  case frcp =>
    exact lanes_floatBody rfl rfl (by decide) hr hu hln hl (lt_one hv) hf ht (fun n j => Machine.Num.one.div (x n j)) fun _ _ => rfl
  case frsq => exact lanes_floatBody rfl rfl (by decide) hr hu hln hl (lt_one hv) hf ht (fun n j => frsqNum (x n j)) fun _ _ => rfl
  case fex2 => exact lanes_floatBody rfl rfl (by decide) hr hu hln hl (lt_one hv) hf ht (fun n j => fex2Num (x n j)) fun _ _ => rfl
  case flg2 => exact lanes_floatBody rfl rfl (by decide) hr hu hln hl (lt_one hv) hf ht (fun n j => flg2Num (x n j)) fun _ _ => rfl
  case fma =>
    exact lanes_floatBody (op := 0x43) (body := fun s f e => floatBody usesABC 2 fusedNum s { f with wb := 0 } e)
      (f := { f with wb := 0 }) (f0 := f) rfl rfl (by decide) hr hu hln hl (Nat.lt_succ_of_le hv) hf ht _ fun _ _ => fusedNum_var _ _ _

end
end Sys2Proof.Machine
end

section
/-! PROOFS. O7: minimum, sign, class, rounding, comparison, the sticky register and the scale registers (R123 to R125, R127 to R129,
R134; logs 66 and 124). -/
namespace Sys2Proof.Machine
open Sys2Proof.Claim

section
variable {i : Instr} {op : BitVec 8} {s : State} {e : Elem} {f : Fields} {fm : Fmt}

-- The bits of an element (R123, R124, R127) ---------------------------------------------------------------------------------------

theorem bits_of_floatTypes {t : Nat} (ht : floatTypes t = true) (hf : Fmt.ofCode t = some fm) : 16 ≤ fm.bits := by
  have h567 : t = 5 ∨ t = 6 ∨ t = 7 := by simpa [floatTypes, or_assoc] using ht
  obtain rfl | rfl | rfl := h567 <;> cases hf <;> decide

theorem two_pow_pred (h : 16 ≤ fm.bits) : 2 ^ fm.bits = 2 * 2 ^ (fm.bits - 1) := by
  rw [← pow_succ', Nat.sub_add_cancel (by omega)]

/-- A code with its sign inverted, as an addition that wraps (R124). -/
theorem signFlip_eq (h : 16 ≤ fm.bits) {x : Nat} (hx : x < 2 ^ fm.bits) : (x + 2 ^ (fm.bits - 1)) % 2 ^ fm.bits =
    if x < 2 ^ (fm.bits - 1) then x + 2 ^ (fm.bits - 1) else x - 2 ^ (fm.bits - 1) := by
  rw [two_pow_pred h] at hx ⊢
  split
  · exact Nat.mod_eq_of_lt (by omega)
  · rw [Nat.mod_eq_sub_mod (by omega), Nat.mod_eq_of_lt (by omega)]
    omega

theorem classBits_le (fm : Fmt) (c : Nat) : classBits fm c ≤ 256 := by
  unfold classBits
  dsimp only
  split <;> repeat' split
  all_goals decide

theorem classBits_lt (h : 16 ≤ fm.bits) (c : Nat) : classBits fm c < 2 ^ fm.bits :=
  calc classBits fm c ≤ 256 := classBits_le fm c
    _ < 2 ^ 16 := by decide
    _ ≤ 2 ^ fm.bits := Nat.pow_le_pow_right (by decide) h

section
variable (hop : 0x40 ≤ op.toNat ∧ op.toNat ≤ 0x54) (hr : Runs s e) (hu : FloatUnit e) (hln : f.ln ≠ 3)
include hop hr hu hln

/-- `fmin` and `fmax` (R123). -/
theorem lanes_pickBody {larger : Bool} (hx : exec i s = issue op (pickBody larger) f s) (hl : Legal e f usesAB (badReg e f))
    (hv : f.var.toNat ≤ 1) (hf : Fmt.ofCode (typeIn e f usesAB) = some fm) (ht : floatTypes (typeIn e f usesAB) = true) :
    Lanes i s e f [srcA s e f, srcB s e f] 0 (Elems fm fun n j =>
      pickCode fm larger (f.var == 1) (elAt (srcA s e f) fm n j) (elAt (srcB s e f) fm n j) % 2 ^ fm.bits) := by
  refine lanes_of_quiet hx hr (mem_classesOf_floatUnit hu hop) ?_ fun n _ _ j hj => elemOf_bitsLane hj
  rw [pickBody, check_ok hl hln (decide_eq_true hv) ht, res_bind_ok, fmtOf_of_code hf]
  rfl

/-- An instruction on the bits of each element, where its work gives `G` (R124, R127). -/
theorem lanes_elemBody {g : Fmt → Nat → Nat} (hx : exec i s = issue op (elemBody g) f s) (hl : Legal e f usesA (badReg e f))
    (hv : f.var = 0) (hf : Fmt.ofCode (typeIn e f usesA) = some fm) (ht : floatTypes (typeIn e f usesA) = true) (G : Nat → Nat)
    (hG : ∀ x < 2 ^ fm.bits, g fm x % 2 ^ fm.bits = G x) :
    Lanes i s e f [srcA s e f] 0 (Elems fm fun n j => G (elAt (srcA s e f) fm n j)) := by
  refine lanes_of_quiet hx hr (mem_classesOf_floatUnit hu hop)
    (g := fun n => bitsLane fm (fun p _ => g fm p) ((srcA s e f).pay.lane n) 0) ?_ fun n _ _ j hj => ?_
  · rw [elemBody, check_ok hl hln (beq_iff_eq.2 hv) ht, res_bind_ok, fmtOf_of_code hf]
    rfl
  · rw [elemOf_bitsLane hj, hG _ (elemOf_lt _ _ _)]
    rfl

end

theorem lanes_frnd {m : Mode} (hr : Runs s e) (hu : FloatUnit e) (hln : f.ln ≠ 3) (hl : Legal e f usesA (badReg e f)) (hv : f.var = 0)
    (hf : Fmt.ofCode (typeIn e f usesA) = some fm) (ht : floatTypes (typeIn e f usesA) = true) (hm : rmode f = some m) :
    Lanes (.frnd f) s e f [srcA s e f]
      (laneFlags (laneActive e f) fun n => flagsBelow (fun j => (roundIntegral (fm.decode (elAt (srcA s e f) fm n j)) m).2) fm.perLane)
      (Elems fm fun n j =>
        (roundTo fm (roundIntegral (fm.decode (elAt (srcA s e f) fm n j)) m).1 .rne).1 % 2 ^ fm.bits) := by
  refine lanes_of_putFlags (r := fun n j => ((roundTo fm (roundIntegral (fm.decode (elAt (srcA s e f) fm n j)) m).1 .rne).1,
    (roundIntegral (fm.decode (elAt (srcA s e f) fm n j)) m).2)) rfl hr (mem_classesOf_floatUnit (op := 0x4F) hu (by decide)) ?_
  rw [bodyFrnd, check_ok hl hln (by simp [hv, hm]) ht, res_bind_ok, fmtOf_of_code hf, hm]
  rfl

/-- The first part of O7: each instruction by its function on the bits or the value of an element. -/
theorem floatBitsAndCompares_bits : Claim.FloatBits := by
  unfold Claim.FloatBits
  intro s e f fm hr hu hln a b x y
  refine ⟨fun hl hv hf ht => ⟨lanes_pickBody (by decide) hr hu hln rfl hl hv hf ht, lanes_pickBody (by decide) hr hu hln rfl hl hv hf ht⟩,
    fun hl hv hf ht => ⟨?fabs, ?fneg, ?fcls, fun m hm => lanes_frnd hr hu hln hl hv hf ht hm⟩⟩
  all_goals have hbits := bits_of_floatTypes ht hf
  case fabs =>
    refine lanes_elemBody (by decide) hr hu hln rfl hl hv hf ht (fun c => c % 2 ^ (fm.bits - 1)) fun c _ => ?_
    have := Nat.mod_lt c (Nat.two_pow_pos (fm.bits - 1))
    exact Nat.mod_eq_of_lt (by rw [two_pow_pred hbits]; omega)
  case fneg =>
    refine lanes_elemBody (by decide) hr hu hln rfl hl hv hf ht
      (fun c => if c < 2 ^ (fm.bits - 1) then c + 2 ^ (fm.bits - 1) else c - 2 ^ (fm.bits - 1)) fun c hc => ?_
    rw [Nat.mod_mod, signFlip_eq hbits hc]
  case fcls =>
    exact lanes_elemBody (by decide) hr hu hln rfl hl hv hf ht (classBits fm) fun c _ => Nat.mod_eq_of_lt (classBits_lt hbits c)

-- The comparison (R125) -----------------------------------------------------------------------------------------------------------

/-- The conditions of R125, and the flag that the ordered ones raise on a NaN. -/
theorem fcmpTest_eq {v : Nat} (hv : v ≤ 7) (x y : Machine.Num) : fcmpTest v x y =
    (if v = 0 then x.eq y else if v = 1 then !x.eq y else if v = 2 then x.lt y else if v = 3 then x.lt y || x.eq y
      else if v = 4 then y.lt x else if v = 5 then y.lt x || x.eq y else if v = 6 then x.isNaN || y.isNaN else !(x.isNaN || y.isNaN),
     if 2 ≤ v ∧ v ≤ 5 ∧ (x.isNaN || y.isNaN) = true then flNV else 0) := by
  interval_cases v <;> simp [fcmpTest]

/-- The comparison of element `imm` mod elements per lane of two lanes. -/
def fcmpLane (s : State) (e : Elem) (f : Fields) (fm : Fmt) (n : Nat) : Bool × Flags :=
  fcmpTest f.var.toNat (fm.decode (elAt (readDes s e f.a) fm n (f.imm.toNat % fm.perLane)))
    (fm.decode (elAt (readDes s e f.b) fm n (f.imm.toNat % fm.perLane)))

theorem bodyFcmp_eq (hv : f.var.toNat ≤ 7) (hd : isMask f.d = true) (hl : Legal e { f with ln := 0, wd := 0 } usesAB none)
    (hf : Fmt.ofCode (typeIn e f usesAB) = some fm) (ht : floatTypes (typeIn e f usesAB) = true) : bodyFcmp s f e =
      (let g := { f with ln := 0 }
       done s (putMask (e.raise (laneFlags (laneActive e g) fun n => (fcmpLane s e f fm n).2)) g (fun n => (fcmpLane s e f fm n).1)
         [readDes s e f.a, readDes s e f.b])) := by
  have hmask : badMask { f with ln := 0 } = none := by rw [badMask, if_pos hd]
  have hcheck : check e { f with ln := 0, wd := 0 } usesAB (decide (f.var.toNat ≤ 7)) floatTypes none = .ok (typeIn e f usesAB) :=
    check_ok hl (by simp) (decide_eq_true hv) ht
  rw [bodyFcmp]
  dsimp only
  rw [hmask, hcheck, res_bind_ok, fmtOf_of_code hf]
  rfl

theorem bodyFcmp_variant (hv : 7 < f.var.toNat) : bodyFcmp s f e = .error (.trap .instr) := by
  rw [bodyFcmp]
  dsimp only
  rw [check_instr (by simp; omega)]
  rfl

theorem bodyFcmp_operand (hv : f.var.toNat ≤ 7) (hd : isMask f.d = false) (hw : waitsOk usesAB { f with ln := 0, wd := 0 } = true)
    (hs : badSrc usesAB e f = none) (ht : floatTypes (typeIn e f usesAB) = true) :
    bodyFcmp s f e = .error (.trap (.operand f.d.toNat)) := by
  have hmask : badMask { f with ln := 0 } = some f.d := by rw [badMask, if_neg (by simp [hd])]
  rw [bodyFcmp]
  dsimp only
  rw [(check_later (f := { f with ln := 0, wd := 0 }) ⟨decide_eq_true hv, by simp, hw⟩).2.2.1 f.d ht hs hmask]
  rfl

-- The sticky register and the scale registers (R128, R134) ------------------------------------------------------------------------

theorem bodyFsts_clear (hv : f.var = 2) : bodyFsts s f e = done s { e with sticky := e.sticky &&& ~~~(f.imm.setWidth 5) } := by
  simp [bodyFsts, hv]

theorem bodyFsts_read (hv : f.var.toNat ≤ 1) (hd : badReg e f = none) (hw : outWait e f.d 0 = true) : bodyFsts s f e =
    (let v := put s e { f with ln := 0, wd := 0 } (fun _ => e.sticky.setWidth 32) []
     done s (if f.var.toNat = 1 then { v with sticky := 0 } else v)) := by
  have hd' : badReg e { f with ln := 0, wd := 0 } = none := hd
  rw [bodyFsts]
  dsimp only
  rw [need_ok (decide_eq_true (by omega)), res_bind_ok, if_neg (by omega), hd', hw]
  rfl

section
variable (hv : f.var.toNat ≤ 1) (ha : f.var = 0 ∨ srcOk e f.a = true)
include hv ha

theorem bodyScl_operand (hd : isScale f.d = false) : bodyScl s f e = .error (.trap (.operand f.d.toNat)) := by
  have ha : (f.var == 0 || srcOk e f.a) = true := waitKind_ok ha
  rw [bodyScl, need_ok (decide_eq_true hv), ha, hd]
  rfl

theorem bodyScl_eq (hw : f.var = 0 ∨ inWait e f.a 0 = true) (hd : isScale f.d = true) : bodyScl s f e =
    (let a := readDes s e f.a
     let v : Scale := if f.var = 0 then { ts := f.imm.setWidth 16, pz := e.flowP, tn := e.flowT }
       else { ts := (a.pay.lane 0).setWidth 16, pz := a.pz || e.flowP, tn := a.tn || e.flowT }
     done s { e with x := e.x.setIfInBounds (f.d.toNat % 8) v }) := by
  have ha : (f.var == 0 || srcOk e f.a) = true := waitKind_ok ha
  have hw : (f.var == 0 || inWait e f.a 0) = true := waitKind_ok hw
  rw [bodyScl, need_ok (decide_eq_true hv), ha, hd, hw]
  rfl

end

/-- The second part of O7: each instruction by the mask, the register or the flags that its work writes. -/
theorem floatBitsAndCompares_status : Claim.FloatCompareAndStatus := by
  unfold Claim.FloatCompareAndStatus
  intro s e f hr hu g h
  have fcmp : (classesOf 0x48).contains e.cls = true := mem_classesOf_floatUnit hu (by decide)
  have fsts : (classesOf 0x4E).contains e.cls = true := mem_classesOf_floatUnit hu (by decide)
  have scl : (classesOf 0x53).contains e.cls = true := mem_classesOf_floatUnit hu (by decide)
  refine ⟨fun fm hf ht hd hv hl => ?fcmp, fun hv => traps_of_body rfl hr fcmp (bodyFcmp_variant hv),
    fun hv hd hw hs ht => traps_of_body rfl hr fcmp (bodyFcmp_operand hv hd hw hs ht),
    fun hv hd => traps_of_body rfl hr scl (bodyScl_operand (var_le_one (.inl hv)) (.inl hv) hd),
    fun hv hd _ ha => traps_of_body rfl hr scl (bodyScl_operand (var_le_one (.inr hv)) (.inr ha) hd),
    fun hv => completes_of_body rfl hr fsts (bodyFsts_clear hv), fun hv hd hw => ?read, fun hv hd hw => ?swap, fun hv hd => ?imm,
    fun hv hd ha hw => ?reg⟩
  case fcmp =>
    have hlanes := maskLanes_of_putMask (i := .fcmp f) rfl hr fcmp (bodyFcmp_eq (s := s) hv hd hl hf ht) fun _ _ => rfl
    simp only [fcmpLane, fcmpTest_eq hv] at hlanes
    exact hlanes
  case read =>
    refine lanes_of_quiet (g := fun _ => e.sticky.setWidth 32) rfl hr fsts ?_
      fun n _ _ => by rw [BitVec.toNat_setWidth, Nat.mod_eq_of_lt (by omega)]
    rw [bodyFsts_read (var_le_one (.inl hv)) hd hw]
    dsimp only
    rw [if_neg (by simp [hv])]
  case swap =>
    refine ⟨mergedReg (laneActive e h) (allActive e h) s e h (fun _ => e.sticky.setWidth 32) [], completes_of_body rfl hr fsts ?_,
      fun n hn => mergedReg_lane hn⟩
    rw [bodyFsts_read (var_le_one (.inr hv)) hd hw]
    dsimp only
    rw [if_pos (by simp [hv]), put_eq]
  case imm =>
    refine completes_of_body rfl hr scl ?_
    rw [bodyScl_eq (var_le_one (.inl hv)) (.inl hv) (.inl hv) hd]
    dsimp only
    rw [if_pos hv]
  case reg =>
    refine completes_of_body rfl hr scl ?_
    rw [bodyScl_eq (var_le_one (.inr hv)) (.inr ha) (.inr hw) hd]
    dsimp only
    rw [if_neg (by simp [hv])]

/-- Settles O7 from its two parts. -/
theorem floatBitsAndCompares : Obligations.FloatBitsAndCompares := ⟨floatBitsAndCompares_bits, floatBitsAndCompares_status⟩

end
end Sys2Proof.Machine
end

section
/-! PROOFS. O8: conversion, dequantisation, quantisation and scans (R39, R118, R119, R130 to R133, R135). -/
namespace Sys2Proof.Machine
open Sys2Proof.Claim

section
variable {s : State} {e : Elem} {f : Fields} {src dst : Fmt} {m : Mode}

theorem one_le_of_code {t : Nat} {fm : Fmt} (h : Fmt.ofCode t = some fm) : 1 ≤ t :=
  Nat.one_le_iff_ne_zero.2 fun h0 => by subst h0; cases h

-- The scale operand b, which may be absent (R132, R133) ---------------------------------------------------------------------------

/-- The operands of an instruction that may have a scale operand. -/
def usesScale (f : Fields) : Uses := if f.b = 0x0FF then usesA else usesAB

/-- An absent operand gives no type (R29). -/
theorem typeIn_usesScale : typeIn e f (usesScale f) = typeIn e f usesAB := by
  unfold usesScale
  split
  · next hb =>
    have hnone : chanType e 255#10 = none := rfl
    simp [typeIn, resolve, usedDes, usesA, usesAB, hb, List.findSome?_cons, hnone]
  · rfl

/-- The block scale of each lane: 1.0 without a scale operand. -/
def blockScales (s : State) (e : Elem) (f : Fields) (i : Nat) : Machine.Num :=
  if f.b = 0x0FF then Machine.Num.one else Fmt.decode .e5m2 (((srcB s e f).pay.lane i).toNat % 256)

/-- The scale operand as a source. -/
def scaleSrcs (s : State) (e : Elem) (f : Fields) : List Reg := if f.b = 0x0FF then [] else [srcB s e f]

/-- A scale operand where there may be none is an illegal operand, before the destination is looked at. -/
theorem badScale_eq (p : Bool) {q : Prop} [Decidable q] (h : p = true ↔ q) : (if f.b != 0x0FF && p then some f.b else badReg e f) =
    if f.b ≠ 0x0FF ∧ q then some f.b else badReg e f := by
  refine ite_congr (propext ?_) (fun _ => rfl) fun _ => rfl
  rw [Bool.and_eq_true, bne_iff_ne, h]

-- The work of each instruction ----------------------------------------------------------------------------------------------------

theorem bodyCvt_eq (hln : f.ln ≠ 3) (hl : Legal e f usesA (badReg e f)) (hsrc : Fmt.ofCode (typeIn e f usesA) = some src)
    (ht : typeIn e f usesA ≤ 7) (hdst : Fmt.ofCode f.var.toNat = some dst) (hv : f.var.toNat ≤ 11) (hm : rmode f = some m)
    (hp : partOk src.perLane dst.perLane (partNo f) = true) : bodyCvt s f e =
      done s (putPart s e f src.perLane dst.perLane (partNo f) (fun i => flagLane dst fun j =>
        roundTo dst (src.decode (elemAt src (srcA s e f).pay (partElem src.perLane dst.perLane (partNo f) i j))) m) [srcA s e f]) := by
  have htype : fmtOf (resolve e f.ty (usedDes usesA f)) = src := fmtOf_of_code hsrc
  have hok : (decide (1 ≤ f.var.toNat ∧ f.var.toNat ≤ 11) && (some m).isSome
      && (decide (12 < resolve e f.ty (usedDes usesA f)) || partOk src.perLane dst.perLane (partNo f))) = true := by
    simp [one_le_of_code hdst, hv, hp]
  rw [bodyCvt]
  dsimp only
  rw [fmtOf_of_code hdst, htype, hm, check_ok hl hln hok (decide_eq_true ⟨one_le_typeIn e f usesA, ht⟩), res_bind_ok, fmtOf_of_code hsrc]
  rfl

theorem bodyQnt_eq (hln : f.ln ≠ 3) (hwb : f.wb = 0 ∨ isSlot f.b = true)
    (hl : Legal e f (usesScale f) (if f.b ≠ 0x0FF ∧ f.var.toNat < 10 then some f.b else badReg e f))
    (hsrc : Fmt.ofCode (typeIn e f usesAB) = some src) (ht : typeIn e f usesAB = 5 ∨ typeIn e f usesAB = 6)
    (hdst : Fmt.ofCode f.var.toNat = some dst) (hv : [3, 4, 8, 9, 10, 11].contains f.var.toNat = true) (hm : rmode f = some m)
    (hp : partOk src.perLane dst.perLane (partNo f) = true) : bodyQnt s f e =
      done s (putPart s e f src.perLane dst.perLane (partNo f) (fun i => flagLane dst fun j =>
        quantElem dst m (src.decode (elemAt src (srcA s e f).pay (partElem src.perLane dst.perLane (partNo f) i j)))
          (blockScales s e f i) (scaleNum e (xsel f)))
        ([srcA s e f, scaleReg e (xsel f)] ++ scaleSrcs s e f)) := by
  have htype : fmtOf (resolve e f.ty (usedDes usesAB f)) = src := fmtOf_of_code hsrc
  have hok : ([3, 4, 8, 9, 10, 11].contains f.var.toNat && (some m).isSome
      && (decide (12 < resolve e f.ty (usedDes usesAB f)) || partOk src.perLane dst.perLane (partNo f))) = true := by
    rw [hv, hp, Bool.or_true]
    rfl
  have htypes : (fun t => t == 5 || t == 6) (typeIn e f (usesScale f)) = true := by
    rw [typeIn_usesScale]
    simpa using ht
  have hwait : (f.wb == 0 || isSlot f.b) = true := waitKind_ok hwb
  rw [bodyQnt]
  dsimp only
  rw [fmtOf_of_code hdst, htype, hm, need_ok hwait, res_bind_ok, badScale_eq _ decide_eq_true_iff,
    ← usesScale, check_ok hl hln hok htypes, res_bind_ok, typeIn_usesScale, fmtOf_of_code hsrc]
  rfl

theorem bodyDq_eq (hln : f.ln ≠ 3) (hwb : f.wb = 0 ∨ isSlot f.b = true) (hv : f.var = 0)
    (hcmp : awaitCompanion e (scalingOf e f.a (typeIn e f usesAB)) = .ok ())
    (hl : Legal e f (usesScale f)
      (if f.b ≠ 0x0FF ∧ (typeIn e f usesAB < 10 ∨ (isSlot f.a = true ∧ e.hasCmp (desChan f.a) = true)) then some f.b else badReg e f))
    (hsrc : Fmt.ofCode (typeIn e f usesAB) = some src) (ht : weightTypes (typeIn e f usesAB) = true)
    (hp : partOk src.perLane 2 (partNo f) = true) : bodyDq s f e =
      (let sc := scalingOf e f.a (typeIn e f usesAB)
       done s (putPart s e f src.perLane 2 (partNo f) (fun i => flagLane .bf16 fun j =>
        weightElem e src (srcA s e f).pay sc (blockScales s e f) (scaleNum e (xsel f)) (partElem src.perLane 2 (partNo f) i j))
        ([srcA s e f] ++ scalingSrcs e sc [scaleReg e (xsel f)] ++ scaleSrcs s e f))) := by
  have htype : fmtOf (resolve e f.ty (usedDes usesAB f)) = src := fmtOf_of_code hsrc
  have hok : (f.var == 0 && (decide (12 < resolve e f.ty (usedDes usesAB f)) || partOk src.perLane 2 (partNo f))) = true := by
    rw [hv, hp, Bool.or_true]
    rfl
  have hbad : (decide (resolve e f.ty (usedDes usesAB f) < 10) || (isSlot f.a && e.hasCmp (desChan f.a))) = true ↔
      (typeIn e f usesAB < 10 ∨ (isSlot f.a = true ∧ e.hasCmp (desChan f.a) = true)) := by
    rw [Bool.or_eq_true, Bool.and_eq_true, decide_eq_true_iff, typeIn]
  have hsc : awaitCompanion e (scalingOf e f.a (resolve e f.ty (usedDes usesAB f))) = .ok () := hcmp
  have hwait : (f.wb == 0 || isSlot f.b) = true := waitKind_ok hwb
  rw [bodyDq]
  dsimp only
  rw [htype, need_ok hwait, res_bind_ok, badScale_eq _ hbad, ← usesScale,
    check_ok hl hln hok (by rwa [typeIn_usesScale]), res_bind_ok, hsc, res_bind_ok, typeIn_usesScale, fmtOf_of_code hsrc]
  rfl

theorem bodyLscan_eq (hl : Legal e { f with ln := 0 } usesA (badReg e f)) (hsrc : Fmt.ofCode (typeIn e f usesA) = some src)
    (hv : f.var.toNat ≤ 2) (ht : reduceTypes e.cls f.var.toNat (typeIn e f usesA) = true) : bodyLscan s f e =
      (let g := { f with ln := 0 }
       done s (putFlags s e g (fun i => flagLane src (scanAt src f.var.toNat (laneActive e g) (readDes s e f.a).pay i))
        [readDes s e f.a])) := by
  have hcheck : check e { f with ln := 0 } usesA (decide (f.var.toNat ≤ 2)) (reduceTypes e.cls f.var.toNat)
      (badReg e { f with ln := 0 }) = .ok (typeIn e f usesA) := check_ok hl (by simp) (decide_eq_true hv) ht
  rw [bodyLscan]
  dsimp only
  rw [hcheck, res_bind_ok, fmtOf_of_code hsrc]
  rfl

/-- Settles O8: each instruction by the part of its destination that its work writes. -/
theorem conversions : Obligations.Conversions := by
  unfold Obligations.Conversions
  intro s e f src dst m hr hu a b u more bs sc p n k act whole el
  have float {op : BitVec 8} (hop : 0x40 ≤ op.toNat ∧ op.toNat ≤ 0x54) : (classesOf op).contains e.cls = true :=
    mem_classesOf_floatUnit hu hop
  refine ⟨fun hln hl hsrc ht hdst hv hm hp => ?cvt, fun hln hwb hl hsrc ht hdst hv hm hp => ?qnt,
    fun hln hwb hv hdst hcmp hl hsrc ht hp => ?dq, fun hl hsrc hv ht => ?lscan⟩
  case cvt => exact lanesOn_of_putPart rfl hr (float (op := 0x50) (by decide)) (bodyCvt_eq hln hl hsrc ht hdst hv hm hp)
  case qnt => exact lanesOn_of_putPart rfl hr (float (op := 0x52) (by decide)) (bodyQnt_eq hln hwb hl hsrc ht hdst hv hm hp)
  case dq =>
    subst hdst
    exact lanesOn_of_putPart rfl hr (float (op := 0x51) (by decide)) (bodyDq_eq hln hwb hv hcmp hl hsrc ht hp)
  case lscan => exact lanes_of_putFlags rfl hr (float (op := 0x54) (by decide)) (bodyLscan_eq hl hsrc hv ht)

end
end Sys2Proof.Machine
end

section
/-! PROOFS. O9: dot products (R29, R31, R40, R42, R136, R137; log 68). -/
namespace Sys2Proof.Machine
open Sys2Proof.Claim

-- Terms and sums (R40, R42, R137) -------------------------------------------------------------------------------------------------

/-- The terms of some lanes: an inactive lane contributes as many zeros as another contributes products (R42). -/
theorem dotTerms_eq (act : Nat → Bool) (n off : Nat) (x y : Nat → Machine.Num × Flags) (lanes : List Nat) :
    dotTerms act n off x y lanes = lanes.flatMap fun l => (List.range n).map fun j => if act l then
        (let p := (x (n * l + j)).1.mul (y (off + (n * l + j))).1
         (p.1, (x (n * l + j)).2 ||| (y (off + (n * l + j))).2 ||| p.2))
      else (.zero false, 0) := by
  refine List.flatMap_congr fun l _ => ?_
  cases act l with
  | true => rfl
  | false => simp

theorem foldl_add_eq_sum {α M : Type} [AddMonoid M] (l : List α) (g : α → M) (a : M) : l.foldl (fun a x => a + g x) a = a + (l.map g).sum := by
  induction l generalizing a with
  | nil => simp
  | cons x l ih => rw [List.foldl_cons, ih, List.map_cons, List.sum_cons, add_assoc]

/-- The integer sum over some lanes. -/
theorem intTerms_eq (act : Nat → Bool) (n : Nat) (x y : Nat → Int) (lanes : List Nat) : intTerms act n 0 x y lanes =
    (lanes.flatMap fun l => (List.range n).map fun j => if act l then x (n * l + j) * y (n * l + j) else 0).sum := by
  have lane (l : Nat) (a : Int) : (if act l then (List.range n).foldl (fun a j => a + x (n * l + j) * y (0 + n * l + j)) a else a) =
      a + ((List.range n).map fun j => if act l then x (n * l + j) * y (n * l + j) else 0).sum := by
    cases act l with
    | true => simp [foldl_add_eq_sum]
    | false => simp
  simp only [intTerms, lane]
  rw [foldl_add_eq_sum, zero_add, List.flatMap_def, List.sum_flatten, List.map_map]
  rfl

section
variable {s : State} {e : Elem} {f : Fields} {t : Nat} {sc : Scaling}

theorem raise_ite (p : Prop) [Decidable p] (g : Flags) : (if p then e.raise g else e) = e.raise (if p then g else 0) := by
  split
  · rfl
  · rw [raise_none]

-- The elements of the operands (R31, R137) ----------------------------------------------------------------------------------------

/-- An element of a float a. -/
def dotA (s : State) (e : Elem) (f : Fields) (t el : Nat) : Machine.Num := (fmtOf t).decode (elemAt (fmtOf t) (srcA s e f).pay el)

/-- An element of a float b, read in its format or decoded in line, with the flags of its decoding. -/
def dotBElem (s : State) (e : Elem) (f : Fields) (t : Nat) (sc : Scaling) (el : Nat) : Machine.Num × Flags :=
  let fb := fmtOf (dotB e f t).1
  if (dotB e f t).2 then
    (let w := weightElem e fb (srcB s e f).pay sc (fun _ => Machine.Num.one) Machine.Num.one el
     (Fmt.decode .bf16 w.1, w.2))
  else (fb.decode (elemAt fb (srcB s e f).pay el), 0)

/-- The words of a weight channel's elements that `part` names begin here. -/
def dotOff (f : Fields) (t : Nat) : Nat := partNo f * 16 * (fmtOf t).perLane

/-- Term `j` of lane `l`. -/
def dotTerm (s : State) (e : Elem) (f : Fields) (t : Nat) (sc : Scaling) (l j : Nat) : Machine.Num × Flags :=
  let el := (fmtOf t).perLane * l + j
  let y := dotBElem s e f t sc (dotOff f t + el)
  if laneActive e f l then
    (let p := (dotA s e f t el).mul y.1
     (p.1, (0 : Flags) ||| y.2 ||| p.2))
  else (Machine.Num.zero false, 0)

/-- The terms of one lane. -/
def dotRow (s : State) (e : Elem) (f : Fields) (t : Nat) (sc : Scaling) (l : Nat) : List (Machine.Num × Flags) :=
  (List.range (fmtOf t).perLane).map (dotTerm s e f t sc l)

/-- The exact sum of some terms and lane `k` of c. -/
def dotSum (s : State) (e : Elem) (f : Fields) (k : Nat) (terms : List (Machine.Num × Flags)) : Nat × Flags :=
  sumTerms (Fmt.decode .fp32 ((srcC s e f).pay.lane k).toNat) terms

/-- The product of two elements of the integer operands. -/
def dotInt (s : State) (e : Elem) (f : Fields) (t el : Nat) : Int :=
  elemInt (fmtOf t) false (elemAt (fmtOf t) (srcA s e f).pay el) * elemInt (fmtOf t) false (elemAt (fmtOf t) (srcB s e f).pay el)

/-- The sources of a dot product. -/
def dotSrcs (s : State) (e : Elem) (f : Fields) (sc : Scaling) : List Reg := [srcA s e f, srcB s e f, srcC s e f] ++ scalingSrcs e sc []

/-- PZ of the result of a dot product. -/
def dotPz (s : State) (e : Elem) (f : Fields) (sc : Scaling) : Bool := destPz e f (dotSrcs s e f sc) (readDes s e f.d) (allActive e f)

-- The work of a dot product -------------------------------------------------------------------------------------------------------

section
variable (hln : f.ln ≠ 3) (hl : Legal e f usesABC (badReg e f)) (htype : typeIn e f usesABC = t)
include hln hl htype

/-- A float dot product whose checks pass: one sum in variant 0, and one for each lane in variant 1. -/
theorem bodyDot_float (hv : f.var.toNat ≤ 1) (ht : t = 5 ∨ t = 6) (hb : (dotB e f t).2 = true ∨ (dotB e f t).1 = 5 ∨ (dotB e f t).1 = 6)
    (hn : (fmtOf t).perLane ≤ (fmtOf (dotB e f t).1).perLane) (hp : partNo f < (fmtOf (dotB e f t).1).perLane / (fmtOf t).perLane)
    (hsc : (if (dotB e f t).2 then scalingOf e f.b (dotB e f t).1 else .named) = sc) (hcmp : awaitCompanion e sc = .ok ()) :
    bodyDot s f e =
      if f.var.toNat = 0 then
        (let sum := dotSum s e f 0 ((List.range 16).flatMap (dotRow s e f t sc))
         doneOrPoison s (put s (if someActive e f then e.raise sum.2 else e) f (fun _ => BitVec.ofNat 32 sum.1) (dotSrcs s e f sc))
          (dotPz s e f sc) 256 f.d)
      else doneOrPoison s (putFlags s e f (fun l => (BitVec.ofNat 32 (dotSum s e f l (dotRow s e f t sc l)).1,
          (dotSum s e f l (dotRow s e f t sc l)).2)) (dotSrcs s e f sc)) (dotPz s e f sc) 256 f.d := by
  have hcheck : check e f usesABC true (fun t => t == 5 || t == 6) (badReg e f) = .ok t := by
    rw [← htype] at ht ⊢
    exact check_ok hl hln rfl (by simpa using ht)
  have htype : resolve e f.ty (usedDes usesABC f) = t := htype
  have hokT : (t == 5 || t == 6) = true := by simpa using ht
  have hokB : ((dotB e f t).2 || (dotB e f t).1 == 5 || (dotB e f t).1 == 6) = true := by simpa [or_assoc] using hb
  have hinstr : (decide (f.var.toNat ≤ 3) && f.ln != 3 && waitsOk usesABC f) = true := by
    simpa [show f.var.toNat ≤ 3 by omega, hl.1] using hln
  rw [bodyDot]
  simp only [decide_eq_true hv, if_true, htype, hokT, hokB, hinstr, decide_eq_true hp, decide_eq_true hn, Bool.or_true, Bool.and_true,
    need_true, res_bind_ok, hcheck, hsc, hcmp, dotTerms_eq, List.flatMap_singleton]
  rfl

/-- An integer dot product whose checks pass. -/
theorem bodyDot_int (hv : f.var.toNat = 2 ∨ f.var.toNat = 3) (ht : t = 1 ∨ t = 3 ∨ t = 4) (hb : dotBInt e f t = t) (hp : partNo f = 0) :
    bodyDot s f e = doneOrPoison s (put s (e.raise 0) f (fun i => BitVec.ofInt 32
        (((srcC s e f).pay.lane (if f.var.toNat = 2 then 0 else i)).toInt + ((if f.var.toNat = 2 then List.range 16 else [i]).flatMap
          fun l => (List.range (fmtOf t).perLane).map fun j =>
            if laneActive e f l then dotInt s e f t ((fmtOf t).perLane * l + j) else 0).sum))
        (dotSrcs s e f .named)) (dotPz s e f .named) 256 f.d := by
  have hcheck : check e f usesABC true (fun t => t == 1 || t == 3 || t == 4) (badReg e f) = .ok t := by
    rw [← htype] at ht ⊢
    exact check_ok hl hln rfl (by simpa [or_assoc] using ht)
  have htype : resolve e f.ty (usedDes usesABC f) = t := htype
  have hokT : (t == 1 || t == 3 || t == 4) = true := by simpa [or_assoc] using ht
  have hinstr : (decide (f.var.toNat ≤ 3) && f.ln != 3 && waitsOk usesABC f) = true := by
    simpa [show f.var.toNat ≤ 3 by omega, hl.1] using hln
  have hpart : 0 < (fmtOf t).perLane / (fmtOf t).perLane := by
    obtain rfl | rfl | rfl := ht <;> decide
  rw [bodyDot, raise_none]
  simp only [decide_eq_false (show ¬ f.var.toNat ≤ 1 by omega), Bool.false_eq_true, if_false, htype, hb, hokT, hinstr, hpart,
    decide_true, beq_self_eq_true, Nat.le_refl, Bool.or_true, Bool.and_true, need_true, res_bind_ok, hcheck, hp, Nat.zero_mul, intTerms_eq]
  rfl

end

/-- What O9 says of a dot product that leaves in each active lane a value that `R` allows. -/
def DotLeaves (s : State) (e : Elem) (f : Fields) (sc : Scaling) (fl : Flags) (R : Nat → Lane → Prop) : Prop :=
  ∃ r : Reg, (if dotPz s e f sc then EndsIn (.poison 256 f.d.toNat 0) (wordOf 0x60 f) (.dot f) s e s (writeDes (e.raise fl) f.d r)
      else Completes (.dot f) s e s (writeDes (e.raise fl) f.d r))
    ∧ r.pz = dotPz s e f sc
    ∧ ∀ l < 16, if laneActive e f l then R l (r.pay.lane l) else r.pay.lane l = (readDes s e f.d).pay.lane l

theorem dotLeaves_of_body {g : Nat → Lane} {fl : Flags} {R : Nat → Lane → Prop} (hr : Runs s e) (hc : e.cls = .ve)
    (hb : bodyDot s f e = doneOrPoison s (put s (e.raise fl) f g (dotSrcs s e f sc)) (dotPz s e f sc) 256 f.d)
    (hg : ∀ n < 16, laneActive e f n = true → R n (g n)) : DotLeaves s e f sc fl R := by
  have hc : (classesOf 0x60).contains e.cls = true := by rw [hc]; decide
  refine ⟨mergedReg (laneActive e f) (allActive e f) s e f g (dotSrcs s e f sc), ?_, rfl, mergedReg_lanes hg⟩
  split
  · next hp => exact endsIn_of_doneOrPoison rfl hr hc hb hp
  · next hp => exact completes_of_doneOrPoison rfl hr hc hb (Bool.eq_false_iff.2 hp)

/-- Settles O9: each variant by the sums that its work leaves. -/
theorem dotProduct : Obligations.DotProduct := by
  unfold Obligations.DotProduct
  intro s e f t hr hc hln hl htype a b c fm n v inl fb off sc srcs x y xi yi term terms pz writes
  refine ⟨fun ht hb hn hp hcmp => ⟨fun hv => ?all, fun hv => ?rows⟩, fun ht hb hp => ⟨fun hv => ?intAll, fun hv => ?intRows⟩⟩
  case all =>
    have hsc : (if inl then scalingOf e f.b (dotB e f t).1 else .named) = sc := by simp [sc, hv]
    have h := bodyDot_float (s := s) hln hl htype (show v ≤ 1 by omega) ht hb hn hp hsc hcmp
    dsimp only at h
    rw [if_pos hv, raise_ite] at h
    change DotLeaves s e f sc _ fun _ q => q = BitVec.ofNat 32 (dotSum s e f 0 ((List.range 16).flatMap (dotRow s e f t sc))).1
    exact dotLeaves_of_body hr hc h fun _ _ _ => rfl
  case rows =>
    have hsc : (if inl then scalingOf e f.b (dotB e f t).1 else .named) = sc := by simp [sc, hv]
    have h := bodyDot_float (s := s) hln hl htype (show v ≤ 1 by omega) ht hb hn hp hsc hcmp
    rw [if_neg (by omega), putFlags] at h
    change DotLeaves s e f sc _ fun l q => q = BitVec.ofNat 32 (dotSum s e f l (dotRow s e f t sc l)).1
    exact dotLeaves_of_body hr hc h fun _ _ _ => rfl
  case intAll =>
    have hsc : sc = .named := by simp [sc, hv]
    have h := bodyDot_int (s := s) hln hl htype (.inl hv) ht hb hp
    simp only [show f.var.toNat = 2 from hv, if_true] at h
    rw [← hsc] at h
    change DotLeaves s e f sc 0 fun _ q => q = BitVec.ofInt 32 _
    exact dotLeaves_of_body hr hc h fun _ _ _ => rfl
  case intRows =>
    have hsc : sc = .named := by simp [sc, hv]
    have h := bodyDot_int (s := s) hln hl htype (.inr hv) ht hb hp
    simp only [show f.var.toNat ≠ 2 from ne_of_eq_of_ne hv (by decide), if_false, List.flatMap_singleton] at h
    rw [← hsc] at h
    change DotLeaves s e f sc 0 fun l q => q = BitVec.ofInt 32
      ((c.pay.lane l).toInt + ((List.range n).map fun j => dotInt s e f t (n * l + j)).sum)
    refine dotLeaves_of_body hr hc h fun l _ ha => ?_
    simp only [ha, if_true]
    rfl

end
end Sys2Proof.Machine
end

section
/-! PROOFS. O11: the bit matrix step and the transposing requantiser (R136, R142 to R145). -/
namespace Sys2Proof.Machine
open Sys2Proof.Claim

section
variable {s t : State} {e : Elem} {f f0 : Fields}

/-- Granules without defective cells are neither recorded nor marked (R147). -/
theorem clean_of_bits {st : Store} {grans : List Nat} (h : (st.bits grans).1 = false) : badEvents s e st grans = s ∧ st.marked grans = st := by
  have hbad : grans.filter (fun g => st.bad.contains g) = [] := by
    refine List.filter_eq_nil_iff.2 fun g hg hd => List.any_eq_false.1 h g hg ?_
    rw [hd, Bool.or_true]
  constructor
  · rw [badEvents, hbad]
    rfl
  · rw [Store.marked, hbad]
    rfl

/-- A destination written after the local store of its unit changed is written as before. -/
theorem put_store_merged {st : Store} (h : badReg e f = none) (g : Nat → Lane) (srcs : List Reg) : put t { e with store := st } f g srcs =
    writeDes { e with store := st } f.d (mergedReg (laneActive e f) (allActive e f) s e f g srcs) := put_store h g srcs

/-- A number summed over the active lanes, one after another. -/
theorem foldl_activeLanes (g : Nat → Nat) : (activeLanes e f).foldl (fun n l => n + g l) 0 =
    ((List.range 16).map fun l => if laneActive e f l then g l else 0).sum := by
  have hstep (n l : Nat) : (if laneActive e f l then n + g l else n) = n + if laneActive e f l then g l else 0 := by split <;> rfl
  simp only [activeLanes, List.foldl_filter, hstep]
  rw [foldl_add_eq_sum, Nat.zero_add]

-- The bit matrix step (R142) --------------------------------------------------------------------------------------------------------

/-- The granules of the tile, where some lane is active. -/
def bmmGrans (e : Elem) (f : Fields) : List Nat := if someActive e f then tileGrans (tadr f) 512 else []

/-- The sources of a bit matrix step. -/
def bmmSrcs (s : State) (e : Elem) (f : Fields) : List Reg :=
  [srcA s e f, srcC s e f, { pay := 0, pz := (e.store.bits (bmmGrans e f)).1, tn := (e.store.bits (bmmGrans e f)).2 }]

/-- Whether bit `k` of lane `l` of a and of row `n` of the tile differ, or are both one. -/
def bmmBit (s : State) (e : Elem) (f : Fields) (n l k : Nat) : Bool :=
  let x := ((srcA s e f).pay.lane l).getLsbD k
  let y := (memNat e.store.bytes (tadr f + 64 * n + 4 * l) 4).testBit k
  if f.var = 0 then x ^^ y else x && y

/-- What a bit matrix step leaves in lane `n`. -/
def bmmLane (s : State) (e : Elem) (f : Fields) (n : Nat) : Lane :=
  if n < 8 then (srcC s e f).pay.lane n + BitVec.ofNat 32
    ((List.range 16).map fun l => if laneActive e f l then (List.range 32).countP (bmmBit s e f n l) else 0).sum
  else (srcC s e f).pay.lane n

/-- What a bit matrix step leaves in its destination. -/
def bmmReg (s : State) (e : Elem) (f : Fields) : Reg :=
  mergedReg (laneActive e f) (allActive e f) s e f (bmmLane s e f) (bmmSrcs s e f)

/-- The bits that a row of the tile has in common with a, counted: the tile does not wrap. -/
theorem onesBelow_tile (hb : tadr f % 512 = 0) {n l : Nat} (hn : n < 8) (hl : l < 16) :
    (let x := ((srcA s e f).pay.lane l).toNat
     let y := e.store.num (tadr f + 64 * n + 4 * l) 4
     onesBelow (if f.var = 0 then x ^^^ y else x &&& y) 32) = (List.range 32).countP (bmmBit s e f n l) := by
  have hlt : tadr f < 2 ^ 17 := Nat.mod_lt _ (by decide)
  have hin : (tadr f + 64 * n + 4 * l) % storeSize = tadr f + 64 * n + 4 * l := Nat.mod_eq_of_lt (by unfold storeSize; omega)
  dsimp only
  rw [onesBelow_eq_countP, Store.num, hin]
  refine List.countP_congr fun k _ => ?_
  unfold bmmBit
  split <;> simp [BitVec.getLsbD]

/-- A lane of a bit matrix step as the model counts it, over the active lanes in ascending order. -/
def bmmCounted (s : State) (e : Elem) (f : Fields) (n : Nat) : Lane :=
  if n < 8 then (srcC s e f).pay.lane n + BitVec.ofNat 32 ((activeLanes e f).foldl (fun m l =>
    m + onesBelow (if f.var = 0 then ((srcA s e f).pay.lane l).toNat ^^^ e.store.num (tadr f + 64 * n + 4 * l) 4
      else ((srcA s e f).pay.lane l).toNat &&& e.store.num (tadr f + 64 * n + 4 * l) 4) 32) 0)
  else (srcC s e f).pay.lane n

theorem bmmCounted_eq (hb : tadr f % 512 = 0) : bmmCounted s e f = bmmLane s e f := by
  funext n
  unfold bmmCounted bmmLane
  split
  · next hn =>
    rw [foldl_activeLanes]
    congr 3
    exact List.map_congr_left fun l hl => if_congr Iff.rfl (onesBelow_tile hb hn (List.mem_range.1 hl)) rfl
  · rfl

theorem bodyBmm_eq (hf : f = { f0 with ln := 0 }) (hb : tadr f % 512 = 0) (hbad : badReg e f = none) (hv : f.var.toNat ≤ 1)
    (hl : Legal e f { usesABC with b := false } (badReg e f)) (ht : typeIn e f { usesABC with b := false } = 12) : bodyBmm s f0 e =
      doneOrPoison (badEvents s e e.store (bmmGrans e f)) (writeDes { e with store := e.store.marked (bmmGrans e f) } f.d (bmmReg s e f))
        (bmmReg s e f).pz 256 f.d := by
  have hcheck : check e f { usesABC with b := false } (decide (f0.var.toNat ≤ 1)) (fun t => t == 12) (badReg e f) =
      .ok (typeIn e f { usesABC with b := false }) :=
    check_ok hl (by simp [hf]) (decide_eq_true (by rwa [hf] at hv)) (beq_iff_eq.2 ht)
  have hraw (t : State) (e1 : Elem) (hst : t = badEvents s e e.store (bmmGrans e f))
      (hel : e1 = { e with store := e.store.marked (bmmGrans e f) }) : bodyBmm s f0 e =
      doneOrPoison t (put t e1 f (bmmCounted s e f) (bmmSrcs s e f)) (destPz e1 f (bmmSrcs s e f) (readDes t e1 f.d) (allActive e1 f))
        256 f.d := by
    subst hst hel hf
    rw [bodyBmm]
    dsimp only
    rw [if_pos hb, hcheck]
    rfl
  rw [hraw _ _ rfl rfl, bmmCounted_eq hb, put_store_merged (s := s) hbad, readDes_of_badReg hbad s]
  rfl

/-- A bit matrix step whose result has no poison: its tile has no defective granule. -/
theorem lanes_bmm (hr : Runs s e) (hc : (classesOf 0x63).contains e.cls = true)
    (hb : bodyBmm s f0 e = doneOrPoison (badEvents s e e.store (bmmGrans e f))
      (writeDes { e with store := e.store.marked (bmmGrans e f) } f.d (bmmReg s e f)) (bmmReg s e f).pz 256 f.d)
    (hp : (bmmReg s e f).pz = false) : Lanes (.bmm f0) s e f (bmmSrcs s e f) 0 fun n x => x = bmmLane s e f n := by
  have htile : (e.store.bits (bmmGrans e f)).1 = false :=
    pz_of_destPz hp (r := { pay := 0, pz := (e.store.bits (bmmGrans e f)).1, tn := (e.store.bits (bmmGrans e f)).2 }) (by simp [bmmSrcs])
  obtain ⟨hevents, hmarked⟩ := clean_of_bits (s := s) htile
  rw [hevents, hmarked, hp] at hb
  refine lanes_of_quiet rfl hr hc (g := bmmLane s e f) ?_ fun _ _ _ => rfl
  rw [hb, put_eq]
  rfl

section
variable (hf : f = { f0 with ln := 0 }) (hv : f.var.toNat ≤ 1) (hw : waitsOk { usesABC with b := false } f = true)
include hf hv hw

theorem bodyBmm_type (ht : typeIn e f { usesABC with b := false } ≠ 12) :
    bodyBmm s f0 e = .error (.trap (.type (typeIn e f { usesABC with b := false }))) := by
  subst hf
  rw [bodyBmm]
  dsimp only
  rw [(check_later (f := { f0 with ln := 0 }) ⟨decide_eq_true hv, by simp, hw⟩).1 (by simpa using ht)]
  rfl

theorem bodyBmm_operand (ht : typeIn e f { usesABC with b := false } = 12) (hs : badSrc { usesABC with b := false } e f = none)
    (hb : tadr f % 512 ≠ 0) : bodyBmm s f0 e = .error (.trap (.operand f.a.toNat)) := by
  subst hf
  rw [bodyBmm]
  dsimp only
  rw [(check_later (f := { f0 with ln := 0 }) ⟨decide_eq_true hv, by simp, hw⟩).2.2.1 f0.a (by simpa using ht) hs (if_neg hb)]
  rfl

end

theorem bodyBmm_variant (hv : 1 < f0.var.toNat) : bodyBmm s f0 e = .error (.trap .instr) := by
  rw [bodyBmm]
  dsimp only
  rw [check_instr (by simp; omega)]
  rfl

-- Filling the requantiser (R144) ------------------------------------------------------------------------------------------------

/-- The requantiser with a row of a put in (R144). -/
def VePart.filled (w : VePart) (act : Nat → Bool) (a : Reg) (flowP flowT : Bool) : VePart :=
  { w with rows := w.rows.set w.wcnt (mergeLanes act a.pay.lane (w.rows.getD w.wcnt 0)), wcnt := w.wcnt + 1,
           rqPz := w.rqPz || a.pz || flowP, rqTn := w.rqTn || a.tn || flowT }

section
variable (hf : f = { f0 with ln := 0 }) (hv : f.var = 0)
include hf hv

theorem bodyTpq_eq (hl : Legal e f { usesA with d := false } none) (ht : typeIn e f { usesA with d := false } = 5) : bodyTpq s f0 e = (do
    awaitCount (decide (e.ve.wcnt < 16))
    done s { e with ve := e.ve.filled (laneActive e f) (srcA s e f) e.flowP e.flowT }) := by
  subst hf
  have hcheck : check e { f0 with ln := 0 } { usesA with d := false } (f0.var == 0) (fun t => t == 5) none =
      .ok (typeIn e { f0 with ln := 0 } { usesA with d := false }) := check_ok hl (by simp) (beq_iff_eq.2 hv) (beq_iff_eq.2 ht)
  rw [bodyTpq]
  dsimp only
  rw [hcheck]
  rfl

theorem bodyTpq_type (hw : waitsOk { usesA with d := false } f = true) (ht : typeIn e f { usesA with d := false } ≠ 5) :
    bodyTpq s f0 e = .error (.trap (.type (typeIn e f { usesA with d := false }))) := by
  subst hf
  rw [bodyTpq]
  dsimp only
  rw [(check_later (f := { f0 with ln := 0 }) ⟨beq_iff_eq.2 hv, by simp, hw⟩).1 (by simpa using ht)]
  rfl

end

-- Reading the requantiser (R145) ------------------------------------------------------------------------------------------------

/-- Element `j` of lane `i` that a read leaves: the elements of a column, from row to row, quantised. -/
def tpqrElem (e : Elem) (f : Fields) (fm : Fmt) (m : Mode) (i j : Nat) : Nat × Flags :=
  let k := fm.perLane * i + j
  quantElem fm m (Fmt.decode .fp32 (Payload.lane (e.ve.rows.getD (k % 16) 0) (e.ve.rcnt + k / 16)).toNat) Machine.Num.one
    (scaleNum e (xsel f))

/-- The sources of a read. -/
def tpqrSrcs (e : Elem) (f : Fields) : List Reg := [{ pay := 0, pz := e.ve.rqPz, tn := e.ve.rqTn }, scaleReg e (xsel f)]

/-- The requantiser after `n` columns were read: empty after the last (R145). -/
def VePart.afterRead (w : VePart) (n : Nat) : VePart := if 16 ≤ w.rcnt + n then w.emptied else { w with rcnt := w.rcnt + n }

theorem writeDes_ve (e : Elem) (d : BitVec 10) (v : Reg) : (writeDes e d v).ve = e.ve := by
  unfold writeDes
  split <;> rfl

section
variable {fm : Fmt} {m : Mode} (hv : [4, 5, 6, 8, 9].contains f.var.toNat = true) (hfm : Fmt.ofCode f.var.toNat = some fm)
  (hm : rmode f = some m) (hln : f.ln ≠ 3) (hwd : f.wd = 0 ∨ isOut f.d = true)
include hv hfm hm hln hwd

theorem bodyTpqr_eq : bodyTpqr s f e = (do
    need (!(decide (e.ve.wcnt = 16) && decide (16 < e.ve.rcnt + fm.perLane))) .instr
    noBad (badReg e f)
    await (outWait e f.d f.wd)
    awaitCount (decide (e.ve.wcnt = 16))
    done s { putFlags s e f (fun i => flagLane fm (tpqrElem e f fm m i)) (tpqrSrcs e f) with ve := e.ve.afterRead fm.perLane }) := by
  have hwait : (f.wd == 0 || isOut f.d) = true := waitKind_ok hwd
  have hform : (f.ln != 3) = true := laneForm_ok hln
  have hve (g : Nat → Lane × Flags) (srcs : List Reg) : (putFlags s e f g srcs).ve = e.ve := writeDes_ve _ _ _
  rw [bodyTpqr]
  simp only [fmtOf_of_code hfm, hv, hm, hwait, hform, hve]
  rfl

theorem bodyTpqr_past (hw : e.ve.wcnt = 16) (hn : 16 < e.ve.rcnt + fm.perLane) : bodyTpqr s f e = .error (.trap .instr) := by
  rw [bodyTpqr_eq hv hfm hm hln hwd, decide_eq_true hw, decide_eq_true hn]
  rfl

section
variable (hd : badReg e f = none) (ho : outWait e f.d f.wd = true)
include hd ho

theorem bodyTpqr_unfilled (hw : e.ve.wcnt ≠ 16) : bodyTpqr s f e = .error (.hold .count) := by
  rw [bodyTpqr_eq hv hfm hm hln hwd, decide_eq_false hw, hd, ho]
  rfl

theorem bodyTpqr_read (hw : e.ve.wcnt = 16) (hn : e.ve.rcnt + fm.perLane ≤ 16) : bodyTpqr s f e =
    done s { putFlags s e f (fun i => flagLane fm (tpqrElem e f fm m i)) (tpqrSrcs e f) with ve := e.ve.afterRead fm.perLane } := by
  rw [bodyTpqr_eq hv hfm hm hln hwd, decide_eq_true hw, decide_eq_false (by omega), hd, ho]
  rfl

end

end

/-- Settles O11: `bmm` by the counts of its lanes, the requantiser by the row that fills it and the columns that are read. -/
theorem bitMatrixAndRequantiser : Obligations.BitMatrixAndRequantiser := by
  unfold Obligations.BitMatrixAndRequantiser
  intro s e f0 hr hcls f a c w u uq grans srcs pz one row
  have ve {op : BitVec 8} (hop : (classesOf op).contains .ve = true) : (classesOf op).contains e.cls = true := by rwa [hcls]
  have bmm : (classesOf 0x63).contains e.cls = true := ve (by decide)
  have tpq : (classesOf 0x64).contains e.cls = true := ve (by decide)
  have tpqr : (classesOf 0x65).contains e.cls = true := ve (by decide)
  refine ⟨fun hv hb hl ht => ?bmm, fun hv => traps_of_body rfl hr bmm (bodyBmm_variant hv),
    fun hv hw ht => traps_of_body rfl hr bmm (bodyBmm_type rfl hv hw ht),
    fun hv hw ht hs hb => traps_of_body rfl hr bmm (bodyBmm_operand rfl hv hw ht hs hb), fun hv hl ht hn => ?fill, fun hv hl ht hn => ?full,
    fun hv hw ht => traps_of_body rfl hr tpq (bodyTpq_type rfl hv hw ht), fun r m hv hfm hm hln hwd => ⟨fun hw hn => ?past,
    fun hd ho hw => ?unfilled, fun hd ho hw hn => ?read⟩⟩
  case bmm =>
    have hends : badReg e f = none := hl.2.2.1
    have hbody := bodyBmm_eq (s := s) (f0 := f0) rfl hb hends hv hl ht
    exact ⟨fun hp => lanes_bmm hr bmm hbody hp,
      fun hp => ⟨bmmReg s e f, endsIn_of_doneOrPoison rfl hr bmm hbody hp, hp, fun n hn => mergedReg_lane hn⟩⟩
  case fill =>
    refine completes_of_body rfl hr tpq ?_
    rw [bodyTpq_eq rfl hv hl ht, decide_eq_true hn]
    rfl
  case full =>
    refine holds_of_body rfl hr tpq ?_
    rw [bodyTpq_eq rfl hv hl ht, decide_eq_false (Nat.not_lt.2 hn)]
    rfl
  case past => exact traps_of_body rfl hr tpqr (bodyTpqr_past hv hfm hm hln hwd hw hn)
  case unfilled => exact holds_of_body rfl hr tpqr (bodyTpqr_unfilled hv hfm hm hln hwd hd ho hw)
  case read =>
    have hafter : w.afterRead r.perLane = if w.rcnt + r.perLane = 16 then w.emptied else { w with rcnt := w.rcnt + r.perLane } :=
      if_congr ⟨fun h => by omega, fun h => by omega⟩ rfl rfl
    have hdone := completes_of_body (i := .tpqr f0) rfl hr tpqr (bodyTpqr_read (s := s) hv hfm hm hln hwd hd ho hw hn)
    rw [hafter] at hdone
    exact ⟨_, hdone, rfl, rfl, mergedReg_lanes (R := Elems r fun i j => (tpqrElem e f0 r m i j).1 % 2 ^ r.bits)
      fun _ _ _ _ hj => elemOf_laneOf _ _ _ hj⟩

end
end Sys2Proof.Machine
end

section
/-! PROOFS. O12: the accumulators and the adapter bank register (R140, R146; log 124). -/
namespace Sys2Proof.Machine
open Sys2Proof.Claim

section
variable {s : State} {e : Elem} {f : Fields}

theorem bodyAccrd_eq (hv : f.var.toNat ≤ 1) (hd : badReg e f = none) (ho : outWait e f.d 0 = true) : bodyAccrd s f e =
    (let g := { f with ln := 0, wd := 0 }
     let a := e.accReg (f.imm.toNat % 8)
     let e1 := put s e g a.pay.lane [a]
     done s (if f.var = 1 then e1.setAcc (f.imm.toNat % 8) (zeroAcc e g a) else e1)) := by
  have hd' : badReg e { f with ln := 0, wd := 0 } = none := hd
  rw [bodyAccrd]
  dsimp only
  rw [need_ok (decide_eq_true hv), res_bind_ok, hd', ho]
  rfl

theorem bodyAccz_eq (hv : f.var.toNat ≤ 1) : bodyAccz s f e =
    (let g := { f with ln := 0 }
     done s (if f.var = 1 then { e with ve := { e.ve with acc := e.ve.acc.map (zeroAcc e g) } }
      else e.setAcc (f.imm.toNat % 8) (zeroAcc e g (e.accReg (f.imm.toNat % 8))))) := by
  rw [bodyAccz, need_ok (decide_eq_true hv)]
  rfl

/-- The adapter bank register that `wsel` makes of the first three lanes of an operand (R140). -/
def bankOf (a : Payload) : BitVec 64 :=
  BitVec.ofNat 64 ((a.lane 0).toNat % 2 ^ 17 + (a.lane 1).toNat % 2 ^ 17 * 2 ^ 17 + (a.lane 2).toNat % 2 ^ 16 * 2 ^ 34)

/-- The fields of the adapter bank register stand side by side. -/
theorem bankOf_fields (a : Payload) : bankBase (bankOf a) = (a.lane 0).toNat % 2 ^ 17 ∧ bankStrd (bankOf a) = (a.lane 1).toNat % 2 ^ 17
    ∧ bankCnt (bankOf a) = (a.lane 2).toNat % 2 ^ 16 := by
  have hx : (a.lane 0).toNat % 2 ^ 17 < 2 ^ 17 := Nat.mod_lt _ (by decide)
  have hy : (a.lane 1).toNat % 2 ^ 17 < 2 ^ 17 := Nat.mod_lt _ (by decide)
  have hz : (a.lane 2).toNat % 2 ^ 16 < 2 ^ 16 := Nat.mod_lt _ (by decide)
  have hn : (bankOf a).toNat = (a.lane 0).toNat % 2 ^ 17 + (a.lane 1).toNat % 2 ^ 17 * 2 ^ 17 + (a.lane 2).toNat % 2 ^ 16 * 2 ^ 34 := by
    rw [bankOf, BitVec.toNat_ofNat, Nat.mod_eq_of_lt (by omega)]
  simp only [bankBase, bankStrd, bankCnt, bitsAt, hn]
  omega

theorem bodyWsel_eq (hv : f.var = 0) (ha : srcOk e f.a = true) (hw : inWait e f.a 0 = true) : bodyWsel s f e =
    (let a := readDes s e f.a
     done s { e with ve := { e.ve with abank := bankOf a.pay, abPz := a.pz || e.flowP, abTn := a.tn || e.flowT } }) := by
  rw [bodyWsel, need_ok (beq_iff_eq.2 hv), ha, hw]
  rfl

/-- Settles O12: each instruction by the register or the accumulators that its work writes. -/
theorem accumulators : Obligations.Accumulators := by
  unfold Obligations.Accumulators
  intro s e f hr hcls g k act whole zeroed
  have ve {op : BitVec 8} (hop : (classesOf op).contains .ve = true) : (classesOf op).contains e.cls = true := by rwa [hcls]
  have accrd : (classesOf 0x66).contains e.cls = true := ve (by decide)
  have accz : (classesOf 0x67).contains e.cls = true := ve (by decide)
  refine ⟨fun hv hd ho => ?read, fun hv hd ho => ⟨mergedReg act whole s e g (e.accReg k).pay.lane [e.accReg k], ?readZero,
    fun n hn => mergedReg_lane hn⟩, fun hv => ?zero, fun hv => ?zeroAll, fun hv ha hw => ?bank⟩
  case read =>
    refine lanes_of_quiet rfl hr accrd (g := (e.accReg k).pay.lane) ?_ fun _ _ _ => rfl
    rw [bodyAccrd_eq (var_le_one (.inl hv)) hd ho]
    dsimp only
    rw [if_neg (by simp [hv])]
  case readZero =>
    refine completes_of_body rfl hr accrd ?_
    rw [bodyAccrd_eq (var_le_one (.inr hv)) hd ho]
    dsimp only
    rw [if_pos hv]
    rfl
  case zero =>
    refine completes_of_body rfl hr accz ?_
    rw [bodyAccz_eq (var_le_one (.inl hv))]
    dsimp only
    rw [if_neg (by simp [hv])]
    rfl
  case zeroAll =>
    refine completes_of_body rfl hr accz ?_
    rw [bodyAccz_eq (var_le_one (.inr hv))]
    dsimp only
    rw [if_pos hv]
    rfl
  case bank =>
    obtain ⟨hbase, hstride, hcount⟩ := bankOf_fields (readDes s e f.a).pay
    exact ⟨_, hbase, hstride, hcount, completes_of_body rfl hr (ve (op := 0x68) (by decide)) (bodyWsel_eq hv ha hw)⟩

end
end Sys2Proof.Machine
end

section
/-! PROOFS. O15: atomics on a local store (R83, R147, R148, R153). -/
namespace Sys2Proof.Machine
open Sys2Proof.Claim

-- One lane after another (R153) -----------------------------------------------------------------------------------------------------

/-- The update of a lane, as R153 lists it. -/
theorem satmFn_eq {v : Nat} (hv : v ≤ 9) (old x z : Lane) : satmFn v old x z =
    if v = 0 then old + x else if v = 1 then (if x.toInt < old.toInt then x else old)
    else if v = 2 then (if old.toInt < x.toInt then x else old) else if v = 3 then (if x.toNat < old.toNat then x else old)
    else if v = 4 then (if old.toNat < x.toNat then x else old) else if v = 5 then old &&& x else if v = 6 then old ||| x
    else if v = 7 then old ^^^ x else if v = 8 then x else (if old = z then x else old) := by
  interval_cases v <;> simp [satmFn, BitVec.slt_eq_decide, BitVec.ult_eq_decide]

section
variable {v : Nat} {addr : Nat → Nat} {b c : Payload} {pz tn : Bool} {st : Store}

/-- The store after the lanes of a list, and the values that they found. -/
theorem satmLanes_cons (n : Nat) (l : List Nat) : satmLanes v addr b c pz tn (n :: l) st =
    (let old : Lane := BitVec.ofNat 32 (st.num (addr n) 4)
     let rest := satmLanes v addr b c pz tn l (storePart st (addr n) 4 (satmFn v old (b.lane n) (c.lane n)).toNat pz tn)
     (rest.1, (n, old) :: rest.2)) := rfl

/-- A lane finds what the lanes before it have left. -/
theorem satmLanes_old {l : List Nat} (hl : l.Nodup) (st : Store) (k : Nat) (hk : k < l.length) :
    Tab.get 0 (satmLanes v addr b c pz tn l st).2 l[k] =
      BitVec.ofNat 32 ((satmLanes v addr b c pz tn (l.take k) st).1.num (addr l[k]) 4) := by
  induction l generalizing st k with
  | nil => cases hk
  | cons n l ih =>
    obtain ⟨hn, hl⟩ := List.nodup_cons.1 hl
    cases k with
    | zero =>
      rw [satmLanes_cons]
      simp [Tab.get, satmLanes]
    | succ k =>
      have hk : k < l.length := by simpa using hk
      have hne : n ≠ l[k] := fun h => hn (h ▸ List.getElem_mem hk)
      simp only [satmLanes_cons, List.getElem_cons_succ, List.take_succ_cons, Tab.get, if_neg hne]
      exact ih hl _ k hk

/-- A lane stores its update of what it found. -/
theorem satmLanes_step {l : List Nat} (st : Store) (k : Nat) (hk : k < l.length) :
    (satmLanes v addr b c pz tn (l.take (k + 1)) st).1 =
      (let before := (satmLanes v addr b c pz tn (l.take k) st).1
       storePart before (addr l[k]) 4
        (satmFn v (BitVec.ofNat 32 (before.num (addr l[k]) 4)) (b.lane l[k]) (c.lane l[k])).toNat pz tn) := by
  induction l generalizing st k with
  | nil => cases hk
  | cons n l ih =>
    cases k with
    | zero => simp [satmLanes]
    | succ k => exact ih _ k (by simpa using hk)

theorem satmLanes_pz (l : List Nat) (st : Store) (g : Nat) :
    (satmLanes v addr b c pz tn l st).1.pz.contains g = (st.pz.contains g || (pz && touches addr l g)) := by
  induction l generalizing st with
  | nil => simp [satmLanes, touches]
  | cons n l ih =>
    rw [satmLanes_cons, ih]
    simp only [storePart, Store.orBits, contains_orBits, Store.write, touches, List.any_cons, Bool.and_or_distrib_left, Bool.or_assoc]

theorem satmLanes_tn (l : List Nat) (st : Store) (g : Nat) :
    (satmLanes v addr b c pz tn l st).1.tn.contains g = (st.tn.contains g || (tn && touches addr l g)) := by
  induction l generalizing st with
  | nil => simp [satmLanes, touches]
  | cons n l ih =>
    rw [satmLanes_cons, ih]
    simp only [storePart, Store.orBits, contains_orBits, Store.write, touches, List.any_cons, Bool.and_or_distrib_left, Bool.or_assoc]

end

/-- The bits of granules that are all marked. -/
theorem contains_foldl_granSet (l p : List Nat) (g : Nat) :
    (l.foldl (fun p x => granSet p x true) p).contains g = (p.contains g || l.contains g) := by
  induction l generalizing p with
  | nil => simp
  | cons x l ih =>
    have hx : (granSet p x true).contains g = (p.contains g || decide (x = g)) := contains_orBits p x g true
    rw [List.foldl_cons, ih, hx, Bool.or_assoc, List.contains_cons, beq_eq_decide, decide_eq_decide.2 (eq_comm (a := x))]

/-- The defective granules among those that were read are marked (R147). -/
theorem marked_pz (st : Store) (grans : List Nat) (g : Nat) :
    (st.marked grans).pz.contains g = (st.pz.contains g || (grans.contains g && st.bad.contains g)) := by
  have hfilter : (grans.filter fun x => st.bad.contains x).contains g = (grans.contains g && st.bad.contains g) := by
    rw [Bool.eq_iff_iff]
    simp
  rw [Store.marked, contains_foldl_granSet, hfilter]

-- The instruction -------------------------------------------------------------------------------------------------------------------

section
variable {s t : State} {e : Elem} {f f0 : Fields} {r : Reach}

/-- The designator `zero` reads 0 (R46). -/
theorem readDes_zero (s : State) (e : Elem) : readDes s e 0x0FF = Reg.zero := (readDes_special (n := 255) (by decide)).trans rfl

/-- What a destination holds depends neither on the module nor on the local store of its unit. -/
theorem readDes_of_dstOk (h : dstOk e f.d = true) (s t : State) (st : Store) : readDes t { e with store := st } f.d = readDes s e f.d := by
  obtain h | h := Bool.or_eq_true_iff.1 h
  · exact readDes_of_badReg (by rw [badReg, if_pos h]) s t st
  · rw [beq_iff_eq.1 h, readDes_zero, readDes_zero]

/-- A destination written after a store was put back is written as before. -/
theorem put_putStore {t' : State} {st : Store} (h : dstOk e f.d = true) (g : Nat → Lane) (srcs : List Reg) :
    put t (putStore t' e r st).2 f g srcs =
      writeDes (putStore t' e r st).2 f.d (mergedReg (laneActive e f) (allActive e f) s e f g srcs) := by
  rw [putStore_elem, put, readDes_of_dstOk h s t]
  rfl

theorem localAddr_lt (a : Reg) (f : Fields) (n i : Nat) : localAddr a f n i < storeSize := by
  have h : ((a.pay.lane i).toNat + f.imm.toNat % storeSize) % storeSize < storeSize := Nat.mod_lt _ (by decide)
  exact (Nat.div_mul_le_self _ _).trans_lt h

theorem granule_localAddr (a : Reg) (f : Fields) (n i : Nat) : granule (localAddr a f n i) = localAddr a f n i / 64 := by
  rw [granule, Nat.mod_eq_of_lt (localAddr_lt a f n i)]

theorem num_localAddr (st : Store) (a : Reg) (f : Fields) (n i k : Nat) :
    st.num (localAddr a f n i) k = memNat st.bytes (localAddr a f n i) k := by
  rw [Store.num, Nat.mod_eq_of_lt (localAddr_lt a f n i)]

theorem bytes_storePart (st : Store) (a : Reg) (f : Fields) (n i k x : Nat) (pz tn : Bool) :
    (storePart st (localAddr a f n i) k x pz tn).bytes = memWrite st.bytes (localAddr a f n i) (littleBytes k x) := by
  rw [storePart, Store.orBits, Store.write, Nat.mod_eq_of_lt (localAddr_lt a f n i)]

theorem touches_eq (a : Reg) (f : Fields) (n : Nat) (l : List Nat) (g : Nat) :
    touches (localAddr a f n) l g = (l.map fun i => localAddr a f n i / 64).contains g := by
  simp only [touches, granule_localAddr]
  rw [Bool.eq_iff_iff]
  simp

/-- An access at a sound address, or of no lane (R42, R148). -/
theorem needSound_ok {d : BitVec 10} {lanes : List Nat} {a : Reg} (x : Nat) (h : lanes = [] ∨ (a.pz = false ∧ e.flowP = false)) :
    needSound e d lanes a x = .ok () := by
  refine need_ok ?_ _
  obtain h | ⟨ha, hf⟩ := h
  · simp [h]
  · simp [ha, hf]

/-- An access at a poisoned address, or under FP (R148). -/
theorem needSound_poisoned {d : BitVec 10} {lanes : List Nat} {a : Reg} (x : Nat) (h : lanes ≠ []) (hp : a.pz = true ∨ e.flowP = true) :
    ∃ y, needSound e d lanes a x = .error (.trap (.poison 0 d.toNat y)) := by
  refine ⟨_, need_trap ?_ _⟩
  obtain hp | hp := hp <;> simp [h, hp]

/-- The granules that an atomic reads. -/
def satmGrans (s : State) (e : Elem) (f : Fields) : List Nat := (activeLanes e f).map fun n => localAddr (srcA s e f) f 4 n / 64

/-- PZ and TN that an atomic brings to its granules (R153). -/
def satmPz (s : State) (e : Elem) (f : Fields) : Bool := (srcB s e f).pz || (srcC s e f).pz || (e.mask f.pm.toNat).pz
def satmTn (s : State) (e : Elem) (f : Fields) : Bool :=
  decide (8 ≤ f.var.toNat) || (srcA s e f).tn || (srcB s e f).tn || (srcC s e f).tn || (e.mask f.pm.toNat).tn || e.flowT

/-- The store after the lanes of a list, and the values that they found. -/
def satmAfter (s : State) (e : Elem) (f : Fields) (r : Reach) (lanes : List Nat) : Store × List (Nat × Lane) :=
  satmLanes f.var.toNat (localAddr (srcA s e f) f 4) (srcB s e f).pay (srcC s e f).pay (satmPz s e f) (satmTn s e f) lanes
    ((reachElem s e r).store.marked (satmGrans s e f))

/-- What an atomic leaves in its destination: the values that the active lanes found (R153). -/
def satmReg (s : State) (e : Elem) (f : Fields) (r : Reach) : Reg :=
  mergedReg (laneActive e f) (allActive e f) s e f (fun n => Tab.get 0 (satmAfter s e f r (activeLanes e f)).2 n)
    [srcA s e f, srcB s e f, srcC s e f, { pay := 0, pz := ((reachElem s e r).store.bits (satmGrans s e f)).1, tn := true }]

section
variable (hf : f = { f0 with ln := 0 }) (hre : reachOf s e f = some r) (hl : Legal e f usesABC (badDst e f)) (hv : f.var.toNat ≤ 9)
include hf hre hl hv

/-- An atomic whose checks pass goes on to the check of its address (R148). -/
theorem bodySatm_eq : bodySatm s f0 e = (do
    needSound e f.d (activeLanes e f) (srcA s e f) (localAddr (srcA s e f) f 4 ((activeLanes e f).headD 0))
    let whose := reachElem s e r
    let after := putStore (badEvents s whose whose.store (satmGrans s e f)) e r (satmAfter s e f r (activeLanes e f)).1
    done after.1 (writeDes after.2 f.d (satmReg s e f r))) := by
  have hgrans : (activeLanes e f).map (fun n => granule (localAddr (srcA s e f) f 4 n)) = satmGrans s e f := by
    simp only [granule_localAddr, satmGrans]
  subst hf
  have hdst : dstOk e f0.d = true := dstOk_of_badDst hl.2.2.1
  have hcheck : checkRaw e { f0 with ln := 0 } usesABC (decide (f0.var.toNat ≤ 9)) none = .ok () :=
    checkRaw_ok (by rwa [hl.2.2.1] at hl) (decide_eq_true hv)
  rw [bodySatm]
  dsimp only
  rw [badReach_some hre, if_pos hdst, hcheck, needReach_some hre, hgrans]
  simp only [res_bind_ok, put_putStore (s := s) (f := { f0 with ln := 0 }) hdst]
  rfl

theorem bodySatm_sound (hok : activeLanes e f = [] ∨ ((srcA s e f).pz = false ∧ e.flowP = false)) : bodySatm s f0 e =
    (let whose := reachElem s e r
     let after := putStore (badEvents s whose whose.store (satmGrans s e f)) e r (satmAfter s e f r (activeLanes e f)).1
     done after.1 (writeDes after.2 f.d (satmReg s e f r))) := by
  rw [bodySatm_eq hf hre hl hv, needSound_ok _ hok]
  rfl

theorem bodySatm_poisoned (hne : activeLanes e f ≠ []) (hp : (srcA s e f).pz = true ∨ e.flowP = true) :
    ∃ x, bodySatm s f0 e = .error (.trap (.poison 0 f.d.toNat x)) := by
  obtain ⟨x, hx⟩ := needSound_poisoned (d := f.d) (localAddr (srcA s e f) f 4 ((activeLanes e f).headD 0)) hne hp
  exact ⟨x, by rw [bodySatm_eq hf hre hl hv, hx]; rfl⟩

end

/-- The units that reach a scratchpad execute `satm` (R63, R151). -/
theorem mem_classesOf_satm (h : reachOf s e f = some r) :
    (classesOf 0x76).contains e.cls = true := by
  unfold reachOf at h
  split at h
  · next hc => rw [hc]; decide
  · next hc => rw [hc]; decide
  · cases h

-- What an atomic leaves (R147, R153) --------------------------------------------------------------------------------------------------

/-- The store that a lane finds. -/
def satmBefore (s : State) (e : Elem) (f : Fields) (r : Reach) (k : Nat) : Store := (satmAfter s e f r ((activeLanes e f).take k)).1

theorem satmBefore_length : satmBefore s e f r (activeLanes e f).length = (satmAfter s e f r (activeLanes e f)).1 := by
  rw [satmBefore, List.take_length]

theorem nodup_activeLanes : (activeLanes e f).Nodup := List.nodup_range.filter _

section
variable {k : Nat} (hk : k < (activeLanes e f).length)
include hk

/-- A lane leaves in the destination the 4 bytes that it found. -/
theorem satmAfter_old : Tab.get 0 (satmAfter s e f r (activeLanes e f)).2 (activeLanes e f)[k] =
    BitVec.ofNat 32 (memNat (satmBefore s e f r k).bytes (localAddr (srcA s e f) f 4 (activeLanes e f)[k]) 4) := by
  rw [satmAfter, satmLanes_old nodup_activeLanes _ k hk, num_localAddr]
  rfl

/-- A lane stores its update of the 4 bytes that it found. -/
theorem satmBefore_succ : (satmBefore s e f r (k + 1)).bytes =
    (let n := (activeLanes e f)[k]
     memWrite (satmBefore s e f r k).bytes (localAddr (srcA s e f) f 4 n) (littleBytes 4 (satmFn f.var.toNat
      (Tab.get 0 (satmAfter s e f r (activeLanes e f)).2 n) ((srcB s e f).pay.lane n) ((srcC s e f).pay.lane n)).toNat)) := by
  dsimp only
  rw [satmAfter_old hk, satmBefore, satmAfter, satmLanes_step _ k hk]
  dsimp only
  rw [bytes_storePart, num_localAddr]
  rfl

end

/-- The granules of the lanes receive PZ, and so do the defective ones among them. -/
theorem satmAfter_pz (g : Nat) : (satmAfter s e f r (activeLanes e f)).1.pz.contains g =
    ((reachElem s e r).store.pz.contains g
      || ((satmGrans s e f).contains g && ((reachElem s e r).store.bad.contains g || satmPz s e f))) := by
  rw [satmAfter, satmLanes_pz, touches_eq, marked_pz, ← satmGrans, Bool.and_or_distrib_left, Bool.or_assoc, Bool.and_comm (satmPz s e f)]

theorem satmAfter_tn (g : Nat) : (satmAfter s e f r (activeLanes e f)).1.tn.contains g =
    ((reachElem s e r).store.tn.contains g || ((satmGrans s e f).contains g && satmTn s e f)) := by
  rw [satmAfter, satmLanes_tn, touches_eq, ← satmGrans, Bool.and_comm (satmTn s e f)]
  rfl

/-- Settles O15: the lanes of an atomic one after another, each on the store that the lanes before it left. -/
theorem localAtomics : Obligations.LocalAtomics := by
  unfold Obligations.LocalAtomics
  intro s e f0 r hr f a b c v addr lanes whose own grans new m pz tn read hre hl hv
  have hc := mem_classesOf_satm hre
  refine ⟨fun hok => ?sound, fun hp hne => ?poisoned⟩
  case sound =>
    have hbody := bodySatm_sound (f0 := f0) rfl hre hl hv hok
    refine ⟨(satmAfter s e f r lanes).1, fun n => Tab.get 0 (satmAfter s e f r lanes).2 n, satmReg s e f r,
      fun k => (satmBefore s e f r k).bytes, completes_of_body rfl hr hc hbody, rfl, ?last, fun k hk => ⟨satmAfter_old hk, ?step⟩,
      fun n hn => mergedReg_lane hn, ?tainted, rfl, fun _ _ g => ⟨satmAfter_pz g, satmAfter_tn g⟩⟩
    case last => exact congrArg Store.bytes satmBefore_length
    case step =>
      exact (satmBefore_succ hk).trans (congrArg
        (fun x : Lane => memWrite (satmBefore s e f r k).bytes (addr lanes[k]) (littleBytes 4 x.toNat)) (satmFn_eq hv _ _ _))
    case tainted => simp [satmReg, mergedReg, destTn]
  case poisoned =>
    obtain ⟨x, hx⟩ := bodySatm_poisoned (f0 := f0) rfl hre hl hv hne hp
    exact ⟨x, traps_of_body rfl hr hc hx⟩

end
end Sys2Proof.Machine
end

section
/-! PROOFS. What the instructions of agents share: the classes that may execute them, and the first check that fails (R44, R63). -/
namespace Sys2Proof.Machine
open Sys2Proof.Claim

section
variable {op : BitVec 8} {e : Elem} {f : Fields} {u : Uses}

theorem mem_classesOf_ag (hc : e.cls = .ag) (h : (classesOf op).contains .ag = true) : (classesOf op).contains e.cls = true := by
  rwa [hc]

theorem mem_classesOf_agent (hc : Agent e) (h : (classesOf op).contains .ag = true ∧ (classesOf op).contains .fc = true) :
    (classesOf op).contains e.cls = true := by
  obtain hc | hc := hc
  · rw [hc, h.1]
  · rw [hc, h.2]

theorem not_core_of_ag (hc : e.cls = .ag) : e.cls ≠ .fc := by rw [hc]; decide

theorem checkRaw_unsound {ok : Bool} {bad : Option (BitVec 10)} (h : ok = false) : checkRaw e f u ok bad = .error (.trap .instr) := by
  rw [checkRaw, h]
  rfl

theorem awaitCount_hold {ok : Bool} (h : ok = false) : awaitCount ok = .error (.hold .count) := by rw [h]; rfl

theorem awaitCount_ok {ok : Bool} (h : ok = true) : awaitCount ok = .ok () := by rw [h]; rfl

theorem awaitFree_hold {ok : Bool} (h : ok = false) : awaitFree ok = .error (.hold .free) := by rw [h]; rfl

theorem awaitFree_ok {ok : Bool} (h : ok = true) : awaitFree ok = .ok () := by rw [h]; rfl

end
end Sys2Proof.Machine
end

section
/-! PROOFS. O22: the queues of ports and the message queues (R182 to R184). -/
namespace Sys2Proof.Machine
open Sys2Proof.Claim

section
variable {s : State} {e : Elem} {f : Fields}

-- qpsh (R182, R184) -------------------------------------------------------------------------------------------------------------

/-- The word that `qpsh` appends: the register's, with the flow bits (R87, R182). -/
def pushedWord (s : State) (e : Elem) (f : Fields) : CWord :=
  { pay := (readDes s e f.a).pay, lr := false, ls := false, pz := (readDes s e f.a).pz || e.flowP, tn := (readDes s e f.a).tn || e.flowT }

section
variable (hv : f.var = 0) (hl : Legal e f onlyA none)
include hv hl

theorem bodyQpsh_ag (hc : e.cls = .ag) : bodyQpsh s f e =
    (let p := e.port (imSp f)
     awaitCount (decide (p.sq.length < 32)) >>= fun _ => done s (e.setPort (imSp f) { p with sq := p.sq ++ [pushedWord s e f] })) := by
  rw [bodyQpsh, checkRaw_ok hl (beq_iff_eq.2 hv), res_bind_ok]
  exact if_neg (not_core_of_ag hc)

theorem bodyQpsh_fc (hc : e.cls = .fc) : bodyQpsh s f e = (awaitCount (decide ((s.mq (mqNo f)).length < 64)) >>= fun _ =>
    done { s with mqs := Tab.set s.mqs (mqNo f) (s.mq (mqNo f) ++ [readDes s e f.a]) } e) := by
  rw [bodyQpsh, checkRaw_ok hl (beq_iff_eq.2 hv), res_bind_ok]
  exact if_pos hc

end

-- qpop (R173, R182, R184) ----------------------------------------------------------------------------------------------------------

/-- The word at the head of a load queue as an operand. -/
def entryReg (x : LqEntry) : Reg := { pay := x.word.pay, pz := x.word.pz, tn := x.word.tn }

/-- What `qpop` leaves in its destination. -/
def poppedReg (s : State) (e : Elem) (f : Fields) (r : Reg) : Reg :=
  mergedReg (laneActive e { f with ln := 0 }) (allActive e { f with ln := 0 }) s e { f with ln := 0 } r.pay.lane [r]

section
variable (hv : f.var = 0) (hl : Legal e { f with ln := 0 } onlyD (badReg e f))
include hv hl

theorem bodyQpop_checked : checkRaw e { f with ln := 0 } onlyD (f.var == 0) (badReg e { f with ln := 0 }) = .ok () :=
  checkRaw_ok hl (beq_iff_eq.2 hv)

theorem bodyQpop_ag (hc : e.cls = .ag) : bodyQpop s f e = (match (e.port (imSp f)).lq with
    | [] => holdCount
    | x :: rest => match x.old with
      | some (st, ctr) => trap (.tooOld st (imSp f) (some ctr))
      | none => done s ((writeDes e f.d (poppedReg s e f (entryReg x))).setPort (imSp f) { e.port (imSp f) with lq := rest })) := by
  rw [bodyQpop]
  dsimp only
  rw [bodyQpop_checked hv hl, res_bind_ok]
  exact if_neg (not_core_of_ag hc)

theorem bodyQpop_fc (hc : e.cls = .fc) : bodyQpop s f e = (match s.mq (mqNo f) with
    | [] => holdCount
    | r :: rest => done { s with mqs := Tab.set s.mqs (mqNo f) rest } (writeDes e f.d (poppedReg s e f r))) := by
  rw [bodyQpop]
  dsimp only
  rw [bodyQpop_checked hv hl, res_bind_ok]
  exact if_pos hc

end

-- qwt (R182 to R184) ----------------------------------------------------------------------------------------------------------------

/-- The count that `qwt` of an AG waits for (R183). -/
def waitCount (f : Fields) : Nat := if imOfs f = 0 then 1 else imOfs f

theorem bodyQwt_ag (hc : e.cls = .ag) : bodyQwt s f e =
    (let v := f.var.toNat
     let n := waitCount f
     let p := e.port (imSp f)
     do need (decide (v ≤ 2) && (v == 2 || decide (n ≤ 32))) .instr
        awaitCount (if v = 0 then decide (n ≤ p.lq.length) else if v = 1 then decide (p.sq.length + n ≤ 32) else p.sq == [])
        awaitFree (v != 2 || p.outst == 0)
        done s e) := by
  rw [bodyQwt]
  exact if_neg (not_core_of_ag hc)

theorem bodyQwt_fc (hc : e.cls = .fc) : bodyQwt s f e =
    (let v := f.var.toNat
     let n := mqCount f
     let q := (s.mq (mqNo f)).length
     do need (decide (v ≤ 1 ∧ n ≤ 64)) .instr
        awaitCount (if v = 0 then decide (n ≤ q) else decide (q + n ≤ 64))
        done s e) := by
  rw [bodyQwt]
  exact if_pos hc

/-- A wait for a count completes, or holds issue (R182). -/
theorem waits_of_body {i : Instr} {op : BitVec 8} {body : Body} {c : Prop} [Decidable c] (hx : exec i s = issue op body f s) (hr : Runs s e)
    (hc : (classesOf op).contains e.cls = true) (hb : body s f e = (awaitCount (decide c) >>= fun _ => done s e)) :
    if c then Completes i s e s e else Holds i s e .count := by
  split
  · next h => exact completes_of_body hx hr hc (by rw [hb, awaitCount_ok (decide_eq_true h)]; rfl)
  · next h => exact holds_of_body hx hr hc (by rw [hb, awaitCount_hold (decide_eq_false h)]; rfl)

end

/-- Settles O22: each instruction by the queue of its class, and by the count of its words. -/
theorem queues : Obligations.Queues := by
  unfold Obligations.Queues
  intro s e f hr k p m r g cnt mcnt
  have ag {op : BitVec 8} (hc : e.cls = .ag) (h : (classesOf op).contains .ag = true) := mem_classesOf_ag hc h
  have fc {op : BitVec 8} (hc : e.cls = .fc) (h : (classesOf op).contains .fc = true) : (classesOf op).contains e.cls = true := by rwa [hc]
  refine ⟨fun hc hv hl hn => ?pushAg, fun hc hv hl hn => ?fullAg, fun hc hv hl hn => ?pushFc, fun hc hv hl hn => ?fullFc,
    fun x l hc hv hl hq ho => ?popAg, fun x l st c hc hv hl hq ho => ?oldAg, fun hc hv hl hq => ?emptyAg, fun x l hc hv hl hq => ?popFc,
    fun hc hv hl hq => ?emptyFc, fun hc hv => ?variant, fun hc hv hn => ?loads, fun hc hv hn => ?stores, fun hc hv hq => ?answered,
    fun hc hv hq => ?pending, fun hc hv => ?waitAg, fun hc hv hn => ?words, fun hc hv hn => ?places, fun hc hv => ?waitFc⟩
  case pushAg =>
    refine ⟨pushedWord s e f, completes_of_body rfl hr (ag hc (by decide)) ?_, rfl, rfl, rfl⟩
    rw [bodyQpsh_ag hv hl hc]
    exact congrArg (· >>= fun _ => done s _) (awaitCount_ok (decide_eq_true hn))
  case fullAg =>
    refine holds_of_body rfl hr (ag hc (by decide)) ?_
    rw [bodyQpsh_ag hv hl hc]
    exact congrArg (· >>= fun _ => done s _) (awaitCount_hold (decide_eq_false (Nat.not_lt.2 hn)))
  case pushFc =>
    refine completes_of_body rfl hr (fc hc (by decide)) ?_
    rw [bodyQpsh_fc hv hl hc]
    exact congrArg (· >>= fun _ => done _ e) (awaitCount_ok (decide_eq_true hn))
  case fullFc =>
    refine holds_of_body rfl hr (fc hc (by decide)) ?_
    rw [bodyQpsh_fc hv hl hc]
    exact congrArg (· >>= fun _ => done _ e) (awaitCount_hold (decide_eq_false (Nat.not_lt.2 hn)))
  case popAg =>
    have hq : (e.port (imSp f)).lq = x :: l := hq
    exact ⟨poppedReg s e f (entryReg x), completes_of_body rfl hr (ag hc (by decide)) (by rw [bodyQpop_ag hv hl hc, hq]; simp only [ho]; rfl),
      fun n hn => mergedReg_lane hn, rfl, rfl⟩
  case oldAg =>
    have hq : (e.port (imSp f)).lq = x :: l := hq
    exact traps_of_body rfl hr (ag hc (by decide)) (by rw [bodyQpop_ag hv hl hc, hq]; simp only [ho]; rfl)
  case emptyAg =>
    have hq : (e.port (imSp f)).lq = [] := hq
    exact holds_of_body rfl hr (ag hc (by decide)) (by rw [bodyQpop_ag hv hl hc, hq]; rfl)
  case popFc =>
    have hq : s.mq (mqNo f) = x :: l := hq
    exact ⟨poppedReg s e f x, completes_of_body rfl hr (fc hc (by decide)) (by rw [bodyQpop_fc hv hl hc, hq]; rfl),
      fun n hn => mergedReg_lane hn⟩
  case emptyFc =>
    have hq : s.mq (mqNo f) = [] := hq
    exact holds_of_body rfl hr (fc hc (by decide)) (by rw [bodyQpop_fc hv hl hc, hq]; rfl)
  case variant =>
    have hu := beq_false_of_ne hv
    exact ⟨traps_of_body rfl hr (mem_classesOf_agent hc (by decide)) (by rw [bodyQpsh, checkRaw_unsound hu]; rfl),
      traps_of_body rfl hr (mem_classesOf_agent hc (by decide)) (by rw [bodyQpop]; dsimp only; rw [checkRaw_unsound hu]; rfl)⟩
  case loads =>
    have hn : waitCount f ≤ 32 := hn
    exact waits_of_body rfl hr (ag hc (by decide)) (by simp [bodyQwt_ag hc, hv, hn]; rfl)
  case stores =>
    have hn : waitCount f ≤ 32 := hn
    exact waits_of_body rfl hr (ag hc (by decide)) (by simp [bodyQwt_ag hc, hv, hn]; rfl)
  case answered =>
    have hq : (e.port (imSp f)).sq = [] := hq
    have hb : bodyQwt s f e = (awaitFree (decide (p.outst = 0)) >>= fun _ => done s e) := by simp [bodyQwt_ag hc, hv, hq]; rfl
    split
    · next h => exact completes_of_body rfl hr (ag hc (by decide)) (by rw [hb, awaitFree_ok (decide_eq_true h)]; rfl)
    · next h => exact holds_of_body rfl hr (ag hc (by decide)) (by rw [hb, awaitFree_hold (decide_eq_false h)]; rfl)
  case pending =>
    have hq : (e.port (imSp f)).sq ≠ [] := hq
    exact holds_of_body rfl hr (ag hc (by decide)) (by simp [bodyQwt_ag hc, hv, List.isEmpty_eq_false_iff.2 hq])
  case waitAg =>
    refine traps_of_body rfl hr (ag hc (by decide)) ?_
    have : (decide (f.var.toNat ≤ 2) && (f.var.toNat == 2 || decide (waitCount f ≤ 32))) = false := by
      obtain hv | ⟨hv, hn⟩ := hv
      · simp [Nat.not_le.2 hv]
      · have hn : 32 < waitCount f := hn
        simp [Nat.not_le.2 hn]
        omega
    simp [bodyQwt_ag hc, this]
  case words =>
    have hn : mqCount f ≤ 64 := hn
    exact waits_of_body rfl hr (fc hc (by decide)) (by simp [bodyQwt_fc hc, hv, hn]; rfl)
  case places =>
    have hn : mqCount f ≤ 64 := hn
    exact waits_of_body rfl hr (fc hc (by decide)) (by simp [bodyQwt_fc hc, hv, hn]; rfl)
  case waitFc =>
    refine traps_of_body rfl hr (fc hc (by decide)) ?_
    have : decide (f.var.toNat ≤ 1 ∧ mqCount f ≤ 64) = false := by
      obtain hv | hn := hv
      · simp [Nat.not_le.2 hv]
      · have hn : 64 < mqCount f := hn
        simp [Nat.not_le.2 hn]
    simp only [bodyQwt_fc hc, this]
    rfl

end Sys2Proof.Machine
end

section
/-! PROOFS. O16: the loop nest, its coordinates, and ports bound to handles (R154, R155, R157, R158, R162 to R166, R352). -/
namespace Sys2Proof.Machine
open Sys2Proof.Claim

section
variable {s : State} {e : Elem} {f : Fields}

-- Checks that ask for nothing ---------------------------------------------------------------------------------------------------

theorem checkRaw_noUses {ok : Bool} (h : ok = true) : checkRaw e f noUses ok none = .ok () :=
  checkRaw_ok ⟨rfl, rfl, rfl, rfl⟩ h

-- The nest (R157, R158, R162, R163) ------------------------------------------------------------------------------------------------

theorem bodyNest_count (hv : f.var.toNat ≤ 5) (hi : f.imm ≠ 0) : bodyNest s f e =
    done s (e.setNest ({ e.ag.nest with cnt := e.ag.nest.cnt.set f.var.toNat f.imm.toNat }.rewound.taint e Reg.zero)) := by
  have h6 : f.var.toNat ≠ 6 := by omega
  rw [bodyNest]
  dsimp only
  have hok : (decide (f.var.toNat ≤ 7) && !(decide (f.var.toNat ≤ 5) && f.imm == 0)) = true := by
    rw [beq_false_of_ne hi, decide_eq_true (show f.var.toNat ≤ 7 by omega), Bool.and_false]
    rfl
  rw [if_neg h6, checkRaw_noUses hok, res_bind_ok]
  exact if_pos hv

theorem bodyNest_base (hv : f.var.toNat = 6) (hl : Legal e f onlyA none) : bodyNest s f e =
    done s (e.setNest ({ e.ag.nest with base := laneCoords (readDes s e f.a).pay }.rewound.taint e (readDes s e f.a))) := by
  rw [bodyNest]
  dsimp only
  rw [if_pos hv, checkRaw_ok hl (by simp [hv]), res_bind_ok, if_neg (by omega), if_pos hv]

theorem bodyNest_initial (hv : f.var.toNat = 7) : bodyNest s f e = done s (e.setNest Nest.initial) := by
  rw [bodyNest]
  dsimp only
  rw [if_neg (by omega), checkRaw_noUses (by simp [hv]), res_bind_ok, if_neg (by omega), if_neg (by omega)]

theorem bodyNest_unsound (h : 7 < f.var.toNat ∨ (f.var.toNat ≤ 5 ∧ f.imm = 0)) : bodyNest s f e = .error (.trap .instr) := by
  have hu : (decide (f.var.toNat ≤ 7) && !(decide (f.var.toNat ≤ 5) && f.imm == 0)) = false := by
    obtain h | ⟨h, hi⟩ := h
    · simp [Nat.not_le.2 h]
    · simp [h, hi]
  rw [bodyNest]
  dsimp only
  rw [checkRaw_unsound hu]
  rfl

theorem bodyNstr_eq (hv : f.var.toNat ≤ 5) (hl : Legal e f onlyA none) : bodyNstr s f e =
    done s (e.setNest ({ e.ag.nest with str := e.ag.nest.str.set f.var.toNat (laneCoords (readDes s e f.a).pay) }.rewound.taint e
      (readDes s e f.a))) := by
  rw [bodyNstr]
  dsimp only
  rw [checkRaw_ok hl (decide_eq_true hv), res_bind_ok]

/-- A coordinate of the nest as the sum of its base and of what each level has moved it by (R158). -/
theorem nest_coord_eq (n : Nest) (k : Nat) : n.coord k =
    n.base.getD k 0 + ((List.range 6).map (fun l => (n.ctr.getD l 0 : Int) * (n.str.getD l []).getD k 0)).sum := by
  rw [Nest.coord, List.sum_eq_foldl, List.foldl_map]

-- gen (R164) -----------------------------------------------------------------------------------------------------------------------

/-- The lanes that `gen` leaves: coordinates, and the levels that wrapped where it advances the nest. -/
def genLane (f : Fields) (n : Nest) (i : Nat) : Lane :=
  if i ≤ 5 then BitVec.ofInt 32 (n.coord i) else if i = 6 then BitVec.ofNat 32 (if f.var = 0 then n.advance.2 else 0) else 0

theorem genLane_eq (f : Fields) (n : Nest) (i : Nat) : genLane f n i = if i ≤ 5 then BitVec.ofInt 32 (n.coord i)
    else if i = 6 ∧ f.var.toNat = 0 then BitVec.ofNat 32 (advanceFrom n.cnt n.ctr 0).2 else 0 := by
  rw [genLane, if_congr var_eq_zero_iff rfl rfl]
  by_cases hv : f.var.toNat = 0
  · simp only [hv, if_true, Nest.advance, and_true]
  · rw [if_neg hv, if_neg (fun h : i = 6 ∧ f.var.toNat = 0 => hv h.2)]
    exact congrArg (fun x : Lane => if i ≤ 5 then _ else x) (ite_self 0)

/-- What `gen` leaves in its destination. -/
def genReg (s : State) (e : Elem) (f : Fields) : Reg :=
  mergedReg (laneActive e { f with ln := 0 }) (allActive e { f with ln := 0 }) s e { f with ln := 0 } (genLane f e.ag.nest) [e.ag.nest.bits]

theorem bodyGen_eq (hv : f.var.toNat ≤ 1) (hl : Legal e { f with ln := 0 } onlyD (badReg e f)) : bodyGen s f e =
    done s (if f.var = 0 then (writeDes e f.d (genReg s e f)).setNest e.ag.nest.advance.1 else writeDes e f.d (genReg s e f)) := by
  have hcheck : checkRaw e { f with ln := 0 } onlyD (decide (f.var.toNat ≤ 1)) (badReg e { f with ln := 0 }) = .ok () :=
    checkRaw_ok hl (decide_eq_true hv)
  rw [bodyGen]
  dsimp only
  rw [hcheck, res_bind_ok]
  rfl

theorem writeDes_ag (e : Elem) (d : BitVec 10) (v : Reg) : (writeDes e d v).ag = e.ag := by
  unfold writeDes
  split <;> rfl

theorem loopNest : Claim.LoopNest := by
  intro s e f hr hc n v r tainted sets co
  have cls {op : BitVec 8} (h : (classesOf op).contains .ag = true) := mem_classesOf_ag hc h
  refine ⟨fun hv hi => ?count, fun hv hl => ?base, fun hv => ?initial, fun hv => ?unsound, fun hv => ?nstr, fun hv => ?gen,
    fun hv hl => ?stride, fun hv hl => ⟨genReg s e f, ?coords, fun k hk => ?lane, rfl, rfl⟩⟩
  case count => exact completes_of_body rfl hr (cls (by decide)) (bodyNest_count hv hi)
  case base => exact completes_of_body rfl hr (cls (by decide)) (bodyNest_base hv hl)
  case initial => exact completes_of_body rfl hr (cls (by decide)) (bodyNest_initial hv)
  case unsound => exact traps_of_body rfl hr (cls (by decide)) (bodyNest_unsound hv)
  case nstr =>
    refine traps_of_body rfl hr (cls (by decide)) ?_
    rw [bodyNstr, checkRaw_unsound (decide_eq_false (Nat.not_le.2 hv))]
    rfl
  case gen =>
    refine traps_of_body rfl hr (cls (by decide)) ?_
    rw [bodyGen]
    dsimp only
    rw [checkRaw_unsound (decide_eq_false (Nat.not_le.2 hv))]
    rfl
  case stride => exact completes_of_body rfl hr (cls (by decide)) (bodyNstr_eq hv hl)
  case coords =>
    refine completes_of_body rfl hr (cls (by decide)) ((bodyGen_eq hv hl).trans ?_)
    simp only [Elem.setNest, writeDes_ag, var_eq_zero_iff]
    rfl
  case lane =>
    refine (mergedReg_lane hk).trans ?_
    rw [genLane_eq, nest_coord_eq]

-- Ports (R154, R155, R165, R166) -----------------------------------------------------------------------------------------------------

section
variable {hdl tsz : Nat} {b : Bool}

theorem bindReg_toNat (hh : hdl < 2 ^ 32) (ht : tsz < 4) : (bindReg hdl tsz b).toNat = tsz * 2 ^ 33 + bit b * 2 ^ 32 + hdl := by
  have hb : bit b ≤ 1 := by cases b <;> decide
  simp only [bindReg, fieldsNat, List.foldl_cons, List.foldl_nil, BitVec.toNat_ofNat]
  omega

/-- The fields of a port that is bound by a register (R155). -/
theorem port_of_bindReg {q : Port} (hq : q.bind = bindReg hdl tsz b) (hh : hdl < 2 ^ 32) (ht : tsz < 4) :
    q.hdl = hdl ∧ q.bnd = b ∧ q.tsz = tsz := by
  simp only [Port.hdl, Port.bnd, Port.tsz, BitVec.getLsbD, hq, bindReg_toNat hh ht, bitsAt, Nat.testBit_eq_decide_div_mod_eq]
  cases b <;> simp only [bit, if_true, Bool.false_eq_true, if_false] <;> refine ⟨by omega, ?_, by omega⟩ <;> simp <;> omega

end

theorem hdl_lt (p : Port) : p.hdl < 2 ^ 32 := Nat.mod_lt _ (by decide)

theorem tsz_lt (p : Port) : p.tsz < 4 := Nat.mod_lt _ (by decide)

/-- A port with a binding register, a handle entry and a shape record. -/
def Port.binding (p : Port) (r : BitVec 64) (h : BitVec 256) (x : BitVec 1536) : Port :=
  { p with bind := r, hent := h, srec := x, stale := false, tile := none }

theorem binding_frame (p : Port) (r : BitVec 64) (h : BitVec 256) (x : BitVec 1536) :
    (p.binding r h x).bind = r ∧ (p.binding r h x).hent = h ∧ (p.binding r h x).srec = x ∧ (p.binding r h x).tile = none
      ∧ (p.binding r h x).stale = false ∧ (p.binding r h x).lq = p.lq ∧ (p.binding r h x).sq = p.sq ∧ (p.binding r h x).reqs = p.reqs
      ∧ (p.binding r h x).outst = p.outst :=
  ⟨rfl, rfl, rfl, rfl, rfl, rfl, rfl, rfl, rfl⟩

/-- A port bound to a handle, with the records that the binding reads (R165). -/
def boundPort (s : State) (ctx : Nat) (p : Port) (hdl : Nat) : Port :=
  p.binding (bindReg hdl p.tsz true) (heAt s ctx (hdlSlot hdl)) (srAt s (heSrec (heAt s ctx (hdlSlot hdl))))

section
variable (hv : f.var = 0) (hl : Legal e f onlyA none)
include hv hl

theorem bodyHbind_checked : bodyHbind s f e = (do
    awaitFree ((e.port (imSp f)).outst == 0)
    need (!(readDes s e f.a).pz) (.poison 0 f.d.toNat 0)
    need (handleOk s (s.region e.rgn).ctx ((readDes s e f.a).pay.lane 0).toNat) (.handle (imSp f) ((readDes s e f.a).pay.lane 0).toNat 0)
    let e' := e.setPort (imSp f) (boundPort s (s.region e.rgn).ctx (e.port (imSp f)) ((readDes s e f.a).pay.lane 0).toNat)
    done s (e'.setNest (e'.ag.nest.taint e' { readDes s e f.a with pz := false }))) := by
  rw [bodyHbind, checkRaw_ok hl (beq_iff_eq.2 hv), res_bind_ok]
  rfl

end

theorem bodyPgsz_checked (hv : f.var = 0) (hz : imP2 f ≠ 3) : bodyPgsz s f e = (do
    awaitFree ((e.port (imSp f)).outst == 0)
    done s (e.setPort (imSp f) { e.port (imSp f) with bind := bindReg (e.port (imSp f)).hdl (imP2 f) (e.port (imSp f)).bnd })) := by
  rw [bodyPgsz, need_ok (by simp [hv, hz]), res_bind_ok]

theorem bodyPgsz_unsound (h : f.var ≠ 0 ∨ imP2 f = 3) : bodyPgsz s f e = .error (.trap .instr) := by
  have hu : (f.var == 0 && imP2 f != 3) = false := by
    obtain h | h := h
    · rw [beq_false_of_ne h, Bool.false_and]
    · simp [h]
  rw [bodyPgsz, need_trap hu]
  rfl

theorem portBinding : Claim.PortBinding := by
  intro s e f hr hc p r hdl ctx h
  have cls {op : BitVec 8} (h : (classesOf op).contains .ag = true) := mem_classesOf_ag hc h
  refine ⟨fun hv hl ho hp hh => ?bind, fun hv hl ho hp hh => ?handle, fun hv hl ho hp => ?poison, fun hv hl ho => ?hold,
    fun hv hz ho => ?holdSize, fun hz => ?size, fun hv => ⟨?variant, ?variantSize⟩, fun hv hz ho => ?sized⟩
  case bind =>
    obtain ⟨hbind, hhent, hsrec, htile, hstale, hlq, hsq, hreqs, houtst⟩ :=
      binding_frame p (bindReg hdl p.tsz true) (heAt s ctx (hdlSlot hdl)) (srAt s (heSrec (heAt s ctx (hdlSlot hdl))))
    obtain ⟨hhdl, hbnd, htsz⟩ := port_of_bindReg hbind (r.pay.lane 0).isLt (tsz_lt p)
    refine ⟨boundPort s ctx p hdl, hhdl, hbnd, htsz, hhent, hsrec, htile, hstale, hlq, hsq, hreqs, houtst.trans ho,
      completes_of_body rfl hr (cls (by decide)) ?_⟩
    rw [bodyHbind_checked hv hl, awaitFree_ok (beq_iff_eq.2 (show (e.port (imSp f)).outst = 0 from ho)), need_ok (congrArg (!·) hp),
      need_ok hh]
    simp only [res_bind_ok, Nest.taint, Bool.or_false]
    rfl
  case handle =>
    refine traps_of_body rfl hr (cls (by decide)) ?_
    rw [bodyHbind_checked hv hl, awaitFree_ok (beq_iff_eq.2 (show (e.port (imSp f)).outst = 0 from ho)), need_ok (congrArg (!·) hp),
      need_trap hh]
    rfl
  case poison =>
    refine traps_of_body rfl hr (cls (by decide)) ?_
    rw [bodyHbind_checked hv hl, awaitFree_ok (beq_iff_eq.2 (show (e.port (imSp f)).outst = 0 from ho)), need_trap (congrArg (!·) hp)]
    rfl
  case hold =>
    refine holds_of_body rfl hr (cls (by decide)) ?_
    rw [bodyHbind_checked hv hl, awaitFree_hold (beq_false_of_ne (show (e.port (imSp f)).outst ≠ 0 from ho))]
    rfl
  case holdSize =>
    refine holds_of_body rfl hr (cls (by decide)) ?_
    rw [bodyPgsz_checked hv hz, awaitFree_hold (beq_false_of_ne (show (e.port (imSp f)).outst ≠ 0 from ho))]
    rfl
  case size => exact traps_of_body rfl hr (cls (by decide)) (bodyPgsz_unsound (.inr hz))
  case variant =>
    refine traps_of_body rfl hr (cls (by decide)) ?_
    rw [bodyHbind, checkRaw_unsound (beq_false_of_ne hv)]
    rfl
  case variantSize => exact traps_of_body rfl hr (cls (by decide)) (bodyPgsz_unsound (.inl hv))
  case sized =>
    obtain ⟨hhdl, hbnd, htsz⟩ := port_of_bindReg (q := { p with bind := bindReg p.hdl (imP2 f) p.bnd }) rfl (hdl_lt p)
      (Nat.mod_lt (f.imm.toNat / 4) (by decide : 0 < 4))
    refine ⟨{ p with bind := bindReg p.hdl (imP2 f) p.bnd }, hhdl, hbnd, htsz, rfl, rfl, rfl, rfl, rfl, rfl, rfl, ho,
      completes_of_body rfl hr (cls (by decide)) ?_⟩
    rw [bodyPgsz_checked hv hz, awaitFree_ok (beq_iff_eq.2 (show (e.port (imSp f)).outst = 0 from ho))]
    rfl

/-- Settles O16 from its two parts. -/
theorem loopNestAndPorts : Obligations.LoopNestAndPorts := ⟨loopNest, portBinding⟩

end
end Sys2Proof.Machine
end

section
/-! PROOFS. O21: phases, fences and the fence of the record cache (R172, R179 to R181, R355; log 131). -/
namespace Sys2Proof.Machine
open Sys2Proof.Claim

section
variable {s : State} {e : Elem} {f : Fields}

-- What phases and fences wait for ------------------------------------------------------------------------------------------------

theorem allAnswered_iff : allAnswered e = true ↔ ∀ p ∈ e.ag.ports.toList, p.reqs = [] := by
  simp only [allAnswered, List.all_eq_true, beq_iff_eq]

/-- Every store of the agent is accepted and every request answered (R179). -/
def quietAgent (e : Elem) : Bool := allAccepted e && e.ag.tsts == [] && allAnswered e

theorem quietAgent_iff : quietAgent e = true ↔ allAccepted e = true ∧ e.ag.tsts = [] ∧ ∀ p ∈ e.ag.ports.toList, p.reqs = [] := by
  simp only [quietAgent, Bool.and_eq_true, beq_iff_eq, allAnswered_iff, and_assoc]

/-- Every store of the agent is accepted and no engine is at work (R180). -/
def stillAgent (e : Elem) : Bool := allAccepted e && e.ag.tsts == [] && e.ag.cos.toList.all (fun c => coSt c != 1)

theorem stillAgent_iff : stillAgent e = true ↔ allAccepted e = true ∧ e.ag.tsts = [] ∧ ∀ c ∈ e.ag.cos.toList, coSt c ≠ 1 := by
  simp only [stillAgent, Bool.and_eq_true, beq_iff_eq, List.all_eq_true, bne_iff_ne, and_assoc]

/-- The lowest object that has stopped (R180). -/
def stoppedObject (e : Elem) : Option Nat := (List.range 32).find? (fun n => coStp (e.co n))

theorem stoppedObject_none (h : ¬ ∃ n < 32, coStp (e.co n) = true) : stoppedObject e = none :=
  List.find?_eq_none.2 fun n hn hs => h ⟨n, List.mem_range.1 hn, hs⟩

theorem stoppedObject_some {n : Nat} (hn : n < 32) (hs : coStp (e.co n) = true) (hlow : ∀ m < n, coStp (e.co m) = false) :
    stoppedObject e = some n := by
  refine List.find?_range_eq_some.2 ⟨hs, List.mem_range.2 hn, fun m hm => ?_⟩
  simp [hlow m hm]

-- phase (R179) -------------------------------------------------------------------------------------------------------------------------

theorem bodyPhase_eq (hv : f.var.toNat ≤ 2) : bodyPhase s f e = (do
    awaitFree (quietAgent e)
    needNoRefusal e
    done (acquire (release s e).1 (release s e).2 f.var.toNat) (release s e).2) := by
  rw [bodyPhase, need_ok (decide_eq_true hv)]
  rfl

-- fence (R180) -------------------------------------------------------------------------------------------------------------------------

theorem bodyFence_unsound (h : 3 < f.var.toNat ∨ (f.var.toNat ≤ 2 ∧ imScp f = 3)) : bodyFence s f e = .error (.trap .instr) := by
  have hu : (decide (f.var.toNat ≤ 3) && (f.var.toNat == 3 || scpOk f)) = false := by
    obtain h | ⟨hv, hs⟩ := h
    · rw [decide_eq_false (Nat.not_le.2 h), Bool.false_and]
    · rw [beq_false_of_ne (show f.var.toNat ≠ 3 by omega), scpOk, hs]
      exact Bool.and_false _
  rw [bodyFence]
  dsimp only
  rw [need_trap hu]
  rfl

section
variable (hv : f.var.toNat = 3)
include hv

theorem bodyFence_stopped {n : Nat} (h : stoppedObject e = some n) : bodyFence s f e = .error (.trap (engineTrap e n)) := by
  rw [bodyFence]
  dsimp only
  rw [need_ok (by simp [hv]), res_bind_ok, if_pos hv]
  rw [stoppedObject] at h
  rw [h]
  rfl

theorem bodyFence_engines (h : stoppedObject e = none) : bodyFence s f e = (do
    awaitFree (stillAgent e)
    needNoRefusal e
    done s e) := by
  rw [bodyFence]
  dsimp only
  rw [need_ok (by simp [hv]), res_bind_ok, if_pos hv]
  rw [stoppedObject] at h
  rw [h]
  rfl

end

theorem bodyFence_scoped (hv : f.var.toNat ≤ 2) (hs : imScp f ≠ 3) : bodyFence s f e = (do
    awaitFree (f.var.toNat != 2 || allAnswered e)
    needNoRefusal e
    let x := if f.var.toNat = 1 then (s, e) else release s e
    done (if f.var.toNat = 0 then x.1 else acquire x.1 x.2 (imScp f)) x.2) := by
  have hok : (decide (f.var.toNat ≤ 3) && (f.var.toNat == 3 || scpOk f)) = true := by
    rw [decide_eq_true (show f.var.toNat ≤ 3 by omega), scpOk, bne_iff_ne.2 hs, Bool.or_true]
    rfl
  rw [bodyFence]
  dsimp only
  rw [need_ok hok, res_bind_ok, if_neg (by omega)]

/-- Each instruction by what it waits for, by a refusal that it reports, and by what it makes visible. -/
theorem phasesAndFences_order : Claim.PhasesAndFences := by
  intro s e f hr ha v rel scp answered quiet still stopped
  have cls {op : BitVec 8} (h : (classesOf op).contains .ag = true ∧ (classesOf op).contains .fc = true) := mem_classesOf_agent ha h
  have answered_iff : allAnswered e = true ↔ answered := allAnswered_iff
  have wait (h : v = 2 → answered) : awaitFree (f.var.toNat != 2 || allAnswered e) = .ok () := by
    refine awaitFree_ok ?_
    by_cases h2 : f.var.toNat = 2
    · rw [answered_iff.2 (h h2), Bool.or_true]
    · rw [bne_iff_ne.2 h2, Bool.true_or]
  refine ⟨fun hv hq hn => ?phase, fun hv hq => ?phaseHold, fun hv => ?phaseVar, fun p st c hv hq hn => ?phaseRefused,
    fun hv hs hn => ?rel, fun hv hs hn => ?acq, fun hv hs hn hw => ?full, fun hv hs hw => ?fullHold, fun hv hn hs hw => ?eng,
    fun hv hs hw => ?engHold, fun n hn hv hs hlow => ?engStopped, fun p st c hn h => ?refused, fun h => ?unsound⟩
  case phase =>
    refine completes_of_body rfl hr (cls (by decide)) ?_
    rw [bodyPhase_eq hv, awaitFree_ok (quietAgent_iff.2 hq), needNoRefusal_none hn]
    rfl
  case phaseHold =>
    refine holds_of_body rfl hr (cls (by decide)) ?_
    rw [bodyPhase_eq hv, awaitFree_hold (Bool.eq_false_iff.2 (mt quietAgent_iff.1 hq))]
    rfl
  case phaseVar =>
    refine traps_of_body rfl hr (cls (by decide)) ?_
    rw [bodyPhase, need_trap (decide_eq_false (Nat.not_le.2 hv))]
    rfl
  case phaseRefused =>
    refine traps_of_body rfl hr (cls (by decide)) ?_
    rw [bodyPhase_eq hv, awaitFree_ok (quietAgent_iff.2 hq), needNoRefusal_some hn]
    rfl
  case rel =>
    refine completes_of_body rfl hr (cls (by decide)) ?_
    rw [bodyFence_scoped (by omega) hs, wait (by omega), needNoRefusal_none hn]
    simp only [show f.var.toNat = 0 from hv, res_bind_ok]
    rfl
  case acq =>
    refine completes_of_body rfl hr (cls (by decide)) ?_
    rw [bodyFence_scoped (by omega) hs, wait (by omega), needNoRefusal_none hn]
    simp only [show f.var.toNat = 1 from hv, res_bind_ok]
    rfl
  case full =>
    refine completes_of_body rfl hr (cls (by decide)) ?_
    rw [bodyFence_scoped (by omega) hs, wait (fun _ => hw), needNoRefusal_none hn]
    simp only [show f.var.toNat = 2 from hv, res_bind_ok]
    rfl
  case fullHold =>
    refine holds_of_body rfl hr (cls (by decide)) ?_
    rw [bodyFence_scoped (by omega) hs, Bool.eq_false_iff.2 (mt answered_iff.1 hw), show f.var.toNat = 2 from hv]
    rfl
  case eng =>
    refine completes_of_body rfl hr (cls (by decide)) ?_
    rw [bodyFence_engines hv (stoppedObject_none hs), awaitFree_ok (stillAgent_iff.2 hw), needNoRefusal_none hn]
    rfl
  case engHold =>
    refine holds_of_body rfl hr (cls (by decide)) ?_
    rw [bodyFence_engines hv (stoppedObject_none hs), awaitFree_hold (Bool.eq_false_iff.2 (mt stillAgent_iff.1 hw))]
    rfl
  case engStopped => exact traps_of_body rfl hr (cls (by decide)) (bodyFence_stopped hv (stoppedObject_some hn hs hlow))
  case refused =>
    refine traps_of_body rfl hr (cls (by decide)) ?_
    obtain ⟨hv, hs⟩ | ⟨hv, hs, hw⟩ := h
    · rw [bodyFence_scoped (by omega) hs, wait (fun h2 => hv.elim (fun h1 => by omega) And.right), needNoRefusal_some hn]
      rfl
    · rw [bodyFence_engines hv (stoppedObject_none hs), awaitFree_ok (stillAgent_iff.2 hw), needNoRefusal_some hn]
      rfl
  case unsound => exact traps_of_body rfl hr (cls (by decide)) (bodyFence_unsound h)

-- rcfnc (R181, R355) -------------------------------------------------------------------------------------------------------------------

/-- The ports of a list are those that a test names. -/
theorem discard_eq {l : List Nat} {named : Nat → Bool} (h : ∀ i, l.contains i = named i) (a : AgPart) : a.discard l =
    { a with ports := a.ports.mapIdx (fun i p => if named i then { p with stale := true } else p),
             eng := a.eng.map (fun o =>
              { o with ports := o.ports.mapIdx (fun i p => if named (o.portNo i) then { p with stale := true } else p) }) } := by
  obtain rfl : (fun i => l.contains i) = named := funext h
  rfl

theorem contains_allPorts (i : Nat) : [0, 1, 2, 3].contains i = decide (i < 4) := by
  rw [Bool.eq_iff_iff, List.contains_iff_mem, decide_eq_true_iff]
  simp only [List.mem_cons, List.not_mem_nil, or_false]
  omega

theorem bodyRcfnc_ag (hc : e.cls = .ag) (hv : f.var.toNat ≤ 1) : bodyRcfnc s f e =
    done s { e with ag := e.ag.discard (if f.var.toNat = 1 then [0, 1, 2, 3] else [imSp f]) } := by
  rw [bodyRcfnc]
  dsimp only
  rw [if_neg (not_core_of_ag hc), need_ok (decide_eq_true hv), res_bind_ok]

theorem bodyRcfnc_fc (hc : e.cls = .fc) (hv : f.var = 2) (hl : Legal e f onlyA none) : bodyRcfnc s f e =
    (let die := ((readDes s e f.a).pay.lane 0).toNat % 32
     done (s.mapElems (fun x => if x.cls = .ag ∧ x.die = die then { x with ag := x.ag.discard [0, 1, 2, 3] } else x)) e) := by
  rw [bodyRcfnc]
  dsimp only
  rw [if_pos hc, checkRaw_ok hl (by rw [hv]; rfl), res_bind_ok]

theorem recordFence : Claim.RecordFence := by
  intro s e f hr k dropped
  refine ⟨fun hc hv => ?one, fun hc hv => ?every, fun hc hv hl => ?core⟩
  case one =>
    refine completes_of_body rfl hr (mem_classesOf_ag hc (by decide)) ?_
    rw [bodyRcfnc_ag hc (by rw [hv]; decide), discard_eq (named := fun i => i == k) fun i => ?_]
    rw [hv]
    exact Bool.or_false _
  case every =>
    refine completes_of_body rfl hr (mem_classesOf_ag hc (by decide)) ?_
    rw [bodyRcfnc_ag hc (by rw [hv]; decide), hv]
    exact congrArg (fun a => done s { e with ag := a }) (discard_eq contains_allPorts e.ag)
  case core =>
    refine completes_of_body rfl hr (by rw [hc]; decide) ((bodyRcfnc_fc hc hv hl).trans ?_)
    simp only [discard_eq contains_allPorts]
    rfl

/-- Settles O21 from its two parts. -/
theorem phasesAndFences : Obligations.PhasesAndFences := ⟨phasesAndFences_order, recordFence⟩

end
end Sys2Proof.Machine
end

section
/-! PROOFS. The checks of an access through a port, in their order (R154, R159, R160, R352; log 81). -/
namespace Sys2Proof.Machine
open Sys2Proof.Claim

-- The kinds of access (R160, R174, R352) -------------------------------------------------------------------------------------------

section
variable {kd : Kind}

theorem sync_iff : kd.sync = true ↔ kd = .ldaq ∨ kd = .strl ∨ kd = .atomic := by cases kd <;> simp [Kind.sync]

theorem writes_iff (h : kd ≠ .engWrite) : kd.writes = true ↔ kd = .store ∨ kd = .tsts ∨ kd = .strl ∨ kd = .atomic := by
  cases kd <;> simp_all [Kind.writes]

theorem refused_eq (h : kd ≠ .engWrite) (spc : Nat) : kd.refused spc =
    if kd = .tsts ∨ kd = .tlda then (if spc = 1 then none else some 6)
    else if (kd = .store ∨ kd = .atomic ∨ kd = .strl) ∧ spc = 1 then some 4
    else if (kd = .ldaq ∨ kd = .strl ∨ kd = .atomic) ∧ 2 ≤ spc then some 5 else none := by
  cases kd <;> simp_all [Kind.refused]

end

theorem insideTensor_iff (r : BitVec 1536) (c : List Int) : insideTensor r c = true ↔
    ∀ j < 6, if j < srRank r then 0 ≤ c.getD j 0 ∧ c.getD j 0 < (srDim r j : Int) else c.getD j 0 = 0 := by
  simp only [insideTensor, List.all_eq_true, List.mem_range]
  refine forall₂_congr fun j _ => ?_
  split
  · exact decide_eq_true_iff
  · exact beq_iff_eq

-- The checks (R159) ------------------------------------------------------------------------------------------------------------------

/-- An access to a tile other than the port's last one, which reads the handle's entry again (R159). -/
def crosses (p : Port) (c : List Int) : Bool := (tileOf p.srec c).isNone || tileOf p.srec c != p.tile

theorem crosses_iff {p : Port} {c : List Int} : crosses p c = true ↔ tileOf p.srec c = none ∨ p.tile ≠ tileOf p.srec c := by
  rw [crosses, Bool.or_eq_true, bne_iff_ne, Option.isNone_iff_eq_none, ne_comm]

/-- The handle entry that judges an access. -/
def accessEntry (s : State) (ctx : Nat) (p : Port) (c : List Int) : BitVec 256 :=
  if crosses p c then heAt s ctx (hdlSlot p.hdl) else p.hent

/-- The tile of an access. -/
def accessTile (p : Port) (c : List Int) : Nat := (tileOf p.srec c).getD 0

/-- The checks of an access whose failure is a bounds fault (R159): a well-formed tensor, coordinates inside it, at the start of a word,
below the limit of the handle, and no write through a handle that is read-only. -/
def fitsTensor (p : Port) (h : BitVec 256) (c : List Int) (k : Kind) (f : Fmt) : Bool :=
  shapeOk p.srec && insideTensor p.srec c && (k.sync || (c.getD 0 0).toNat % (16 * f.perLane) == 0)
    && decide (accessTile p c < heLim h ∧ accessTile p c < 2 ^ 32) && !(k.writes && heRo h)

theorem fitsTensor_iff {p : Port} {h : BitVec 256} {c : List Int} {k : Kind} {f : Fmt} : fitsTensor p h c k f = true ↔
    shapeOk p.srec = true ∧ insideTensor p.srec c = true ∧ (k.sync = true ∨ (c.getD 0 0).toNat % (16 * f.perLane) = 0)
      ∧ accessTile p c < heLim h ∧ accessTile p c < 2 ^ 32 ∧ ¬ (k.writes = true ∧ heRo h = true) := by
  simp only [fitsTensor, Bool.and_eq_true, Bool.or_eq_true, beq_iff_eq, decide_eq_true_iff, Bool.not_eq_true', Bool.and_eq_false_iff,
    and_assoc, not_and_or, Bool.not_eq_true]

section
variable {s : State} {die folio link ctx pno : Nat} {p0 p : Port} {c : List Int} {k : Kind}

/-- Where the bytes of an access stand (R157). -/
def accessPlace (s : State) (die folio ctx : Nat) (p : Port) (c : List Int) (f : Fmt) : Except (Option Nat) (State × Nat) :=
  findFrame s die folio { ctx := ctx, slot := hdlSlot p.hdl, tile := accessTile p c } (hdlGen p.hdl) p.tsz (srTtab p.srec)
    (inTile p.srec c * f.bits / 8)

/-- What an access that has passed answers. -/
def accessMade (ctx : Nat) (p : Port) (h : BitVec 256) (c : List Int) (f : Fmt) (key : Nat) : Access :=
  { addr := key, valid := min (16 * f.perLane) (srDim p.srec 0 - (c.getD 0 0).toNat), fmt := f, hent := h,
    via := { ctx := ctx, slot := hdlSlot p.hdl, tile := accessTile p c } }

/-- Where the tile of an access stands, and what it is checked against there (R157, R160; log 81). -/
def accessFrame (s : State) (die folio link ctx pno : Nat) (p : Port) (h : BitVec 256) (c : List Int) (f : Fmt) :
    Except Trap (State × Port × Access) :=
  let t := accessTile p c
  match accessPlace s die folio ctx p c f with
  | .error none => .error (.bounds pno p.hdl t 0)
  | .error (some b) => .error (.transl b pno p.hdl t 0)
  | .ok (s', a) =>
    match spaceKey s' link ctx (heSpc h) (hePlk h) a with
    | none => .error (.transl 3 pno p.hdl t a)
    | some key =>
      if offSpace (heSpc h) key then .error (.bounds pno p.hdl t a)
      else .ok (s', { p with hent := h, tile := some t }, accessMade ctx p h c f key)

/-- An access that the space allows goes on to its frame (R160, R166). -/
def accessSpace (s : State) (die folio link ctx pno : Nat) (p : Port) (h : BitVec 256) (c : List Int) (k : Kind) (f : Fmt) :
    Except Trap (State × Port × Access) :=
  (k.refused (heSpc h)).elim
    (if p.tsz ≠ srTsz p.srec then .error (.transl 2 pno p.hdl (accessTile p c) 0) else accessFrame s die folio link ctx pno p h c f)
    fun b => .error (.transl b pno p.hdl (accessTile p c) 0)

theorem not_fitsTensor {h : BitVec 256} {f : Fmt} : ((((!shapeOk p.srec || !insideTensor p.srec c) = true
      ∨ (!k.sync && decide ((c.getD 0 0).toNat % (16 * f.perLane) ≠ 0)) = true)
      ∨ (heLim h ≤ accessTile p c ∨ 2 ^ 32 ≤ accessTile p c)) ∨ (k.writes && heRo h) = true) ↔ ¬ fitsTensor p h c k f = true := by
  rw [fitsTensor_iff]
  simp only [Bool.or_eq_true, Bool.and_eq_true, Bool.not_eq_true', decide_eq_true_iff, ← Nat.not_lt, ← Bool.not_eq_true]
  tauto

/-- The checks of an access in their order (R159). -/
theorem checkAccess_eq (hp : freshPort s p0 ctx = p) : checkAccess s die folio link ctx pno p0 c k =
    (let bounds : Trap := .bounds pno p.hdl (accessTile p c) 0
     let h := accessEntry s ctx p c
     if crosses p c && !handleOk s ctx p.hdl then .error (.handle pno p.hdl (accessTile p c))
     else (tensorFmt (srCode p.srec)).elim (.error bounds) fun f =>
       if fitsTensor p h c k f then accessSpace s die folio link ctx pno p h c k f else .error bounds) := by
  subst hp
  rw [checkAccess]
  dsimp only
  refine if_congr Iff.rfl rfl ?_
  cases tensorFmt (srCode (freshPort s p0 ctx).srec) with
  | none => rfl
  | some f =>
    dsimp only [Option.elim]
    rw [← ite_or, ← ite_or, ← ite_or]
    refine (if_congr not_fitsTensor rfl ?_).trans (ite_not _ _ _)
    rw [accessSpace]
    show (match k.refused (heSpc (accessEntry s ctx (freshPort s p0 ctx) c)) with | some b => _ | none => _) = _
    cases k.refused (heSpc (accessEntry s ctx (freshPort s p0 ctx) c)) <;> rfl

section
variable (hp : freshPort s p0 ctx = p)
include hp

theorem checkAccess_handle (hcr : crosses p c = true) (hh : handleOk s ctx p.hdl = false) :
    checkAccess s die folio link ctx pno p0 c k = .error (.handle pno p.hdl (accessTile p c)) := by
  rw [checkAccess_eq hp]
  exact if_pos (by rw [hcr, hh]; rfl)

variable (hh : crosses p c = true → handleOk s ctx p.hdl = true)
include hh

theorem checkAccess_judged : checkAccess s die folio link ctx pno p0 c k =
    (let bounds : Trap := .bounds pno p.hdl (accessTile p c) 0
     let h := accessEntry s ctx p c
     (tensorFmt (srCode p.srec)).elim (.error bounds) fun f =>
       if fitsTensor p h c k f then accessSpace s die folio link ctx pno p h c k f else .error bounds) := by
  rw [checkAccess_eq hp]
  refine if_neg ?_
  rw [Bool.and_eq_true, Bool.not_eq_true']
  exact fun ⟨hcr, hbad⟩ => Bool.false_ne_true (hbad.symm.trans (hh hcr))

theorem checkAccess_bounds (hb : ∀ f, tensorFmt (srCode p.srec) = some f → fitsTensor p (accessEntry s ctx p c) c k f = false) :
    checkAccess s die folio link ctx pno p0 c k = .error (.bounds pno p.hdl (accessTile p c) 0) := by
  rw [checkAccess_judged hp hh]
  cases hf : tensorFmt (srCode p.srec) with
  | none => rfl
  | some f => exact if_neg (Bool.eq_false_iff.1 (hb f hf))

theorem checkAccess_space {f : Fmt} (hf : tensorFmt (srCode p.srec) = some f) (hfit : fitsTensor p (accessEntry s ctx p c) c k f = true) :
    checkAccess s die folio link ctx pno p0 c k = accessSpace s die folio link ctx pno p (accessEntry s ctx p c) c k f := by
  rw [checkAccess_judged hp hh, hf]
  exact if_pos hfit

end

-- Where it stands (R157, R160; log 81) -----------------------------------------------------------------------------------------------

section
variable {h : BitVec 256} {f : Fmt}

theorem accessFrame_bounds (hx : accessPlace s die folio ctx p c f = .error none) :
    accessFrame s die folio link ctx pno p h c f = .error (.bounds pno p.hdl (accessTile p c) 0) := by
  rw [accessFrame, hx]

theorem accessFrame_transl {b : Nat} (hx : accessPlace s die folio ctx p c f = .error (some b)) :
    accessFrame s die folio link ctx pno p h c f = .error (.transl b pno p.hdl (accessTile p c) 0) := by
  rw [accessFrame, hx]

section
variable {s' : State} {a : Nat} (hx : accessPlace s die folio ctx p c f = .ok (s', a))
include hx

theorem accessFrame_noKey (hk : spaceKey s' link ctx (heSpc h) (hePlk h) a = none) :
    accessFrame s die folio link ctx pno p h c f = .error (.transl 3 pno p.hdl (accessTile p c) a) := by
  rw [accessFrame, hx]
  dsimp only
  rw [hk]

variable {y : Nat} (hk : spaceKey s' link ctx (heSpc h) (hePlk h) a = some y)
include hk

theorem accessFrame_off (ho : offSpace (heSpc h) y = true) :
    accessFrame s die folio link ctx pno p h c f = .error (.bounds pno p.hdl (accessTile p c) a) := by
  rw [accessFrame, hx]
  dsimp only
  rw [hk]
  exact if_pos ho

theorem accessFrame_ok (ho : offSpace (heSpc h) y = false) : accessFrame s die folio link ctx pno p h c f =
    .ok (s', { p with hent := h, tile := some (accessTile p c) }, accessMade ctx p h c f y) := by
  rw [accessFrame, hx]
  dsimp only
  rw [hk]
  exact if_neg (Bool.eq_false_iff.1 ho)

end
end

-- Through a port of an agent (R154) ----------------------------------------------------------------------------------------------------

/-- The checks of an access of an agent through its port `n`. -/
def agentCheck (s : State) (e : Elem) (n : Nat) (c : List Int) (k : Kind) : Except Trap (State × Port × Access) :=
  checkAccess s e.die e.agFolio (s.linkOf e.rgn) (s.region e.rgn).ctx n (e.port n) c k

section
variable {e : Elem} {d : BitVec 10} {n : Nat}

theorem portAccess_unbound (h : (e.port n).bnd = false) : portAccess s e d n c k = .error (.trap (.operand d.toNat)) := by
  rw [portAccess, h]
  rfl

theorem portAccess_error (h : (e.port n).bnd = true) {t : Trap} (ht : agentCheck s e n c k = .error t) :
    portAccess s e d n c k = .error (.trap t) := by
  rw [agentCheck] at ht
  rw [portAccess, h, ht]
  rfl

theorem portAccess_ok (h : (e.port n).bnd = true) {x : State × Port × Access} (hx : agentCheck s e n c k = .ok x) :
    portAccess s e d n c k = .ok x := by
  rw [agentCheck] at hx
  rw [portAccess, h, hx]
  rfl

end

theorem accessChecks : Claim.AccessChecks := by
  intro s e d k c kd _ hw ctx p t crossing h off c0 sync writes inside sub frame key stops
  have hcr : crosses p c = true ↔ crossing := crosses_iff
  have hent : accessEntry s ctx p c = h := if_congr hcr rfl rfl
  have inside_iff (fm : Fmt) : inside fm ↔ tensorFmt (srCode p.srec) = some fm ∧ fitsTensor p (accessEntry s ctx p c) c kd fm = true := by
    rw [hent, fitsTensor_iff, insideTensor_iff, sync_iff, writes_iff hw]
    rfl
  have hsub : kd.refused (heSpc h) = sub := refused_eq hw _
  refine ⟨portAccess_unbound, fun hb => ⟨fun hc hh => ?handle, fun hh => ?judged⟩⟩
  case handle => exact portAccess_error hb (checkAccess_handle rfl (hcr.2 hc) hh)
  case judged =>
    replace hh : crosses p c = true → handleOk s ctx p.hdl = true := fun hc => hh (hcr.1 hc)
    refine ⟨fun hout => ?bounds, fun fm hin => ?inside⟩
    case bounds =>
      refine portAccess_error hb (checkAccess_bounds rfl hh fun fm hf => ?_)
      exact Bool.eq_false_iff.2 fun hfit => hout fm ((inside_iff fm).2 ⟨hf, hfit⟩)
    case inside =>
      obtain ⟨hf, hfit⟩ := (inside_iff fm).1 hin
      have hspace : agentCheck s e k c kd = accessSpace s e.die e.agFolio (s.linkOf e.rgn) ctx k p h c kd fm := by
        rw [← hent]
        exact checkAccess_space rfl hh hf hfit
      refine ⟨fun b hs => portAccess_error hb ?_, fun hs hz => portAccess_error hb ?_, fun hs hz => ?frame⟩
      · rw [hspace, accessSpace, hsub, hs]
        rfl
      · rw [hspace, accessSpace, hsub, hs]
        exact if_pos hz
      case frame =>
        have hframe : agentCheck s e k c kd = accessFrame s e.die e.agFolio (s.linkOf e.rgn) ctx k p h c fm := by
          rw [hspace, accessSpace, hsub, hs]
          exact if_neg (not_not.2 hz)
        refine ⟨fun hx => portAccess_error hb (hframe.trans (accessFrame_bounds hx)),
          fun b hx => portAccess_error hb (hframe.trans (accessFrame_transl hx)),
          fun s' a hx hk => portAccess_error hb (hframe.trans (accessFrame_noKey hx hk)),
          fun s' a y hx hk ho => portAccess_error hb (hframe.trans (accessFrame_off hx hk ho)),
          fun s' a y hx hk ho =>
            ⟨accessMade ctx p h c fm y, portAccess_ok hb (hframe.trans (accessFrame_ok hx hk ho)), rfl, rfl, rfl, rfl⟩⟩

end
end Sys2Proof.Machine
end

section
/-! PROOFS. O17: loads through a port (R159, R161, R167, R173; log 78, log 79, log 81). -/
namespace Sys2Proof.Machine
open Sys2Proof.Claim

section
variable {s s' : State} {e : Elem} {f : Fields} {p : Port} {x : Access}

-- What every access of a stream shares ------------------------------------------------------------------------------------------------

theorem coordWait_iff : coordWait f = true ↔ f.wa = 0 ∨ isSlot f.a = true := by rw [coordWait, Bool.or_eq_true, beq_iff_eq]

/-- The checks of an access that the nest may drive, which then uses no operand for its coordinates (R44, R167, R169). -/
theorem checkRaw_driven {n v : Nat} {nest : Bool} {c : Prop} [Decidable c] {u w : Uses} (hn : nest = true ↔ c) (hv : v ≤ n)
    (hw : f.wa = 0 ∨ isSlot f.a = true) (hl : Legal e f (if c then u else w) none) :
    checkRaw e f (if nest then u else w) (decide (v ≤ n) && coordWait f) none = .ok () := by
  rw [if_congr hn rfl rfl]
  exact checkRaw_ok hl (by rw [decide_eq_true hv, coordWait_iff.2 hw]; rfl)

theorem drivenByNest_iff {v : Nat} : (v == 0 || v == 2) = true ↔ v = 0 ∨ v = 2 := by rw [Bool.or_eq_true, beq_iff_eq, beq_iff_eq]

theorem needNarrow_ok {d : Die} (h : d.tooWide = false) : needNarrow d = .ok () := need_ok (by rw [h]; rfl) _

theorem needNarrow_trap {d : Die} (h : d.tooWide = true) : needNarrow d = .error (.trap (.widen d.width d.lim)) :=
  need_trap (by rw [h]; rfl) _

-- A request sent, or none where a coordinate is poisoned (R161, R167) --------------------------------------------------------------------

/-- A load whose queue has room: it reserves an entry and sends its request, or reserves an entry that will be poisoned. -/
def loadSend (s : State) (e : Elem) (f : Fields) (nest : Bool) (kd : Kind) (c : List Int × Reg) (pol : Access → Nat) (stamp : Option Nat) :
    Res Done :=
  if c.2.pz then do
    needDes (e.port (imSp f)).bnd f.a
    done (sendReq s e (imSp f) (e.port (imSp f)) (deadReq s e c.2 none)).1
      (stepNest (sendReq s e (imSp f) (e.port (imSp f)) (deadReq s e c.2 none)).2 nest)
  else do
    let (s', p, a) ← portAccess s e f.a (imSp f) c.1 kd
    done (sendReq s' e (imSp f) p (liveReq s e a c.2 (pol a) stamp)).1
      (stepNest (sendReq s' e (imSp f) p (liveReq s e a c.2 (pol a) stamp)).2 nest)

section
variable {nest : Bool} {kd : Kind} {c : List Int × Reg} {pol : Access → Nat} {stamp : Option Nat}

theorem loadSend_dead (hp : c.2.pz = true) (hb : (e.port (imSp f)).bnd = true) : loadSend s e f nest kd c pol stamp =
    (let y := sendReq s e (imSp f) (e.port (imSp f)) (deadReq s e c.2 none)
     done y.1 (stepNest y.2 nest)) := by
  rw [loadSend, if_pos hp, hb]
  rfl

theorem loadSend_live (hp : c.2.pz = false) (ha : portAccess s e f.a (imSp f) c.1 kd = .ok (s', p, x)) :
    loadSend s e f nest kd c pol stamp =
      (let y := sendReq s' e (imSp f) p (liveReq s e x c.2 (pol x) stamp)
       done y.1 (stepNest y.2 nest)) := by
  rw [loadSend, if_neg (Bool.eq_false_iff.1 hp), ha]
  rfl

theorem loadSend_error (hp : c.2.pz = false) {h : Halt} (ha : portAccess s e f.a (imSp f) c.1 kd = .error h) :
    loadSend s e f nest kd c pol stamp = .error h := by
  rw [loadSend, if_neg (Bool.eq_false_iff.1 hp), ha]
  rfl

end

-- tld and tlda (R167, R173) -----------------------------------------------------------------------------------------------------------------

theorem bodyTld_eq (hv : f.var.toNat ≤ 3) (hw : f.wa = 0 ∨ isSlot f.a = true)
    (hl : Legal e f (if f.var.toNat = 0 ∨ f.var.toNat = 2 then noUses else onlyA) none) : bodyTld s f e =
      (let nest := f.var.toNat == 0 || f.var.toNat == 2
       awaitCount (lqRoom (e.port (imSp f))) >>= fun _ => loadSend s e f nest .load (coordsOf s e f nest)
         (fun a => if 2 ≤ f.var.toNat then 2 else hePol a.hent) none) := by
  rw [bodyTld]
  dsimp only
  rw [checkRaw_driven drivenByNest_iff hv hw hl]
  rfl

theorem var_beq_zero : (f.var == 0) = (f.var.toNat == 0) := by
  rw [Bool.eq_iff_iff, beq_iff_eq, beq_iff_eq, var_eq_zero_iff]

/-- The coordinates of a `tlda` with the bits that they and its stamp bring. -/
def stampedCoords (s : State) (e : Elem) (f : Fields) : List Int × Reg :=
  let c := coordsOf s e f (f.var.toNat == 0)
  (c.1, { c.2 with pz := c.2.pz || (readDes s e f.b).pz, tn := c.2.tn || (readDes s e f.b).tn })

theorem bodyTlda_eq (hv : f.var.toNat ≤ 1) (hw : f.wa = 0 ∨ isSlot f.a = true)
    (hl : Legal e f (if f.var.toNat = 0 then onlyB else onlyAB) none) : bodyTlda s f e = (do
      needNarrow (s.die e.die)
      awaitCount (lqRoom (e.port (imSp f)))
      awaitFree ((readDes s e f.b).pz || decide (stampOf (readDes s e f.b).pay < (s.die e.die).early))
      loadSend s e f (f.var.toNat == 0) .tlda (stampedCoords s e f) (fun a => hePol a.hent) (some (stampOf (readDes s e f.b).pay))) := by
  rw [bodyTlda, var_beq_zero]
  dsimp only
  rw [checkRaw_driven beq_iff_eq hv hw hl]
  rfl

theorem tensorLoad : Claim.TensorLoad := by
  intro s s' e f p x hr hc hw k q v c ca b st d legal legala room sent
  have cls {op : BitVec 8} (h : (classesOf op).contains .ag = true) := mem_classesOf_ag hc h
  have lq (h : room) : awaitCount (lqRoom (e.port (imSp f))) = .ok () := awaitCount_ok (decide_eq_true h)
  have noLq (h : ¬ room) : awaitCount (lqRoom (e.port (imSp f))) = .error (.hold .count) := awaitCount_hold (decide_eq_false h)
  have tld (h : legal) := bodyTld_eq (s := s) h.1 hw h.2
  have tlda (h : legala) := bodyTlda_eq (s := s) h.1 hw h.2
  have issued (h : b.pz = true ∨ st < d.early) : awaitFree (b.pz || decide (st < d.early)) = .ok () :=
    awaitFree_ok (by rw [Bool.or_eq_true, decide_eq_true_iff]; exact h)
  have clean (hp : ca.2.pz = false) (hb : b.pz = false) : (stampedCoords s e f).2.pz = false := (congrArg₂ or hp hb).trans rfl
  refine ⟨fun hl hq hp ha => ?tld, fun hl hq hp hb => ?dead, fun t hl hq hp ha => ?trap, fun hl hq => ?full,
    fun hl hd hq hp hb hs ha => ?tlda, fun hl hd hq hp hs hb => ?deadStamped, fun t hl hd hq hp hb hs ha => ?trapStamped,
    fun hl hd hq => ?fullStamped, fun hl hd hq hb hs => ?wait, fun hl hd => ?wide⟩
  case tld =>
    refine ⟨liveReq s e x c.2 (if 2 ≤ v then 2 else hePol x.hent) none,
      completes_of_body rfl hr (cls (by decide)) ?_, rfl, rfl, rfl, rfl, ?_, rfl, rfl, rfl, rfl⟩
    · rw [tld hl, lq hq, res_bind_ok, loadSend_live hp ha]
      rfl
    · exact congrArg (· || e.flowP) hp
  case dead =>
    refine ⟨deadReq s e c.2 none, completes_of_body rfl hr (cls (by decide)) ?_, rfl, rfl⟩
    rw [tld hl, lq hq, res_bind_ok, loadSend_dead hp hb]
    rfl
  case trap =>
    refine traps_of_body rfl hr (cls (by decide)) ?_
    rw [tld hl, lq hq, res_bind_ok, loadSend_error hp ha]
  case full =>
    refine holds_of_body rfl hr (cls (by decide)) ?_
    rw [tld hl, noLq hq]
    rfl
  case tlda =>
    have hpz := clean hp hb
    refine ⟨liveReq s e x (stampedCoords s e f).2 (hePol x.hent) (some st), completes_of_body rfl hr (cls (by decide)) ?_, rfl, rfl, rfl,
      congrArg (· || e.flowP) hpz, rfl, rfl, rfl⟩
    rw [tlda hl, needNarrow_ok hd, lq hq, issued (.inr hs)]
    simp only [res_bind_ok]
    rw [loadSend_live hpz ha]
    rfl
  case deadStamped =>
    refine ⟨deadReq s e (stampedCoords s e f).2 none, completes_of_body rfl hr (cls (by decide)) ?_, rfl, rfl⟩
    rw [tlda hl, needNarrow_ok hd, lq hq, issued hs]
    simp only [res_bind_ok]
    rw [loadSend_dead hp hb]
    rfl
  case trapStamped =>
    refine traps_of_body rfl hr (cls (by decide)) ?_
    rw [tlda hl, needNarrow_ok hd, lq hq, issued (.inr hs)]
    simp only [res_bind_ok]
    rw [loadSend_error (clean hp hb) ha]
  case fullStamped =>
    refine holds_of_body rfl hr (cls (by decide)) ?_
    rw [tlda hl, needNarrow_ok hd, noLq hq]
    rfl
  case wait =>
    refine holds_of_body rfl hr (cls (by decide)) ?_
    have hstay : (b.pz || decide (st < d.early)) = false := by rw [hb, decide_eq_false (Nat.not_lt.2 hs)]; rfl
    rw [tlda hl, needNarrow_ok hd, lq hq, awaitFree_hold hstay]
    rfl
  case wide =>
    refine traps_of_body rfl hr (cls (by decide)) ?_
    rw [tlda hl, needNarrow_trap hd]
    rfl

/-- Settles O17 from its two parts. -/
theorem tensorLoads : Obligations.TensorLoads := ⟨tensorLoad, accessChecks⟩

end
end Sys2Proof.Machine
end

section
/-! PROOFS. O18: stores through a port (R159, R161, R169, R171, R193; log 78). -/
namespace Sys2Proof.Machine
open Sys2Proof.Claim

section
variable {s s' : State} {e : Elem} {f : Fields} {p : Port} {x : Access}

/-- The word that a store takes from the head of its port's store queue. -/
def headWord (e : Elem) (f : Fields) : CWord := (e.port (imSp f)).sq.headD CWord.zero

/-- The coordinates of a store with their bits. -/
def storeCoords (s : State) (e : Elem) (f : Fields) : List Int × Reg := coordsOf s e f (f.var.toNat == 0)

/-- The access of a store. -/
def storeAccessOf (s : State) (e : Elem) (f : Fields) (kd : Kind) : Res (State × Port × Access) :=
  portAccess s e f.a (imSp f) (storeCoords s e f).1 kd

/-- The poison that keeps a store from being made (R161). -/
def storePoison (s : State) (e : Elem) (f : Fields) : Bool := (storeCoords s e f).2.pz || (headWord e f).pz || e.flowP

/-- A unit whose store has taken the head of the queue of its port. -/
def takenHead (e : Elem) (f : Fields) (p : Port) : Elem := e.setPort (imSp f) { p with sq := p.sq.drop 1, outst := p.outst + 1 }

-- tst (R169) -------------------------------------------------------------------------------------------------------------------------

section
variable (hv : f.var.toNat ≤ 1) (hw : f.wa = 0 ∨ isSlot f.a = true) (hl : Legal e f (if f.var.toNat = 0 then noUses else onlyA) none)
include hv hw hl

theorem bodyTst_eq : bodyTst s f e = (do
    awaitCount ((e.port (imSp f)).sq != [])
    need (!storePoison s e f) (.poison 0 f.d.toNat (accessAddr (storeAccessOf s e f .store)))
    let (s', p, a) ← storeAccessOf s e f .store
    let st := storeOf e s'.orders (imSp f) a (headWord e f) ((storeCoords s e f).2.tn || (headWord e f).tn || e.flowT)
    let y := takenHead e f p
    done { s' with orders := s'.orders + 1 }
      (stepNest { y with ag := { y.ag with sb := y.ag.sb ++ [st], seq := y.ag.seq + 1 } } (f.var.toNat == 0))) := by
  rw [bodyTst, var_beq_zero]
  dsimp only
  rw [checkRaw_driven beq_iff_eq hv hw hl]
  rfl

theorem bodyTst_empty (hq : (e.port (imSp f)).sq = []) : bodyTst s f e = .error (.hold .count) := by
  rw [bodyTst_eq hv hw hl, hq]
  rfl

variable (hq : (e.port (imSp f)).sq ≠ [])
include hq

theorem bodyTst_poison (hp : storePoison s e f = true) :
    bodyTst s f e = .error (.trap (.poison 0 f.d.toNat (accessAddr (storeAccessOf s e f .store)))) := by
  rw [bodyTst_eq hv hw hl, awaitCount_ok (bne_iff_ne.2 hq), hp]
  rfl

theorem bodyTst_error (hp : storePoison s e f = false) {h : Halt} (ha : storeAccessOf s e f .store = .error h) :
    bodyTst s f e = .error h := by
  rw [bodyTst_eq hv hw hl, awaitCount_ok (bne_iff_ne.2 hq), hp, ha]
  rfl

theorem bodyTst_ok (hp : storePoison s e f = false) (ha : storeAccessOf s e f .store = .ok (s', p, x)) : bodyTst s f e =
    (let st := storeOf e s'.orders (imSp f) x (headWord e f) ((storeCoords s e f).2.tn || (headWord e f).tn || e.flowT)
     let y := takenHead e f p
     done { s' with orders := s'.orders + 1 }
      (stepNest { y with ag := { y.ag with sb := y.ag.sb ++ [st], seq := y.ag.seq + 1 } } (f.var.toNat == 0))) := by
  rw [bodyTst_eq hv hw hl, awaitCount_ok (bne_iff_ne.2 hq), hp, ha]
  rfl

end

-- tsts (R171, R193) --------------------------------------------------------------------------------------------------------------------

/-- The stamp of a stamped store. -/
def storeStamp (s : State) (e : Elem) (f : Fields) : Nat := stampOf (readDes s e f.b).pay

/-- A stamped store on its way to its home (R171). -/
def sentStore (s : State) (e : Elem) (f : Fields) (a : Access) : Tsts :=
  { port := imSp f, base := a.addr, data := (headWord e f).pay, mask := a.mask, pz := false,
    tn := (storeCoords s e f).2.tn || (headWord e f).tn || (readDes s e f.b).tn || e.flowT,
    stamp := storeStamp s e f, ctr := e.ag.nest.ctr, via := some a.via, pol := hePol a.hent, tcl := heTcl a.hent }

/-- The poison that keeps a stamped store from being made (R161; log 78). -/
def stampedPoison (s : State) (e : Elem) (f : Fields) : Bool :=
  (storeCoords s e f).2.pz || (headWord e f).pz || (readDes s e f.b).pz || e.flowP

theorem stampedPoison_eq : stampedPoison s e f = (storePoison s e f || (readDes s e f.b).pz) := by
  rw [stampedPoison, storePoison, Bool.or_assoc, Bool.or_assoc, Bool.or_assoc, Bool.or_assoc, Bool.or_comm (readDes s e f.b).pz]

section
variable (hv : f.var.toNat ≤ 1) (hw : f.wa = 0 ∨ isSlot f.a = true) (hl : Legal e f (if f.var.toNat = 0 then onlyB else onlyAB) none)
include hv hw hl

theorem bodyTsts_eq : bodyTsts s f e = (do
    awaitCount ((e.port (imSp f)).sq != [])
    needNarrow (s.die e.die)
    need (!stampedPoison s e f) (.poison 0 f.d.toNat (accessAddr (storeAccessOf s e f .tsts)))
    need (decide ((s.die e.die).early < storeStamp s e f)) (.tooOld (storeStamp s e f) (imSp f) none)
    need (decide (storeStamp s e f ≤ (s.die e.die).late + 2 ^ 30)) (.operand f.b.toNat)
    let (s', p, a) ← storeAccessOf s e f .tsts
    let y := takenHead e f p
    done s' (stepNest { y with ag := { y.ag with tsts := y.ag.tsts ++ [sentStore s e f a] } } (f.var.toNat == 0))) := by
  rw [bodyTsts, var_beq_zero]
  dsimp only
  rw [checkRaw_driven beq_iff_eq hv hw hl, res_bind_ok]
  rfl

theorem bodyTsts_empty (hq : (e.port (imSp f)).sq = []) : bodyTsts s f e = .error (.hold .count) := by
  rw [bodyTsts_eq hv hw hl, hq]
  rfl

variable (hq : (e.port (imSp f)).sq ≠ [])
include hq

theorem bodyTsts_wide (hd : (s.die e.die).tooWide = true) :
    bodyTsts s f e = .error (.trap (.widen (s.die e.die).width (s.die e.die).lim)) := by
  rw [bodyTsts_eq hv hw hl, awaitCount_ok (bne_iff_ne.2 hq), needNarrow_trap hd]
  rfl

variable (hd : (s.die e.die).tooWide = false)
include hd

theorem bodyTsts_poison (hp : stampedPoison s e f = true) :
    bodyTsts s f e = .error (.trap (.poison 0 f.d.toNat (accessAddr (storeAccessOf s e f .tsts)))) := by
  rw [bodyTsts_eq hv hw hl, awaitCount_ok (bne_iff_ne.2 hq), needNarrow_ok hd, hp]
  rfl

variable (hp : stampedPoison s e f = false)
include hp

theorem bodyTsts_old (hs : storeStamp s e f ≤ (s.die e.die).early) :
    bodyTsts s f e = .error (.trap (.tooOld (storeStamp s e f) (imSp f) none)) := by
  rw [bodyTsts_eq hv hw hl, awaitCount_ok (bne_iff_ne.2 hq), needNarrow_ok hd, hp, need_trap (decide_eq_false (Nat.not_lt.2 hs))]
  rfl

variable (hs : (s.die e.die).early < storeStamp s e f)
include hs

theorem bodyTsts_ahead (ht : (s.die e.die).late + 2 ^ 30 < storeStamp s e f) : bodyTsts s f e = .error (.trap (.operand f.b.toNat)) := by
  rw [bodyTsts_eq hv hw hl, awaitCount_ok (bne_iff_ne.2 hq), needNarrow_ok hd, hp, need_ok (decide_eq_true hs),
    need_trap (decide_eq_false (Nat.not_le.2 ht))]
  rfl

variable (ht : storeStamp s e f ≤ (s.die e.die).late + 2 ^ 30)
include ht

theorem bodyTsts_error {h : Halt} (ha : storeAccessOf s e f .tsts = .error h) : bodyTsts s f e = .error h := by
  rw [bodyTsts_eq hv hw hl, awaitCount_ok (bne_iff_ne.2 hq), needNarrow_ok hd, hp, need_ok (decide_eq_true hs),
    need_ok (decide_eq_true ht), ha]
  rfl

theorem bodyTsts_ok (ha : storeAccessOf s e f .tsts = .ok (s', p, x)) : bodyTsts s f e =
    (let y := takenHead e f p
     done s' (stepNest { y with ag := { y.ag with tsts := y.ag.tsts ++ [sentStore s e f x] } } (f.var.toNat == 0))) := by
  rw [bodyTsts_eq hv hw hl, awaitCount_ok (bne_iff_ne.2 hq), needNarrow_ok hd, hp, need_ok (decide_eq_true hs),
    need_ok (decide_eq_true ht), ha]
  rfl

end

/-- Settles O18: a store by its queue, its poison, its stamp and its access, in this order. -/
theorem tensorStores : Obligations.TensorStores := by
  unfold Obligations.TensorStores
  intro s s' e f p x hr hc hw k q v c w b st d legal legals pz took
  have cls {op : BitVec 8} (h : (classesOf op).contains .ag = true) := mem_classesOf_ag hc h
  have poison_eq : stampedPoison s e f = (pz || b.pz) := stampedPoison_eq
  refine ⟨fun hl hq hp ha => ?tst, fun hl hq hp => ?poison, fun t hl hq hp ha => ?trap, fun hl hq => ?empty,
    fun hl hq hd hp hs ht ha => ?tsts, fun hl hq hd hp => ?poisonStamped, fun hl hq hd hp hs => ?old, fun hl hq hd hp hs ht => ?ahead,
    fun t hl hq hd hp hs ht ha => ?trapStamped, fun hl hq hd => ?wide, fun hl hq => ?emptyStamped⟩
  case tst =>
    exact ⟨storeOf e s'.orders k x w (c.2.tn || w.tn || e.flowT),
      completes_of_body rfl hr (cls (by decide)) (bodyTst_ok hl.1 hw hl.2 hq hp ha), rfl, rfl, rfl, rfl, rfl, rfl, rfl, rfl, rfl⟩
  case poison => exact ⟨_, traps_of_body rfl hr (cls (by decide)) (bodyTst_poison hl.1 hw hl.2 hq hp)⟩
  case trap => exact traps_of_body rfl hr (cls (by decide)) (bodyTst_error hl.1 hw hl.2 hq hp ha)
  case empty => exact holds_of_body rfl hr (cls (by decide)) (bodyTst_empty hl.1 hw hl.2 hq)
  case tsts =>
    exact ⟨sentStore s e f x, completes_of_body rfl hr (cls (by decide)) (bodyTsts_ok hl.1 hw hl.2 hq hd (poison_eq.trans hp) hs ht ha),
      rfl, rfl, rfl, rfl, rfl, rfl, rfl, rfl, rfl, rfl⟩
  case poisonStamped =>
    exact ⟨_, traps_of_body rfl hr (cls (by decide)) (bodyTsts_poison hl.1 hw hl.2 hq hd (poison_eq.trans hp))⟩
  case old => exact traps_of_body rfl hr (cls (by decide)) (bodyTsts_old hl.1 hw hl.2 hq hd (poison_eq.trans hp) hs)
  case ahead => exact traps_of_body rfl hr (cls (by decide)) (bodyTsts_ahead hl.1 hw hl.2 hq hd (poison_eq.trans hp) hs ht)
  case trapStamped => exact traps_of_body rfl hr (cls (by decide)) (bodyTsts_error hl.1 hw hl.2 hq hd (poison_eq.trans hp) hs ht ha)
  case wide => exact traps_of_body rfl hr (cls (by decide)) (bodyTsts_wide hl.1 hw hl.2 hq hd)
  case emptyStamped => exact holds_of_body rfl hr (cls (by decide)) (bodyTsts_empty hl.1 hw hl.2 hq)

end
end Sys2Proof.Machine
end

section
/-! PROOFS. What the caches of the module may change, and an access through a port (R157 to R160, R256 to R258, R363). -/
namespace Sys2Proof.Machine
open Sys2Proof.Claim

/-- Two states that differ in what their L2 slices hold, pin and count, and in nothing else. -/
def SlicesOnly (s t : State) : Prop :=
  ∃ (l2 : List L2Sec) (slices : Tab Slice) (pins : List Pin) (ctr : Nat),
    t = { s with l2 := l2, slices := slices, pins := pins, freeCtr := ctr }

/-- Two states that differ in what their caches hold and count, and in nothing else. -/
def CachesOnly (s t : State) : Prop :=
  ∃ (l2 : List L2Sec) (slices : Tab Slice) (pins : List Pin) (rdc : List RdcSec) (tiles : List TileEnt) (ctr : Nat),
    t = { s with l2 := l2, slices := slices, pins := pins, rdc := rdc, tiles := tiles, freeCtr := ctr }

namespace CachesOnly
variable {s t u : State}

theorem refl (s : State) : CachesOnly s s := ⟨_, _, _, _, _, _, rfl⟩

theorem trans (h : CachesOnly s t) (k : CachesOnly t u) : CachesOnly s u := by
  obtain ⟨_, _, _, _, _, _, rfl⟩ := h
  obtain ⟨_, _, _, _, _, _, rfl⟩ := k
  exact ⟨_, _, _, _, _, _, rfl⟩

section
variable (h : CachesOnly s t)
include h

theorem elems : t.elems = s.elems := by obtain ⟨_, _, _, _, _, _, rfl⟩ := h; rfl
theorem cores : t.cores = s.cores := by obtain ⟨_, _, _, _, _, _, rfl⟩ := h; rfl
theorem cur : t.cur = s.cur := by obtain ⟨_, _, _, _, _, _, rfl⟩ := h; rfl
theorem mem : t.mem = s.mem := by obtain ⟨_, _, _, _, _, _, rfl⟩ := h; rfl
theorem gpz : t.gpz = s.gpz := by obtain ⟨_, _, _, _, _, _, rfl⟩ := h; rfl
theorem gtn : t.gtn = s.gtn := by obtain ⟨_, _, _, _, _, _, rfl⟩ := h; rfl
theorem bad : t.bad = s.bad := by obtain ⟨_, _, _, _, _, _, rfl⟩ := h; rfl
theorem orders : t.orders = s.orders := by obtain ⟨_, _, _, _, _, _, rfl⟩ := h; rfl
theorem ctxAt : t.ctxAt = s.ctxAt := by obtain ⟨_, _, _, _, _, _, rfl⟩ := h; rfl
theorem region (r : Nat) : t.region r = s.region r := by obtain ⟨_, _, _, _, _, _, rfl⟩ := h; rfl
theorem die (n : Nat) : t.die n = s.die n := by obtain ⟨_, _, _, _, _, _, rfl⟩ := h; rfl
theorem wet : t.wet = s.wet := by obtain ⟨_, _, _, _, _, _, rfl⟩ := h; rfl
theorem regions : t.regions = s.regions := by obtain ⟨_, _, _, _, _, _, rfl⟩ := h; rfl
theorem migr : t.migr = s.migr := by obtain ⟨_, _, _, _, _, _, rfl⟩ := h; rfl
theorem verOf (a : Nat) : t.verOf a = s.verOf a := by obtain ⟨_, _, _, _, _, _, rfl⟩ := h; rfl
theorem unit (n : UnitId) : t.unit n = s.unit n := by obtain ⟨_, _, _, _, _, _, rfl⟩ := h; cases n <;> rfl

end
end CachesOnly

namespace SlicesOnly
variable {s t u : State}

theorem refl (s : State) : SlicesOnly s s := ⟨_, _, _, _, rfl⟩

theorem trans (h : SlicesOnly s t) (k : SlicesOnly t u) : SlicesOnly s u := by
  obtain ⟨_, _, _, _, rfl⟩ := h
  obtain ⟨_, _, _, _, rfl⟩ := k
  exact ⟨_, _, _, _, rfl⟩

theorem caches (h : SlicesOnly s t) : CachesOnly s t := by
  obtain ⟨_, _, _, _, rfl⟩ := h
  exact ⟨_, _, _, _, _, _, rfl⟩

theorem rdc (h : SlicesOnly s t) : t.rdc = s.rdc := by obtain ⟨_, _, _, _, rfl⟩ := h; rfl

end SlicesOnly

section
variable (s : State)

theorem l2Put_slices (a w tcl : Nat) : SlicesOnly s (l2Put s a w tcl) := ⟨_, _, _, _, rfl⟩

theorem l2Evict_slices (a w : Nat) : SlicesOnly s (l2Evict s a w) := ⟨_, _, _, _, rfl⟩

theorem l2Count_slices (a : Nat) : SlicesOnly s (l2Count s a) := by
  unfold l2Count
  split
  · exact .refl s
  · exact ⟨_, _, _, _, rfl⟩

theorem l2Alloc_slices (a tcl : Nat) : SlicesOnly s (l2Alloc s a tcl) := by
  unfold l2Alloc
  split
  · exact .refl s
  · split
    · split
      · exact l2Put_slices s _ _ _
      · exact .refl s
    · split
      · exact .refl s
      · split
        · exact l2Put_slices s _ _ _
        · exact ⟨_, _, _, _, rfl⟩

theorem l2Fill_slices (a tcl : Nat) : SlicesOnly s (l2Fill s a tcl) := (l2Count_slices s a).trans (l2Alloc_slices _ a tcl)

theorem l2Serve_slices (a pol tcl : Nat) : SlicesOnly s (l2Serve s a pol tcl) := by
  unfold l2Serve
  split
  · exact l2Count_slices s a
  · exact l2Fill_slices s a tcl

theorem pinLine_slices (a tcl agent : Nat) : SlicesOnly s (pinLine s a tcl agent) := by
  refine (l2Alloc_slices s a tcl).trans ?_
  unfold pinLine
  extract_lets t set mine
  split
  · exact .refl t
  · split
    · exact .refl t
    · split
      · exact .refl t
      · exact ⟨_, _, _, _, rfl⟩

theorem pinFor_slices (u : UnitId) (die base pol tcl : Nat) : SlicesOnly s (pinFor s u die base pol tcl) := by
  cases u with
  | el n =>
    dsimp only [pinFor]
    split
    · exact pinLine_slices s base tcl n
    · exact .refl s
  | fc n => exact .refl s

theorem agentFill_slices (u : UnitId) (die base pol tcl : Nat) : SlicesOnly s (agentFill s u die base pol tcl) :=
  (l2Serve_slices s base pol tcl).trans (pinFor_slices _ u die base pol tcl)

theorem rdcDrop_caches (p : RdcSec → Bool) : CachesOnly s (rdcDrop s p) := ⟨_, _, _, _, _, _, rfl⟩

theorem rdcRoom_caches (die : Nat) : CachesOnly s (rdcRoom s die) := by
  unfold rdcRoom
  split
  · exact .refl s
  · split
    · exact ⟨_, _, _, _, _, _, rfl⟩
    · exact .refl s

theorem rdcFill_caches (die rgn a : Nat) : CachesOnly s (rdcFill s die rgn a) := (rdcRoom_caches s die).trans ⟨_, _, _, _, _, _, rfl⟩

theorem prefetch_caches (e : Elem) (a : Access) : CachesOnly s (prefetch s e a) := by
  unfold prefetch
  split
  · exact .refl s
  · split
    · split
      · exact (agentFill_slices s _ _ _ _ _).caches
      · exact .refl s
    · split
      · split
        · exact .refl s
        · exact (rdcFill_caches s _ _ _).trans (l2Fill_slices _ _ _).caches
      · exact (l2Serve_slices s _ _ _).caches

theorem tileFill_caches (die folio : Nat) (u : TileUse) (gen : Nat) (piece : Option Nat) (ent : BitVec 64) :
    CachesOnly s (tileFill s die folio u gen piece ent) := ⟨_, _, _, _, _, _, rfl⟩

theorem findFrame_caches (die folio : Nat) (u : TileUse) (gen tsz ttab off : Nat) :
    Yields (fun x => CachesOnly s x.1) (findFrame s die folio u gen tsz ttab off) := by
  unfold findFrame
  dsimp only
  repeat' split
  all_goals simp only [yields_ok, yields_error, CachesOnly.refl, tileFill_caches]

/-- What an access that passes leaves of its port: the entry of its handle and its tile are new (R159). -/
def SamePort (p q : Port) : Prop := ∃ (h : BitVec 256) (t : Option Nat), q = { p with hent := h, tile := t }

theorem accessFrame_caches (die folio link ctx pno : Nat) (p : Port) (h : BitVec 256) (c : List Int) (f : Fmt) :
    Yields (fun x => CachesOnly s x.1 ∧ SamePort p x.2.1) (accessFrame s die folio link ctx pno p h c f) := by
  cases hx : accessPlace s die folio ctx p c f with
  | error b => cases b with
    | none => rw [accessFrame_bounds hx]; exact yields_error _
    | some b => rw [accessFrame_transl hx]; exact yields_error _
  | ok x =>
    cases hk : spaceKey x.1 link ctx (heSpc h) (hePlk h) x.2 with
    | none => rw [accessFrame_noKey hx hk]; exact yields_error _
    | some y =>
      cases ho : offSpace (heSpc h) y with
      | true => rw [accessFrame_off hx hk ho]; exact yields_error _
      | false => rw [accessFrame_ok hx hk ho]; exact (yields_ok _).2 ⟨findFrame_caches s _ _ _ _ _ _ _ _ hx, _, _, rfl⟩

theorem checkAccess_caches (die folio link ctx pno : Nat) (p : Port) (c : List Int) (k : Kind) :
    Yields (fun x => CachesOnly s x.1 ∧ SamePort (freshPort s p ctx) x.2.1) (checkAccess s die folio link ctx pno p c k) := by
  rw [checkAccess_eq rfl]
  dsimp only
  split
  · exact yields_error _
  · cases tensorFmt (srCode (freshPort s p ctx).srec) with
    | none => exact yields_error _
    | some f =>
      dsimp only [Option.elim]
      split
      · unfold accessSpace
        cases k.refused (heSpc (accessEntry s ctx (freshPort s p ctx) c)) with
        | some b => exact yields_error _
        | none =>
          dsimp only [Option.elim]
          split
          · exact yields_error _
          · exact accessFrame_caches s die folio link ctx pno _ _ c f
      · exact yields_error _

variable {s} {e : Elem} {d : BitVec 10} {k : Nat} {c : List Int} {kd : Kind} {s' : State} {p : Port} {x : Access}

theorem portAccess_bound (h : portAccess s e d k c kd = .ok (s', p, x)) : (e.port k).bnd = true :=
  (Bool.eq_false_or_eq_true _).resolve_right fun hb => by rw [portAccess_unbound hb] at h; cases h

/-- An access that passes changes nothing but caches, and its port but for the entry and the tile. -/
theorem portAccess_caches (h : portAccess s e d k c kd = .ok (s', p, x)) :
    CachesOnly s s' ∧ SamePort (freshPort s (e.port k) (s.region e.rgn).ctx) p := by
  have hb := portAccess_bound h
  cases ha : agentCheck s e k c kd with
  | error t => rw [portAccess_error hb ha] at h; cases h
  | ok y =>
    rw [portAccess_ok hb ha] at h
    cases h
    exact checkAccess_caches s _ _ _ _ _ _ _ _ _ ha

theorem freshPort_lq (s : State) (p : Port) (ctx : Nat) : (freshPort s p ctx).lq = p.lq := by
  unfold freshPort
  split <;> rfl

theorem portAccess_lq (h : portAccess s e d k c kd = .ok (s', p, x)) : p.lq = (e.port k).lq := by
  obtain ⟨_, h, t, rfl⟩ := portAccess_caches h
  exact freshPort_lq s _ _

end
end Sys2Proof.Machine
end

section
/-! PROOFS. The ports and the completion objects of an agent, and the records that were discarded (R154, R181, R185, R355). -/
namespace Sys2Proof.Machine
open Sys2Proof.Claim

section
variable {s : State} {e : Elem}

theorem toList_getD_setIfInBounds {α : Type} {n : Nat} (v : Vector α n) (j k : Nat) (x d : α) :
    (v.setIfInBounds j x).toList.getD k d = if k = j ∧ k < n then x else v.toList.getD k d := by
  simp only [List.getD_eq_getElem?_getD, Vector.toList_setIfInBounds, List.getElem?_set, Vector.length_toList]
  by_cases hk : k = j
  · subst hk
    by_cases hn : k < n <;> simp [hn]
  · simp [hk, Ne.symm hk]

theorem port_setPort (e : Elem) (j k : Nat) (p : Port) : (e.setPort j p).port k = if k = j ∧ k < 4 then p else e.port k :=
  toList_getD_setIfInBounds e.ag.ports j k p Port.unbound

theorem co_setCo (e : Elem) (j k : Nat) (v : BitVec 32) : (e.setCo j v).co k = if k = j ∧ k < 32 then v else e.co k :=
  toList_getD_setIfInBounds e.ag.cos j k v 0

theorem co_beyond (e : Elem) {n : Nat} (h : 32 ≤ n) : e.co n = 0 := by
  rw [Elem.co, List.getD_eq_getElem?_getD, List.getElem?_eq_none (by rwa [Vector.length_toList])]
  rfl

theorem freshPort_idem (s : State) (p : Port) (ctx : Nat) : freshPort s (freshPort s p ctx) ctx = freshPort s p ctx := by
  rw [freshPort]
  refine if_neg ?_
  rw [freshPort]
  split
  · exact Bool.false_ne_true
  · assumption

theorem fresh_cons (e : Elem) (s : State) (k : Nat) (l : List Nat) :
    e.fresh s (k :: l) = (e.setPort k (freshPort s (e.port k) (s.region e.rgn).ctx)).fresh s l := rfl

/-- Records read again change ports alone. -/
theorem fresh_frame (s : State) (l : List Nat) : ∀ e : Elem,
    ∃ v : Vector Port 4, e.fresh s l = { e with ag := { e.ag with ports := v } } := by
  induction l with
  | nil => exact fun e => ⟨e.ag.ports, rfl⟩
  | cons k l ih =>
    intro e
    obtain ⟨v, hv⟩ := ih (e.setPort k (freshPort s (e.port k) (s.region e.rgn).ctx))
    exact ⟨v, by rw [fresh_cons, hv]; rfl⟩

theorem fresh_fold (s : State) (ctx : Nat) (l : List Nat) : ∀ e : Elem, (s.region e.rgn).ctx = ctx →
    e.fresh s l = l.foldl (fun (x : Elem) k => x.setPort k (freshPort s (x.port k) ctx)) e := by
  induction l with
  | nil => exact fun e _ => List.foldl_nil.trans List.foldl_nil.symm
  | cons k l ih =>
    intro e he
    rw [fresh_cons, he]
    exact ih _ he

theorem fresh_port (s : State) {k : Nat} (hk : k < 4) (l : List Nat) : ∀ e : Elem,
    (e.fresh s l).port k = if k ∈ l then freshPort s (e.port k) (s.region e.rgn).ctx else e.port k := by
  induction l with
  | nil => exact fun e => rfl
  | cons j l ih =>
    intro e
    rw [fresh_cons, ih]
    show (if k ∈ l then freshPort s ((e.setPort j _).port k) (s.region e.rgn).ctx else (e.setPort j _).port k) = _
    rw [port_setPort]
    by_cases hj : k = j
    · subst hj
      simp [hk, freshPort_idem]
    · simp [hj]

theorem port_lt {f : Fields} : imSp f < 4 ∧ imP2 f < 4 ∧ imP3 f < 4 :=
  ⟨Nat.mod_lt _ (by decide), Nat.mod_lt _ (by decide), Nat.mod_lt _ (by decide)⟩

end
end Sys2Proof.Machine
end

section
/-! PROOFS. O19: engine operations fork and join (R170, R185 to R190, R263; logs 16, 142, 143, 144). -/
namespace Sys2Proof.Machine
open Sys2Proof.Claim

section
variable {s : State} {e : Elem} {f : Fields}

-- The checks that operations share (R161, R185) ---------------------------------------------------------------------------------------

/-- An engine operation goes on where its object is idle and neither its operand nor its firing is poisoned. -/
def engineBody (s : State) (f : Fields) (e : Elem) (rest : Res Done) : Res Done := do
  needIdle e f
  needClean e [readDes s e f.a] f.d
  rest

section
variable {rest : Res Done}

theorem engineBody_busy (hi : ¬ coSt (e.co (coNo e f)) = 0) : engineBody s f e rest = .error (.trap (.operand f.a.toNat)) := by
  rw [engineBody, needIdle, need_trap (beq_false_of_ne hi)]
  rfl

variable (hi : coSt (e.co (coNo e f)) = 0)
include hi

theorem needIdle_ok : needIdle e f = .ok () := need_ok (beq_iff_eq.2 hi) _

theorem engineBody_poisoned (hp : ¬ ((readDes s e f.a).pz = false ∧ e.flowP = false)) :
    engineBody s f e rest = .error (.trap (.poison 0 f.d.toNat 0)) := by
  rw [engineBody, needIdle_ok hi, res_bind_ok, needClean, need_trap]
  · rfl
  · simpa [not_and_or, or_comm] using hp

theorem engineBody_ok (hp : (readDes s e f.a).pz = false ∧ e.flowP = false) : engineBody s f e rest = rest := by
  rw [engineBody, needIdle_ok hi, res_bind_ok, needClean, need_ok (by simp [hp])]
  rfl

end

/-- An operation of an AG through some ports: they are bound, their records are read again, and the operation fits them (R154, R181). -/
def portEngine (s : State) (f : Fields) (e : Elem) (l : List Nat) (fits : Elem → Bool) (forks : Elem → Elem) : Res Done := do
  needBound e f l
  need (fits (e.fresh s l)) (.operand f.a.toNat)
  done s (forks (e.fresh s l))

section
variable {l : List Nat} {fits : Elem → Bool} {forks : Elem → Elem}

theorem portEngine_unbound (h : ¬ ∀ k ∈ l, (e.port k).bnd = true) :
    portEngine s f e l fits forks = .error (.trap (.operand f.a.toNat)) := by
  rw [portEngine, needBound, need_trap]
  · rfl
  · rwa [← List.all_eq_true, Bool.not_eq_true] at h

variable (h : ∀ k ∈ l, (e.port k).bnd = true)
include h

theorem portEngine_unfit (hf : fits (e.fresh s l) = false) : portEngine s f e l fits forks = .error (.trap (.operand f.a.toNat)) := by
  rw [portEngine, needBound, need_ok (List.all_eq_true.2 h), res_bind_ok, need_trap hf]
  rfl

theorem portEngine_ok (hf : fits (e.fresh s l) = true) : portEngine s f e l fits forks = done s (forks (e.fresh s l)) := by
  rw [portEngine, needBound, need_ok (List.all_eq_true.2 h), res_bind_ok, need_ok hf]
  rfl

end

/-- What an operation of `n` words leaves of its agent: it is done at once where there are none (R187). -/
def forkWords (f : Fields) (kind : Nat) (a : Reg) (n : Nat) (l : List Nat) (x : Elem) : Elem :=
  if n = 0 then x.forkDone f kind a else x.fork f kind a Reg.zero (l.map x.port)

-- The bodies ---------------------------------------------------------------------------------------------------------------------------

section
variable (hv : f.var = 0) (hl : Legal e f onlyA none)
include hv hl

theorem bodyCpy_eq : bodyCpy s f e = engineBody s f e (if e.cls = .fc then (do
      need (laneN (readDes s e f.a) 4 % 64 == 0) (.operand f.a.toNat)
      done s (forkWords f 1 (readDes s e f.a) (laneN (readDes s e f.a) 4) [] e))
    else portEngine s f e [imSp f, imP2 f] (fun x => copyOk (x.port (imSp f)) (x.port (imP2 f)) (laneN (readDes s e f.a) 0)
      (laneN (readDes s e f.a) 1) (laneN (readDes s e f.a) 2))
      (forkWords f 1 (readDes s e f.a) (laneN (readDes s e f.a) 2) [imSp f, imP2 f])) := by
  rw [bodyCpy, checkRaw_ok hl (beq_iff_eq.2 hv), res_bind_ok]
  rfl

theorem bodyGth_eq : bodyGth s f e = engineBody s f e (if e.cls = .fc then
      done s (forkWords f 2 (readDes s e f.a) (laneN (readDes s e f.a) 7) [] e)
    else portEngine s f e [imSp f, imP2 f, imP3 f] (fun x => gatherOk (x.port (imSp f)) (x.port (imP2 f)) (x.port (imP3 f)))
      (forkWords f 2 (readDes s e f.a) (laneN (readDes s e f.a) 1) [imSp f, imP2 f, imP3 f])) := by
  rw [bodyGth, checkRaw_ok hl (beq_iff_eq.2 hv), res_bind_ok]
  rfl

end

theorem bodyColl_core (hc : e.cls = .fc) : bodyColl s f e = .error (.trap .instr) := by
  rw [bodyColl, need_trap (bne_eq_false_iff_eq.2 hc)]
  rfl

theorem bodyColl_unsound (hc : e.cls = .ag) (hv : 3 < f.var.toNat) : bodyColl s f e = .error (.trap .instr) := by
  rw [bodyColl, need_ok (bne_iff_ne.2 (not_core_of_ag hc)), res_bind_ok, checkRaw_unsound (decide_eq_false (Nat.not_le.2 hv))]
  rfl

/-- Whether a collective of the members `m` fits the tensors of its ports (R189). -/
def collFits (s : State) (f : Fields) (e : Elem) (m : List Nat) (x : Elem) : Bool :=
  collOk (x.port (imSp f)) (x.port (imP2 f)) f.var.toNat (laneN (readDes s e f.a) 0) m.length

/-- What a collective of the members `m` does (R189). -/
def collEngine (s : State) (f : Fields) (e : Elem) (m : List Nat) : Res Done :=
  portEngine s f e [imSp f, imP2 f] (collFits s f e m)
    (fun x => x.fork f 3 (readDes s e f.a) Reg.zero ([imSp f, imP2 f].map x.port))

section
variable (hc : e.cls = .ag) (hv : f.var.toNat ≤ 3) (hl : Legal e f onlyA none)
include hc hv hl

theorem bodyColl_eq : bodyColl s f e = engineBody s f e ((collMembers e (imOfs f)).elim
    (needBound e f [imSp f, imP2 f] >>= fun _ => trap (.operand f.a.toNat)) (collEngine s f e)) := by
  rw [bodyColl, need_ok (bne_iff_ne.2 (not_core_of_ag hc)), res_bind_ok, checkRaw_ok hl (decide_eq_true hv), res_bind_ok]
  refine congrArg (engineBody s f e) ?_
  cases collMembers e (imOfs f) <;> rfl

end

theorem collEngine_unbound (h : ¬ ∀ k ∈ [imSp f, imP2 f], (e.port k).bnd = true) : (collMembers e (imOfs f)).elim
    (needBound e f [imSp f, imP2 f] >>= fun _ => trap (.operand f.a.toNat)) (collEngine s f e) = .error (.trap (.operand f.a.toNat)) := by
  cases collMembers e (imOfs f) with
  | none =>
    rw [Option.elim, needBound, need_trap]
    · rfl
    · rwa [← List.all_eq_true, Bool.not_eq_true] at h
  | some m =>
    rw [Option.elim, collEngine]
    exact portEngine_unbound h

theorem collEngine_unfit (h : ∀ k ∈ [imSp f, imP2 f], (e.port k).bnd = true)
    (hf : ∀ m, collMembers e (imOfs f) = some m → collFits s f e m (e.fresh s [imSp f, imP2 f]) = false) : (collMembers e (imOfs f)).elim
    (needBound e f [imSp f, imP2 f] >>= fun _ => trap (.operand f.a.toNat)) (collEngine s f e) = .error (.trap (.operand f.a.toNat)) := by
  cases hm : collMembers e (imOfs f) with
  | none =>
    rw [Option.elim, needBound, need_ok (List.all_eq_true.2 h)]
    rfl
  | some m =>
    rw [Option.elim, collEngine]
    exact portEngine_unfit h (hf m hm)

-- What an operation leaves of its agent (R185, R186) --------------------------------------------------------------------------------------

/-- Ports whose discarded records an operation of the agent has read again. -/
def refreshed (s : State) (e : Elem) (l : List Nat) : Elem :=
  l.foldl (fun (x : Elem) k => x.setPort k (freshPort s (x.port k) (s.region e.rgn).ctx)) e

/-- The operation that an agent forks. -/
def forkedOp (e : Elem) (f : Fields) (kind : Nat) (a b : Reg) (ports : List Port) : EngOp :=
  { co := coNo e f, kind := kind, var := f.var.toNat, args := a.pay, argb := b.pay, imm := f.imm, done := 0, fcs := 0,
    before := e.ag.seq, tn := a.tn || b.tn || e.flowT, why := [], ran := false,
    ports := ports, writes := [], tile := 0, res := none, spoilt := none }

/-- An agent whose object `n` is busy with an operation. -/
def withOp (e : Elem) (n kind : Nat) (o : EngOp) : Elem :=
  let y := e.setCo n (coMake 1 0 kind 0)
  { y with ag := { y.ag with eng := e.ag.eng ++ [o] } }

theorem refreshed_frame (s : State) (e : Elem) (l : List Nat) :
    ∃ v : Vector Port 4, refreshed s e l = { e with ag := { e.ag with ports := v } } := by
  rw [refreshed, ← fresh_fold s _ l e rfl]
  exact fresh_frame s l e

theorem fresh_fork (kind : Nat) (a b : Reg) (l : List Nat) (ports : List Port) :
    (e.fresh s l).fork f kind a b ports = withOp (refreshed s e l) (coNo e f) kind (forkedOp e f kind a b ports) := by
  obtain ⟨v, hv⟩ := fresh_frame s l e
  rw [refreshed, ← fresh_fold s _ l e rfl, hv]
  rfl

/-- An operation forks as its body says. -/
theorem forks_of_body {i : Instr} {op : BitVec 8} {body : Body} {kind : Nat} {a b : Reg} {l : List Nat} {ports : List Port}
    (hx : exec i s = issue op body f s) (hr : Runs s e) (hc : (classesOf op).contains e.cls = true)
    (hb : body s f e = done s ((e.fresh s l).fork f kind a b ports)) :
    ∃ o : EngOp, Completes i s e s (let y := (refreshed s e l).setCo (coNo e f) (coMake 1 0 kind 0)
        ({ y with ag := { y.ag with eng := e.ag.eng ++ [o] } } : Elem))
      ∧ o.co = coNo e f ∧ o.kind = kind ∧ o.args = a.pay ∧ o.argb = b.pay ∧ o.done = 0 ∧ o.before = e.ag.seq ∧ o.ports = ports
      ∧ o.writes = [] ∧ o.ran = false ∧ o.spoilt = none := by
  obtain ⟨v, hv⟩ := refreshed_frame s e l
  rw [fresh_fork, withOp] at hb
  exact ⟨forkedOp e f kind a b ports, completes_of_body hx hr hc (by rw [hb, hv]), rfl, rfl, rfl, rfl, rfl, rfl, rfl, rfl, rfl, rfl⟩

/-- An operation of no words is done as its body says (R187). -/
theorem forkDone_of_body {i : Instr} {op : BitVec 8} {body : Body} {kind : Nat} {a : Reg} {l : List Nat}
    (hx : exec i s = issue op body f s) (hr : Runs s e) (hc : (classesOf op).contains e.cls = true)
    (hb : body s f e = done s ((e.fresh s l).forkDone f kind a)) :
    ∃ o : EngOp, Completes i s e s (let y := (refreshed s e l).setCo (coNo e f) (coMake 1 0 kind 0)
        ({ y with ag := { y.ag with eng := e.ag.eng ++ [o] } } : Elem).setCo (coNo e f) (coMake 2 0 kind 0)) ∧ o.co = coNo e f := by
  obtain ⟨v, hv⟩ := refreshed_frame s e l
  rw [Elem.forkDone, fresh_fork] at hb
  exact ⟨forkedOp e f kind a Reg.zero [], completes_of_body hx hr hc (hb.trans (by rw [hv]; rfl)), rfl⟩

/-- An operation of `n` words forks, or is done at once where there are none (R187). -/
theorem forkWords_of_body {i : Instr} {op : BitVec 8} {body : Body} {kind : Nat} {a : Reg} {w : Lane} {l : List Nat} {ports : List Port}
    (hx : exec i s = issue op body f s) (hr : Runs s e) (hc : (classesOf op).contains e.cls = true)
    (hb : body s f e = done s (forkWords f kind a w.toNat l (e.fresh s l))) (hports : l.map (e.fresh s l).port = ports) :
    if w = 0 then
      ∃ o : EngOp, Completes i s e s (let y := (refreshed s e l).setCo (coNo e f) (coMake 1 0 kind 0)
        ({ y with ag := { y.ag with eng := e.ag.eng ++ [o] } } : Elem).setCo (coNo e f) (coMake 2 0 kind 0)) ∧ o.co = coNo e f
    else
      ∃ o : EngOp, Completes i s e s (let y := (refreshed s e l).setCo (coNo e f) (coMake 1 0 kind 0)
        ({ y with ag := { y.ag with eng := e.ag.eng ++ [o] } } : Elem))
      ∧ o.co = coNo e f ∧ o.kind = kind ∧ o.args = a.pay ∧ o.argb = Reg.zero.pay ∧ o.done = 0 ∧ o.before = e.ag.seq ∧ o.ports = ports
      ∧ o.writes = [] ∧ o.ran = false ∧ o.spoilt = none := by
  subst hports
  split
  · next hw => exact forkDone_of_body hx hr hc (hb.trans (by rw [forkWords, hw]; rfl))
  · next hw =>
    have hw : w.toNat ≠ 0 := fun h => hw (BitVec.eq_of_toNat_eq h)
    exact forks_of_body hx hr hc (hb.trans (by rw [forkWords, if_neg hw]))

theorem needClean_pair {a b : Reg} {d : BitVec 10} (ha : a.pz = false) (hb : b.pz = false) (hf : e.flowP = false) :
    needClean e [a, b] d = .ok () := need_ok (by simp [ha, hb, hf]) _

theorem needClean_poisoned {a b : Reg} {d : BitVec 10} (h : (a.pz || b.pz || e.flowP) = true) :
    needClean e [a, b] d = .error (.trap (.poison 0 d.toNat 0)) := by
  rw [needClean, show [a, b].any Reg.pz = (a.pz || b.pz) by simp, h]
  rfl

-- Prefetches (R170) ------------------------------------------------------------------------------------------------------------------------

/-- The words of a prefetch into a buffer lie in it (R170). -/
def fitsBuffer (e : Elem) (b : Payload) : Prop :=
  (b.lane 1).toNat % 8 < e.ag.targets.length ∧ (b.lane 2).toNat % 64 = 0
    ∧ (b.lane 2).toNat + 64 * (b.lane 0).toNat ≤ 2 ^ 17 ∧ 1 ≤ (b.lane 0).toNat ∧ (b.lane 0).toNat ≤ 2048

section
variable (hv : f.var = 1) (hl : Legal e f onlyAB none)
include hv hl

theorem bodyPref_eq [Decidable (fitsBuffer e (readDes s e f.b).pay)] : bodyPref s f e = (do
    need (decide (fitsBuffer e (readDes s e f.b).pay)) (.operand f.b.toNat)
    needDes (e.port (imSp f)).bnd f.a
    needIdle e f
    needClean e [readDes s e f.a, readDes s e f.b] f.d
    done s ((e.fresh s [imSp f]).fork f 4 (readDes s e f.a) (readDes s e f.b) [(e.fresh s [imSp f]).port (imSp f)])) := by
  rw [bodyPref, if_pos hv, checkRaw_ok hl rfl, res_bind_ok]
  congr!

variable (hfit : fitsBuffer e (readDes s e f.b).pay) (hb : (e.port (imSp f)).bnd = true) (hi : coSt (e.co (coNo e f)) = 0)
include hfit hb hi

theorem bodyPref_idle : bodyPref s f e = (do
    needClean e [readDes s e f.a, readDes s e f.b] f.d
    done s ((e.fresh s [imSp f]).fork f 4 (readDes s e f.a) (readDes s e f.b) [(e.fresh s [imSp f]).port (imSp f)])) := by
  classical
  rw [bodyPref_eq hv hl, need_ok (decide_eq_true hfit), res_bind_ok, hb, needDes_true, res_bind_ok, needIdle_ok hi, res_bind_ok]

end

theorem bodyPref_unfit (hv : f.var = 1) (hl : Legal e f onlyAB none)
    (h : ¬ (fitsBuffer e (readDes s e f.b).pay ∧ (e.port (imSp f)).bnd = true ∧ coSt (e.co (coNo e f)) = 0)) :
    ∃ d, bodyPref s f e = .error (.trap (.operand d)) := by
  classical
  rw [bodyPref_eq hv hl]
  by_cases hf : fitsBuffer e (readDes s e f.b).pay
  · rw [need_ok (decide_eq_true hf), res_bind_ok]
    cases hb : (e.port (imSp f)).bnd with
    | false => exact ⟨_, rfl⟩
    | true =>
      rw [needDes_true, res_bind_ok, needIdle, need_trap (beq_false_of_ne fun hi => h ⟨hf, hb, hi⟩)]
      exact ⟨_, rfl⟩
  · rw [need_trap (decide_eq_false hf)]
    exact ⟨_, rfl⟩

section
variable (hv : f.var = 0) (hl : Legal e f onlyA none)
include hv hl

theorem bodyPref_caches : bodyPref s f e = (match portAccess s e f.a (imSp f) (laneCoords (readDes s e f.a).pay) .load with
     | .ok (s', p, a) => if (readDes s e f.a).pz then done s e else done (prefetch s' e a) (e.setPort (imSp f) p)
     | .error _ => done s e) := by
  rw [bodyPref, if_neg (by rw [hv]; decide), checkRaw_ok hl (beq_iff_eq.2 hv)]
  rfl

theorem bodyPref_fault {t : Halt} (hx : portAccess s e f.a (imSp f) (laneCoords (readDes s e f.a).pay) .load = .error t) :
    bodyPref s f e = done s e := by
  rw [bodyPref_caches hv hl, hx]

variable {s' : State} {p : Port} {z : Access}
  (hx : portAccess s e f.a (imSp f) (laneCoords (readDes s e f.a).pay) .load = .ok (s', p, z))
include hx

theorem bodyPref_poisoned (hz : (readDes s e f.a).pz = true) : bodyPref s f e = done s e := by
  rw [bodyPref_caches hv hl, hx]
  exact if_pos hz

theorem bodyPref_access (hz : (readDes s e f.a).pz = false) : bodyPref s f e = done (prefetch s' e z) (e.setPort (imSp f) p) := by
  rw [bodyPref_caches hv hl, hx]
  exact if_neg (Bool.eq_false_iff.1 hz)

end

theorem bodyPref_unsound (hv : 1 < f.var.toNat) : bodyPref s f e = .error (.trap .instr) := by
  have h1 : f.var ≠ 1 := fun h => by rw [h] at hv; exact absurd hv (by decide)
  have h0 : f.var ≠ 0 := fun h => by rw [h] at hv; exact absurd hv (by decide)
  rw [bodyPref, if_neg h1, checkRaw_unsound (beq_false_of_ne h0)]
  rfl

end

/-- Ports that are bound, as `needBound` asks for them. -/
theorem bound_pair {e : Elem} {j k : Nat} : (∀ i ∈ [j, k], (e.port i).bnd = true) ↔ (e.port j).bnd = true ∧ (e.port k).bnd = true := by
  simp

theorem bound_triple {e : Elem} {i j k : Nat} : (∀ n ∈ [i, j, k], (e.port n).bnd = true) ↔
    ((e.port i).bnd = true ∧ (e.port j).bnd = true) ∧ (e.port k).bnd = true := by
  simp [and_assoc]

theorem engineForks : Claim.EngineForks := by
  intro s e f hr n c a b fresh p0 p1 p2 x forked done idle clean both len fits refused poisoned hl
  have ag {op : BitVec 8} (hc : e.cls = .ag) (h : (classesOf op).contains .ag = true) := mem_classesOf_ag hc h
  have fc {op : BitVec 8} (hc : e.cls = .fc) (h : (classesOf op).contains .fc = true) : (classesOf op).contains e.cls = true := by rwa [hc]
  obtain ⟨h0, h1, h2⟩ := port_lt (f := f)
  have port {k : Nat} {l : List Nat} (hk : k < 4) (h : k ∈ l) : (e.fresh s l).port k = fresh k := by rw [fresh_port s hk, if_pos h]
  have pair0 : (e.fresh s [p0, p1]).port p0 = fresh p0 := port h0 (by simp)
  have pair1 : (e.fresh s [p0, p1]).port p1 = fresh p1 := port h1 (by simp)
  have tri0 : (e.fresh s [p0, p1, p2]).port p0 = fresh p0 := port h0 (by simp)
  have tri1 : (e.fresh s [p0, p1, p2]).port p1 = fresh p1 := port h1 (by simp)
  have tri2 : (e.fresh s [p0, p1, p2]).port p2 = fresh p2 := port h2 (by simp)
  refine ⟨fun hv hi hp hc hb hf => ?cpyAg, fun hv hi hp hc h4 => ?cpyFc, fun hv hi hp hc hb hb2 hf => ?gthAg, fun hv hi hp hc => ?gthFc,
    fun m hc hv hi hp hb hm hf => ?coll, fun hc hv hi => ?busy, fun hc hv hi => ?busyColl, fun hc hv hi hp => ?poison,
    fun hc hv hi hp => ?poisonColl, fun hc hi hp hb => ⟨fun hv => ?unbound, fun hv => ?unboundColl⟩,
    fun hc hv hi hp hb => ⟨fun hf => ?cpyUnfit, fun hf => ?gthUnfit⟩, fun hc hv hi hp h4 => ?cpyPart, fun hc hv hi hp hb hm => ?collUnfit,
    fun hc => ?collCore, fun hc hv => ?variant, fun hc hv => ?variantColl, fun hc hv => ?variantPref, fun hc hv hlb => ?prefBuffer,
    fun hc hv => ?prefCaches⟩
  case cpyAg =>
    refine forkWords_of_body (l := [p0, p1]) rfl hr (ag hc (by decide)) ?_ (by rw [← pair0, ← pair1]; rfl)
    rw [bodyCpy_eq hv hl, engineBody_ok hi hp, if_neg (not_core_of_ag hc)]
    exact portEngine_ok (bound_pair.2 hb) (by rw [← hf, ← pair0, ← pair1]; rfl)
  case cpyFc =>
    refine forkWords_of_body (l := []) rfl hr (fc hc (by decide)) ?_ rfl
    rw [bodyCpy_eq hv hl, engineBody_ok hi hp, if_pos hc, need_ok (show (laneN (readDes s e f.a) 4 % 64 == 0) = true from beq_iff_eq.2 h4)]
    rfl
  case gthAg =>
    refine forkWords_of_body (l := [p0, p1, p2]) rfl hr (ag hc (by decide)) ?_ (by rw [← tri0, ← tri1, ← tri2]; rfl)
    rw [bodyGth_eq hv hl, engineBody_ok hi hp, if_neg (not_core_of_ag hc)]
    exact portEngine_ok (bound_triple.2 ⟨hb, hb2⟩) (by rw [← hf, ← tri0, ← tri1, ← tri2]; rfl)
  case gthFc =>
    refine forkWords_of_body (l := []) rfl hr (fc hc (by decide)) ?_ rfl
    rw [bodyGth_eq hv hl, engineBody_ok hi hp, if_pos hc]
    rfl
  case coll =>
    refine forks_of_body (l := [p0, p1]) rfl hr (ag hc (by decide)) ?_
    have hm : collMembers e (imOfs f) = some m := hm
    rw [bodyColl_eq hc hv hl, engineBody_ok hi hp, hm, ← pair0, ← pair1, Option.elim, collEngine]
    exact portEngine_ok (bound_pair.2 hb) (by rw [← hf, ← pair0, ← pair1]; rfl)
  case busy =>
    exact ⟨traps_of_body rfl hr (mem_classesOf_agent hc (by decide)) (by rw [bodyCpy_eq hv hl, engineBody_busy hi]),
      traps_of_body rfl hr (mem_classesOf_agent hc (by decide)) (by rw [bodyGth_eq hv hl, engineBody_busy hi])⟩
  case busyColl => exact traps_of_body rfl hr (ag hc (by decide)) (by rw [bodyColl_eq hc hv hl, engineBody_busy hi])
  case poison =>
    exact ⟨traps_of_body rfl hr (mem_classesOf_agent hc (by decide)) (by rw [bodyCpy_eq hv hl, engineBody_poisoned hi hp]),
      traps_of_body rfl hr (mem_classesOf_agent hc (by decide)) (by rw [bodyGth_eq hv hl, engineBody_poisoned hi hp])⟩
  case poisonColl => exact traps_of_body rfl hr (ag hc (by decide)) (by rw [bodyColl_eq hc hv hl, engineBody_poisoned hi hp])
  case unbound =>
    refine ⟨traps_of_body rfl hr (ag hc (by decide)) ?_, traps_of_body rfl hr (ag hc (by decide)) ?_⟩
    · rw [bodyCpy_eq hv hl, engineBody_ok hi hp, if_neg (not_core_of_ag hc)]
      exact portEngine_unbound (mt bound_pair.1 hb)
    · rw [bodyGth_eq hv hl, engineBody_ok hi hp, if_neg (not_core_of_ag hc)]
      exact portEngine_unbound (mt bound_triple.1 fun h => hb h.1)
  case unboundColl =>
    refine traps_of_body rfl hr (ag hc (by decide)) ?_
    rw [bodyColl_eq hc hv hl, engineBody_ok hi hp]
    exact collEngine_unbound (mt bound_pair.1 hb)
  case cpyUnfit =>
    refine traps_of_body rfl hr (ag hc (by decide)) ?_
    rw [bodyCpy_eq hv hl, engineBody_ok hi hp, if_neg (not_core_of_ag hc)]
    exact portEngine_unfit (bound_pair.2 hb) (by rw [← hf, ← pair0, ← pair1]; rfl)
  case gthUnfit =>
    refine traps_of_body rfl hr (ag hc (by decide)) ?_
    rw [bodyGth_eq hv hl, engineBody_ok hi hp, if_neg (not_core_of_ag hc)]
    cases hb2 : (e.port p2).bnd with
    | false => exact portEngine_unbound fun h => Bool.false_ne_true (hb2.symm.trans (bound_triple.1 h).2)
    | true =>
      have hf := hf.resolve_left fun h => Bool.false_ne_true (h.symm.trans hb2)
      exact portEngine_unfit (bound_triple.2 ⟨hb, hb2⟩) (by rw [← hf, ← tri0, ← tri1, ← tri2]; rfl)
  case cpyPart =>
    refine traps_of_body rfl hr (fc hc (by decide)) ?_
    rw [bodyCpy_eq hv hl, engineBody_ok hi hp, if_pos hc,
      need_trap (show (laneN (readDes s e f.a) 4 % 64 == 0) = false from beq_false_of_ne h4)]
    rfl
  case collUnfit =>
    refine traps_of_body rfl hr (ag hc (by decide)) ?_
    rw [bodyColl_eq hc hv hl, engineBody_ok hi hp]
    refine collEngine_unfit (bound_pair.2 hb) fun m h => ?_
    rw [← hm m h, ← pair0, ← pair1]
    rfl
  case collCore => exact traps_of_body rfl hr (fc hc (by decide)) (bodyColl_core hc)
  case variant =>
    have hu := beq_false_of_ne hv
    exact ⟨traps_of_body rfl hr (mem_classesOf_agent hc (by decide)) (by rw [bodyCpy, checkRaw_unsound hu]; rfl),
      traps_of_body rfl hr (mem_classesOf_agent hc (by decide)) (by rw [bodyGth, checkRaw_unsound hu]; rfl)⟩
  case variantColl => exact traps_of_body rfl hr (ag hc (by decide)) (bodyColl_unsound hc hv)
  case variantPref => exact traps_of_body rfl hr (ag hc (by decide)) (bodyPref_unsound hv)
  case prefBuffer =>
    refine ⟨fun hf hb hi => ⟨fun hp hpb => ?_, fun hp => traps_of_body rfl hr (ag hc (by decide)) ?_⟩, fun h => ?_⟩
    · refine forks_of_body (l := [p0]) rfl hr (ag hc (by decide)) ?_
      rw [bodyPref_idle hv hlb hf hb hi, needClean_pair hp.1 hpb hp.2, res_bind_ok]
      exact congrArg (fun p => Machine.done s ((e.fresh s [p0]).fork f 4 a b [p])) (port h0 (List.mem_singleton.2 rfl))
    · rw [bodyPref_idle hv hlb hf hb hi, needClean_poisoned hp]
      rfl
    · obtain ⟨d, hd⟩ := bodyPref_unfit hv hlb h
      exact ⟨d, traps_of_body rfl hr (ag hc (by decide)) hd⟩
  case prefCaches =>
    cases hx : portAccess s e f.a p0 (laneCoords a.pay) .load with
    | error t =>
      refine ⟨s, e, completes_of_body rfl hr (ag hc (by decide)) (bodyPref_fault hv hl hx), rfl, rfl, rfl, rfl, rfl, rfl, rfl, fun _ => rfl,
        fun _ _ => ⟨rfl, rfl⟩, fun t p x h => by cases h⟩
    | ok y =>
      obtain ⟨t, p, z⟩ := y
      cases hz : a.pz with
      | true =>
        refine ⟨s, e, completes_of_body rfl hr (ag hc (by decide)) (bodyPref_poisoned hv hl hx hz), rfl, rfl, rfl, rfl, rfl, rfl, rfl,
          fun _ => rfl, fun _ h => (by cases h), fun _ _ _ _ h => Bool.noConfusion h⟩
      | false =>
        have ht := (portAccess_caches hx).1.trans (prefetch_caches t e z)
        refine ⟨prefetch t e z, e.setPort p0 p, completes_of_body rfl hr (ag hc (by decide)) (bodyPref_access hv hl hx hz),
          ht.mem, ht.elems, ht.cores, rfl, rfl, rfl, rfl, fun k => ?_, fun _ h => (by cases h), fun t' p' x' h _ => ?_⟩
        · rw [port_setPort]
          split
          · next h => rw [portAccess_lq hx, h.1]
          · rfl
        · cases h
          exact ⟨rfl, rfl⟩

end Sys2Proof.Machine
end

section
/-! PROOFS. O19, joins: what `cwt` and `ctst` find at their object (R186, R190, R263). -/
namespace Sys2Proof.Machine
open Sys2Proof.Claim

section
variable {s : State} {e : Elem} {f : Fields} {c : BitVec 32}

-- Objects and operations that join (R185, R186) ---------------------------------------------------------------------------------------

theorem seen_stopped (hs : coStp c = true) : seen c = .stopped := if_pos hs

theorem seen_going (hs : coStp c = false) :
    seen c = if coSt c = 0 then .idle else if coSt c = 1 then .busy else if coSt c = 2 then .done else .failed :=
  if_neg (Bool.eq_false_iff.1 hs)

theorem seen_idle (hs : coStp c = false) (h : coSt c = 0) : seen c = .idle := by rw [seen_going hs, h]; rfl

theorem seen_busy (hs : coStp c = false) (h : coSt c = 1) : seen c = .busy := by rw [seen_going hs, h]; rfl

theorem seen_done (hs : coStp c = false) (h : coSt c = 2) : seen c = .done := by rw [seen_going hs, h]; rfl

theorem seen_failed (hs : coStp c = false) (h : coSt c = 3) : seen c = .failed := by rw [seen_going hs, h]; rfl

theorem co_join (e : Elem) (n ord k : Nat) : (e.join n ord).co k = if k = n ∧ k < 32 then 0 else e.co k := co_setCo e n k 0

theorem co_join_same (e : Elem) (n ord : Nat) : (e.join n ord).co n = 0 := by
  rw [co_join]
  split
  · rfl
  · next h => exact co_beyond e (Nat.not_lt.1 fun hn => h ⟨rfl, hn⟩)

theorem co_join_other (e : Elem) {n k : Nat} (ord : Nat) (h : k ≠ n) : (e.join n ord).co k = e.co k := by
  rw [co_join, if_neg fun hk => h hk.1]

theorem eng_join (e : Elem) (n ord : Nat) : ∀ o ∈ (e.join n ord).ag.eng, o.co ≠ n := fun _ ho => by
  simpa using (List.mem_filter.1 ho).2

/-- The source of a test: what is seen of an object is tainted (R190). -/
def seenTaint : Reg := { pay := 0, pz := false, tn := true }

/-- The agent with the mask that `ctst` writes (R190). -/
def testedMask (e : Elem) (f : Fields) (b : Bool) : Elem := putMask e { f with ln := 0 } (fun _ => b) [seenTaint]

theorem testedMask_true (e : Elem) (f : Fields) : ∃ m : Mask, testedMask e f true = e.setMask (maskNo f.d) m ∧ m.tn = true
    ∧ ∀ k < 16, m.bits.getLsbD k = (laneActive e { f with ln := 0 } k || (e.mask (maskNo f.d)).bits.getLsbD k) := by
  refine ⟨_, rfl, rfl, fun k hk => ?_⟩
  rw [maskBits_get _ _ _ _ _ (Nat.le_refl _), decide_eq_true hk, Bool.true_and]
  cases laneActive e { f with ln := 0 } k <;> rfl

-- cwt (R186, R190) ------------------------------------------------------------------------------------------------------------------------

/-- What `cwt` does by what it sees (R186, R190). -/
def waitEnds (s : State) (f : Fields) (e : Elem) : Seen → Res Done
  | .idle => trap (.operand f.a.toNat)
  | .busy => holdFree
  | .stopped => trap (engineTrap e (coNo e f))
  | .failed => doneAt s.joined (e.join (coNo e f) s.orders) (.fault (engineTrap e (coNo e f)))
  | .done => done s.joined (e.join (coNo e f) s.orders)

/-- What `ctst` does by what it sees (R186, R190). -/
def testEnds (s : State) (f : Fields) (e : Elem) : Seen → Res Done
  | .idle => trap (.operand f.d.toNat)
  | .busy => done s (testedMask e f false)
  | .stopped => trap (engineTrap e (coNo e f))
  | .failed => doneAt s.joined (e.join (coNo e f) s.orders) (.fault (engineTrap e (coNo e f)))
  | .done => done s.joined (testedMask (e.join (coNo e f) s.orders) f true)

section
variable (hv : f.var = 0)
include hv

theorem bodyCwt_eq {x : Seen} (h : seen (e.co (coNo e f)) = x) : bodyCwt s f e = waitEnds s f e x := by
  rw [bodyCwt, need_ok (beq_iff_eq.2 hv), res_bind_ok, ← h]
  cases hx : seen (e.co (coNo e f)) <;> simp only [hx, waitEnds]

theorem bodyCtst_eq (hd : isMask f.d = true) {x : Seen} (h : seen (e.co (coNo e f)) = x) : bodyCtst s f e = testEnds s f e x := by
  rw [bodyCtst]
  dsimp only
  rw [need_ok (beq_iff_eq.2 hv), res_bind_ok, badMask, if_pos hd, noBad_none, res_bind_ok, ← h,
    show coNo e { f with ln := 0 } = coNo e f from rfl]
  cases hx : seen (e.co (coNo e f)) <;> rfl

theorem bodyCtst_noMask (hd : isMask f.d = false) : bodyCtst s f e = .error (.trap (.operand f.d.toNat)) := by
  rw [bodyCtst]
  dsimp only
  rw [need_ok (beq_iff_eq.2 hv), res_bind_ok, badMask, if_neg (Bool.eq_false_iff.1 hd)]
  rfl

end
end

/-- R186, R190: by what is seen of the object. -/
theorem engineJoins : Claim.EngineJoins := by
  intro s e f hr ha hv n c g taint joined after stopped failed
  have cls {op : BitVec 8} (h : (classesOf op).contains .ag = true ∧ (classesOf op).contains .fc = true) := mem_classesOf_agent ha h
  refine ⟨fun hs h => ?done, fun hs h => ?busy, fun hs h => ?idle, fun h => ?stopped, fun ⟨hs, h⟩ => ?failed,
    fun hd => ⟨fun hs h => ?testBusy, fun hs h => ?testDone, fun hs h => ?testIdle, fun h => ?testStopped, fun ⟨hs, h⟩ => ?testFailed⟩,
    fun hd => traps_of_body rfl hr (cls (by decide)) (bodyCtst_noMask hv hd), rfl, rfl, co_join_same e n _, eng_join e n _,
    fun k hk => co_join_other e _ hk⟩
  case done => exact completes_of_body rfl hr (cls (by decide)) (bodyCwt_eq hv (seen_done hs h))
  case busy => exact holds_of_body rfl hr (cls (by decide)) (bodyCwt_eq hv (seen_busy hs h))
  case idle => exact traps_of_body rfl hr (cls (by decide)) (bodyCwt_eq hv (seen_idle hs h))
  case stopped => exact traps_of_body rfl hr (cls (by decide)) (bodyCwt_eq hv (seen_stopped h))
  case failed => exact issue_fault hr (cls (by decide)) (bodyCwt_eq hv (seen_failed hs h))
  case testBusy =>
    exact maskLanes_of_putMask rfl hr (cls (by decide)) (by rw [raise_none]; exact bodyCtst_eq hv hd (seen_busy hs h)) fun _ _ => rfl
  case testDone =>
    obtain ⟨m, hm, htn, hbits⟩ := testedMask_true joined f
    exact ⟨m, completes_of_body rfl hr (cls (by decide)) (by rw [← hm]; exact bodyCtst_eq hv hd (seen_done hs h)), htn, hbits⟩
  case testIdle => exact traps_of_body rfl hr (cls (by decide)) (bodyCtst_eq hv hd (seen_idle hs h))
  case testStopped => exact traps_of_body rfl hr (cls (by decide)) (bodyCtst_eq hv hd (seen_stopped h))
  case testFailed => exact issue_fault hr (cls (by decide)) (bodyCtst_eq hv hd (seen_failed hs h))

/-- Settles O19: forks by their checks in order, joins by what is seen of the object. -/
theorem engineOperations : Obligations.EngineOperations := ⟨engineForks, engineJoins⟩

end Sys2Proof.Machine
end

section
/-! PROOFS. O20: synchronising accesses and their addresses (R174 to R177, R180, R220, R264, R271; logs 5, 83, 85, 129, 131, 145, 151). -/
namespace Sys2Proof.Machine
open Sys2Proof.Claim

section
variable {s s1 : State} {e e1 : Elem} {f : Fields} {addr size : Nat}

theorem anyPz_pair (a b : Reg) (p : Bool) : ([a, b].any Reg.pz || p) = (a.pz || b.pz || p) := by simp [Bool.or_assoc]

theorem anyPz_triple (a b c : Reg) (p : Bool) : ([a, b, c].any Reg.pz || p) = (a.pz || b.pz || p || c.pz) := by
  simp [Bool.or_assoc, Bool.or_comm c.pz]

theorem anyTn_pair (t : Bool) (a b : Reg) (p : Bool) : (t || [a, b].any Reg.tn || p) = (t || a.tn || b.tn || p) := by simp [Bool.or_assoc]

-- Reading and replacing at the home (R174, R264) ---------------------------------------------------------------------------------------

section
variable {srcs : List Reg} {taint : Bool} {fn : Nat → Option Nat}

theorem readModify_waits (ha : allAccepted e = false) : readModify s e f srcs size taint fn = .error (.hold .free) := by
  rw [readModify, awaitFree_hold ha]
  rfl

variable (ha : allAccepted e = true)
include ha

theorem readModify_poisoned (hp : (srcs.any Reg.pz || e.flowP) = true) :
    readModify s e f srcs size taint fn = .error (.trap (.poison 0 f.d.toNat 0)) := by
  rw [readModify, awaitFree_ok ha, res_bind_ok, hp]
  rfl

variable (hp : (srcs.any Reg.pz || e.flowP) = false)
include hp

theorem readModify_error {h : Halt} (hx : syncAddr s e f size .atomic = .error h) :
    readModify s e f srcs size taint fn = .error h := by
  rw [readModify, awaitFree_ok ha, res_bind_ok, hp, Bool.not_false, need_ok rfl, res_bind_ok, hx]
  rfl

variable (hx : syncAddr s e f size .atomic = .ok (s1, e1, addr))
include hx

theorem readModify_open (ho : openHere e1 addr = true) : readModify s e f srcs size taint fn = .error (.hold .free) := by
  rw [readModify, awaitFree_ok ha, res_bind_ok, hp, Bool.not_false, need_ok rfl, res_bind_ok, hx, res_bind_ok]
  dsimp only
  rw [awaitOlder, ho]
  rfl

variable (ho : openHere e1 addr = false)
include ho

/-- An indivisible access that replaces what it reads: its agent's stores are visible first, and it acquires last. -/
theorem readModify_replaces {v : Nat} (hw : fn (homeRead (release s1 e1).1 (release s1 e1).2 addr size).2.1 = some v) :
    readModify s e f srcs size taint fn =
    (let rel := release s1 e1
     let h := homeRead rel.1 rel.2 addr size
     let y := landStore h.1 (agentDie e1) (smallStore rel.2 h.1.orders addr size v (taint || srcs.any Reg.tn || e1.flowT))
     done (acquire y rel.2 (imScp f)) (putWhole rel.2 f.d (pair64 h.2.1) h.2.2.pz true)) := by
  rw [readModify, awaitFree_ok ha, res_bind_ok, hp, Bool.not_false, need_ok rfl, res_bind_ok, hx, res_bind_ok]
  dsimp only
  rw [awaitOlder, ho, hw]
  rfl

/-- An indivisible access that leaves what it reads (R176). -/
theorem readModify_keeps (hw : fn (homeRead (release s1 e1).1 (release s1 e1).2 addr size).2.1 = none) :
    readModify s e f srcs size taint fn =
    (let rel := release s1 e1
     let h := homeRead rel.1 rel.2 addr size
     done (acquire (granBits h.1 (granBase addr) false false taint) rel.2 (imScp f)) (putWhole rel.2 f.d (pair64 h.2.1) h.2.2.pz true)) := by
  rw [readModify, awaitFree_ok ha, res_bind_ok, hp, Bool.not_false, need_ok rfl, res_bind_ok, hx, res_bind_ok]
  dsimp only
  rw [awaitOlder, ho, hw]
  rfl

end

-- The instructions (R174 to R177) --------------------------------------------------------------------------------------------------------

/-- What an atomic writes at its home (R175). -/
def atomWrites (s : State) (e : Elem) (f : Fields) (old : Nat) : Option Nat :=
  some (atomFn f.var.toNat (8 * atomSize f) old (operandNat (readDes s e f.b).pay (atomSize f)))

/-- What a compare-and-swap writes at its home (R176). -/
def casWrites (s : State) (e : Elem) (f : Fields) (old : Nat) : Option Nat :=
  if old = operandNat (readDes s e f.c).pay (atomSize f) then some (operandNat (readDes s e f.b).pay (atomSize f)) else none

theorem bodyAtom_eq (hv : f.var.toNat ≤ 9) (h7 : ¬ (f.var.toNat = 7 ∧ atomSize f = 8)) (hs : imScp f ≠ 3)
    (hl : Legal e f usesAB (badReg e f)) : bodyAtom s f e =
    readModify s e f [readDes s e f.a, readDes s e f.b] (atomSize f) (f.var.toNat == 6 || f.var.toNat == 7) (atomWrites s e f) := by
  have h7 : (f.var.toNat == 7 && imSz8 f) = false := by
    rw [Bool.and_eq_false_iff, beq_eq_false_iff_ne, ← Bool.not_eq_true, ← not_and_or]
    exact fun h => h7 ⟨h.1, if_pos h.2⟩
  rw [bodyAtom, checkRaw_ok hl (by rw [decide_eq_true hv, h7, scpOk, bne_iff_ne.2 hs]; rfl)]
  rfl

theorem bodyAtom_unsound (h : ¬ (f.var.toNat ≤ 9 ∧ ¬ (f.var.toNat = 7 ∧ atomSize f = 8) ∧ imScp f ≠ 3)) :
    bodyAtom s f e = .error (.trap .instr) := by
  rw [bodyAtom, checkRaw_unsound]
  · rfl
  · rw [← Bool.not_eq_true]
    refine fun hb => h ?_
    simp only [Bool.and_eq_true, decide_eq_true_iff, Bool.not_eq_true', Bool.and_eq_false_iff, beq_eq_false_iff_ne, scpOk, bne_iff_ne] at hb
    obtain ⟨⟨hv, h7⟩, hs⟩ := hb
    refine ⟨hv, fun ⟨hv7, h8⟩ => ?_, hs⟩
    rw [atomSize, if_neg (Bool.eq_false_iff.1 (h7.resolve_left fun hn => hn hv7))] at h8
    exact absurd h8 (by decide)

theorem bodyCas_eq (hv : f.var = 0) (hs : imScp f ≠ 3) (hl : Legal e f usesABC (badReg e f)) : bodyCas s f e =
    readModify s e f [readDes s e f.a, readDes s e f.b, readDes s e f.c] (atomSize f) true (casWrites s e f) := by
  rw [bodyCas, checkRaw_ok hl (by rw [beq_iff_eq.2 hv, scpOk, bne_iff_ne.2 hs]; rfl)]
  rfl

theorem bodyCas_unsound (h : f.var ≠ 0 ∨ imScp f = 3) : bodyCas s f e = .error (.trap .instr) := by
  rw [bodyCas, checkRaw_unsound]
  · rfl
  · rw [Bool.and_eq_false_iff, scpOk, bne_eq_false_iff_eq, beq_eq_false_iff_ne]
    exact h

section
variable (hv : f.var.toNat ≤ 3) (hs : imScp f ≠ 3)
include hv hs

theorem sized_ok : (decide (f.var.toNat ≤ 3) && scpOk f) = true := by
  rw [decide_eq_true hv, scpOk, bne_iff_ne.2 hs]
  rfl

theorem bodyLdaq_poisoned (hl : Legal e f usesA (badReg e f)) (hp : (readDes s e f.a).pz = true) : bodyLdaq s f e =
    done (acquire s.spend e (imScp f)) (putWhole e f.d (Config.freePayload s.freeCtr) true (readDes s e f.a).tn) := by
  rw [bodyLdaq]
  dsimp only
  rw [checkRaw_ok hl (sized_ok hv hs), res_bind_ok]
  exact if_pos hp

theorem bodyLdaq_eq (hl : Legal e f usesA (badReg e f)) (hp : (readDes s e f.a).pz = false) : bodyLdaq s f e = (do
    let (t, x, addr) ← syncAddr s e f (2 ^ f.var.toNat) .ldaq
    awaitOlder x addr
    let h := homeRead t x addr (2 ^ f.var.toNat)
    done (acquire h.1 x (imScp f)) (putWhole x f.d (pair64 h.2.1) h.2.2.pz (h.2.2.tn || (readDes s e f.a).tn))) := by
  rw [bodyLdaq]
  dsimp only
  rw [checkRaw_ok hl (sized_ok hv hs), res_bind_ok]
  exact if_neg (Bool.eq_false_iff.1 hp)

theorem bodyStrl_eq (hl : Legal e f onlyAB none) : bodyStrl s f e = (do
    awaitFree (allAccepted e)
    need (!((readDes s e f.a).pz || (readDes s e f.b).pz || e.flowP)) (.poison 0 f.d.toNat 0)
    let (t, x, addr) ← syncAddr s e f (2 ^ f.var.toNat) .strl
    let rel := release t x
    done (landStore rel.1 (agentDie rel.2) (smallStore rel.2 rel.1.orders addr (2 ^ f.var.toNat)
      (operandNat (readDes s e f.b).pay (2 ^ f.var.toNat)) ((readDes s e f.a).tn || (readDes s e f.b).tn || rel.2.flowT))) rel.2) := by
  rw [bodyStrl]
  dsimp only
  rw [checkRaw_ok hl (sized_ok hv hs), res_bind_ok]

end

theorem sized_unsound (h : 3 < f.var.toNat ∨ imScp f = 3) : (decide (f.var.toNat ≤ 3) && scpOk f) = false := by
  rw [Bool.and_eq_false_iff, scpOk, bne_eq_false_iff_eq, decide_eq_false_iff_not, Nat.not_le]
  exact h

theorem bodyLdaq_unsound (h : 3 < f.var.toNat ∨ imScp f = 3) : bodyLdaq s f e = .error (.trap .instr) := by
  rw [bodyLdaq]
  dsimp only
  rw [checkRaw_unsound (sized_unsound h)]
  rfl

theorem bodyStrl_unsound (h : 3 < f.var.toNat ∨ imScp f = 3) : bodyStrl s f e = .error (.trap .instr) := by
  rw [bodyStrl]
  dsimp only
  rw [checkRaw_unsound (sized_unsound h)]
  rfl

-- The addresses (R174, R220, R271) -------------------------------------------------------------------------------------------------------

section
variable {kd : Kind}

section
variable (hc : e.cls = .fc)
include hc

theorem syncAddr_core : syncAddr s e f size kd = (do
    let addr := physOf (readDes s e f.a).pay
    need (isOwn addr && !stampedFrame s addr) (.phys addr)
    need (addr % size == 0) (.operand f.a.toNat)
    awaitFree (!homeHeld s 32 addr)
    .ok (l2Fill s addr 0, e, addr)) := by
  rw [syncAddr]
  dsimp only
  rw [if_pos hc, Elem.clockDie, if_pos hc]
  rfl

theorem syncAddr_phys (h : isOwn (physOf (readDes s e f.a).pay) = false ∨ stampedFrame s (physOf (readDes s e f.a).pay) = true) :
    syncAddr s e f size kd = .error (.trap (.phys (physOf (readDes s e f.a).pay))) := by
  rw [syncAddr_core hc]
  dsimp only
  rw [need_trap (by rw [Bool.and_eq_false_iff, Bool.not_eq_false']; exact h)]
  rfl

variable (ho : isOwn (physOf (readDes s e f.a).pay) = true) (hf : stampedFrame s (physOf (readDes s e f.a).pay) = false)
include ho hf

theorem syncAddr_unaligned (hz : physOf (readDes s e f.a).pay % size ≠ 0) :
    syncAddr s e f size kd = .error (.trap (.operand f.a.toNat)) := by
  rw [syncAddr_core hc]
  dsimp only
  rw [ho, hf, Bool.not_false, Bool.and_true, need_ok rfl, res_bind_ok, need_trap (beq_false_of_ne hz)]
  rfl

theorem syncAddr_own (hz : physOf (readDes s e f.a).pay % size = 0) : syncAddr s e f size kd =
    if homeHeld s 32 (physOf (readDes s e f.a).pay) then .error (.hold .free)
    else .ok (l2Fill s (physOf (readDes s e f.a).pay) 0, e, physOf (readDes s e f.a).pay) := by
  rw [syncAddr_core hc]
  dsimp only
  rw [ho, hf, Bool.not_false, Bool.and_true, need_ok rfl, res_bind_ok, need_ok (beq_iff_eq.2 hz), res_bind_ok]
  cases homeHeld s 32 (physOf (readDes s e f.a).pay) <;> rfl

end

section
variable (hc : e.cls = .ag)
include hc

theorem syncAddr_agent : syncAddr s e f size kd = (do
    let (s', p, x) ← portAccess s e f.a (imSp f) (laneCoords (readDes s e f.a).pay) kd
    let addr := x.addr + imOfs f
    need (addr % size == 0) (.bounds (imSp f) p.hdl x.via.tile addr)
    awaitFree (!homeHeld s' e.die addr)
    .ok ((if kd = .strl then l2Serve s' addr (hePol p.hent) (heTcl p.hent)
          else agentFill s' s'.cur e.die addr (hePol p.hent) (heTcl p.hent)), e.setPort (imSp f) p, addr)) := by
  rw [syncAddr]
  dsimp only
  rw [if_neg (not_core_of_ag hc)]
  rfl

theorem syncAddr_error {h : Halt} (hx : portAccess s e f.a (imSp f) (laneCoords (readDes s e f.a).pay) kd = .error h) :
    syncAddr s e f size kd = .error h := by
  rw [syncAddr_agent hc, hx]
  rfl

variable {s' : State} {p : Port} {x : Access}
  (hx : portAccess s e f.a (imSp f) (laneCoords (readDes s e f.a).pay) kd = .ok (s', p, x))
include hx

theorem syncAddr_bounds (hz : (x.addr + imOfs f) % size ≠ 0) :
    syncAddr s e f size kd = .error (.trap (.bounds (imSp f) p.hdl x.via.tile (x.addr + imOfs f))) := by
  rw [syncAddr_agent hc, hx, res_bind_ok]
  dsimp only
  rw [need_trap (beq_false_of_ne hz)]
  rfl

theorem syncAddr_found (hz : (x.addr + imOfs f) % size = 0) : syncAddr s e f size kd =
    if homeHeld s' e.die (x.addr + imOfs f) then .error (.hold .free)
    else .ok ((if kd = .strl then l2Serve s' (x.addr + imOfs f) (hePol p.hent) (heTcl p.hent)
               else agentFill s' s'.cur e.die (x.addr + imOfs f) (hePol p.hent) (heTcl p.hent)), e.setPort (imSp f) p, x.addr + imOfs f) := by
  rw [syncAddr_agent hc, hx, res_bind_ok]
  dsimp only
  rw [need_ok (beq_iff_eq.2 hz), res_bind_ok]
  cases homeHeld s' e.die (x.addr + imOfs f) <;> rfl

end
end

-- By what is found of the address ------------------------------------------------------------------------------------------------------------

section
variable (hv : f.var.toNat ≤ 3) (hs : imScp f ≠ 3)
include hv hs

section
variable (hl : Legal e f usesA (badReg e f)) (hp : (readDes s e f.a).pz = false)
include hl hp

theorem bodyLdaq_error {h : Halt} (hx : syncAddr s e f (2 ^ f.var.toNat) .ldaq = .error h) : bodyLdaq s f e = .error h := by
  rw [bodyLdaq_eq hv hs hl hp, hx]
  rfl

variable (hx : syncAddr s e f (2 ^ f.var.toNat) .ldaq = .ok (s1, e1, addr))
include hx

theorem bodyLdaq_open (ho : openHere e1 addr = true) : bodyLdaq s f e = .error (.hold .free) := by
  rw [bodyLdaq_eq hv hs hl hp, hx, res_bind_ok]
  dsimp only
  rw [awaitOlder, ho]
  rfl

theorem bodyLdaq_ok (ho : openHere e1 addr = false) : bodyLdaq s f e =
    (let h := homeRead s1 e1 addr (2 ^ f.var.toNat)
     done (acquire h.1 e1 (imScp f)) (putWhole e1 f.d (pair64 h.2.1) h.2.2.pz (h.2.2.tn || (readDes s e f.a).tn))) := by
  rw [bodyLdaq_eq hv hs hl hp, hx, res_bind_ok]
  dsimp only
  rw [awaitOlder, ho]
  rfl

end

section
variable (hl : Legal e f onlyAB none)
include hl

theorem bodyStrl_waits (ha : allAccepted e = false) : bodyStrl s f e = .error (.hold .free) := by
  rw [bodyStrl_eq hv hs hl, awaitFree_hold ha]
  rfl

variable (ha : allAccepted e = true)
include ha

theorem bodyStrl_poisoned (hp : ((readDes s e f.a).pz || (readDes s e f.b).pz || e.flowP) = true) :
    bodyStrl s f e = .error (.trap (.poison 0 f.d.toNat 0)) := by
  rw [bodyStrl_eq hv hs hl, awaitFree_ok ha, res_bind_ok, hp]
  rfl

variable (hp : ((readDes s e f.a).pz || (readDes s e f.b).pz || e.flowP) = false)
include hp

theorem bodyStrl_error {h : Halt} (hx : syncAddr s e f (2 ^ f.var.toNat) .strl = .error h) : bodyStrl s f e = .error h := by
  rw [bodyStrl_eq hv hs hl, awaitFree_ok ha, res_bind_ok, hp, Bool.not_false, need_ok rfl, res_bind_ok, hx]
  rfl

theorem bodyStrl_ok (hx : syncAddr s e f (2 ^ f.var.toNat) .strl = .ok (s1, e1, addr)) : bodyStrl s f e =
    (let rel := release s1 e1
     done (landStore rel.1 (agentDie rel.2) (smallStore rel.2 rel.1.orders addr (2 ^ f.var.toNat)
      (operandNat (readDes s e f.b).pay (2 ^ f.var.toNat)) ((readDes s e f.a).tn || (readDes s e f.b).tn || rel.2.flowT))) rel.2) := by
  rw [bodyStrl_eq hv hs hl, awaitFree_ok ha, res_bind_ok, hp, Bool.not_false, need_ok rfl, res_bind_ok, hx]
  rfl

end
end

end

theorem synchronisingAccesses : Claim.SynchronisingAccesses := by
  intro s s1 e e1 f addr hr hag v size sz scp a b c low rel home put result atomOk legal legalc legall legals pz accepted found
  have cls {op : BitVec 8} (h : (classesOf op).contains .ag = true ∧ (classesOf op).contains .fc = true) := mem_classesOf_agent hag h
  have pair {q : Bool} (h : pz = q) : ([a, b].any Reg.pz || e.flowP) = q := (anyPz_pair a b e.flowP).trans h
  have triple {q : Bool} (h : (pz || c.pz) = q) : ([a, b, c].any Reg.pz || e.flowP) = q := (anyPz_triple a b c e.flowP).trans h
  have atom (hl : legal) : bodyAtom s f e = readModify s e f [a, b] size (v == 6 || v == 7) (atomWrites s e f) :=
    bodyAtom_eq hl.1.1 hl.1.2.1 hl.1.2.2 hl.2
  have cas (hl : legalc) : bodyCas s f e = readModify s e f [a, b, c] size true (casWrites s e f) := bodyCas_eq hl.1 hl.2.1 hl.2.2
  refine ⟨fun hl ha hp hx ho => ?atom, fun hl ha hp hx ho => ⟨fun hold => ?swapped, fun hold => ?kept⟩, fun hl ha hp => ?atomPoison,
    fun hl ha hp => ?casPoison, fun hl ha hp => ?strlPoison, fun ha => ⟨fun hl => ?atomWaits, fun hl => ?casWaits, fun hl => ?strlWaits⟩,
    fun ho => ⟨fun hl ha hp hx => ?atomOpen, fun hl ha hp hx => ?casOpen, fun hl hp hx => ?ldaqOpen⟩, fun hl hp hx ho => ?ldaq,
    fun hl hp => ?ldaqPoison, fun hl ha hp hx => ?strl, fun h => ?atomVariant, fun h => ?casVariant, fun h => ?variant⟩
  case atom =>
    have hb := (atom hl).trans (readModify_replaces ha (pair hp) hx ho rfl)
    rw [anyTn_pair] at hb
    exact ⟨_, completes_of_body rfl hr (cls (by decide)) hb, rfl, rfl, rfl⟩
  case swapped =>
    have hb := (cas hl).trans (readModify_replaces ha (triple hp) hx ho (if_pos hold))
    exact ⟨_, completes_of_body rfl hr (cls (by decide)) hb, rfl, rfl, rfl⟩
  case kept =>
    have hb := (cas hl).trans (readModify_keeps ha (triple hp) hx ho (if_neg hold))
    exact ⟨_, ⟨_, completes_of_body rfl hr (cls (by decide)) hb, rfl, rfl, rfl⟩, granBits_mem _ _ _ _ _⟩
  case atomPoison => exact traps_of_body rfl hr (cls (by decide)) ((atom hl).trans (readModify_poisoned ha (pair hp)))
  case casPoison => exact traps_of_body rfl hr (cls (by decide)) ((cas hl).trans (readModify_poisoned ha (triple hp)))
  case strlPoison => exact traps_of_body rfl hr (cls (by decide)) (bodyStrl_poisoned hl.1 hl.2.1 hl.2.2 ha hp)
  case atomWaits => exact holds_of_body rfl hr (cls (by decide)) ((atom hl).trans (readModify_waits ha))
  case casWaits => exact holds_of_body rfl hr (cls (by decide)) ((cas hl).trans (readModify_waits ha))
  case strlWaits => exact holds_of_body rfl hr (cls (by decide)) (bodyStrl_waits hl.1 hl.2.1 hl.2.2 ha)
  case atomOpen => exact holds_of_body rfl hr (cls (by decide)) ((atom hl).trans (readModify_open ha (pair hp) hx ho))
  case casOpen => exact holds_of_body rfl hr (cls (by decide)) ((cas hl).trans (readModify_open ha (triple hp) hx ho))
  case ldaqOpen => exact holds_of_body rfl hr (cls (by decide)) (bodyLdaq_open hl.1 hl.2.1 hl.2.2 hp hx ho)
  case ldaq =>
    exact ⟨_, completes_of_body rfl hr (cls (by decide)) (bodyLdaq_ok hl.1 hl.2.1 hl.2.2 hp hx ho), rfl, rfl, rfl⟩
  case ldaqPoison =>
    refine ⟨s.freeCtr + 1, _, ?_, completes_of_body rfl hr (cls (by decide)) (bodyLdaq_poisoned hl.1 hl.2.1 hl.2.2 hp)⟩
    rfl
  case strl => exact completes_of_body rfl hr (cls (by decide)) (bodyStrl_ok hl.1 hl.2.1 hl.2.2 ha hp hx)
  case atomVariant => exact traps_of_body rfl hr (cls (by decide)) (bodyAtom_unsound h)
  case casVariant => exact traps_of_body rfl hr (cls (by decide)) (bodyCas_unsound h)
  case variant =>
    exact ⟨traps_of_body rfl hr (cls (by decide)) (bodyLdaq_unsound h), traps_of_body rfl hr (cls (by decide)) (bodyStrl_unsound h)⟩

theorem synchronisingAddresses : Claim.SynchronisingAddresses := by
  intro s e f hr hag v size scp a b c phys k faults hs
  have cls {op : BitVec 8} (h : (classesOf op).contains .ag = true ∧ (classesOf op).contains .fc = true) := mem_classesOf_agent hag h
  have found {n : Nat} {kd : Kind} {t : Trap} (h : faults n kd t) : syncAddr s e f n kd = .error (.trap t) := by
    obtain ⟨hc, hf, rfl⟩ | ⟨hc, ho, hf, hz, rfl⟩ | ⟨hc, hx⟩ | ⟨hc, s', p, x, hx, hz, rfl⟩ := h
    · exact syncAddr_phys hc hf
    · exact syncAddr_unaligned hc ho hf hz
    · exact syncAddr_error hc hx
    · exact syncAddr_bounds hc hx hz
  refine ⟨fun n kd => ⟨fun hc ho hf hz => syncAddr_own hc ho hf hz, fun hc s' p x hx hz => syncAddr_found hc hx hz⟩,
    fun t hv h7 hl ha hp h => ?atom, fun t hv hl ha hp h => ?cas, fun t hv hl hp h => ?ldaq, fun t hv hl ha hp h => ?strl⟩
  case atom =>
    refine traps_of_body rfl hr (cls (by decide)) ?_
    exact (bodyAtom_eq hv h7 hs hl).trans (readModify_error ha ((anyPz_pair a b e.flowP).trans hp) (found h))
  case cas =>
    refine traps_of_body rfl hr (cls (by decide)) ?_
    exact (bodyCas_eq hv hs hl).trans (readModify_error ha ((anyPz_triple a b c e.flowP).trans ((Bool.or_right_comm _ _ _).trans hp)) (found h))
  case ldaq => exact traps_of_body rfl hr (cls (by decide)) (bodyLdaq_error hv hs hl hp (found h))
  case strl => exact traps_of_body rfl hr (cls (by decide)) (bodyStrl_error hv hs hl ha hp (found h))

/-- Settles O20: the accesses by their checks in order, and the addresses by class. -/
theorem synchronisingOperations : Obligations.SynchronisingOperations := ⟨synchronisingAccesses, synchronisingAddresses⟩

end Sys2Proof.Machine
end

section
/-! PROOFS. What a record of a fault leaves of the elements (R380 to R383, R392 to R394). -/
namespace Sys2Proof.Machine
open Sys2Proof.Claim

section
variable (s : State)

@[simp] theorem deliverEvent_elems (core : Nat) (ev : BitVec 256) : (deliverEvent s core ev).elems = s.elems := by
  unfold deliverEvent
  split
  · rfl
  · split <;> rfl

@[simp] theorem postEvent_elems (kind arg src : Nat) : (postEvent s kind arg src).elems = s.elems := by
  simp [postEvent]

@[simp] theorem recordEvents_elems (d addr : Nat) (r : BitVec 2048) : (recordEvents d addr r s).elems = s.elems := by
  unfold recordEvents
  dsimp only
  split <;> simp

@[simp] theorem haltSoon_elems (r : Nat) : (haltSoon s r).elems = s.elems := by
  unfold haltSoon
  dsimp only
  split <;> simp

@[simp] theorem noteFault_elems (r d : Nat) (u : FaultUnit) (t : Trap) : (noteFault s r d u t).elems = s.elems := by
  unfold noteFault
  split <;> simp

theorem flushRing_elems (n d : Nat) : ∀ s : State, (flushRing n d s).elems = s.elems := by
  induction n with
  | zero => exact fun s => rfl
  | succ n ih =>
    intro s
    unfold flushRing
    dsimp only
    split
    · rfl
    · split
      · rw [ih]
        simp
      · rfl

@[simp] theorem putRecord_elems (d : Nat) (r : BitVec 2048) : (putRecord s d r).elems = s.elems := by
  simp [putRecord, flushRing_elems]

@[simp] theorem raiseUnitFault_elems (d ek no rgn : Nat) (u : FaultUnit) (t : Trap) : (raiseUnitFault s d ek no rgn u t).elems = s.elems := by
  unfold raiseUnitFault
  dsimp only
  split <;> simp

theorem rdcHit_elems (die rgn base : Nat) (x : RdcSec) : (rdcHit s die rgn base x).1.elems = s.elems := by
  unfold rdcHit
  dsimp only
  split <;> simp

theorem eccNote_clean {s : State} {base : Nat} (rgn : Nat) (hb : s.bad.contains (base / 64) = false) (hl : l2Bad s base = false) :
    eccNote s base rgn = s := by
  rw [eccNote, hb, hl]
  rfl

end
end Sys2Proof.Machine
end

section
/-! PROOFS. What a fill leaves in the slices and in the remote-data caches (R256 to R258, R363; log 129). -/
namespace Sys2Proof.Machine
open Sys2Proof.Claim

section
variable {s t : State} {a w tcl : Nat}

-- Slices ---------------------------------------------------------------------------------------------------------------------------------

theorem l2Find_l2Put (s : State) (a w tcl : Nat) : l2Find (l2Put s a w tcl) a =
    if (l2Find s a).isSome then l2Find s a else some { sec := a / 128, way := w, tcl := tcl, bad := 0 } := by
  rw [l2Find, l2Put, List.find?_append, ← l2Find]
  cases l2Find s a <;> simp

theorem l2Find_l2Evict (w : Nat) (h : l2Find s a = none) : l2Find (l2Evict s a w) a = none := by
  rw [l2Find, l2Evict, List.find?_eq_none]
  exact fun x hx => List.find?_eq_none.1 h x (List.mem_of_mem_filter hx)

theorem l2Alloc_held (h : l2Find s a ≠ none) (tcl : Nat) : l2Alloc s a tcl = s := by
  rw [l2Alloc, if_pos]
  rw [Option.isSome_iff_ne_none.2 h, Bool.or_true]

theorem not_missing : ¬ (!isHbm a || (l2Find s a).isSome) = true ↔ isHbm a = true ∧ l2Find s a = none := by
  simp

/-- A fill changes nothing of its sector, or puts it in where it was not held. -/
theorem l2Alloc_cases (s : State) (a tcl : Nat) :
    l2Alloc s a tcl = s ∨ ∃ (u : State) (w : Nat), l2Find u a = none ∧ l2Alloc s a tcl = l2Put u a w tcl := by
  unfold l2Alloc
  split
  · exact .inl rfl
  · next hm =>
    obtain ⟨-, h⟩ := not_missing.1 hm
    split
    · split
      · exact .inr ⟨s, _, h, rfl⟩
      · exact .inl rfl
    · split
      · exact .inl rfl
      · split
        · exact .inr ⟨s, _, h, rfl⟩
        · exact .inr ⟨_, _, l2Find_l2Evict (s := { s with freeCtr := s.freeCtr + 1 }) _ h, rfl⟩

/-- What a fill puts in holds no error. -/
theorem l2Bad_l2Alloc (h : l2Bad s a = false) (tcl : Nat) : l2Bad (l2Alloc s a tcl) a = false := by
  obtain hs | ⟨u, w, hu, hs⟩ := l2Alloc_cases s a tcl
  · rw [hs, h]
  · rw [hs, l2Bad, l2Find_l2Put, hu]
    simp

/-- A fill finds a way where the class has one, and where the way of the line is open to it. -/
theorem l2Alloc_finds (hh : isHbm a = true) (hw : ∀ w, lineWay s a = some w → w ∈ fillWays s a tcl) (hne : fillWays s a tcl ≠ []) :
    l2Find (l2Alloc s a tcl) a ≠ none := by
  by_cases h : l2Find s a = none
  · have put (u : State) (w : Nat) : l2Find (l2Put u a w tcl) a ≠ none := by
      rw [l2Find_l2Put]
      split
      · next hu => exact Option.isSome_iff_ne_none.1 hu
      · exact Option.some_ne_none _
    unfold l2Alloc
    rw [if_neg (not_missing.2 ⟨hh, h⟩)]
    split
    · next w hl =>
      rw [if_pos (Bool.and_eq_true_iff.1 (List.mem_filter.1 (hw w hl)).2).1]
      exact put s w
    · split
      · next hnil => exact absurd hnil hne
      · split
        · exact put _ _
        · exact put _ _
  · rwa [l2Alloc_held h]

-- A count at a slice changes no way ---------------------------------------------------------------------------------------------------------

theorem l2Count_ways (s : State) (a d f tcl : Nat) : ((l2Count s a).slice d f).ways tcl = (s.slice d f).ways tcl := by
  unfold l2Count
  split
  · rfl
  · dsimp only [State.slice]
    rw [tab_get_set]
    split
    · next h =>
      rw [h]
      split <;> rfl
    · rfl

theorem l2Count_l2 (s : State) (a : Nat) : (l2Count s a).l2 = s.l2 := by
  unfold l2Count
  split <;> rfl

theorem l2Count_pins (s : State) (a : Nat) : (l2Count s a).pins = s.pins := by
  unfold l2Count
  split <;> rfl

theorem lineWay_congr (hl : t.l2 = s.l2) (hp : t.pins = s.pins) : lineWay t a = lineWay s a := by
  rw [lineWay, lineWay, setPins, setPins, hl, hp]

theorem fillWays_congr (hp : t.pins = s.pins) (hw : ∀ d f, (t.slice d f).ways tcl = (s.slice d f).ways tcl) :
    fillWays t a tcl = fillWays s a tcl := by
  rw [fillWays, fillWays, setPins, setPins, hp, hw]

theorem l2Find_congr (hl : t.l2 = s.l2) : l2Find t a = l2Find s a := by rw [l2Find, l2Find, hl]

theorem l2Bad_congr (hl : t.l2 = s.l2) : l2Bad t a = l2Bad s a := by rw [l2Bad, l2Bad, l2Find_congr hl]

theorem l2Bad_l2Serve (h : l2Bad s a = false) (pol tcl : Nat) : l2Bad (l2Serve s a pol tcl) a = false := by
  have hc : l2Bad (l2Count s a) a = false := (l2Bad_congr (l2Count_l2 s a)).trans h
  unfold l2Serve
  split
  · exact hc
  · exact l2Bad_l2Alloc hc tcl

theorem l2Serve_finds {pol : Nat} (hp : pol ≠ 1) (hh : isHbm a = true) (hw : ∀ w, lineWay s a = some w → w ∈ fillWays s a tcl)
    (hne : fillWays s a tcl ≠ []) : l2Find (l2Serve s a pol tcl) a ≠ none := by
  have hl := lineWay_congr (a := a) (l2Count_l2 s a) (l2Count_pins s a)
  have hf := fillWays_congr (a := a) (tcl := tcl) (l2Count_pins s a) fun d f => l2Count_ways s a d f tcl
  rw [l2Serve, if_neg hp]
  exact l2Alloc_finds hh (by rwa [hl, hf]) (by rwa [hf])

theorem l2Find_pinLine (h : l2Find s a ≠ none) (tcl agent : Nat) : l2Find (pinLine s a tcl agent) a ≠ none := by
  unfold pinLine
  rw [l2Alloc_held h]
  extract_lets set mine
  split
  · exact h
  · split
    · exact h
    · split
      · exact h
      · exact h

theorem l2Find_pinFor (h : l2Find s a ≠ none) (u : UnitId) (die pol tcl : Nat) : l2Find (pinFor s u die a pol tcl) a ≠ none := by
  cases u with
  | el n =>
    dsimp only [pinFor]
    split
    · exact l2Find_pinLine h tcl n
    · exact h
  | fc n => exact h

theorem l2Bad_pinFor (h : l2Bad s a = false) (u : UnitId) (die pol tcl : Nat) : l2Bad (pinFor s u die a pol tcl) a = false := by
  cases u with
  | el n =>
    dsimp only [pinFor]
    split
    · unfold pinLine
      extract_lets t set mine
      have ht : l2Bad t a = false := l2Bad_l2Alloc h tcl
      split
      · exact ht
      · split
        · exact ht
        · split
          · exact ht
          · exact ht
    · exact h
  | fc n => exact h

-- Remote-data caches --------------------------------------------------------------------------------------------------------------------------

theorem rdcFind_rdcDrop (s : State) (die rgn a : Nat) :
    rdcFind (rdcDrop s (fun y => y.die == die && y.rgn == rgn && y.addr == a / 128 * 128)) die rgn a = none := by
  rw [rdcFind, rdcDrop, List.find?_eq_none]
  exact fun x hx => Bool.eq_false_iff.1 (by simpa only [Bool.not_eq_true'] using (List.mem_filter.1 hx).2)

theorem rdcFind_rdcFill (s : State) (die rgn a : Nat) : rdcFind (rdcFill s die rgn a) die rgn a ≠ none := by
  rw [rdcFind, rdcFill]
  dsimp only
  rw [List.find?_append]
  cases (rdcRoom s die).rdc.find? _ <;> simp

theorem rdcFind_congr (h : t.rdc = s.rdc) (die rgn : Nat) : rdcFind t die rgn a = rdcFind s die rgn a := by rw [rdcFind, rdcFind, h]

theorem rdcRoom_frame (s : State) (die : Nat) : ∃ r, rdcRoom s die = { s with rdc := r } := by
  unfold rdcRoom
  split
  · exact ⟨s.rdc, rfl⟩
  · split
    · exact ⟨_, rfl⟩
    · exact ⟨s.rdc, rfl⟩

theorem rdcFill_frame (s : State) (die rgn a : Nat) : ∃ r, rdcFill s die rgn a = { s with rdc := r } := by
  obtain ⟨r, hr⟩ := rdcRoom_frame s die
  rw [rdcFill, hr]
  exact ⟨_, rfl⟩

end
end Sys2Proof.Machine
end

section
/-! PROOFS. O40, loads: how a load is answered (R161, R167, R169, R257, R258, R262, R263; logs 112, 129, 131, 145). -/
namespace Sys2Proof.Machine
open Sys2Proof.Claim

-- Answers at a port (R167) ---------------------------------------------------------------------------------------------------------------

section
variable {s t : State} {e : Elem} {u p : Nat} {r : Req} {rest : List Req} {x : LqEntry}

theorem port_unbound (e : Elem) (h : 4 ≤ p) : e.port p = Port.unbound := by
  rw [Elem.port, List.getD_eq_getElem?_getD, List.getElem?_eq_none (by rwa [Vector.length_toList])]
  rfl

theorem port_lt_of_reqs (h : (e.port p).reqs = r :: rest) : p < 4 := by
  refine Nat.not_le.1 fun hp => ?_
  rw [port_unbound e hp] at h
  exact List.cons_ne_nil _ _ h.symm

/-- What an answer leaves of its agent: the request is gone, and its entry stands at the end of the load queue. -/
theorem answer_frame (hr : (e.port p).reqs = r :: rest) (x : LqEntry) :
    ((answer e p x).port p).reqs = rest ∧ ((answer e p x).port p).lq = (e.port p).lq ++ [x]
      ∧ ((answer e p x).port p).outst = (e.port p).outst - 1
      ∧ (∀ q, q ≠ p → (answer e p x).port q = e.port q) ∧ (answer e p x).s = e.s := by
  have hp : (answer e p x).port p =
      { e.port p with reqs := (e.port p).reqs.drop 1, lq := (e.port p).lq ++ [x], outst := (e.port p).outst - 1 } := by
    rw [answer, port_setPort, if_pos ⟨rfl, port_lt_of_reqs hr⟩]
  rw [hp, hr]
  exact ⟨rfl, rfl, rfl, fun q hq => by rw [answer, port_setPort, if_neg fun h => hq h.1], rfl⟩

theorem updElem_at (he : s.elems[u]? = some e) (ht : t.elems = s.elems) (g : Elem → Elem) : (t.updElem u g).elems[u]? = some (g e) := by
  rw [updElem_elems, List.getElem?_modify, ht, he]
  exact congrArg some (if_pos rfl)

theorem loadResponse_step (he : s.elems[u]? = some e) (hr : (e.port p).reqs = r :: rest) (hs : r.stamp = none) :
    Steps (.loadResponse u p) s (loadAnswer s u p e r) := by
  show execLoadResponse u p s = _
  rw [execLoadResponse, onElem, he]
  dsimp only
  rw [hr]
  dsimp only
  rw [hs]
  rfl

end

-- What an agent sees of a granule (R169, R262) --------------------------------------------------------------------------------------------

section
variable {sb : List PStore} {before base : Nat}

/-- An agent's own store over what stands before it. -/
def ownStep (before base : Nat) (r : Reg) (p : PStore) : Reg :=
  if p.base = base ∧ p.seq < before ∧ p.reg = none then
    let bit (old own late : Bool) : Bool := if p.marks then !isHost base && p.bit old own late else old
    { pay := mix r.pay p.data p.mask, pz := bit r.pz p.pz p.lpz, tn := bit r.tn p.tn p.ltn }
  else r

theorem ownView_eq (sb : List PStore) (before base : Nat) (r : Reg) : ownView sb before base r = sb.foldl (ownStep before base) r := rfl

theorem ownStep_pay (r : Reg) (p : PStore) : (ownStep before base r p).pay =
    if p.base = base ∧ p.seq < before ∧ p.reg = none then mix r.pay p.data p.mask else r.pay := by
  unfold ownStep
  split <;> rfl

/-- The bytes and the taint that an agent sees do not depend on the poison of what memory answered. -/
theorem ownView_free (sb : List PStore) (before base : Nat) : ∀ g h : Reg, g.pay = h.pay → g.tn = h.tn →
    (ownView sb before base g).pay = (ownView sb before base h).pay ∧ (ownView sb before base g).tn = (ownView sb before base h).tn := by
  induction sb with
  | nil => exact fun g h hp ht => ⟨hp, ht⟩
  | cons p sb ih =>
    intro g h hp ht
    refine ih (ownStep before base g p) (ownStep before base h p) ?_ ?_
    · rw [ownStep_pay, ownStep_pay, hp]
    · unfold ownStep
      split
      · dsimp only
        rw [ht]
      · exact ht

theorem mix_getLsbD (old new mask : BitVec 512) {i : Nat} (hi : i < 512) :
    (mix old new mask).getLsbD i = if mask.getLsbD i then new.getLsbD i else old.getLsbD i := by
  rw [mix, BitVec.getLsbD_or, BitVec.getLsbD_and, BitVec.getLsbD_and, BitVec.getLsbD_not, decide_eq_true hi]
  cases mask.getLsbD i <;> simp

/-- A store that an agent's view of a bit takes (R262). -/
def ownsBit (before base i : Nat) (p : PStore) : Prop := p.base = base ∧ p.seq < before ∧ p.reg = none ∧ p.mask.getLsbD i = true

theorem ownStep_bit (r : Reg) {p : PStore} {i : Nat} (hi : i < 512) :
    (ownsBit before base i p → (ownStep before base r p).pay.getLsbD i = p.data.getLsbD i)
    ∧ (¬ ownsBit before base i p → (ownStep before base r p).pay.getLsbD i = r.pay.getLsbD i) := by
  rw [ownStep_pay]
  refine ⟨fun ⟨hb, hq, hr, hm⟩ => ?_, fun h => ?_⟩
  · rw [if_pos ⟨hb, hq, hr⟩, mix_getLsbD _ _ _ hi, if_pos hm]
  · split
    · next hp => rw [mix_getLsbD _ _ _ hi, if_neg fun hm => h ⟨hp.1, hp.2.1, hp.2.2, hm⟩]
    · rfl

theorem ownView_none {i : Nat} (hi : i < 512) : ∀ r : Reg, (∀ p ∈ sb, ¬ ownsBit before base i p) →
    (ownView sb before base r).pay.getLsbD i = r.pay.getLsbD i := by
  induction sb with
  | nil => exact fun r _ => rfl
  | cons p sb ih =>
    intro r h
    exact (ih (ownStep before base r p) fun q hq => h q (List.mem_cons_of_mem p hq)).trans ((ownStep_bit r hi).2 (h p List.mem_cons_self))

theorem ownStoresSeen : Claim.OwnStoresSeen := by
  intro sb before base r i hi mine
  refine ⟨ownView_none hi r, fun l p l' hsb hp hlast => ?_⟩
  subst hsb
  rw [ownView_eq, List.foldl_append, List.foldl_cons]
  exact (ownView_none hi _ hlast).trans ((ownStep_bit _ hi).1 hp)

end

section
variable {s : State} {die rgn base pol tcl : Nat} {skip : Bool}

-- Granules at their home (R161, R255, R257) -----------------------------------------------------------------------------------------------

theorem homeGran_congr {t : State} (h : CachesOnly s t) (hl : l2Bad t base = l2Bad s base) : homeGran t base = homeGran s base := by
  rw [homeGran, homeGran, h.mem, h.gpz, h.gtn, h.bad, hl]

/-- The caches as a read that goes to the home leaves them before it: what the remote-data cache holds of the sector (R257, R258). -/
def readFrom (s : State) (die rgn base pol : Nat) (skip : Bool) : State :=
  if isLocal die base then s
  else
    match rdcFind s die rgn base with
    | some _ => rdcDrop s (fun y => y.die == die && y.rgn == rgn && y.addr == base / 128 * 128)
    | none => if (pol = 0 ∨ pol = 2) ∧ !skip then rdcFill s die rgn base else s

theorem readFrom_frame (s : State) (die rgn base pol : Nat) (skip : Bool) : ∃ l, readFrom s die rgn base pol skip = { s with rdc := l } := by
  unfold readFrom
  split
  · exact ⟨s.rdc, rfl⟩
  · split
    · exact ⟨_, rfl⟩
    · split
      · exact rdcFill_frame s die rgn base
      · exact ⟨s.rdc, rfl⟩

section
variable (hb : s.bad.contains (base / 64) = false) (hl : l2Bad s base = false)
include hb hl

/-- A read at the home of a granule without an error answers what the home holds. -/
theorem homeRead_clean (rgn : Nat) (l : List RdcSec) : (let t := l2Serve { s with rdc := l } base pol tcl
    (eccNote t base rgn, homeGran t base)) = (l2Serve { s with rdc := l } base pol tcl, homeGran s base) := by
  have hs := (l2Serve_slices { s with rdc := l } base pol tcl).caches
  have hbad : l2Bad (l2Serve { s with rdc := l } base pol tcl) base = false := l2Bad_l2Serve (s := { s with rdc := l }) hl pol tcl
  have hg : homeGran { s with rdc := l } base = homeGran s base := rfl
  dsimp only
  rw [eccNote_clean rgn (by rw [hs.bad]; exact hb) hbad, homeGran_congr hs (hbad.trans hl.symm), hg]

theorem readGran_direct (hd : isLocal die base = true ∨ (skip = true ∨ pol = 3) ∨ rdcFind s die rgn base = none) :
    readGran s die rgn base pol tcl skip = (l2Serve (readFrom s die rgn base pol skip) base pol tcl, homeGran s base) := by
  obtain ⟨l, hf⟩ := readFrom_frame s die rgn base pol skip
  refine Eq.trans ?_ (hf ▸ homeRead_clean hb hl rgn l)
  rw [readGran, readFrom]
  cases hlocal : isLocal die base with
  | true => rfl
  | false =>
    cases hk : rdcFind s die rgn base with
    | none => rfl
    | some x =>
      have hd : pol = 3 ∨ skip = true := by simpa [hlocal, hk, or_comm] using hd
      exact if_pos hd

end

theorem readGran_hit {x : RdcSec} (hd : ¬ (isLocal die base = true ∨ (skip = true ∨ pol = 3) ∨ rdcFind s die rgn base = none))
    (hk : rdcFind s die rgn base = some x) : readGran s die rgn base pol tcl skip = rdcHit s die rgn base x := by
  obtain ⟨hlocal, hby, -⟩ : isLocal die base = false ∧ ¬ (skip = true ∨ pol = 3) ∧ _ := by
    simpa only [not_or, Bool.not_eq_true] using hd
  rw [readGran, hlocal, hk]
  exact if_neg fun h => hby (Or.symm h)

theorem rdcHit_sound {x : RdcSec} (hx : x.bad = false) : rdcHit s die rgn base x = (s, x.gran base) := by
  rw [rdcHit, hx]
  rfl

theorem rdcHit_broken {x : RdcSec} (hx : x.bad = true) : (rdcHit s die rgn base x).2 = { x.gran base with pz := true } := by
  rw [rdcHit, hx]
  rfl

-- Copies (R257, R258) ---------------------------------------------------------------------------------------------------------------------

theorem readFrom_copied (hr : isLocal die base = false) (hp : pol = 0 ∨ pol = 2) (hby : ¬ (skip = true ∨ pol = 3))
    (hk : rdcFind s die rgn base = none) : rdcFind (readFrom s die rgn base pol skip) die rgn base ≠ none := by
  obtain ⟨hskip, -⟩ := not_or.1 hby
  rw [readFrom, hr, hk]
  dsimp only
  rw [if_neg Bool.false_ne_true, if_pos ⟨hp, by rw [Bool.not_eq_true] at hskip; rw [hskip]; rfl⟩]
  exact rdcFind_rdcFill s die rgn base

theorem readFrom_dropped (hr : isLocal die base = false) (hp : pol = 1 ∨ skip = true ∨ pol = 3) :
    rdcFind (readFrom s die rgn base pol skip) die rgn base = none := by
  have hp : ¬ ((pol = 0 ∨ pol = 2) ∧ (!skip) = true) := by
    rintro ⟨h, hs⟩
    obtain rfl | rfl | rfl := hp
    · omega
    · exact Bool.false_ne_true hs
    · omega
  rw [readFrom, hr, if_neg Bool.false_ne_true]
  split
  · exact rdcFind_rdcDrop s die rgn base
  · next hk => rwa [if_neg hp]

end

section
variable {s : State} {e : Elem} {u p : Nat} {r : Req}

theorem loadWord_poisoned (e : Elem) (r : Req) (g : Reg) : loadWord e r { g with pz := true } =
    { loadWord e r g with pz := (ownView e.ag.sb r.before (granBase r.addr) { g with pz := true }).pz || r.pz } := by
  obtain ⟨hpay, htn⟩ := ownView_free e.ag.sb r.before (granBase r.addr) { g with pz := true } g rfl rfl
  rw [loadWord, loadWord]
  dsimp only
  rw [hpay, htn]

/-- A load that memory answers (R161, R167). -/
theorem loadAnswer_served (hstt : (s.region e.rgn).stt < 5) (hs : r.skip = false) (ho : olderHere e r = false)
    (hh : homeHeld s e.die r.addr = false) : loadAnswer s u p e r =
    (let x := readGran s e.die e.rgn (granBase r.addr) r.pol r.tcl r.home
     (pinFor x.1 (.el u) e.die (granBase r.addr) r.pol r.tcl).updElem u
      (fun y => answer y p { word := loadWord e r x.2, old := none })) := by
  rw [loadAnswer, if_neg (Nat.not_le.2 hstt), hs, if_neg Bool.false_ne_true, ho, hh]
  rfl

theorem loadAnswer_waits (hstt : (s.region e.rgn).stt < 5) (hs : r.skip = false)
    (h : olderHere e r = true ∨ homeHeld s e.die r.addr = true) : loadAnswer s u p e r = s := by
  rw [loadAnswer, if_neg (Nat.not_le.2 hstt), hs, if_neg Bool.false_ne_true, if_pos (Bool.or_eq_true_iff.2 h)]

theorem loadAnswer_skipped (hstt : (s.region e.rgn).stt < 5) (hs : r.skip = true) : loadAnswer s u p e r =
    s.spend.setUnit (.el u)
      (answer e p { word := { CWord.zero with pay := Config.freePayload s.freeCtr, pz := true, tn := r.tn }, old := none }) := by
  rw [loadAnswer, if_neg (Nat.not_le.2 hstt), if_pos hs]

end

theorem loadsAnswered : Claim.LoadsAnswered := by
  intro s u p e r rest he hreq hst hstt hbad hl2 base bypass ways kept got word copied direct served
  have hstep := loadResponse_step he hreq hst
  have hgran : s.bad.contains (base / 64) = false := by rwa [Nat.mul_div_cancel _ (by decide)]
  have gotten {w : CWord} {Q : State → Prop} {t : State} (h : loadAnswer s u p e r = t)
      (ht : t.elems[u]? = some (answer e p { word := w, old := none })) (hq : Q t) : got w Q := by
    obtain ⟨h1, h2, h3, h4, h5⟩ := answer_frame hreq { word := w, old := none }
    exact ⟨t, _, h ▸ hstep, ht, h1, h2, h3, h4, h5, hq⟩
  refine ⟨fun ⟨hs, ho, hh⟩ hd => ?direct, fun x ⟨hs, ho, hh⟩ hd hk hx => ?hit, fun x ⟨hs, ho, hh⟩ hd hk hx => ?broken, fun hs => ?skip,
    fun hs h => ?waits⟩
  case direct =>
    have ha := loadAnswer_served (u := u) (p := p) hstt hs ho hh
    dsimp only at ha
    rw [show granBase r.addr = base from rfl, readGran_direct hgran hl2 hd] at ha
    obtain ⟨l, hl⟩ := readFrom_frame s e.die e.rgn base r.pol r.home
    have hserve := l2Serve_slices (readFrom s e.die e.rgn base r.pol r.home) base r.pol r.tcl
    have hpin := pinFor_slices (l2Serve (readFrom s e.die e.rgn base r.pol r.home) base r.pol r.tcl) (.el u) e.die base r.pol r.tcl
    have hall := hserve.trans hpin
    have hfrom : CachesOnly s (readFrom s e.die e.rgn base r.pol r.home) := ⟨_, _, _, l, _, _, hl⟩
    have hcaches := hfrom.trans hall.caches
    have hcopied := rdcFind_congr (a := base) hall.rdc e.die e.rgn
    refine gotten ha (updElem_at he hcaches.elems _) ⟨hcaches.mem, fun hr hp hby => ?_, fun hr hp => ?_, fun hp hb hw hne => ?_⟩
    · have hk : kept = none := (hd.resolve_left (by rw [hr]; exact Bool.false_ne_true)).resolve_left hby
      exact fun h => readFrom_copied hr hp hby hk (hcopied.symm.trans h)
    · exact fun h => h (hcopied.trans (readFrom_dropped hr hp))
    · refine l2Find_pinFor ?_ (.el u) e.die r.pol r.tcl
      refine l2Serve_finds hp hb ?_ ?_
      · rw [hl]
        exact hw
      · rw [hl]
        exact hne
  case hit =>
    have ha := loadAnswer_served (u := u) (p := p) hstt hs ho hh
    dsimp only at ha
    rw [show granBase r.addr = base from rfl, readGran_hit hd hk, rdcHit_sound hx] at ha
    have hpin := (pinFor_slices s (.el u) e.die base r.pol r.tcl).caches
    exact gotten ha (updElem_at he hpin.elems _) hpin.mem
  case broken =>
    have ha := loadAnswer_served (u := u) (p := p) hstt hs ho hh
    dsimp only at ha
    rw [show granBase r.addr = base from rfl, readGran_hit hd hk] at ha
    have hpin := (pinFor_slices (rdcHit s e.die e.rgn base x).1 (.el u) e.die base r.pol r.tcl).caches
    refine gotten ha ?_ trivial
    rw [updElem_at he (hpin.elems.trans (rdcHit_elems s _ _ _ _)), rdcHit_broken hx, loadWord_poisoned]
    rfl
  case skip =>
    refine ⟨Config.freePayload s.freeCtr, gotten (loadAnswer_skipped hstt hs) ?_ rfl⟩
    exact unit_setUnit (s := s.spend) (u := .el u) he _
  case waits => exact hstep.trans (congrArg _ (loadAnswer_waits hstt hs h))

end Sys2Proof.Machine
end

section
/-! PROOFS. O40, stamped loads: the version that a stamp receives (R172, R173). -/
namespace Sys2Proof.Machine
open Sys2Proof.Claim

-- What stores that land may change (R161, R258, R262) -------------------------------------------------------------------------------------

/-- Two states that differ in memory, in its meta bits and errors and in what caches hold of it, and in nothing else. -/
def LandsOnly (s t : State) : Prop :=
  ∃ (mem : List Host.Cell) (gpz gtn bad : List Nat) (rdc : List RdcSec) (l2 : List L2Sec) (ctr : Nat),
    t = { s with mem := mem, gpz := gpz, gtn := gtn, bad := bad, rdc := rdc, l2 := l2, freeCtr := ctr }

namespace LandsOnly
variable {s t u : State}

theorem refl (s : State) : LandsOnly s s := ⟨_, _, _, _, _, _, _, rfl⟩

theorem trans (h : LandsOnly s t) (k : LandsOnly t u) : LandsOnly s u := by
  obtain ⟨_, _, _, _, _, _, _, rfl⟩ := h
  obtain ⟨_, _, _, _, _, _, _, rfl⟩ := k
  exact ⟨_, _, _, _, _, _, _, rfl⟩

section
variable (h : LandsOnly s t)
include h

theorem elems : t.elems = s.elems := by obtain ⟨_, _, _, _, _, _, _, rfl⟩ := h; rfl
theorem wet : t.wet = s.wet := by obtain ⟨_, _, _, _, _, _, _, rfl⟩ := h; rfl
theorem regions : t.regions = s.regions := by obtain ⟨_, _, _, _, _, _, _, rfl⟩ := h; rfl
theorem migr : t.migr = s.migr := by obtain ⟨_, _, _, _, _, _, _, rfl⟩ := h; rfl
theorem verOf (a : Nat) : t.verOf a = s.verOf a := by obtain ⟨_, _, _, _, _, _, _, rfl⟩ := h; rfl
theorem unit (n : UnitId) : t.unit n = s.unit n := by obtain ⟨_, _, _, _, _, _, _, rfl⟩ := h; cases n <;> rfl

end
end LandsOnly

section
variable (s : State)

theorem landBytes_lands (base : Nat) (data mask : BitVec 512) : LandsOnly s (landBytes s base data mask) := by
  unfold landBytes
  generalize memWrite s.mem base _ = m
  exact ⟨_, _, _, _, _, _, _, rfl⟩

theorem granBits_lands (base : Nat) (whole pz tn : Bool) : LandsOnly s (granBits s base whole pz tn) := by
  unfold granBits
  dsimp only
  split
  · exact .refl s
  · split
    · split
      · exact ⟨_, _, _, _, _, _, _, rfl⟩
      · exact ⟨_, _, _, _, _, _, _, rfl⟩
    · exact ⟨_, _, _, _, _, _, _, rfl⟩

theorem dropCopies_lands (die : Option Nat) (base : Nat) : LandsOnly s (dropCopies s die base) := by
  cases die with
  | none => exact .refl s
  | some d => exact ⟨_, _, _, _, _, _, _, rfl⟩

theorem landGran_lands (die : Option Nat) (base : Nat) (data mask : BitVec 512) (whole pz tn : Bool) :
    LandsOnly s (landGran s die base data mask whole pz tn) :=
  ((landBytes_lands s base data mask).trans (granBits_lands _ base whole pz tn)).trans (dropCopies_lands _ die base)

-- Stores that dry (R171, R172) ------------------------------------------------------------------------------------------------------------

/-- The version of a sector that a store which dries pushes back (R171). -/
def priorVer (s : State) (w : Wet) : OldVer :=
  let b := w.base / 128 * 128
  let g0 := homeGran s b
  let g1 := homeGran s (b + 64)
  { data := g1.pay ++ g0.pay, stamp := (s.verOf w.base).stamp, pz := BitVec.ofBool g1.pz ++ BitVec.ofBool g0.pz,
    tn := BitVec.ofBool g1.tn ++ BitVec.ofBool g0.tn }

/-- The state in which the sector of a store that dries has its new version, and memory its bytes. -/
def driedGran (s : State) (w : Wet) : State :=
  landGran { s with vers := Tab.set s.vers (w.base / 128) { stamp := w.stamp, prev := some (priorVer s w) } } none w.base w.data w.mask
    (w.mask == wholeMask) w.pz w.tn

theorem dryOne_eq (w : Wet) : dryOne s w = if (s.verOf w.base).stamp = w.stamp then
    { driedGran s w with gtn := granSet (granSet (driedGran s w).gtn (w.base / 128 * 128 / 64) true) (w.base / 128 * 128 / 64 + 1) true }
    else driedGran s w := rfl

theorem driedGran_lands (w : Wet) :
    LandsOnly { s with vers := Tab.set s.vers (w.base / 128) { stamp := w.stamp, prev := some (priorVer s w) } } (driedGran s w) :=
  landGran_lands _ _ _ _ _ _ _ _

theorem dryOne_lands (w : Wet) :
    LandsOnly { s with vers := Tab.set s.vers (w.base / 128) { stamp := w.stamp, prev := some (priorVer s w) } } (dryOne s w) := by
  have h := driedGran_lands s w
  rw [dryOne_eq]
  split
  · exact h.trans ⟨_, _, _, _, _, _, _, rfl⟩
  · exact h

end

theorem foldl_dryOne (l : List Wet) : ∀ s : State, (l.foldl dryOne s).elems = s.elems ∧ (l.foldl dryOne s).wet = s.wet := by
  induction l with
  | nil => exact fun s => ⟨rfl, rfl⟩
  | cons w l ih =>
    intro s
    obtain ⟨he, hw⟩ := ih (dryOne s w)
    exact ⟨he.trans (dryOne_lands s w).elems, hw.trans (dryOne_lands s w).wet⟩

theorem dryDie_elems (s : State) (d : Nat) : (dryDie s d).elems = s.elems := (foldl_dryOne _ _).1

section
variable {s t : State} {e : Elem} {u p st base : Nat} {r : Req} {rest : List Req}

-- Versions (R173) -------------------------------------------------------------------------------------------------------------------------

theorem verAt_current (h : (s.verOf base).stamp ≤ st) : verAt s base st = some (homeGran s base) := by
  rw [verAt]
  exact if_pos h

/-- The granule of an address in a version before. -/
def OldVer.gran (o : OldVer) (base : Nat) : Reg :=
  { pay := o.data.extractLsb' (512 * (base / 64 % 2)) 512, pz := o.pz.getLsbD (base / 64 % 2), tn := o.tn.getLsbD (base / 64 % 2) }

theorem verAt_older (h : st < (s.verOf base).stamp) :
    verAt s base st = (s.verOf base).prev.bind (fun o => if o.stamp ≤ st then some (o.gran base) else none) := by
  rw [verAt]
  refine (if_neg (Nat.not_le.2 h)).trans ?_
  cases (s.verOf base).prev <;> rfl

theorem verAt_previous (h : st < (s.verOf base).stamp) {o : OldVer} (ho : (s.verOf base).prev = some o) (hs : o.stamp ≤ st) :
    verAt s base st = some (o.gran base) := by
  rw [verAt_older h, ho]
  exact if_pos hs

theorem verAt_none (h : st < (s.verOf base).stamp) (ho : ∀ o, (s.verOf base).prev = some o → st < o.stamp) : verAt s base st = none := by
  rw [verAt_older h]
  cases hp : (s.verOf base).prev with
  | none => rfl
  | some o => exact if_neg (Nat.not_le.2 (ho o hp))

theorem verAt_congr (h : CachesOnly s t) (hl : l2Bad t base = l2Bad s base) (st : Nat) : verAt t base st = verAt s base st := by
  rw [verAt, verAt, h.verOf, homeGran_congr h hl]

-- Answers (R173) --------------------------------------------------------------------------------------------------------------------------

/-- The entry that a stamped load brings. -/
def stampedEntry (s : State) (r : Req) (st : Nat) : LqEntry :=
  match verAt s (granBase r.addr) st with
  | some g => { word := { pay := g.pay &&& lowMask r.valid, lr := false, ls := false, pz := g.pz || r.pz, tn := g.tn || r.tn }, old := none }
  | none => { word := { CWord.zero with pz := r.pz, tn := r.tn }, old := some (st, r.ctr) }

theorem tldaServe_step (he : s.elems[u]? = some e) (hr : (e.port p).reqs = r :: rest) (hs : r.stamp = some st) :
    Steps (.tldaHomeServe u p) s (tldaAnswer s u p e r st) := by
  show execTldaHomeServe u p s = _
  rw [execTldaHomeServe, onElem, he]
  dsimp only
  rw [hr]
  dsimp only
  rw [hs]

theorem tldaAnswer_waits (hstt : (s.region e.rgn).stt < 5)
    (h : (s.die (homeDie r.addr)).early ≤ st ∨ homeHeld s e.die r.addr = true) : tldaAnswer s u p e r st = s := by
  rw [tldaAnswer]
  dsimp only
  rw [if_neg (Nat.not_le.2 hstt), if_pos h]

/-- A stamped load is answered from the versions that its home die's clock leaves. -/
theorem tldaAnswer_served (hstt : (s.region e.rgn).stt < 5) (he : st < (s.die (homeDie r.addr)).early) (hh : homeHeld s e.die r.addr = false)
    (hb : (dryDie s (homeDie r.addr)).bad.contains (granBase r.addr / 64) = false)
    (hl : l2Bad (dryDie s (homeDie r.addr)) (granBase r.addr) = false) :
    tldaAnswer s u p e r st = (agentFill (dryDie s (homeDie r.addr)) (.el u) e.die (granBase r.addr) r.pol r.tcl).updElem u
      (fun y => answer y p (stampedEntry (dryDie s (homeDie r.addr)) r st)) := by
  have hfill := (agentFill_slices (dryDie s (homeDie r.addr)) (.el u) e.die (granBase r.addr) r.pol r.tcl).caches
  have hbad : l2Bad (agentFill (dryDie s (homeDie r.addr)) (.el u) e.die (granBase r.addr) r.pol r.tcl) (granBase r.addr) = false :=
    l2Bad_pinFor (l2Bad_l2Serve hl r.pol r.tcl) (.el u) e.die r.pol r.tcl
  have hver := verAt_congr hfill (hbad.trans hl.symm) st
  rw [tldaAnswer]
  dsimp only
  rw [if_neg (Nat.not_le.2 hstt), if_neg (by rw [hh, not_or]; exact ⟨Nat.not_le.2 he, Bool.false_ne_true⟩),
    eccNote_clean e.rgn (by rw [hfill.bad]; exact hb) hbad, hver]
  rfl

end

theorem stampedLoads : Claim.StampedLoads := by
  intro s u p st e r rest he hreq hst hstt base d s1 v word got
  have hstep := tldaServe_step he hreq hst
  refine ⟨fun h => hstep.trans (congrArg _ (tldaAnswer_waits hstt h)), fun hearly hh hb hl => ?_⟩
  have hgran : s1.bad.contains (base / 64) = false := by rwa [Nat.mul_div_cancel _ (by decide)]
  have hfill := (agentFill_slices s1 (.el u) e.die base r.pol r.tcl).caches
  have gotten {x : LqEntry} (hx : stampedEntry s1 r st = x) : got x := by
    subst hx
    obtain ⟨h1, h2, h3, -, -⟩ := answer_frame hreq (stampedEntry s1 r st)
    exact ⟨_, _, hstep.trans (congrArg _ (tldaAnswer_served hstt hearly hh hgran hl)),
      updElem_at he (hfill.elems.trans (dryDie_elems s d)) _, h1, h2, h3, hfill.mem⟩
  refine ⟨fun hv => gotten ?_, fun o hv ho hs => gotten ?_, fun hv ho => gotten ?_⟩
  · rw [stampedEntry, show granBase r.addr = base from rfl, verAt_current hv]
    rfl
  · rw [stampedEntry, show granBase r.addr = base from rfl, verAt_previous hv ho hs]
    rfl
  · rw [stampedEntry, show granBase r.addr = base from rfl, verAt_none hv ho]

/-- Settles O40: answers at the home or from a copy, the agent's own stores over them, and the versions of a stamp. -/
theorem loadsServed : Obligations.LoadsServed := ⟨loadsAnswered, ownStoresSeen, stampedLoads⟩

end Sys2Proof.Machine
end

section
/-! PROOFS. O41: stores are accepted, arrive and dry (R171, R172, R179, R180, R258, R262, R263; logs 131, 145). -/
namespace Sys2Proof.Machine
open Sys2Proof.Claim

-- Units of the module -------------------------------------------------------------------------------------------------------------------

section
variable {s t : State} {e x : Elem}

theorem unit_setUnit_other {a v : UnitId} (h : v ≠ a) (y : Elem) : (s.setUnit a y).unit v = s.unit v := by
  cases a with
  | el n =>
    cases v with
    | el m =>
      have hm : n ≠ m := fun hm => h (by rw [hm])
      exact List.getElem?_set_ne hm
    | fc m => rfl
  | fc n =>
    cases v with
    | el m => rfl
    | fc m =>
      have hm : n ≠ m := fun hm => h (by rw [hm])
      dsimp only [State.unit, State.setUnit]
      rw [Vector.getElem?_setIfInBounds_ne hm]

-- What waits for no removal and no migration (R360, R390) ---------------------------------------------------------------------------------

theorem resetAll_none (h : NoReset s) : resetAll s = s := by
  rw [resetAll, List.filter_eq_nil_iff.2 fun p hp => by simpa using h p hp]
  rfl

theorem settleMigr_none (h : s.migr = []) : settleMigr s = s := by
  rw [settleMigr, h]
  rfl

theorem noReset_congr (h : t.regions = s.regions) (hs : NoReset s) : NoReset t := by rwa [NoReset, h]

/-- A unit replaced changes no memory, no bits of it, no region and no migration. -/
theorem setUnit_frame (s : State) (a : UnitId) (y : Elem) : (s.setUnit a y).regions = s.regions ∧ (s.setUnit a y).migr = s.migr
    ∧ (s.setUnit a y).mem = s.mem ∧ (s.setUnit a y).gpz = s.gpz ∧ (s.setUnit a y).gtn = s.gtn := by
  cases a <;> exact ⟨rfl, rfl, rfl, rfl, rfl⟩

-- Bytes of a granule (R262) -----------------------------------------------------------------------------------------------------------------

theorem extract_ofNat_byte (v : Payload) (k : Nat) : BitVec.ofNat 8 (v.toNat / 2 ^ (8 * k)) = v.extractLsb' (8 * k) 8 := by
  apply BitVec.eq_of_toNat_eq
  rw [BitVec.toNat_ofNat, BitVec.extractLsb'_toNat, Nat.shiftRight_eq_div_pow]

/-- The bytes that a store leaves of a granule. -/
def landedBytes (s : State) (base : Nat) (data mask : BitVec 512) : List Byte :=
  littleBytes 64 (mix (memPay s.mem base) data mask).toNat

theorem landedBytes_length (s : State) (base : Nat) (data mask : BitVec 512) : (landedBytes s base data mask).length = 64 :=
  littleBytes_length 64 _

theorem landBytes_mem (s : State) (base : Nat) (data mask : BitVec 512) :
    (landBytes s base data mask).mem = memWrite s.mem base (landedBytes s base data mask) := by
  unfold landBytes landedBytes
  generalize littleBytes 64 _ = l
  rfl

theorem landBytes_granule (hs : memWf s.mem = true) (base : Nat) (data mask : BitVec 512) :
    Granule (landBytes s base data mask) base (mix (memPay s.mem base) data mask) := by
  intro k hk
  have hget : (landedBytes s base data mask)[k]'(by rwa [landedBytes_length]) = _ := littleBytes_get 64 _ k hk
  rw [landBytes_mem, ← extract_ofNat_byte, ← hget]
  exact memGet_memWrite _ base k (by rwa [landedBytes_length]) hs

theorem landBytes_outside (hs : memWf s.mem = true) (base : Nat) (data mask : BitVec 512) :
    SameOutside base 64 s (landBytes s base data mask) := by
  intro k hk
  rw [landBytes_mem]
  exact memGet_memWrite_outside _ base k hs (by rwa [landedBytes_length])

theorem granule_congr {base : Nat} {v : Payload} (h : t.mem = s.mem) (hg : Granule s base v) : Granule t base v := by
  rwa [Granule, h]

end

-- Bits of a granule (R161, R255) ---------------------------------------------------------------------------------------------------------

section
variable {s : State} {base : Nat} {whole pz tn : Bool}

theorem cureGran_bits (s : State) (g : Nat) : (cureGran s g).gpz = s.gpz ∧ (cureGran s g).gtn = s.gtn := ⟨rfl, rfl⟩

theorem granBits_whole (hh : isHost base = false) (hw : whole = true) :
    (granBits s base whole pz tn).gpz = granSet s.gpz (base / 64) pz ∧ (granBits s base whole pz tn).gtn = granSet s.gtn (base / 64) tn := by
  rw [granBits, hh, if_neg Bool.false_ne_true, if_pos hw]
  dsimp only
  split
  · exact cureGran_bits _ _
  · exact ⟨rfl, rfl⟩

theorem granBits_part (hh : isHost base = false) (hw : whole = false) :
    (granBits s base whole pz tn).gpz = granSet s.gpz (base / 64) (s.gpz.contains (base / 64) || pz)
      ∧ (granBits s base whole pz tn).gtn = granSet s.gtn (base / 64) (s.gtn.contains (base / 64) || tn) := by
  rw [granBits, hh, hw]
  exact ⟨rfl, rfl⟩

theorem not_host_of_hbm {a : Nat} (h : isHbm a = true) : isHost a = false := by
  rw [isHbm, decide_eq_true_iff] at h
  rw [isHost, beq_eq_false_iff_ne]
  omega

end

-- A store lands (R262, R263; log 131) -------------------------------------------------------------------------------------------------------

section
variable {s : State} {die : Option Nat} {p : PStore}

/-- The stores of other agents that a store overwrites, as the state keeps them. -/
theorem supersede_frame (s : State) (p : PStore) : ∃ l, supersede s p =
    { s with elems := s.elems.map (fun e => e.overwritten p), cores := s.cores.map (fun e => e.overwritten p), rdc := l } := by
  unfold supersede
  extract_lets hit t
  split
  · exact ⟨_, rfl⟩
  · exact ⟨_, rfl⟩

theorem supersede_unit (s : State) (p : PStore) (v : UnitId) : (supersede s p).unit v = (s.unit v).map (fun e => e.overwritten p) := by
  obtain ⟨l, hl⟩ := supersede_frame s p
  rw [hl]
  cases v with
  | el n => exact List.getElem?_map
  | fc n =>
    dsimp only [State.unit]
    split
    · rfl
    · rw [Vector.getElem?_map]

/-- What a store does to the granule's bits. -/
def markedBits (s : State) (p : PStore) : State :=
  if p.marks then granBits s p.base p.whole (p.bit false p.pz p.lpz) (p.bit false p.tn p.ltn) else s

theorem landStore_eq : landStore s die p = dropCopies (markedBits (landBytes (supersede s p) p.base p.data p.mask) p) die p.base := rfl

theorem markedBits_lands (s : State) (p : PStore) : LandsOnly s (markedBits s p) := by
  unfold markedBits
  split
  · exact granBits_lands s _ _ _ _
  · exact .refl s

theorem landStore_lands (s : State) (die : Option Nat) (p : PStore) : LandsOnly (supersede s p) (landStore s die p) :=
  ((landBytes_lands _ p.base p.data p.mask).trans (markedBits_lands _ p)).trans (dropCopies_lands _ die p.base)

theorem dropCopies_same (s : State) (die : Option Nat) (base : Nat) : (dropCopies s die base).mem = s.mem
    ∧ (dropCopies s die base).gpz = s.gpz ∧ (dropCopies s die base).gtn = s.gtn := by
  cases die <;> exact ⟨rfl, rfl, rfl⟩

theorem markedBits_mem (s : State) (p : PStore) : (markedBits s p).mem = s.mem := by
  unfold markedBits
  split
  · exact granBits_mem _ _ _ _ _
  · rfl

theorem landStore_mem (s : State) (die : Option Nat) (p : PStore) :
    (landStore s die p).mem = (landBytes (supersede s p) p.base p.data p.mask).mem := by
  rw [landStore_eq, (dropCopies_same _ die p.base).1, markedBits_mem]

theorem landStore_granule (hs : memWf s.mem = true) (die : Option Nat) (p : PStore) :
    Granule (landStore s die p) p.base (mix (memPay s.mem p.base) p.data p.mask) := by
  refine granule_congr (landStore_mem s die p) ?_
  rw [← supersede_mem s p]
  exact landBytes_granule (by rwa [supersede_mem]) p.base p.data p.mask

theorem landStore_outside (hs : memWf s.mem = true) (die : Option Nat) (p : PStore) : SameOutside p.base 64 s (landStore s die p) := by
  intro k hk
  rw [landStore_mem, ← supersede_mem s p]
  exact landBytes_outside (by rwa [supersede_mem]) p.base p.data p.mask k hk

/-- No copy of the sector stays in the cache of the store's die (R258). -/
theorem landStore_copies (s : State) (die : Option Nat) (p : PStore) :
    ∀ x ∈ (landStore s die p).rdc, die = some x.die → x.addr ≠ p.base / 128 * 128 := by
  intro x hx hdie
  subst hdie
  rw [landStore_eq] at hx
  have hx := (List.mem_filter.1 hx).2
  simpa using hx

-- The bits that it leaves --------------------------------------------------------------------------------------------------------------------

theorem landStore_gpz (s : State) (die : Option Nat) (p : PStore) :
    (landStore s die p).gpz = (markedBits (landBytes (supersede s p) p.base p.data p.mask) p).gpz
      ∧ (landStore s die p).gtn = (markedBits (landBytes (supersede s p) p.base p.data p.mask) p).gtn := by
  rw [landStore_eq]
  exact (dropCopies_same _ die p.base).2

theorem landBytes_bits (s : State) (p : PStore) (base : Nat) (data mask : BitVec 512) :
    (landBytes (supersede s p) base data mask).gpz = s.gpz ∧ (landBytes (supersede s p) base data mask).gtn = s.gtn := by
  obtain ⟨l, hl⟩ := supersede_frame s p
  rw [hl]
  exact ⟨rfl, rfl⟩

theorem landStore_unmarked (h : p.marks = false) : (landStore s die p).gpz = s.gpz ∧ (landStore s die p).gtn = s.gtn := by
  obtain ⟨h1, h2⟩ := landStore_gpz s die p
  obtain ⟨h3, h4⟩ := landBytes_bits s p p.base p.data p.mask
  rw [h1, h2, markedBits, if_neg (Bool.eq_false_iff.1 h)]
  exact ⟨h3, h4⟩

theorem landStore_marked (hh : isHost p.base = false) (h : p.marks = true) :
    (landStore s die p).gpz.contains (p.base / 64) = p.bit (s.gpz.contains (p.base / 64)) p.pz p.lpz
      ∧ (landStore s die p).gtn.contains (p.base / 64) = p.bit (s.gtn.contains (p.base / 64)) p.tn p.ltn := by
  obtain ⟨h1, h2⟩ := landStore_gpz s die p
  obtain ⟨h3, h4⟩ := landBytes_bits s p p.base p.data p.mask
  rw [h1, h2, markedBits, if_pos h]
  cases hw : p.whole with
  | true =>
    obtain ⟨h5, h6⟩ := granBits_whole (s := landBytes (supersede s p) p.base p.data p.mask) (whole := true)
      (pz := p.bit false p.pz p.lpz) (tn := p.bit false p.tn p.ltn) hh rfl
    rw [h5, h6, contains_granSet, contains_granSet, if_pos rfl, if_pos rfl, PStore.bit, PStore.bit, PStore.bit, PStore.bit, hw]
    exact ⟨rfl, rfl⟩
  | false =>
    obtain ⟨h5, h6⟩ := granBits_part (s := landBytes (supersede s p) p.base p.data p.mask) (whole := false)
      (pz := p.bit false p.pz p.lpz) (tn := p.bit false p.tn p.ltn) hh rfl
    rw [h5, h6, contains_granSet, contains_granSet, if_pos rfl, if_pos rfl, h3, h4, PStore.bit, PStore.bit, PStore.bit, PStore.bit, hw]
    simp [Bool.or_comm]

end

-- Acceptance (R179, R180) ---------------------------------------------------------------------------------------------------------------------

section
variable {s : State} {a : UnitId} {e : Elem} {p : PStore}

/-- An agent after its oldest store was accepted, with the stores `sb` left. -/
def acceptedElem (e : Elem) (p : PStore) (sb : List PStore) : Elem :=
  { settlePort e p.port with ag := { (settlePort e p.port).ag with sb := sb } }

/-- The stores of an agent with one of them accepted. -/
def withAccepted (e : Elem) (p : PStore) : List PStore := e.ag.sb.map (fun q => if q.seq = p.seq then { q with acc := true } else q)

theorem settlePort_freed (e : Elem) {port : Option Nat} {n : Nat} (h : port = some n) :
    ((settlePort e port).port n).outst = (e.port n).outst - 1 := by
  subst h
  rw [settlePort, port_setPort]
  split
  · rfl
  · next hn =>
    rw [port_unbound e (Nat.not_lt.1 fun h => hn ⟨rfl, h⟩)]
    rfl

theorem settlePort_sb (e : Elem) (port : Option Nat) : (settlePort e port).ag.sb = e.ag.sb ∧ agentDie (settlePort e port) = agentDie e := by
  cases port <;> exact ⟨rfl, rfl⟩

/-- The stores that are left when one of them has been accepted and has landed. -/
theorem withAccepted_left (e : Elem) (p : PStore) :
    (withAccepted e p).filter (fun q => q.seq != p.seq) = e.ag.sb.filter (fun q => q.seq != p.seq) := by
  rw [withAccepted]
  induction e.ag.sb with
  | nil => rfl
  | cons q l ih =>
    rw [List.map_cons, List.filter_cons, List.filter_cons, ih]
    by_cases hq : q.seq = p.seq
    · simp [hq]
    · simp [hq]

section
variable (hu : s.unit a = some e) (hf : e.ag.sb.find? (fun q => !q.acc) = some p)
include hu hf

theorem acceptStore_held (hh : homeHeld s e.die p.base = true) : acceptStore s a = s := by
  rw [acceptStore, hu]
  dsimp only
  rw [hf]
  exact if_pos hh

variable (hh : homeHeld s e.die p.base = false)
include hh

theorem acceptStore_unreleased (hr : p.rel = false) : acceptStore s a =
    resetAll ((l2Serve s p.base p.pol p.tcl).setUnit a (acceptedElem e p (withAccepted e p))) := by
  rw [acceptStore, hu]
  dsimp only
  rw [hf]
  refine (if_neg (Bool.eq_false_iff.1 hh)).trans ?_
  rw [if_neg (Bool.eq_false_iff.1 hr), (settlePort_sb e p.port).1]
  rfl

theorem acceptStore_released (hr : p.rel = true) (hreg : p.reg = none) : acceptStore s a =
    resetAll (landStore ((l2Serve s p.base p.pol p.tcl).setUnit a
      (acceptedElem e p (e.ag.sb.filter (fun q => q.seq != p.seq)))) (agentDie e) p) := by
  rw [acceptStore, hu]
  dsimp only
  rw [hf]
  refine (if_neg (Bool.eq_false_iff.1 hh)).trans ?_
  rw [if_pos hr, (settlePort_sb e p.port).1, (settlePort_sb e p.port).2, landAny, hreg, ← withAccepted_left]
  rfl

end
end

theorem bit_eq (p : PStore) (old own late : Bool) : p.bit old own late = (own || if p.made = wholeMask then late else old) := by
  simp only [PStore.bit, PStore.whole, beq_iff_eq]

theorem supersede_rest (s : State) (p : PStore) : (supersede s p).regions = s.regions ∧ (supersede s p).migr = s.migr := by
  obtain ⟨l, hl⟩ := supersede_frame s p
  rw [hl]
  exact ⟨rfl, rfl⟩

/-- R179, R180: the store of an agent that is accepted, by whether it has been released. -/
theorem storesAccepted : Claim.StoresAccepted := by
  intro s a e p hu hnr hm hwf hf freed held
  have step {t : State} (h : acceptStore s a = resetAll t) (hr : t.regions = s.regions) (hg : t.migr = s.migr) : Steps (.storeAccept a) s t := by
    show Host.Outcome.next (settleMigr (acceptStore s a)) = _
    rw [h, resetAll_none (noReset_congr hr hnr), settleMigr_none (hg.trans hm)]
  have serve := (l2Serve_slices s p.base p.pol p.tcl).caches
  have hu1 : (l2Serve s p.base p.pol p.tcl).unit a = some e := (serve.unit a).trans hu
  refine ⟨fun hh => ?_, fun hh hr => ?_, fun hh hr hreg => ?_⟩
  · exact step ((acceptStore_held hu hf hh).trans (resetAll_none hnr).symm) rfl rfl
  · obtain ⟨hreg, hmig, hmem, -, -⟩ := setUnit_frame (l2Serve s p.base p.pol p.tcl) a (acceptedElem e p (withAccepted e p))
    exact ⟨_, _, step (acceptStore_unreleased hu hf hh hr) (hreg.trans serve.regions) (hmig.trans serve.migr), unit_setUnit hu1 _,
      hmem.trans serve.mem, fun n hn => settlePort_freed e hn, rfl⟩
  · have hacc := acceptStore_released hu hf hh hr hreg
    let x := acceptedElem e p (e.ag.sb.filter (fun q => q.seq != p.seq))
    let u := (l2Serve s p.base p.pol p.tcl).setUnit a x
    obtain ⟨hregs, hmig, hmem, hgpz, hgtn⟩ : u.regions = _ ∧ u.migr = _ ∧ u.mem = _ ∧ u.gpz = _ ∧ u.gtn = _ := setUnit_frame _ a x
    have hunit : u.unit a = some x := unit_setUnit hu1 x
    have hother {v : UnitId} (hv : v ≠ a) : u.unit v = s.unit v := (unit_setUnit_other hv x).trans (serve.unit v)
    have hmem := hmem.trans serve.mem
    have hgpz := hgpz.trans serve.gpz
    have hgtn := hgtn.trans serve.gtn
    have hland := landStore_lands u (agentDie e) p
    obtain ⟨hsreg, hsmig⟩ := supersede_rest u p
    have hwfu : memWf u.mem = true := by rwa [hmem]
    have at' (v : UnitId) : (landStore u (agentDie e) p).unit v = (u.unit v).map (fun e => e.overwritten p) :=
      (hland.unit v).trans (supersede_unit u p v)
    refine ⟨landStore u (agentDie e) p, x.overwritten p,
      step hacc ((hland.regions.trans hsreg).trans (hregs.trans serve.regions)) ((hland.migr.trans hsmig).trans (hmig.trans serve.migr)),
      (at' a).trans (by rw [hunit]; rfl), fun n hn => ?_, rfl, ?_, fun v y hv hy => ⟨y.overwritten p, ?_, rfl⟩, ?_,
      fun hb hhbm => ⟨fun hmade hlost => ?_, fun hgone => ?_⟩, landStore_copies u (agentDie e) p⟩
    · exact settlePort_freed e hn
    · intro k hk
      rw [landStore_outside hwfu (agentDie e) p k hk, hmem]
    · rw [at', hother hv, hy]
      rfl
    · rw [← hmem]
      exact landStore_granule hwfu (agentDie e) p
    · have hmarks : p.marks = true := by rw [PStore.marks, bne_iff_ne.2 hmade, hlost]; rfl
      obtain ⟨h1, h2⟩ := landStore_marked (s := u) (die := agentDie e) (not_host_of_hbm hhbm) hmarks
      rw [h1, h2, hgpz, hgtn, bit_eq, bit_eq]
      exact ⟨rfl, rfl⟩
    · have hmarks : p.marks = false := by
        obtain h | h := hgone
        · simp [PStore.marks, h]
        · simp [PStore.marks, h]
      rw [← hgpz, ← hgtn]
      exact landStore_unmarked hmarks

theorem sectorEvicted : Claim.SectorEvicted := by
  intro s die i x hx
  show execRdcSectorEviction die i s = _
  rw [execRdcSectorEviction, hx]

-- Stamped stores that arrive (R172) ---------------------------------------------------------------------------------------------------------

theorem mem_wetInsert (l : List Wet) (w x : Wet) : x ∈ wetInsert l w ↔ x = w ∨ x ∈ l := by
  induction l with
  | nil => simp [wetInsert]
  | cons y l ih =>
    unfold wetInsert
    split
    · exact List.mem_cons
    · rw [List.mem_cons, ih, List.mem_cons, or_left_comm]

theorem length_wetInsert (l : List Wet) (w : Wet) : (wetInsert l w).length = l.length + 1 := by
  induction l with
  | nil => rfl
  | cons y l ih =>
    unfold wetInsert
    split
    · rfl
    · rw [List.length_cons, ih, List.length_cons]

section
variable {s : State} {u : Nat} {e : Elem} {x : Tsts} {rest : List Tsts}

/-- An agent whose oldest stamped store has arrived. -/
def arrivedElem (e : Elem) (x : Tsts) : Elem := settlePort { e with ag := { e.ag with tsts := e.ag.tsts.drop 1 } } (some x.port)

theorem arrivedElem_refused (e : Elem) (x : Tsts) : ((arrivedElem e x).port x.port).refused = (e.port x.port).refused := by
  rw [arrivedElem, settlePort, port_setPort]
  split <;> rfl

/-- A refusal that a port keeps: the first (R172). -/
def keptRefusal (e : Elem) (x : Tsts) : Option (Nat × List Nat) :=
  if (e.port x.port).refused = none then some (x.stamp, x.ctr) else (e.port x.port).refused

/-- An agent whose oldest stamped store was refused. -/
def refusedElem (e : Elem) (x : Tsts) : Elem :=
  (arrivedElem e x).setPort x.port { (arrivedElem e x).port x.port with refused := keptRefusal e x }

/-- A stamped store that a slice holds wet. -/
def wetStore (s : State) (u : Nat) (x : Tsts) : Wet :=
  { die := homeDie x.base, base := x.base, data := x.data, mask := x.mask, pz := x.pz, tn := x.tn, stamp := x.stamp, agent := u, order := s.orders }

/-- The module with a stamped store wet, and its sector filled in the slice (R172, R257). -/
def withWet (s : State) (u : Nat) (e : Elem) (x : Tsts) : State :=
  let t := l2Serve s x.base x.pol x.tcl
  { t.setUnit (.el u) (arrivedElem e x) with wet := wetInsert t.wet (wetStore s u x), orders := t.orders + 1 }

theorem stampedStoreArrive_step (he : s.elems[u]? = some e) (hx : e.ag.tsts = x :: rest) :
    Steps (.stampedStoreArrive u) s (tstsArrive s u e x) := by
  show execStampedStoreArrive u s = _
  rw [execStampedStoreArrive, onElem, he]
  dsimp only
  rw [hx]

theorem tstsArrive_refused (h : x.stamp ≤ (s.die (homeDie x.base)).early) :
    tstsArrive s u e x = resetAll (s.setUnit (.el u) (refusedElem e x)) := by
  have hk : (if ((arrivedElem e x).port x.port).refused.isSome then ((arrivedElem e x).port x.port).refused else some (x.stamp, x.ctr))
      = keptRefusal e x := by
    rw [arrivedElem_refused, keptRefusal]
    cases (e.port x.port).refused <;> rfl
  rw [refusedElem, ← hk]
  exact if_pos h

theorem tstsArrive_held (h : (s.die (homeDie x.base)).early < x.stamp) (hw : (wetOf s x.base).length < 4096)
    (hh : homeHeld s e.die x.base = false) :
    tstsArrive s u e x = resetAll (withWet s u e x) := by
  refine (if_neg (Nat.not_le.2 h)).trans (if_neg ?_)
  rw [hh, not_or]
  exact ⟨Nat.not_le.2 hw, Bool.false_ne_true⟩

theorem tstsArrive_waits (h : (s.die (homeDie x.base)).early < x.stamp)
    (hw : 4096 ≤ (wetOf s x.base).length ∨ homeHeld s e.die x.base = true) : tstsArrive s u e x = s :=
  (if_neg (Nat.not_le.2 h)).trans (if_pos hw)

end

theorem stampedStoresArrive : Claim.StampedStoresArrive := by
  intro s u e x rest he hnr hx hp d q
  have hstep := stampedStoreArrive_step he hx
  have hrest : e.ag.tsts.drop 1 = rest := by rw [hx]; rfl
  have hu : s.unit (.el u) = some e := he
  refine ⟨fun h => ?_, fun h hw hh => ?_, fun h hw => hstep.trans (congrArg _ (tstsArrive_waits h hw))⟩
  · have ha := (tstsArrive_refused (u := u) (e := e) h).trans (resetAll_none (noReset_congr (setUnit_frame _ _ _).1 hnr))
    refine ⟨_, _, hstep.trans (congrArg _ ha), unit_setUnit hu _, hrest, rfl, rfl, ?_⟩
    rw [refusedElem, port_setPort, if_pos ⟨rfl, hp⟩]
    rfl
  · have serve := (l2Serve_slices s x.base x.pol x.tcl).caches
    have hwet : (withWet s u e x).wet = wetInsert s.wet (wetStore s u x) := congrArg (wetInsert · _) serve.wet
    have ha := (tstsArrive_held (u := u) h hw hh).trans (resetAll_none (noReset_congr serve.regions hnr))
    refine ⟨withWet s u e x, arrivedElem e x, wetStore s u x, hstep.trans (congrArg _ ha),
      unit_setUnit ((serve.unit (.el u)).trans hu) (arrivedElem e x), hrest, arrivedElem_refused e x, serve.mem, ?_, ?_, fun y hy => ?_,
      rfl, rfl, rfl, rfl, rfl, rfl, rfl⟩
    · rw [hwet]
      exact (mem_wetInsert _ _ _).2 (.inl rfl)
    · rw [hwet]
      exact length_wetInsert _ _
    · rw [hwet]
      exact (mem_wetInsert _ _ _).2 (.inr hy)

-- Stamped stores that dry (R171, R172) --------------------------------------------------------------------------------------------------------

section
variable {s : State} {die : Nat} {w : Wet}

/-- A wet store of a die that dries at what its clock says (R172). -/
def isDue (s : State) (die : Nat) (w : Wet) : Bool := w.die == die && decide (w.stamp < (s.die die).early)

theorem isDue_false : isDue s die w = false ↔ w.die ≠ die ∨ (s.die die).early ≤ w.stamp := by
  rw [isDue, Bool.and_eq_false_iff, beq_eq_false_iff_ne, decide_eq_false_iff_not, Nat.not_lt]

/-- The module without the stores that are due. -/
def withoutDue (s : State) (die : Nat) : State := { s with wet := s.wet.filter (fun w => !isDue s die w) }

theorem dryDie_eq (s : State) (die : Nat) : dryDie s die = (s.wet.filter (isDue s die)).foldl dryOne (withoutDue s die) := rfl

theorem dryDie_wet (s : State) (die : Nat) : (dryDie s die).wet = s.wet.filter (fun w => !isDue s die w) := (foldl_dryOne _ _).2

theorem driedGran_mem (s : State) (w : Wet) : (driedGran s w).mem = (landBytes s w.base w.data w.mask).mem := by
  rw [driedGran, landGran, (dropCopies_same _ _ _).1, granBits_mem, landBytes_mem, landBytes_mem]
  rfl

theorem dryOne_mem (s : State) (w : Wet) : (dryOne s w).mem = (landBytes s w.base w.data w.mask).mem := by
  rw [dryOne_eq]
  split
  · exact driedGran_mem s w
  · exact driedGran_mem s w

theorem dryOne_verOf (s : State) (w : Wet) : (dryOne s w).verOf w.base = { stamp := w.stamp, prev := some (priorVer s w) } := by
  rw [(dryOne_lands s w).verOf, State.verOf, tab_get_set, if_pos rfl]

theorem extract_halves (x y : BitVec 512) : (x ++ y).extractLsb' (512 * 0) 512 = y ∧ (x ++ y).extractLsb' (512 * 1) 512 = x := by
  constructor
  · exact BitVec.extractLsb'_append_eq_right
  · exact BitVec.extractLsb'_append_eq_left

/-- The version that is pushed back holds the sector as it was. -/
theorem priorVer_data (s : State) (w : Wet) :
    ∀ h < 2, (priorVer s w).data.extractLsb' (512 * h) 512 = memPay s.mem (w.base / 128 * 128 + 64 * h) := by
  intro h hh
  obtain ⟨h0, h1⟩ := extract_halves (memPay s.mem (w.base / 128 * 128 + 64)) (memPay s.mem (w.base / 128 * 128))
  interval_cases h
  · exact h0
  · exact h1

/-- Two stores of equal stamp taint the sector (R172). -/
theorem dryOne_taints (h : (s.verOf w.base).stamp = w.stamp) : ∀ k < 2, (dryOne s w).gtn.contains (w.base / 128 * 2 + k) = true := by
  intro k hk
  have hg : w.base / 128 * 128 / 64 = w.base / 128 * 2 := by omega
  rw [dryOne_eq, if_pos h, hg, contains_granSet, contains_granSet]
  interval_cases k
  · simp
  · simp

end

theorem stampedStoresDry : Claim.StampedStoresDry := by
  intro s die hs due
  have wet_eq : (dryDie s die).wet = s.wet.filter (fun w => !isDue s die w) := dryDie_wet s die
  refine ⟨fun hd => ?_, fun w hd hb => ?_, dryDie s die, rfl, fun w hw hdie => ?_, fun w hw h => ?_, dryDie_elems s die⟩
  · have hd : s.wet.filter (isDue s die) = [] := hd
    have hw : s.wet.filter (fun w => !isDue s die w) = s.wet :=
      List.filter_eq_self.2 fun w hw => by simpa using List.filter_eq_nil_iff.1 hd w hw
    show Host.Outcome.next (dryDie s die) = _
    rw [dryDie_eq, hd, withoutDue, hw]
    rfl
  · have hd : s.wet.filter (isDue s die) = [w] := hd
    have ht : dryDie s die = dryOne (withoutDue s die) w := by rw [dryDie_eq, hd]; rfl
    have hmem : (dryOne (withoutDue s die) w).mem = (landBytes s w.base w.data w.mask).mem := by
      rw [dryOne_mem, landBytes_mem, landBytes_mem]
      rfl
    refine ⟨dryOne (withoutDue s die) w, congrArg _ ht, ?_, granule_congr hmem (landBytes_granule hs w.base w.data w.mask), ?_, ?_,
      ⟨priorVer (withoutDue s die) w, ?_, rfl, priorVer_data (withoutDue s die) w⟩, dryOne_taints (s := withoutDue s die)⟩
    · intro k hk
      rw [hmem]
      exact landBytes_outside hs w.base w.data w.mask k hk
    · rw [← ht, wet_eq]
      refine List.filter_congr fun x _ => ?_
      rw [Bool.eq_iff_iff, Bool.not_eq_true', isDue_false, Bool.or_eq_true, bne_iff_ne, decide_eq_true_iff]
    · rw [dryOne_verOf]
    · rw [dryOne_verOf]
  · rw [wet_eq] at hw
    have hnot : isDue s die w = false := by simpa using (List.mem_filter.1 hw).2
    exact (isDue_false.1 hnot).resolve_left fun h => h hdie
  · rw [wet_eq]
    exact List.mem_filter.2 ⟨hw, by rw [isDue_false.2 h]; rfl⟩

/-- Settles O41: stores that are accepted and land, stamped stores that arrive and dry, and sectors that leave a cache. -/
theorem storesServed : Obligations.StoresServed := ⟨storesAccepted, sectorEvicted, stampedStoresArrive, stampedStoresDry⟩

end Sys2Proof.Machine
end

section
/-! PROOFS. O42 fails: a slice that holds one sector twice. The statement asks that no word read is defective, which the model judges by the
first of a sector's entries; the state below holds a sector in two ways of its slice, the second entry with an error. The fill of the first
word's destination evicts the first entry, and the read of the second word meets the error, whose record goes into the ring of the die
(R380, R383): memory changes before the join. No fill of the model puts a sector in twice, and the statement has no hypothesis that says so. -/
namespace Sys2Proof.Machine
open Sys2Proof.Claim

/-- A copy of two words of 64 bytes from 960, whose second destination line shares a set with the line of its second word. -/
def copiedTwo : EngOp :=
  { co := 0, kind := 1, var := 0, args := Payload.ofList [960, 0, 4719616, 0, 128], argb := 0, imm := 0, done := 0, fcs := 0, before := 0,
    tn := false, why := [], ran := false, ports := [], writes := [], tile := 0, res := none, spoilt := none }

/-- A core that has forked the copy. -/
def coreCopying : Elem :=
  { coreReset 2 with ag := { AgPart.empty with cos := AgPart.empty.cos.set 0 (coMake 1 0 1 0), eng := [copiedTwo] } }

/-- A module whose slice holds the sector of 1024 twice, the second time with an error, and may fill way 3 alone. -/
def sectorTwice : State :=
  { State.reset with
    cores := State.reset.cores.set 2 coreCopying,
    l2 := [{ sec := 8, way := 3, tcl := 0, bad := 0 }, { sec := 8, way := 5, tcl := 0, bad := 1 }],
    slices := [(1, { Slice.reset with wmsk := [(0, 8)] })] }

theorem noReset_sectorTwice : NoReset sectorTwice := fun _ hp => absurd hp List.not_mem_nil

/-- What the statement asks of the two words holds. -/
theorem copiedTwo_reached : ∀ k < 2, (let src := 960 + 64 * k
    let dst := 4719616 + 64 * k
    (src % 64 = 0 ∧ dst % 64 = 0 ∧ coreReach sectorTwice src 64 = true ∧ coreReach sectorTwice dst 64 = true
      ∧ homeHeld sectorTwice 32 src = false ∧ homeHeld sectorTwice 32 dst = false
      ∧ sectorTwice.bad.contains (src / 64) = false ∧ l2Bad sectorTwice src = false)
    ∧ isHost dst = false ∧ ∀ j < 2, 4719616 + 64 * j ≠ src) := by
  decide +kernel

-- The fill that evicts (R257, R363) ---------------------------------------------------------------------------------------------------------

/-- A fill with one way open to its class, which holds another line, evicts that line, whatever the choice of a victim is. -/
theorem l2Alloc_evicts {s : State} {a tcl v : Nat} (hh : isHbm a = true) (hm : l2Find s a = none) (hl : lineWay s a = none)
    (hw : fillWays s a tcl = [v]) (hv : s.l2.all (fun x => !(sameSet (x.sec * 128) a && x.way == v)) = false) :
    l2Alloc s a tcl = l2Put (l2Evict { s with freeCtr := s.freeCtr + 1 } a v) a v tcl := by
  have hone (n : Nat) : [v].getD n v = v := by cases n <;> rfl
  rw [l2Alloc, if_neg (not_missing.2 ⟨hh, hm⟩), hl]
  dsimp only
  rw [hw]
  dsimp only
  rw [List.find?_cons, hv]
  dsimp only
  rw [List.find?_nil]
  dsimp only
  rw [hone]

/-- The module when the first word has been read. -/
def firstRead : State := l2Count (engBytes sectorTwice (.fc 2) coreCopying copiedTwo 960).1 4719616

/-- The module when the line of the first destination has taken the way of the sound entry. -/
def soundEvicted : State := l2Put (l2Evict { firstRead with freeCtr := firstRead.freeCtr + 1 } 4719616 3) 4719616 3 0

theorem firstRead_fill : l2Alloc firstRead 4719616 0 = soundEvicted :=
  l2Alloc_evicts (by decide +kernel) (by decide +kernel) (by decide +kernel) (by decide +kernel) (by decide +kernel)

/-- A word of a core's copy that is reached, and that may be sent (R187, R220). -/
theorem copyBytes_ok {s : State} {u : UnitId} {e : Elem} {o : EngOp} {src dst n : Nat} (hn : n ≠ 0) (hs : coreReach s src n = true)
    (hd : coreReach s dst n = true) (hh : (homeHeld s 32 src || homeHeld s 32 dst) = false)
    (hp : (isHost dst && (engBytes s u e o src).2.pz) = false) : copyBytes s u e o src dst n =
    .ok (l2Fill (l2Fill (engBytes s u e o src).1 (granBase dst) 0) (granBase (dst + n - 1)) 0,
      o.writeBytes dst n (engBytes s u e o src).2) := by
  rw [copyBytes, if_neg hn, hs, hd, hh]
  refine (if_neg Bool.false_ne_true).trans ((if_neg Bool.false_ne_true).trans ((if_neg Bool.false_ne_true).trans ?_))
  exact if_neg (Bool.eq_false_iff.1 hp)

-- The steps of the copy ---------------------------------------------------------------------------------------------------------------------

/-- The copy with its first word written. -/
def copiedOne : EngOp := { copiedTwo.writeBytes 4719616 64 (engBytes sectorTwice (.fc 2) coreCopying copiedTwo 960).2 with done := 1 }

theorem firstUnit : engStep sectorTwice (.fc 2) coreCopying copiedTwo 0 =
    .ok (l2Fill soundEvicted 4719616 0, copiedTwo.writeBytes 4719616 64 (engBytes sectorTwice (.fc 2) coreCopying copiedTwo 960).2) := by
  have harg : copiedTwo.arg64 0 + 64 * 0 = 960 ∧ copiedTwo.arg64 2 + 64 * 0 = 4719616 := by decide +kernel
  have hgran : granBase 4719616 = 4719616 ∧ granBase (4719616 + 64 - 1) = 4719616 := by decide +kernel
  rw [engStep, if_pos (show copiedTwo.kind = 1 from rfl), if_pos (show coreCopying.cls = .fc from rfl), harg.1, harg.2,
    copyBytes_ok (by decide) (by decide +kernel) (by decide +kernel) (by decide +kernel) (by decide +kernel),
    hgran.1, hgran.2, ← firstRead_fill]
  rfl

/-- What the copy leaves at its end. -/
def copyLeaves : State × EngOp × EngEnd := engLoop (.fc 2) coreCopying 1 (l2Fill soundEvicted 4719616 0) copiedOne

theorem copy_runs : engLoop (.fc 2) coreCopying 2 sectorTwice copiedTwo = copyLeaves := by
  rw [engLoop, show copiedTwo.done = 0 from rfl, firstUnit]
  rfl

/-- The core when the copy has run, and the module with it. -/
def copied : State :=
  copyLeaves.1.setUnit (.fc 2) { coreCopying with
    ag := { coreCopying.ag with eng := coreCopying.ag.eng.map (fun y => if y.co = copiedTwo.co then copyLeaves.2.1 else y) } }

theorem copyLeaves_ends : copyLeaves.2.2 = .complete ∧ copyLeaves.1.unit (.fc 2) = some coreCopying := by
  decide +kernel

theorem engRun_copied : engRun sectorTwice (.fc 2) coreCopying copiedTwo = (copied, .complete) := by
  have hn : copiedTwo.total (coreCopying.cls == .fc) - copiedTwo.done = 2 := by decide +kernel
  obtain ⟨hend, hunit⟩ := copyLeaves_ends
  rw [engRun, if_neg (by decide), hn, copy_runs]
  dsimp only
  rw [hunit, hend, Option.getD_some, copied]

/-- The module when the copy has ended. -/
def copyEnded : State := resetAll (engSpoilt (engMark copied (.fc 2) 0 1 .complete) (.fc 2) 0)

theorem copyEnded_mem : copyEnded.mem.isEmpty = false := by
  decide +kernel

theorem engineOpComplete_copied : exec (.engineOpComplete (.fc 2) 0) sectorTwice = .next copyEnded := by
  have hrun : coRunning (coreCopying.co 0) = true := by decide +kernel
  show Host.Outcome.next (engineEvent sectorTwice (.fc 2) 0 (fun x => x == .complete)) = _
  rw [engineEvent, show sectorTwice.unit (.fc 2) = some coreCopying from rfl]
  dsimp only
  rw [show coreCopying.ag.eng.find? (fun o => o.co == 0) = some copiedTwo from rfl]
  dsimp only
  rw [hrun, engRun_copied]
  rfl

theorem not_coreCopyEnds : ¬ Claim.CoreCopyEnds := by
  intro h
  have hends := h sectorTwice (.fc 2) coreCopying 0 copiedTwo rfl noReset_sectorTwice rfl rfl (by decide +kernel) rfl rfl rfl rfl
  have hn : (copiedTwo.args.lane 4).toNat / 64 = 2 := by decide +kernel
  have hsrc : (copiedTwo.args.lane 0).toNat + (copiedTwo.args.lane 1).toNat * 2 ^ 32 = 960 := by decide +kernel
  have hdst : (copiedTwo.args.lane 2).toNat + (copiedTwo.args.lane 3).toNat * 2 ^ 32 = 4719616 := by decide +kernel
  dsimp only at hends
  rw [hn, hsrc, hdst] at hends
  obtain ⟨t, _, _, hstep, hmem, -⟩ := hends.1 fun k hk => by
    obtain ⟨hr, hhost, hdiff⟩ := copiedTwo_reached k hk
    exact ⟨hr, fun hd => absurd (hhost.symm.trans hd) Bool.false_ne_true, hdiff⟩
  have ht : copyEnded = t := Host.Outcome.next.inj (engineOpComplete_copied.symm.trans hstep)
  have hempty : t.mem.isEmpty = true := by rw [hmem]; rfl
  exact Bool.false_ne_true (copyEnded_mem.symm.trans (by rw [ht, hempty]))

/-- Refutes O42: on a module whose slice holds a sector twice, a core's copy that reads no defective word changes memory before its join. -/
theorem not_engineStepsAndCollectives : ¬ Obligations.EngineStepsAndCollectives := fun h => not_coreCopyEnds h.2.1

end Sys2Proof.Machine
end

section
/-! PROOFS. What the instructions of spec 07 share: the classes that may execute them, the checks of one operand, and the destinations of a
core (R44, R63, R87). -/
namespace Sys2Proof.Machine
open Sys2Proof.Claim

section
variable {op : BitVec 8} {e : Elem} {f : Fields} {d : BitVec 10} {ok : Bool}

theorem mem_classesOf_fc (hc : e.cls = .fc) (h : (classesOf op).contains .fc = true) : (classesOf op).contains e.cls = true := by
  rwa [hc]

theorem mem_classesOf_ra (hc : e.cls = .ra) (h : (classesOf op).contains .ra = true) : (classesOf op).contains e.cls = true := by
  rwa [hc]

/-- The instructions of R63 that every unit has but an RA. -/
theorem mem_classesOf_intUnit (hu : IntUnit e) (h : classesOf op = [.ve, .se, .ag, .fc]) : (classesOf op).contains e.cls = true := by
  rw [h]
  unfold IntUnit at hu
  cases hc : e.cls with
  | ra => exact absurd hc hu
  | ve | se | ag | fc => decide

theorem needDes_ok (h : ok = true) : needDes ok d = .ok () := need_ok h _

theorem needDes_trap (h : ok = false) : needDes ok d = .error (.trap (.operand d.toNat)) := need_trap h _

theorem flowP_core (hc : e.cls = .fc) : e.flowP = false := by rw [Elem.flowP, hc]; rfl

theorem flowT_core (hc : e.cls = .fc) : e.flowT = false := by rw [Elem.flowT, hc]; rfl

/-- A core has no flow bits: what it writes keeps its PZ and TN (R87). -/
theorem putWhole_core (hc : e.cls = .fc) (p : Payload) (pz tn : Bool) : putWhole e d p pz tn = writeDes e d { pay := p, pz := pz, tn := tn } := by
  rw [putWhole, flowP_core hc, flowT_core hc, Bool.or_false, Bool.or_false]

end
end Sys2Proof.Machine
end

section
/-! PROOFS. O23: the interval clock, its stamps, the waits on them, and the tick of a launch (R192 to R199; log 78, log 86, log 158). -/
namespace Sys2Proof.Machine
open Sys2Proof.Claim

section
variable {s : State} {e : Elem} {f : Fields}

-- clkr and stmp (R192 to R195) --------------------------------------------------------------------------------------------------------------

theorem bodyClkr_eq (hv : f.var = 0) (hd : f.d.toNat + 1 < e.cls.nState) : bodyClkr s f e =
    done s (putWhole (putWhole e f.d (pair64 (s.die e.clockDie).early) false true) (f.d + 1) (pair64 (s.die e.clockDie).late) false true) := by
  rw [bodyClkr, need_ok (beq_iff_eq.2 hv), res_bind_ok, needDes_ok (show pairDst e f.d = true from decide_eq_true hd), res_bind_ok]

theorem bodyClkr_operand (hv : f.var = 0) (hd : e.cls.nState ≤ f.d.toNat + 1) : bodyClkr s f e = .error (.trap (.operand f.d.toNat)) := by
  rw [bodyClkr, need_ok (beq_iff_eq.2 hv), res_bind_ok, needDes_trap (show pairDst e f.d = false from decide_eq_false (Nat.not_lt.2 hd)), res_bind_error]

/-- Whether the stamp that `stmp` would give is above the last one (R195). -/
def stampAbove (s : State) (e : Elem) : Bool :=
  match e.ag.stamp with
  | some t => decide (t < (s.die e.clockDie).late)
  | none => true

theorem stampAbove_true (h : ∀ t, e.ag.stamp = some t → t < (s.die e.clockDie).late) : stampAbove s e = true := by
  unfold stampAbove
  cases ht : e.ag.stamp with
  | none => rfl
  | some t => exact decide_eq_true (h t ht)

theorem stampAbove_false {t : Nat} (ht : e.ag.stamp = some t) (h : (s.die e.clockDie).late ≤ t) : stampAbove s e = false := by
  rw [stampAbove, ht]
  exact decide_eq_false (Nat.not_lt.2 h)

section
variable (hv : f.var = 0) (hl : Legal e f onlyD (badReg e f))
include hv hl

theorem bodyStmp_wide (hw : (s.die e.clockDie).tooWide = true) :
    bodyStmp s f e = .error (.trap (.widen (s.die e.clockDie).width (s.die e.clockDie).lim)) := by
  rw [bodyStmp, checkRaw_ok hl (beq_iff_eq.2 hv), res_bind_ok]
  exact congrArg (· >>= _) (needNarrow_trap hw)

theorem bodyStmp_narrow (hw : (s.die e.clockDie).tooWide = false) : bodyStmp s f e = (awaitFree (stampAbove s e) >>= fun _ =>
    done s (putWhole { e with ag := { e.ag with stamp := some (s.die e.clockDie).late } } f.d (pair64 (s.die e.clockDie).late) false true)) := by
  rw [bodyStmp, checkRaw_ok hl (beq_iff_eq.2 hv), res_bind_ok]
  exact congrArg (· >>= _) (needNarrow_ok hw)

end

-- cmtw (R172, R193, R196) -------------------------------------------------------------------------------------------------------------------

/-- The stamp that `cmtw` waits for. -/
def cmtwStamp (s : State) (e : Elem) (f : Fields) : Nat := stampOf (readDes s e f.a).pay

section
variable (hv : f.var.toNat ≤ 1) (hl : Legal e f onlyA none)
include hv hl

theorem bodyCmtw_wide (hw : (s.die e.clockDie).tooWide = true) :
    bodyCmtw s f e = .error (.trap (.widen (s.die e.clockDie).width (s.die e.clockDie).lim)) := by
  rw [bodyCmtw, checkRaw_ok hl (decide_eq_true hv), res_bind_ok]
  exact congrArg (· >>= _) (needNarrow_trap hw)

variable (hw : (s.die e.clockDie).tooWide = false)
include hw

theorem bodyCmtw_poisoned (hp : (readDes s e f.a).pz = true) : bodyCmtw s f e = .error (.trap (.poison 0 f.d.toNat 0)) := by
  rw [bodyCmtw, checkRaw_ok hl (decide_eq_true hv), res_bind_ok]
  refine (congrArg (· >>= _) (needNarrow_ok hw)).trans ?_
  rw [res_bind_ok, need_trap (by rw [hp]; rfl), res_bind_error]

variable (hp : (readDes s e f.a).pz = false)
include hp

/-- The stamp is judged after its poison (log 78), and then a refusal that stands recorded (R172). -/
theorem bodyCmtw_sound : bodyCmtw s f e = (do
    needDes (decide (cmtwStamp s e f ≤ (s.die e.clockDie).late + 2 ^ 30)) f.a
    needNoRefusal e
    awaitFree (decide (cmtwStamp s e f < (s.die e.clockDie).early) && (f.var != 1 || allDry s e (cmtwStamp s e f)))
    done s e) := by
  rw [bodyCmtw, checkRaw_ok hl (decide_eq_true hv), res_bind_ok]
  refine (congrArg (· >>= _) (needNarrow_ok hw)).trans ?_
  rw [res_bind_ok, need_ok (by rw [hp]; rfl), res_bind_ok]
  rfl

theorem bodyCmtw_ahead (hst : (s.die e.clockDie).late + 2 ^ 30 < cmtwStamp s e f) : bodyCmtw s f e = .error (.trap (.operand f.a.toNat)) := by
  rw [bodyCmtw_sound hv hl hw hp, needDes_trap (decide_eq_false (Nat.not_le.2 hst)), res_bind_error]

variable (hst : cmtwStamp s e f ≤ (s.die e.clockDie).late + 2 ^ 30)
include hst

theorem bodyCmtw_refused {p t : Nat} {c : List Nat} (hf : refusal e = some (p, t, c)) :
    bodyCmtw s f e = .error (.trap (.tooOld t p (some c))) := by
  rw [bodyCmtw_sound hv hl hw hp, needDes_ok (decide_eq_true hst), res_bind_ok, needNoRefusal_some hf, res_bind_error]

theorem bodyCmtw_waits (hf : refusal e = none) : bodyCmtw s f e =
    (awaitFree (decide (cmtwStamp s e f < (s.die e.clockDie).early) && (f.var != 1 || allDry s e (cmtwStamp s e f))) >>= fun _ => done s e) := by
  rw [bodyCmtw_sound hv hl hw hp, needDes_ok (decide_eq_true hst), res_bind_ok, needNoRefusal_none hf, res_bind_ok]

end

/-- What `cmtw` waits for (R196). -/
theorem cmtwPast_iff {c : Prop} [Decidable c] {dry : Bool} : (decide c && (f.var != 1 || dry)) = true ↔ c ∧ (f.var = 1 → dry = true) := by
  rw [Bool.and_eq_true, decide_eq_true_iff, Bool.or_eq_true, bne_iff_ne, Ne, ← imp_iff_not_or]

/-- A wait for memory, an engine or time completes, or holds issue as a wait that no watchdog counts (R384). -/
theorem frees_of_body {i : Instr} {op : BitVec 8} {body : Body} {c : Prop} [Decidable c] {ok : Bool} (hok : ok = true ↔ c)
    (hx : exec i s = issue op body f s) (hr : Runs s e) (hc : (classesOf op).contains e.cls = true)
    (hb : body s f e = (awaitFree ok >>= fun _ => done s e)) : if c then Completes i s e s e else Holds i s e .free := by
  split
  · next h => exact completes_of_body hx hr hc (by rw [hb, awaitFree_ok (hok.2 h), res_bind_ok])
  · next h => exact holds_of_body hx hr hc (by rw [hb, awaitFree_hold (Bool.eq_false_iff.2 (mt hok.1 h)), res_bind_error])

-- tick (R197, R342) -------------------------------------------------------------------------------------------------------------------------

section
variable (hv : f.var = 0) (hl : Legal e f onlyD (badReg e f))
include hv hl

theorem bodyTick_ag (hc : e.cls = .ag) : bodyTick s f e = done s (putWhole e f.d
    (tickLanes (s.region e.rgn).clk (s.region e.rgn).tick) false ((s.region e.rgn).clk.tmod == 2)) := by
  rw [bodyTick, checkRaw_ok hl (beq_iff_eq.2 hv), res_bind_ok, hc]
  rfl

theorem bodyTick_fc (hc : e.cls = .fc) : bodyTick s f e = (needDes (s.queue (f.imm.toNat % 4096)).mapped f.a >>= fun _ =>
    done s (putWhole e f.d (tickLanes (Clk.of (s.queue (f.imm.toNat % 4096)).desc) (s.queue (f.imm.toNat % 4096)).released) false
      (qdTmod (s.queue (f.imm.toNat % 4096)).desc == 2))) := by
  rw [bodyTick, checkRaw_ok hl (beq_iff_eq.2 hv), res_bind_ok, hc]
  rfl

end

-- ivlm (R193, R198, R199) -------------------------------------------------------------------------------------------------------------------

/-- The die whose interval `ivlm` of a core names. -/
def namedDie (s : State) (e : Elem) (f : Fields) : Nat := ((readDes s e f.a).pay.lane 0).toNat % 64

/-- The limit that `ivlm` of a core gives. -/
def newLimit (s : State) (e : Elem) (f : Fields) : Nat := ((readDes s e f.b).pay.lane 0).toNat

theorem bodyIvlm_ag (hv : f.var = 0) (hl : Legal e f onlyD (badReg e f)) (hc : e.cls = .ag) : bodyIvlm s f e =
    done s (putWhole e f.d ((s.die e.die).status e.die) false true) := by
  have hfc : (e.cls == .fc) = false := by rw [hc]; rfl
  rw [bodyIvlm, if_neg (by rw [hv]; decide)]
  dsimp only
  rw [hfc, if_neg Bool.false_ne_true, checkRaw_ok hl (beq_iff_eq.2 hv)]
  rfl

section
variable (hc : e.cls = .fc)
include hc

theorem bodyIvlm_reads (hv : f.var = 0) (hl : Legal e f usesA (badReg e f)) : bodyIvlm s f e =
    (needDes (decide (namedDie s e f ≤ 32)) f.a >>= fun _ =>
      done s (putWhole e f.d ((s.die (namedDie s e f)).status (namedDie s e f)) (readDes s e f.a).pz true)) := by
  have hfc : (e.cls == .fc) = true := by rw [hc]; rfl
  rw [bodyIvlm, if_neg (by rw [hv]; decide)]
  dsimp only
  rw [hfc, if_pos rfl, checkRaw_ok hl (beq_iff_eq.2 hv)]
  rfl

theorem bodyIvlm_writes (hv : f.var = 1) (hl : Legal e f onlyAB none) : bodyIvlm s f e = (do
    needDes (decide (namedDie s e f ≤ 32)) f.a
    needDes (decide (100 ≤ newLimit s e f ∧ newLimit s e f ≤ 100000)) f.b
    done (changeDie s (namedDie s e f) { s.die (namedDie s e f) with lim := newLimit s e f }) e) := by
  rw [bodyIvlm, if_pos hv, checkRaw_ok hl (by rw [hc]; rfl)]
  rfl

/-- A die that is none of the module's is an illegal operand, read or written. -/
theorem bodyIvlm_noDie (hk : 32 < namedDie s e f)
    (h : (f.var = 0 ∧ Legal e f usesA (badReg e f)) ∨ (f.var = 1 ∧ Legal e f onlyAB none)) :
    bodyIvlm s f e = .error (.trap (.operand f.a.toNat)) := by
  have hk := decide_eq_false (Nat.not_le.2 hk)
  obtain ⟨hv, hl⟩ | ⟨hv, hl⟩ := h
  · rw [bodyIvlm_reads hc hv hl, needDes_trap hk, res_bind_error]
  · rw [bodyIvlm_writes hc hv hl, needDes_trap hk, res_bind_error]

variable (hk : namedDie s e f ≤ 32)
include hk

theorem bodyIvlm_status (hv : f.var = 0) (hl : Legal e f usesA (badReg e f)) : bodyIvlm s f e =
    done s (putWhole e f.d ((s.die (namedDie s e f)).status (namedDie s e f)) (readDes s e f.a).pz true) := by
  rw [bodyIvlm_reads hc hv hl, needDes_ok (decide_eq_true hk), res_bind_ok]

theorem bodyIvlm_limit (hv : f.var = 1) (hl : Legal e f onlyAB none) (hlim : 100 ≤ newLimit s e f ∧ newLimit s e f ≤ 100000) :
    bodyIvlm s f e = done (changeDie s (namedDie s e f) { s.die (namedDie s e f) with lim := newLimit s e f }) e := by
  rw [bodyIvlm_writes hc hv hl, needDes_ok (decide_eq_true hk), res_bind_ok, needDes_ok (decide_eq_true hlim), res_bind_ok]

theorem bodyIvlm_noLimit (hv : f.var = 1) (hl : Legal e f onlyAB none) (hlim : newLimit s e f < 100 ∨ 100000 < newLimit s e f) :
    bodyIvlm s f e = .error (.trap (.operand f.b.toNat)) := by
  have hlim : ¬ (100 ≤ newLimit s e f ∧ newLimit s e f ≤ 100000) := by omega
  rw [bodyIvlm_writes hc hv hl, needDes_ok (decide_eq_true hk), res_bind_ok, needDes_trap (decide_eq_false hlim), res_bind_error]

end

theorem bodyIvlm_unsound (h : 1 < f.var.toNat ∨ (f.var = 1 ∧ e.cls = .ag)) : bodyIvlm s f e = .error (.trap .instr) := by
  obtain h | ⟨hv, hc⟩ := h
  · rw [bodyIvlm, if_neg (fun hv => by rw [hv] at h; exact absurd h (by decide))]
    dsimp only
    rw [checkRaw_unsound (beq_false_of_ne fun hv => by rw [hv] at h; exact absurd h (by decide)), res_bind_error]
  · rw [bodyIvlm, if_pos hv, checkRaw_unsound (by rw [hc]; rfl), res_bind_error]

-- Variants that none of them has ------------------------------------------------------------------------------------------------------------

theorem clock_variants (h : f.var ≠ 0) : bodyClkr s f e = .error (.trap .instr) ∧ bodyStmp s f e = .error (.trap .instr)
    ∧ bodyTick s f e = .error (.trap .instr) := by
  have hu := beq_false_of_ne h
  refine ⟨?_, ?_, ?_⟩
  · rw [bodyClkr, need_trap hu, res_bind_error]
  · rw [bodyStmp, checkRaw_unsound hu, res_bind_error]
  · rw [bodyTick, checkRaw_unsound hu, res_bind_error]

end

/-- Settles O23: each instruction by its checks in their order, and a core by the queue and the die that it names. -/
theorem clockInstructions : Obligations.ClockInstructions := by
  unfold Obligations.ClockInstructions
  intro s e f hr hag n d two whole a st
  have cls {op : BitVec 8} (h : (classesOf op).contains .ag = true ∧ (classesOf op).contains .fc = true) := mem_classesOf_agent hag h
  refine ⟨fun hv hd => ?clkr, fun hv hd => ?pair, fun hv hl hw ht => ?stmp, fun t hv hl hw hs ht => ?stamped, fun hv hl hw => ?stampWide,
    fun hv hl hw hp hst => ⟨fun hf => ?cmtw, fun p t c hf => ?refused⟩,
    fun hv hl => ⟨fun hw => ?wide, fun hw hp => ?poisoned, fun hw hp hst => ?ahead⟩, fun hv => ?variants, fun hv => ?variants2,
    fun hv hc => ?ivlmAgent, fun hv hl hc => ?tickAg, fun hv hl hc hm => ?tickFc, fun hv hl hc hm => ?unmapped, fun hv hl hc => ?ivlmAg,
    fun hv hl hc hk => ?ivlmReads, fun hc hk => ⟨fun hv hl => ?noDieRead, fun hv hl => ?noDieWrite⟩, fun hc hv hl hk hlim => ?noLimit,
    fun hv hl hc hk hlo hhi => ?ivlmWrites⟩
  case clkr => exact completes_of_body rfl hr (cls (by decide)) (bodyClkr_eq hv hd)
  case pair => exact traps_of_body rfl hr (cls (by decide)) (bodyClkr_operand hv hd)
  case stmp =>
    refine completes_of_body rfl hr (cls (by decide)) ((bodyStmp_narrow hv hl hw).trans ?_)
    rw [awaitFree_ok (stampAbove_true ht)]
    rfl
  case stamped =>
    refine holds_of_body rfl hr (cls (by decide)) ((bodyStmp_narrow hv hl hw).trans ?_)
    rw [awaitFree_hold (stampAbove_false hs ht), res_bind_error]
  case stampWide => exact traps_of_body rfl hr (cls (by decide)) (bodyStmp_wide hv hl hw)
  case cmtw => exact frees_of_body cmtwPast_iff rfl hr (cls (by decide)) (bodyCmtw_waits hv hl hw hp hst hf)
  case refused => exact traps_of_body rfl hr (cls (by decide)) (bodyCmtw_refused hv hl hw hp hst hf)
  case wide => exact traps_of_body rfl hr (cls (by decide)) (bodyCmtw_wide hv hl hw)
  case poisoned => exact traps_of_body rfl hr (cls (by decide)) (bodyCmtw_poisoned hv hl hw hp)
  case ahead => exact traps_of_body rfl hr (cls (by decide)) (bodyCmtw_ahead hv hl hw hp hst)
  case variants =>
    obtain ⟨hclkr, hstmp, htick⟩ := clock_variants (s := s) (e := e) hv
    exact ⟨traps_of_body rfl hr (cls (by decide)) hclkr, traps_of_body rfl hr (cls (by decide)) hstmp,
      traps_of_body rfl hr (cls (by decide)) htick⟩
  case variants2 =>
    refine ⟨traps_of_body rfl hr (cls (by decide)) ?_, traps_of_body rfl hr (cls (by decide)) (bodyIvlm_unsound (Or.inl hv))⟩
    rw [bodyCmtw, checkRaw_unsound (decide_eq_false (Nat.not_le.2 hv)), res_bind_error]
  case ivlmAgent => exact traps_of_body rfl hr (cls (by decide)) (bodyIvlm_unsound (Or.inr ⟨hv, hc⟩))
  case tickAg => exact completes_of_body rfl hr (cls (by decide)) (bodyTick_ag hv hl hc)
  case tickFc =>
    refine completes_of_body rfl hr (cls (by decide)) ((bodyTick_fc hv hl hc).trans ?_)
    rw [needDes_ok hm]
    rfl
  case unmapped =>
    refine traps_of_body rfl hr (cls (by decide)) ((bodyTick_fc hv hl hc).trans ?_)
    rw [needDes_trap hm, res_bind_error]
  case ivlmAg => exact completes_of_body rfl hr (cls (by decide)) (bodyIvlm_ag hv hl hc)
  case ivlmReads => exact completes_of_body rfl hr (cls (by decide)) (bodyIvlm_status hc hk hv hl)
  case noDieRead => exact traps_of_body rfl hr (cls (by decide)) (bodyIvlm_noDie hc hk (Or.inl ⟨hv, hl⟩))
  case noDieWrite => exact traps_of_body rfl hr (cls (by decide)) (bodyIvlm_noDie hc hk (Or.inr ⟨hv, hl⟩))
  case noLimit => exact traps_of_body rfl hr (cls (by decide)) (bodyIvlm_noLimit hc hk hv hl hlim)
  case ivlmWrites => exact completes_of_body rfl hr (cls (by decide)) (bodyIvlm_limit hc hk hv hl ⟨hlo, hhi⟩)

end Sys2Proof.Machine
end

section
/-! PROOFS. O24, its first part: the configuration of a ruling array, and the records that it scores (R200 to R205, R208; log 61). -/
namespace Sys2Proof.Machine
open Sys2Proof.Claim

section
variable {s : State} {e : Elem} {f : Fields}

-- The pointer and the clearing (R200, R204) -------------------------------------------------------------------------------------------------

theorem still_iff {r : RaPart} : r.still = true ↔ r.rq = [] ∧ r.pipe = [] := by
  rw [RaPart.still, Bool.and_eq_true, beq_iff_eq, beq_iff_eq]

theorem still_false {r : RaPart} (h : ¬ (r.rq = [] ∧ r.pipe = [])) : r.still = false := Bool.eq_false_iff.2 (mt still_iff.1 h)

/-- The pointer that `tacf.ptr` gives. -/
def newPtr (f : Fields) : BitVec 14 := f.imm.extractLsb' 0 14

theorem bodyTacf_pointer (hv : f.var.toNat = 0) : bodyTacf s f e =
    (needDes (ptrOk (newPtr f)) f.a >>= fun _ => done s { e with ra := { e.ra with ptr := newPtr f } }) := by
  rw [bodyTacf, hv]
  rfl

theorem bodyTacf_clear (hv : f.var.toNat = 4) : bodyTacf s f e = (awaitFree e.ra.still >>= fun _ =>
    done s { e with ra := { e.ra with cells := [], descs := [], leaves := [], ptr := 0 } }) := by
  rw [bodyTacf, hv]
  rfl

theorem bodyTacf_unsound (hv : 4 < f.var.toNat) : bodyTacf s f e = .error (.trap .instr) := by
  rw [bodyTacf]
  refine congrArg (· >>= _) (need_trap ?_ _)
  rw [decide_eq_false (Nat.not_le.2 hv), Bool.false_and]

-- A write at the pointer (R201, R202, R204) -------------------------------------------------------------------------------------------------

/-- The word that a write names. -/
def ruleWord (e : Elem) (f : Fields) : CWord := e.slot (desChan f.a) (desOfs f.a)

/-- The kind that the fault of a control word names. -/
def ctlKind (w : CWord) : Nat := if w.isCtl then w.kind.toNat else 0

section
variable (hv : 1 ≤ f.var.toNat ∧ f.var.toNat ≤ 3) (hw : f.wa = 0 ∨ isSlot f.a = true)
include hv hw

theorem bodyTacf_write : bodyTacf s f e = (do
    needDes (ruleSrc e f.a) f.a
    needDes (ptrSpace e.ra.ptr + 1 == f.var.toNat) f.a
    await (inWait e f.a f.wa)
    awaitFree e.ra.still
    need (!(isSlot f.a && (ruleWord e f).isCtl)) (.align (desChan f.a) none (ctlKind (e.slot (desChan f.a) 0)))
    need (!(readDes s e f.a).pz) (.poison 0 f.d.toNat 0)
    needDes (loadOk f.var.toNat (readDes s e f.a).pay) f.a
    done s { e with ra := e.ra.load f.var.toNat (readDes s e f.a).pay }) := by
  rw [bodyTacf]
  refine (congrArg (· >>= _) (need_ok ?_ _)).trans ?_
  · have hk : (f.wa == 0 || isSlot f.a) = true := waitKind_ok hw
    rw [decide_eq_true (show f.var.toNat ≤ 4 by omega), decide_eq_true hv, Bool.or_assoc, hk]
    rfl
  · rw [res_bind_ok, if_neg (by omega), if_neg (by omega)]
    rfl

theorem bodyTacf_operand (h : ruleSrc e f.a = false ∨ e.ra.ptr.toNat / 4096 + 1 ≠ f.var.toNat) :
    bodyTacf s f e = .error (.trap (.operand f.a.toNat)) := by
  rw [bodyTacf_write hv hw]
  cases hs : ruleSrc e f.a with
  | false => rfl
  | true =>
    have hp : e.ra.ptr.toNat / 4096 + 1 ≠ f.var.toNat := h.resolve_left (by rw [hs]; decide)
    rw [needDes_true, res_bind_ok, ptrSpace, needDes_trap (beq_false_of_ne hp), res_bind_error]

variable (hs : ruleSrc e f.a = true) (hp : e.ra.ptr.toNat / 4096 + 1 = f.var.toNat) (hi : inWait e f.a f.wa = true)
include hs hp hi

/-- A write from a source that stands, in the form of the pointer's space. -/
theorem bodyTacf_source : bodyTacf s f e = (do
    awaitFree e.ra.still
    need (!(isSlot f.a && (ruleWord e f).isCtl)) (.align (desChan f.a) none (ctlKind (e.slot (desChan f.a) 0)))
    need (!(readDes s e f.a).pz) (.poison 0 f.d.toNat 0)
    needDes (loadOk f.var.toNat (readDes s e f.a).pay) f.a
    done s { e with ra := e.ra.load f.var.toNat (readDes s e f.a).pay }) := by
  rw [bodyTacf_write hv hw, needDes_ok hs, res_bind_ok, ptrSpace, needDes_ok (beq_iff_eq.2 hp), res_bind_ok, hi, await_true, res_bind_ok]

theorem bodyTacf_holds (hq : ¬ (e.ra.rq = [] ∧ e.ra.pipe = [])) : bodyTacf s f e = .error (.hold .free) := by
  rw [bodyTacf_source hv hw hs hp hi, awaitFree_hold (still_false hq), res_bind_error]

variable (hq : e.ra.rq = [] ∧ e.ra.pipe = [])
include hq

theorem bodyTacf_control (hc : ¬ (isSlot f.a = true → (ruleWord e f).isData = true)) :
    bodyTacf s f e = .error (.trap (.align (desChan f.a) none (ctlKind (e.slot (desChan f.a) 0)))) := by
  obtain ⟨ha, hd⟩ := Classical.not_imp.1 hc
  have hctl : (ruleWord e f).isCtl = true := by simpa [CWord.isData] using hd
  rw [bodyTacf_source hv hw hs hp hi, awaitFree_ok (still_iff.2 hq), res_bind_ok, need_trap (by rw [ha, hctl]; rfl), res_bind_error]

variable (hd : isSlot f.a = true → (ruleWord e f).isData = true)
include hd

theorem bodyTacf_word : bodyTacf s f e = (do
    need (!(readDes s e f.a).pz) (.poison 0 f.d.toNat 0)
    needDes (loadOk f.var.toNat (readDes s e f.a).pay) f.a
    done s { e with ra := e.ra.load f.var.toNat (readDes s e f.a).pay }) := by
  have hok : (!(isSlot f.a && (ruleWord e f).isCtl)) = true := by
    cases ha : isSlot f.a with
    | false => rfl
    | true => exact hd ha
  rw [bodyTacf_source hv hw hs hp hi, awaitFree_ok (still_iff.2 hq), res_bind_ok, need_ok hok, res_bind_ok]

theorem bodyTacf_poisoned (hz : (readDes s e f.a).pz = true) : bodyTacf s f e = .error (.trap (.poison 0 f.d.toNat 0)) := by
  rw [bodyTacf_word hv hw hs hp hi hq hd, need_trap (by rw [hz]; rfl), res_bind_error]

variable (hz : (readDes s e f.a).pz = false)
include hz

theorem bodyTacf_unfit (hl : loadOk f.var.toNat (readDes s e f.a).pay = false) : bodyTacf s f e = .error (.trap (.operand f.a.toNat)) := by
  rw [bodyTacf_word hv hw hs hp hi hq hd, need_ok (by rw [hz]; rfl), res_bind_ok, needDes_trap hl, res_bind_error]

theorem bodyTacf_loads (hl : loadOk f.var.toNat (readDes s e f.a).pay = true) :
    bodyTacf s f e = done s { e with ra := e.ra.load f.var.toNat (readDes s e f.a).pay } := by
  rw [bodyTacf_word hv hw hs hp hi hq hd, need_ok (by rw [hz]; rfl), res_bind_ok, needDes_ok hl, res_bind_ok]

end

/-- What a word must hold to be written in a form (R201, R202). -/
theorem loadOk_iff {v : Nat} {p : Payload} : loadOk v p = true ↔
    (v = 1 → ∀ j < 4, cellOk (wordCell p j) = true) ∧ (v = 2 → ∀ j < 16, descOk (p.lane j) = true) := by
  unfold loadOk
  split
  · simp
  · simp
  · next h1 h2 => exact ⟨fun _ => ⟨fun h => (h1 h).elim, fun h => (h2 h).elim⟩, fun _ => rfl⟩

-- Chained pairs (R208) ----------------------------------------------------------------------------------------------------------------------

/-- A descriptor with its pair chained or not. -/
def chainedDesc (v : BitVec 4) (d : BitVec 32) : BitVec 32 := if v = 0 then d ||| 0x100 else d &&& ~~~(0x100 : BitVec 32)

theorem chainedDesc_bit (v : BitVec 4) (d : BitVec 32) {k : Nat} (hk : k < 32) :
    (chainedDesc v d).getLsbD k = if k = 8 then decide (v = 0) else d.getLsbD k := by
  have hbit : (0x100 : BitVec 32).getLsbD k = decide (k = 8) := by
    revert k
    decide
  unfold chainedDesc
  by_cases hv : v = 0
  · rw [if_pos hv, BitVec.getLsbD_or, hbit]
    by_cases h8 : k = 8 <;> simp [h8, hv]
  · rw [if_neg hv, BitVec.getLsbD_and, BitVec.getLsbD_not, hbit]
    rw [decide_eq_false hv]
    by_cases h8 : k = 8 <;> simp [h8, hk]

/-- The element with the pair that `tach` names chained or not. -/
def chainAt (e : Elem) (f : Fields) : Elem :=
  let c := f.imm.toNat % 64
  { e with ra := { e.ra with descs := Tab.set e.ra.descs c (chainedDesc f.var (e.ra.desc c)) } }

theorem bodyTach_unsound (hv : 1 < f.var.toNat) : bodyTach s f e = .error (.trap .instr) := by
  rw [bodyTach, need_trap (decide_eq_false (Nat.not_le.2 hv)), res_bind_error]

section
variable (hv : f.var.toNat ≤ 1)
include hv

theorem bodyTach_eq : bodyTach s f e = (do
    needDes (f.imm.toNat % 64 % 2 == 0) f.a
    awaitFree e.ra.still
    done s (chainAt e f)) := by
  rw [bodyTach, need_ok (decide_eq_true hv)]
  rfl

theorem bodyTach_operand (hc : f.imm.toNat % 64 % 2 = 1) : bodyTach s f e = .error (.trap (.operand f.a.toNat)) := by
  rw [bodyTach_eq hv, needDes_trap (by rw [hc]; rfl), res_bind_error]

variable (hc : f.imm.toNat % 64 % 2 = 0)
include hc

theorem bodyTach_holds (hq : ¬ (e.ra.rq = [] ∧ e.ra.pipe = [])) : bodyTach s f e = .error (.hold .free) := by
  rw [bodyTach_eq hv, needDes_ok (beq_iff_eq.2 hc), res_bind_ok, awaitFree_hold (still_false hq), res_bind_error]

theorem bodyTach_chains (hq : e.ra.rq = [] ∧ e.ra.pipe = []) : bodyTach s f e = done s (chainAt e f) := by
  rw [bodyTach_eq hv, needDes_ok (beq_iff_eq.2 hc), res_bind_ok, awaitFree_ok (still_iff.2 hq), res_bind_ok]

end

-- Scoring (R203) ----------------------------------------------------------------------------------------------------------------------------

/-- A bit that remains of a mask after the masks of some rows were taken in. -/
theorem foldl_and_getLsbD (c : Nat → Bool) (g : Nat → BitVec 64) (l : List Nat) (m : BitVec 64) (b : Nat) :
    (l.foldl (fun m row => if c row then m &&& g row else m) m).getLsbD b = true ↔
      m.getLsbD b = true ∧ ∀ row ∈ l, c row = true → (g row).getLsbD b = true := by
  induction l generalizing m with
  | nil => simp
  | cons row l ih =>
    rw [List.foldl_cons, ih]
    cases hrow : c row <;> simp [hrow, and_assoc]

/-- Bit `b` of the mask of leaves with which a column starts. -/
theorem leafMask_getLsbD (n : Nat) {b : Nat} (hb : b < 64) : (BitVec.ofNat 64 (2 ^ min n 64 - 1)).getLsbD b = decide (b < n) := by
  rw [BitVec.getLsbD_ofNat, Nat.testBit_two_pow_sub_one]
  simp [hb]

/-- A column scores where it, or the head of its chained pair, is on (R203, R208). -/
theorem scores_eq (r : RaPart) (k : Nat) :
    r.scores k = (r.desc (if (r.desc (k / 2 * 2)).getLsbD 8 then k / 2 * 2 else k)).getLsbD 7 := by
  rw [RaPart.scores, RaPart.chained, dChn]
  split <;> rfl

theorem cellFails_eq (cell : BitVec 128) (x y : Payload) : cellFails cell x y =
    (let fix := cell.toNat % 64
     let q := Fmt.decode .bf16 (if fix < 32 then elemAt .bf16 x fix else elemAt .bf16 y (fix - 32))
     if q.isNaN then cell.getLsbD 14 else !(q.lt (Fmt.decode .bf16 (cell.toNat / 2 ^ 16 % 2 ^ 16)))) := by
  rw [cellFails, feature, show bitsAt cell.toNat 0 6 = cell.toNat % 64 by simp [bitsAt]]
  rfl

/-- A bit of a column's final mask. -/
theorem mask_getLsbD (r : RaPart) (x y : Payload) (k : Nat) {b : Nat} (hb : b < 64) : (r.mask x y k).getLsbD b = true ↔
    r.scores k = true ∧ b < (r.desc k).toNat % 128
      ∧ ∀ row < 64, (r.cell row k).getLsbD 15 = true → cellFails (r.cell row k) x y = true → (r.cell row k).getLsbD (64 + b) = true := by
  rw [RaPart.mask]
  cases hs : r.scores k with
  | false => simp
  | true =>
    rw [if_pos rfl]
    dsimp only
    rw [foldl_and_getLsbD (fun row => (r.cell row k).getLsbD 15 && cellFails (r.cell row k) x y), leafMask_getLsbD _ hb, dNlf,
      decide_eq_true_iff]
    simp [hb]

/-- Whether `tafd` names an input slot that holds a record (R203). -/
def fedSlot (e : Elem) (f : Fields) : Bool :=
  isSlot f.a && desOfs f.a == 0 && slotOk e (desChan f.a) 0 && entFmt (e.inch (desChan f.a)).ent == 19

theorem fedSlot_iff : fedSlot e f = true ↔
    isSlot f.a = true ∧ desOfs f.a = 0 ∧ slotOk e (desChan f.a) 0 = true ∧ entFmt (e.inch (desChan f.a)).ent = 19 := by
  simp only [fedSlot, Bool.and_eq_true, beq_iff_eq, and_assoc]

/-- The two words of a record. -/
def isRecord (e : Elem) (f : Fields) : Bool :=
  (e.slot (desChan f.a) 0).isData && !(e.slot (desChan f.a) 0).lr && (e.slot (desChan f.a) 1).isData && (e.slot (desChan f.a) 1).lr

theorem isRecord_iff : isRecord e f = true ↔ (e.slot (desChan f.a) 0).isData = true ∧ (e.slot (desChan f.a) 0).lr = false
    ∧ (e.slot (desChan f.a) 1).isData = true ∧ (e.slot (desChan f.a) 1).lr = true := by
  simp only [isRecord, Bool.and_eq_true, Bool.not_eq_true', and_assoc]

/-- The result of the record that is fed. -/
def fedResult (e : Elem) (f : Fields) : RqEntry :=
  let x := e.slot (desChan f.a) 0
  let y := e.slot (desChan f.a) 1
  { m := (List.range 64).map (e.ra.mask x.pay y.pay), pz := x.pz || y.pz || e.flowP, tn := x.tn || y.tn || e.flowT }

theorem bodyTafd_unsound (hv : f.var ≠ 0) : bodyTafd s f e = .error (.trap .instr) := by
  rw [bodyTafd]
  refine congrArg (· >>= _) (need_trap ?_ _)
  rw [beq_false_of_ne hv, Bool.false_and]

section
variable (hv : f.var = 0) (hw : f.wa = 0 ∨ isSlot f.a = true)
include hv hw

theorem bodyTafd_eq : bodyTafd s f e = (do
    needDes (fedSlot e f) f.a
    await (decide (max 2 f.wa.toNat ≤ (e.inch (desChan f.a)).q.length))
    awaitFree (decide (e.ra.rq.length + e.ra.pipe.length < 8 ∧ 2 ≤ e.ra.since))
    need (isRecord e f) (.align (desChan f.a) none (ctlKind (e.slot (desChan f.a) 0)))
    done s { e with ra := { e.ra with pipe := e.ra.pipe ++ [fedResult e f], since := 0 } }) := by
  rw [bodyTafd]
  refine (congrArg (· >>= _) (need_ok ?_ _)).trans rfl
  have hk : (f.wa == 0 || isSlot f.a) = true := waitKind_ok hw
  rw [hv, hk]
  rfl

theorem bodyTafd_operand (hf : fedSlot e f = false) : bodyTafd s f e = .error (.trap (.operand f.a.toNat)) := by
  rw [bodyTafd_eq hv hw, needDes_trap hf, res_bind_error]

variable (hf : fedSlot e f = true)
include hf

theorem bodyTafd_slots (hn : (e.inch (desChan f.a)).q.length < max 2 f.wa.toNat) : bodyTafd s f e = .error (.hold .slots) := by
  rw [bodyTafd_eq hv hw, needDes_ok hf, res_bind_ok, decide_eq_false (Nat.not_le.2 hn), await_false, res_bind_error]

variable (hn : max 2 f.wa.toNat ≤ (e.inch (desChan f.a)).q.length)
include hn

theorem bodyTafd_room (hr : ¬ (e.ra.rq.length + e.ra.pipe.length < 8 ∧ 2 ≤ e.ra.since)) : bodyTafd s f e = .error (.hold .free) := by
  rw [bodyTafd_eq hv hw, needDes_ok hf, res_bind_ok, decide_eq_true hn, await_true, res_bind_ok, awaitFree_hold (decide_eq_false hr),
    res_bind_error]

variable (hr : e.ra.rq.length + e.ra.pipe.length < 8 ∧ 2 ≤ e.ra.since)
include hr

theorem bodyTafd_feeds : bodyTafd s f e = (need (isRecord e f) (.align (desChan f.a) none (ctlKind (e.slot (desChan f.a) 0))) >>= fun _ =>
    done s { e with ra := { e.ra with pipe := e.ra.pipe ++ [fedResult e f], since := 0 } }) := by
  rw [bodyTafd_eq hv hw, needDes_ok hf, res_bind_ok, decide_eq_true hn, await_true, res_bind_ok, awaitFree_ok (decide_eq_true hr), res_bind_ok]

end

theorem rulingConfiguration : Claim.RulingConfiguration := by
  intro s e f hrun hc v r p ix a c ch x y still sets source word isWord fits operand fed full fails record
  have cls {op : BitVec 8} (h : (classesOf op).contains .ra = true) := mem_classesOf_ra hc h
  have fits_iff : loadOk v a.pay = true ↔ fits := loadOk_iff
  refine ⟨fun hv => ?pointer, fun hv hq => ?clear, fun h hq => ?busy, fun hv => ?variant, fun h1 h3 hw h => ?operand, fun h hq hd => ?control,
    fun h hq hd hz => ?poisoned, fun h hq hd hz hl => ?unfit, fun h hq hd hz => ?loads, fun hv => ?tachVariant, fun hv hk => ?odd,
    fun hv hk hq => ?tachBusy, fun hv hk hq => ⟨chainedDesc f.var (r.desc c), ?chain, fun k hk => ?chainBits⟩, fun hv => ?tafdVariant,
    fun hv hw hf => ?noSlot, fun hv hf hn => ?slots, fun hv hf hn hr => ?room, fun hv hf hn hr hd => ⟨ctlKind (e.slot (desChan f.a) 0), ?noRecord⟩,
    fun hv hf hn hr hd => ⟨fedResult e f, ?scored, fun k hk b hb => ?maskBits, rfl, rfl⟩⟩
  case pointer =>
    split
    · next hp => exact completes_of_body rfl hrun (cls (by decide)) ((bodyTacf_pointer hv).trans (congrArg (· >>= _) (needDes_ok hp)))
    · next hp =>
      exact traps_of_body rfl hrun (cls (by decide))
        ((bodyTacf_pointer hv).trans (congrArg (· >>= _) (needDes_trap (Bool.eq_false_iff.2 hp))))
  case clear =>
    refine completes_of_body rfl hrun (cls (by decide)) ((bodyTacf_clear hv).trans ?_)
    rw [awaitFree_ok (still_iff.2 hq), res_bind_ok]
  case busy =>
    refine holds_of_body rfl hrun (cls (by decide)) ?_
    obtain hv | ⟨h1, h3, hw, hs, hp, hi⟩ := h
    · rw [bodyTacf_clear hv, awaitFree_hold (still_false hq), res_bind_error]
    · exact bodyTacf_holds ⟨h1, h3⟩ hw hs hp hi hq
  case variant => exact traps_of_body rfl hrun (cls (by decide)) (bodyTacf_unsound hv)
  case operand => exact traps_of_body rfl hrun (cls (by decide)) (bodyTacf_operand ⟨h1, h3⟩ hw h)
  case control =>
    obtain ⟨h1, h3, hw, hs, hp, hi⟩ := h
    exact ⟨ctlKind (e.slot (desChan f.a) 0), traps_of_body rfl hrun (cls (by decide)) (bodyTacf_control ⟨h1, h3⟩ hw hs hp hi hq hd)⟩
  case poisoned =>
    obtain ⟨h1, h3, hw, hs, hp, hi⟩ := h
    exact traps_of_body rfl hrun (cls (by decide)) (bodyTacf_poisoned ⟨h1, h3⟩ hw hs hp hi hq hd hz)
  case unfit =>
    obtain ⟨h1, h3, hw, hs, hp, hi⟩ := h
    exact traps_of_body rfl hrun (cls (by decide))
      (bodyTacf_unfit ⟨h1, h3⟩ hw hs hp hi hq hd hz (Bool.eq_false_iff.2 (mt fits_iff.1 hl)))
  case loads =>
    obtain ⟨h1, h3, hw, hs, hp, hi⟩ := h
    have loads (hl : fits) : sets (.tacf f) (r.load v a.pay) :=
      completes_of_body rfl hrun (cls (by decide)) (bodyTacf_loads ⟨h1, h3⟩ hw hs hp hi hq hd hz (fits_iff.2 hl))
    refine ⟨fun hv hl => ?_, fun hv hl => ?_, fun hv => ?_⟩
    · exact (congrArg (fun v => sets (.tacf f) (r.load v a.pay)) hv).mp (loads ⟨fun _ => hl, fun h2 => absurd (hv.symm.trans h2) (by decide)⟩)
    · exact (congrArg (fun v => sets (.tacf f) (r.load v a.pay)) hv).mp (loads ⟨fun h1 => absurd (hv.symm.trans h1) (by decide), fun _ => hl⟩)
    · exact (congrArg (fun v => sets (.tacf f) (r.load v a.pay)) hv).mp
        (loads ⟨fun h1 => absurd (hv.symm.trans h1) (by decide), fun h2 => absurd (hv.symm.trans h2) (by decide)⟩)
  case tachVariant => exact traps_of_body rfl hrun (cls (by decide)) (bodyTach_unsound hv)
  case odd => exact traps_of_body rfl hrun (cls (by decide)) (bodyTach_operand hv hk)
  case tachBusy => exact holds_of_body rfl hrun (cls (by decide)) (bodyTach_holds hv hk hq)
  case chain => exact completes_of_body rfl hrun (cls (by decide)) (bodyTach_chains hv hk hq)
  case chainBits =>
    rw [chainedDesc_bit _ _ hk]
    by_cases h8 : k = 8
    · rw [if_pos h8, if_pos h8, decide_eq_true_iff, var_eq_zero_iff]
    · rw [if_neg h8, if_neg h8]
  case tafdVariant => exact traps_of_body rfl hrun (cls (by decide)) (bodyTafd_unsound hv)
  case noSlot => exact traps_of_body rfl hrun (cls (by decide)) (bodyTafd_operand hv hw (Bool.eq_false_iff.2 (mt fedSlot_iff.1 hf)))
  case slots => exact holds_of_body rfl hrun (cls (by decide)) (bodyTafd_slots hv (Or.inr hf.1) (fedSlot_iff.2 hf) hn)
  case room => exact holds_of_body rfl hrun (cls (by decide)) (bodyTafd_room hv (Or.inr hf.1) (fedSlot_iff.2 hf) hn hr)
  case noRecord =>
    refine traps_of_body rfl hrun (cls (by decide)) ((bodyTafd_feeds hv (Or.inr hf.1) (fedSlot_iff.2 hf) hn hr).trans ?_)
    rw [need_trap (Bool.eq_false_iff.2 (mt isRecord_iff.1 hd)), res_bind_error]
  case scored =>
    refine completes_of_body rfl hrun (cls (by decide)) ((bodyTafd_feeds hv (Or.inr hf.1) (fedSlot_iff.2 hf) hn hr).trans ?_)
    rw [need_ok (isRecord_iff.2 hd), res_bind_ok]
  case maskBits =>
    have hm : (fedResult e f).m.getD k 0 = r.mask x.pay y.pay k := by
      simp [fedResult, List.getD_eq_getElem?_getD, hk]
      rfl
    rw [hm, mask_getLsbD _ _ _ _ hb, scores_eq]
    simp only [cellFails_eq]
    rfl

end
end Sys2Proof.Machine
end

section
/-! PROOFS. O24, its second part: the results of a ruling array (R203, R206 to R208). -/
namespace Sys2Proof.Machine
open Sys2Proof.Claim

-- Exits (R207, R208) ------------------------------------------------------------------------------------------------------------------------

/-- `b` is the lowest bit of a mask. -/
def IsLowest (m : BitVec 64) (b : Nat) : Prop := b < 64 ∧ m.getLsbD b = true ∧ ∀ j < b, m.getLsbD j = false

theorem lowestBit_eq_some {m : BitVec 64} {b : Nat} (h : IsLowest m b) : lowestBit m = some b := by
  obtain ⟨hb, hm, hlow⟩ := h
  exact List.find?_range_eq_some.2 ⟨hm, List.mem_range.2 hb, fun j hj => by rw [hlow j hj]; rfl⟩

theorem lowestBit_lt {m : BitVec 64} {b : Nat} (h : lowestBit m = some b) : b < 64 := List.mem_range.1 (List.mem_of_find?_eq_some h)

theorem lowestBit_zero : lowestBit 0 = none := by decide

section
variable {r : RaPart} {m : List (BitVec 64)} {k b : Nat}

/-- Where a column's exit is: the lowest bit of its mask, or that of the next column's after it in a chained pair. -/
def ExitsAt (r : RaPart) (m : List (BitVec 64)) (k b : Nat) : Prop :=
  IsLowest (m.getD k 0) b ∨ (r.chained k = true ∧ m.getD k 0 = 0 ∧ 64 ≤ b ∧ IsLowest (m.getD (k + 1) 0) (b - 64))

/-- A column whose masks name no exit. -/
def ExitsNowhere (r : RaPart) (m : List (BitVec 64)) (k : Nat) : Prop := m.getD k 0 = 0 ∧ (r.chained k = true → m.getD (k + 1) 0 = 0)

theorem exit_of_exitsAt (h : ExitsAt r m k b) : r.exit m k = some b := by
  rw [RaPart.exit]
  obtain h | ⟨hc, h0, hb, h⟩ := h
  · rw [lowestBit_eq_some h]
  · rw [h0, lowestBit_zero]
    refine (if_pos hc).trans ?_
    rw [lowestBit_eq_some h, Option.map_some, Nat.add_sub_cancel' hb]

theorem exit_of_exitsNowhere (h : ExitsNowhere r m k) : r.exit m k = none := by
  obtain ⟨h0, h1⟩ := h
  rw [RaPart.exit, h0, lowestBit_zero]
  refine ite_eq_right_iff.2 fun hc => ?_
  rw [h1 hc, lowestBit_zero, Option.map_none]

theorem exit_lt (h : r.exit m k = some b) : b < 128 := by
  unfold RaPart.exit at h
  split at h
  · next i hi =>
    have := lowestBit_lt hi
    obtain rfl := Option.some.inj h
    omega
  · split at h
    · obtain ⟨i, hi, rfl⟩ := Option.map_eq_some_iff.1 h
      have := lowestBit_lt hi
      omega
    · cases h

-- Codes (R206) ------------------------------------------------------------------------------------------------------------------------------

theorem code_upper (hu : r.upper k = true) : r.code m k = 0xFE := if_pos hu

theorem code_silent (hu : r.upper k = false) (hs : r.scores k = false) : r.code m k = 0xFD := by
  rw [RaPart.code, if_neg (Bool.eq_false_iff.1 hu), hs]
  rfl

theorem code_scoring (hu : r.upper k = false) (hs : r.scores k = true) : r.code m k = (r.exit m k).getD 0xFF := by
  rw [RaPart.code, if_neg (Bool.eq_false_iff.1 hu), hs]
  cases r.exit m k <;> rfl

theorem code_lt : r.code m k < 2 ^ 8 := by
  cases hu : r.upper k with
  | true => rw [code_upper hu]; decide
  | false =>
    cases hs : r.scores k with
    | false => rw [code_silent hu hs]; decide
    | true =>
      rw [code_scoring hu hs]
      cases he : r.exit m k with
      | none => decide
      | some b => exact (exit_lt he).trans (by decide)

end

/-- A sum of bytes at their places is the bytes packed. -/
theorem foldl_bytes {g : Nat → Nat} (h : ∀ k, g k < 2 ^ 8) (n : Nat) :
    (List.range n).foldl (fun t k => t + g k * 2 ^ (8 * k)) 0 = packElems 8 g n := by
  induction n with
  | zero => rfl
  | succ n ih => rw [List.range_succ, List.foldl_append, ih, List.foldl_cons, List.foldl_nil, packElems, Nat.mod_eq_of_lt (h n)]

theorem toNat_packElems (w : Nat) (g : Nat → Nat) (n : Nat) : (BitVec.ofNat (w * n) (packElems w g n)).toNat = packElems w g n := by
  rw [BitVec.toNat_ofNat, Nat.mod_eq_of_lt (packElems_lt w g n)]

/-- The codes of a result, column after column. -/
def codesOf (r : RaPart) (m : List (BitVec 64)) : Payload :=
  BitVec.ofNat 512 ((List.range 64).foldl (fun n k => n + r.code m k * 2 ^ (8 * k)) 0)

theorem codesOf_get (r : RaPart) (m : List (BitVec 64)) {k : Nat} (hk : k < 64) : (codesOf r m).toNat / 2 ^ (8 * k) % 256 = r.code m k := by
  have hn : (codesOf r m).toNat = packElems 8 (r.code m) 64 := by
    rw [codesOf, foldl_bytes fun _ => code_lt]
    exact toNat_packElems 8 _ 64
  rw [hn]
  exact (packElems_get 8 (r.code m) 64 k hk).trans (Nat.mod_eq_of_lt code_lt)

-- Reading masks and codes (R206) ------------------------------------------------------------------------------------------------------------

section
variable {s : State} {e : Elem} {f : Fields} (hb : badReg e f = none)

/-- The eight masks of a result from a column on. -/
def masksFrom (m : List (BitVec 64)) (c : Nat) : Payload :=
  Payload.ofLanes fun i => (m.getD (c + i / 2) 0).extractLsb' (32 * (i % 2)) 32

/-- What `tamk` reads of a result. -/
def tamkWord (e : Elem) (f : Fields) (z : RqEntry) : Payload :=
  if f.var = 0 then masksFrom z.m (f.imm.toNat % 64) else codesOf e.ra z.m

include hb

theorem bodyTamk_eq : bodyTamk s f e = (do
    checkRaw e f onlyD (decide (f.var.toNat ≤ 1)) (if f.var = 0 ∧ f.imm.toNat % 64 % 8 ≠ 0 then some f.a else none)
    match e.ra.rq with
    | [] => holdFree
    | z :: _ => done s (putWhole e f.d (tamkWord e f z) z.pz z.tn)) := by
  rw [bodyTamk, hb]
  rfl

theorem bodyTamk_unsound (hv : 1 < f.var.toNat) : bodyTamk s f e = .error (.trap .instr) := by
  rw [bodyTamk_eq hb, checkRaw_unsound (decide_eq_false (Nat.not_le.2 hv)), res_bind_error]

theorem bodyTamk_group (hv : f.var = 0) (hl : Legal e f onlyD none) (hk : f.imm.toNat % 64 % 8 ≠ 0) :
    bodyTamk s f e = .error (.trap (.operand f.a.toNat)) := by
  rw [bodyTamk_eq hb, if_pos ⟨hv, hk⟩, checkRaw_bad hl (by rw [hv]; rfl) rfl, res_bind_error]

variable (hv : f.var.toNat ≤ 1) (hl : Legal e f onlyD none) (hk : f.var = 0 → f.imm.toNat % 64 % 8 = 0)
include hv hl hk

theorem bodyTamk_reads : bodyTamk s f e = (match e.ra.rq with
    | [] => holdFree
    | z :: _ => done s (putWhole e f.d (tamkWord e f z) z.pz z.tn)) := by
  rw [bodyTamk_eq hb, if_neg fun h => h.2 (hk h.1), checkRaw_ok hl (decide_eq_true hv), res_bind_ok]

end

-- Sums of leaves (R207) ---------------------------------------------------------------------------------------------------------------------

theorem writeDes_ra (e : Elem) (d : BitVec 10) (v : Reg) : (writeDes e d v).ra = e.ra := by
  unfold writeDes
  split <;> rfl

theorem value_of_exitsAt {r : RaPart} {m : List (BitVec 64)} {k b : Nat} (h : ExitsAt r m k b) :
    r.value m k = (r.leaf (k + b / 64) (b % 64)).toNat := by
  rw [RaPart.value, exit_of_exitsAt h]

theorem value_of_exitsNowhere {r : RaPart} {m : List (BitVec 64)} {k : Nat} (h : ExitsNowhere r m k) : r.value m k = 0x7FC00000 := by
  rw [RaPart.value, exit_of_exitsNowhere h]
  rfl

theorem summed_eq (r : RaPart) : r.summed = (List.range 64).filter (fun k =>
    (r.desc (if (r.desc (k / 2 * 2)).getLsbD 8 then k / 2 * 2 else k)).getLsbD 7 && !((r.desc (k / 2 * 2)).getLsbD 8 && k % 2 == 1)) := by
  rw [RaPart.summed]
  refine List.filter_congr fun k _ => ?_
  rw [scores_eq]
  rfl

theorem lane_ofList (l : List Lane) {k : Nat} (hk : k < 16) : (Payload.ofList l).lane k = l.getD k 0 := lane_ofLanes _ k hk

section
variable {s : State} {e : Elem} {f : Fields} (hb : badReg e f = none)

/-- The operands that a sum of leaves reads and writes. -/
def sumUses (f : Fields) : Uses := { a := false, b := false, c := f.c != 0x0FF, d := true }

/-- The operands from which a sum may start (R207). -/
def sumBase (e : Elem) (f : Fields) : Bool := f.c == 0x0FF || isState e f.c || f.c.toNat / 256 == 1 || isSlot f.c

theorem sumBase_iff : sumBase e f = true ↔ f.c = 0x0FF ∨ isState e f.c = true ∨ f.c.toNat / 256 = 1 ∨ isSlot f.c = true := by
  simp only [sumBase, Bool.or_eq_true, beq_iff_eq, or_assoc]

/-- The sum of the leaf values of a result and the number of its columns. -/
def leafSum (s : State) (e : Elem) (f : Fields) (z : RqEntry) : Payload :=
  Payload.ofList [BitVec.ofNat 32 (e.ra.summed.foldl (fun t k => sum32 t (e.ra.value z.m k)) ((readDes s e f.c).pay.lane 0).toNat),
    BitVec.ofNat 32 e.ra.summed.length]

/-- The element after a sum: `talv.pop` removes the result. -/
def summedElem (s : State) (e : Elem) (f : Fields) (z : RqEntry) (l : List RqEntry) : Elem :=
  let y := putWhole e f.d (leafSum s e f z) (z.pz || (readDes s e f.c).pz) (z.tn || (readDes s e f.c).tn)
  if f.var = 0 then { y with ra := { y.ra with rq := l } } else y

include hb

theorem bodyTalv_eq : bodyTalv s f e = (do
    checkRaw e f (sumUses f) (decide (f.var.toNat ≤ 1)) (if sumBase e f then none else some f.c)
    match e.ra.rq with
    | [] => holdFree
    | z :: l => done s (summedElem s e f z l)) := by
  rw [bodyTalv, hb]
  rfl

theorem bodyTalv_unsound (hv : 1 < f.var.toNat) : bodyTalv s f e = .error (.trap .instr) := by
  rw [bodyTalv_eq hb, checkRaw_unsound (decide_eq_false (Nat.not_le.2 hv)), res_bind_error]

variable (hv : f.var.toNat ≤ 1) (hl : Legal e f (sumUses f) none)
include hv hl

theorem bodyTalv_base (h : sumBase e f = false) : bodyTalv s f e = .error (.trap (.operand f.c.toNat)) := by
  rw [bodyTalv_eq hb, h]
  refine (congrArg (· >>= _) (checkRaw_bad hl (decide_eq_true hv) rfl)).trans ?_
  rw [res_bind_error]

theorem bodyTalv_sums (h : sumBase e f = true) : bodyTalv s f e = (match e.ra.rq with
    | [] => holdFree
    | z :: l => done s (summedElem s e f z l)) := by
  rw [bodyTalv_eq hb, h]
  refine (congrArg (· >>= _) (checkRaw_ok hl (decide_eq_true hv))).trans ?_
  rw [res_bind_ok]

end

section
variable {s : State} {e : Elem} {f : Fields}

theorem rulingResults : Claim.RulingResults := by
  intro s e f hrun hc hb v r c cc head scores upper cols lowest exits empty from_ reads sums
  have cls {op : BitVec 8} (h : (classesOf op).contains .ra = true) := mem_classesOf_ra hc h
  have hscores (k : Nat) : r.scores k = scores k := scores_eq r k
  refine ⟨fun hv => ⟨?tamkVariant, ?talvVariant⟩, fun hv hl hk => ?group, fun hv hl hk hq => ?tamkEmpty, fun hv hl hfrom hq => ?talvEmpty,
    fun hv hl hfrom => ?base, fun z l hv hl hq => ⟨fun h0 hk => ?masks, fun h1 => ?codes⟩, fun z l hv hl hfrom hq => ?leaves⟩
  case tamkVariant => exact traps_of_body rfl hrun (cls (by decide)) (bodyTamk_unsound hb hv)
  case talvVariant => exact traps_of_body rfl hrun (cls (by decide)) (bodyTalv_unsound hb hv)
  case group => exact traps_of_body rfl hrun (cls (by decide)) (bodyTamk_group hb (var_eq_zero_iff.2 hv) hl hk)
  case tamkEmpty =>
    refine holds_of_body rfl hrun (cls (by decide)) ((bodyTamk_reads hb hv hl fun h => hk (var_eq_zero_iff.1 h)).trans ?_)
    rw [show e.ra.rq = [] from hq]
    rfl
  case talvEmpty =>
    refine holds_of_body rfl hrun (cls (by decide)) ((bodyTalv_sums hb hv hl (sumBase_iff.2 hfrom)).trans ?_)
    rw [show e.ra.rq = [] from hq]
    rfl
  case base => exact traps_of_body rfl hrun (cls (by decide)) (bodyTalv_base hb hv hl (Bool.eq_false_iff.2 (mt sumBase_iff.1 hfrom)))
  case masks =>
    refine ⟨{ pay := masksFrom z.m c, pz := z.pz || e.flowP, tn := z.tn || e.flowT },
      completes_of_body rfl hrun (cls (by decide)) ((bodyTamk_reads hb hv hl fun _ => hk).trans ?_), rfl, rfl, fun n hn => lane_ofLanes _ n hn⟩
    rw [show e.ra.rq = z :: l from hq]
    exact congrArg (fun p => done s (putWhole e f.d p z.pz z.tn)) (if_pos (var_eq_zero_iff.2 h0))
  case codes =>
    have hne : ¬ f.var = 0 := fun h => absurd ((var_eq_zero_iff.1 h).symm.trans h1) (by decide)
    refine ⟨{ pay := codesOf r z.m, pz := z.pz || e.flowP, tn := z.tn || e.flowT },
      completes_of_body rfl hrun (cls (by decide)) ((bodyTamk_reads hb hv hl fun h => (hne h).elim).trans ?_), rfl, rfl, fun k hk => ?_⟩
    · rw [show e.ra.rq = z :: l from hq]
      exact congrArg (fun p => done s (putWhole e f.d p z.pz z.tn)) (if_neg hne)
    · have hcode := codesOf_get r z.m hk
      refine ⟨fun hu => hcode.trans (code_upper hu), fun hu hs => hcode.trans (code_silent hu ((hscores k).trans hs)), fun hu hs => ?_⟩
      have hexit := hcode.trans (code_scoring hu ((hscores k).trans hs))
      exact ⟨fun b hx => hexit.trans (congrArg (Option.getD · 0xFF) (exit_of_exitsAt hx)),
        fun hx => hexit.trans (congrArg (Option.getD · 0xFF) (exit_of_exitsNowhere hx))⟩
  case leaves =>
    have hcols : r.summed = cols := summed_eq r
    refine ⟨{ pay := leafSum s e f z, pz := z.pz || cc.pz || e.flowP, tn := z.tn || cc.tn || e.flowT }, r.value z.m,
      completes_of_body rfl hrun (cls (by decide)) ((bodyTalv_sums hb hv hl (sumBase_iff.2 hfrom)).trans ?_),
      fun k _ => ⟨fun b => value_of_exitsAt, value_of_exitsNowhere⟩, ?_, ?_, fun k hk h2 => ?_, rfl, rfl⟩
    · rw [show e.ra.rq = z :: l from hq]
      refine congrArg (done s) ?_
      rw [summedElem, putWhole, writeDes_ra]
      simp only [var_eq_zero_iff]
      rfl
    · exact (lane_ofList _ (by decide)).trans (by rw [← hcols]; rfl)
    · exact (lane_ofList _ (by decide)).trans (by rw [← hcols]; rfl)
    · exact (lane_ofList _ hk).trans (List.getD_eq_default _ _ h2)

/-- Settles O24 from its two parts. -/
theorem rulingArrays : Obligations.RulingArrays := ⟨rulingConfiguration, rulingResults⟩

end
end Sys2Proof.Machine
end

section
/-! PROOFS. O25: tests and removals of taint and poison, and a core's access to regions and to the configuration (R209 to R213; log 89, log 90,
log 123, log 149). -/
namespace Sys2Proof.Machine
open Sys2Proof.Claim

section
variable {s : State} {e : Elem} {f : Fields}

-- Destinations read back --------------------------------------------------------------------------------------------------------------------

/-- A destination register or output slot reads as it was written (R46, R72). -/
theorem readDes_writeDes (h : badReg e f = none) (v : Reg) : readDes s (writeDes e f.d v) f.d = v := by
  have hd : regOrOut e f.d = true := by
    by_contra hd
    simp [badReg, hd] at h
  obtain hs | ho := Bool.or_eq_true_iff.1 hd
  · have hn : f.d.toNat < 64 := by
      have := of_decide_eq_true hs
      have : e.cls.nState ≤ 64 := by cases e.cls <;> decide
      omega
    rw [writeDes_state (desOf_of_isState hs), readDes, desOf_of_isState hs]
    dsimp only
    rw [vector_getD_set _ hn, if_pos rfl]
  · have ho := desOf_of_isOut (Bool.and_eq_true_iff.1 ho).1
    rw [writeDes_out ho, readDes, ho]
    dsimp only
    rw [Elem.staging, tab_get_set, if_pos rfl]
    rfl

-- Masks (R46, R86) --------------------------------------------------------------------------------------------------------------------------

theorem maskNo_of_isMask {d : BitVec 10} (h : isMask d = true) : 1 ≤ maskNo d ∧ maskNo d ≤ 3 := by
  simp only [isMask, Bool.or_eq_true, beq_iff_eq] at h
  obtain (rfl | rfl) | rfl := h <;> decide

theorem badMask_of_isMask (h : isMask f.d = true) : badMask f = none := if_pos h

theorem badMask_of_not (h : isMask f.d = false) : badMask f = some f.d := if_neg (Bool.eq_false_iff.1 h)

section
variable {k : Nat} (hk : 1 ≤ k ∧ k ≤ 3)
include hk

theorem mask_setMask (m : Mask) : (e.setMask k m).mask k = m := by
  rw [Elem.mask, if_neg (by omega)]
  exact (vector_getD_set e.m (by omega) (k - 1) m _).trans (if_pos rfl)

end

theorem setMask_setMask (k : Nat) (m m' : Mask) : (e.setMask k m).setMask k m' = e.setMask k m' := by
  simp [Elem.setMask]

-- tntt, tntc, pzt (R209 to R211) ------------------------------------------------------------------------------------------------------------

/-- The destination of `tntc` before its taint is cleared. -/
def untaintedReg (s : State) (e : Elem) (f : Fields) : Reg :=
  mergedReg (laneActive e f) (allActive e f) s e f (srcA s e f).pay.lane [srcA s e f]

theorem bodyTntt_eq (hv : f.var = 0) (hln : f.ln ≠ 3) (hd : isMask f.d = true) (hl : Legal e f onlyA none) : bodyTntt s f e =
    done s (putMask e f (fun _ => (srcA s e f).tn) [{ srcA s e f with tn := false }]) := by
  rw [bodyTntt, badMask_of_isMask hd, checkRaw_ok hl (by rw [hv, bne_iff_ne.2 hln]; rfl), res_bind_ok]

theorem bodyTntc_word (hv : f.var = 0) (hln : f.ln ≠ 3) (hl : Legal e f usesA (badReg e f)) : bodyTntc s f e =
    done s (writeDes (writeDes e f.d (untaintedReg s e f)) f.d { untaintedReg s e f with tn := false }) := by
  obtain ⟨hw, hsrc, hbad, hready⟩ := hl
  rw [bodyTntc]
  dsimp only
  rw [if_pos (var_eq_zero_iff.1 hv), checkRaw_ok ⟨hw, hsrc, hbad, hready⟩ (bne_iff_ne.2 hln), res_bind_ok, put_eq, untaint,
    readDes_writeDes hbad]
  rfl

theorem bodyTntc_mask (hv : f.var = 1) : bodyTntc s f e = (noBad (badMask f) >>= fun _ =>
    done s (e.setMask (maskNo f.d) { e.mask (maskNo f.d) with tn := false })) := by
  rw [bodyTntc, hv]
  rfl

theorem bodyTntc_firing (hv : f.var = 2) : bodyTntc s f e = done s { e with run := { e.run with ft := false } } := by
  rw [bodyTntc, hv]
  rfl

theorem bodyTntc_unsound (hv : 2 < f.var.toNat) : bodyTntc s f e = .error (.trap .instr) := by
  rw [bodyTntc]
  dsimp only
  rw [if_neg (by omega), if_neg (by omega), need_trap (beq_false_of_ne (by omega)), res_bind_error]

/-- What `pzt` tests: its operand, or with `.fl` none (log 123). -/
def pztSource (s : State) (e : Elem) (f : Fields) : Reg := if f.var == 1 then Reg.zero else srcA s e f

/-- The poison that `pzt` finds. -/
def pztFinds (s : State) (e : Elem) (f : Fields) : Bool := if f.var == 1 then e.flowP else (pztSource s e f).pz

/-- The mask that `pzt` leaves. -/
def pztMask (s : State) (e : Elem) (f : Fields) : Mask :=
  { bits := maskBits (laneActive e f) (fun _ => pztFinds s e f) (e.mask (maskNo f.d)).bits 16, pz := false, tn := (pztSource s e f).tn }

theorem pztFinds_eq : pztFinds s e f = if f.var = 1 then e.flowP else (srcA s e f).pz := by
  rw [pztFinds, pztSource]
  by_cases h : f.var = 1
  · rw [beq_iff_eq.2 h, if_pos h]; rfl
  · rw [beq_false_of_ne h, if_neg h]; rfl

theorem pztUses_ok (hv : f.var.toNat ≤ 1) (hln : f.ln ≠ 3) (h0 : f.var = 0 → Legal e f onlyA none) (h1 : f.var = 1 → Legal e f noUses none) :
    checkRaw e f (if f.var == 1 then noUses else onlyA) (decide (f.var.toNat ≤ 1) && f.ln != 3) none = .ok () := by
  refine checkRaw_ok ?_ (by rw [decide_eq_true hv, bne_iff_ne.2 hln]; rfl)
  by_cases h : f.var = 1
  · rw [beq_iff_eq.2 h]; exact h1 h
  · rw [beq_false_of_ne h]; exact h0 (by bv_omega)

theorem bodyPzt_eq (hv : f.var.toNat ≤ 1) (hln : f.ln ≠ 3) (hd : isMask f.d = true) (h0 : f.var = 0 → Legal e f onlyA none)
    (h1 : f.var = 1 → Legal e f noUses none) : bodyPzt s f e = done s (e.setMask (maskNo f.d) (pztMask s e f)) := by
  rw [bodyPzt]
  dsimp only
  rw [badMask_of_isMask hd, pztUses_ok hv hln h0 h1, res_bind_ok, putMask, mask_setMask (maskNo_of_isMask hd), setMask_setMask]
  rfl

theorem bodyPzt_operand (hv : f.var = 0) (hln : f.ln ≠ 3) (hd : isMask f.d = false) (hl : Legal e f onlyA none) :
    bodyPzt s f e = .error (.trap (.operand f.d.toNat)) := by
  rw [bodyPzt, hv]
  dsimp only
  rw [badMask_of_not hd]
  exact congrArg (· >>= _) (checkRaw_bad hl (by rw [bne_iff_ne.2 hln]; rfl) rfl)

theorem taintAndPoison : Claim.TaintAndPoison := by
  intro s e f hr hu a k
  have cls {op : BitVec 8} (h : classesOf op = [.ve, .se, .ag, .fc]) := mem_classesOf_intUnit hu h
  refine ⟨fun hv hln hd hl => ?tntt, fun hv hln hl => ⟨untaintedReg s e f, ?word, fun n hn => ?lane, rfl⟩, fun hv hd => ?mask, fun hv => ?firing,
    fun hln hd hv h0 h1 => ⟨pztMask s e f, ?pzt, rfl, ?taint, fun n hn => ?bits⟩,
    fun hd => ⟨fun hv => ?noMask, fun hln hv hl => ⟨?noMaskT, ?noMaskP⟩⟩, fun hv => ?tnttVariant, fun hv => ?tntcVariant, fun hv => ?pztVariant⟩
  case tntt =>
    refine maskLanes_of_putMask rfl hr (cls (by decide)) ?_ fun _ _ => rfl
    rw [raise_none]
    exact bodyTntt_eq hv hln hd hl
  case word => exact completes_of_body rfl hr (cls (by decide)) (bodyTntc_word hv hln hl)
  case lane => exact mergedReg_lane hn
  case mask =>
    refine completes_of_body rfl hr (cls (by decide)) ((bodyTntc_mask hv).trans ?_)
    rw [badMask_of_isMask hd]
    rfl
  case firing => exact completes_of_body rfl hr (cls (by decide)) (bodyTntc_firing hv)
  case pzt => exact completes_of_body rfl hr (cls (by decide)) (bodyPzt_eq hv hln hd h0 h1)
  case taint =>
    change (pztSource s e f).tn = _
    rw [pztSource, if_congr beq_iff_eq rfl rfl, apply_ite Reg.tn, Reg.zero]
  case bits =>
    refine (maskBits_get _ _ _ _ _ (Nat.le_refl _)).trans ?_
    rw [decide_eq_true hn, Bool.true_and, pztFinds_eq]
  case noMask =>
    refine traps_of_body rfl hr (cls (by decide)) ((bodyTntc_mask hv).trans ?_)
    rw [badMask_of_not hd]
    rfl
  case noMaskT =>
    refine traps_of_body rfl hr (cls (by decide)) ?_
    rw [bodyTntt, checkRaw_bad hl (by rw [hv, bne_iff_ne.2 hln]; rfl) (badMask_of_not hd), res_bind_error]
  case noMaskP => exact traps_of_body rfl hr (cls (by decide)) (bodyPzt_operand hv hln hd hl)
  case tnttVariant =>
    refine traps_of_body rfl hr (cls (by decide)) ?_
    rw [bodyTntt, checkRaw_unsound (by rw [beq_false_of_ne hv]; rfl), res_bind_error]
  case tntcVariant => exact traps_of_body rfl hr (cls (by decide)) (bodyTntc_unsound hv)
  case pztVariant =>
    refine traps_of_body rfl hr (cls (by decide)) ?_
    rw [bodyPzt]
    dsimp only
    rw [checkRaw_unsound (by rw [decide_eq_false (Nat.not_le.2 hv)]; rfl), res_bind_error]

end

-- snap (R212) -------------------------------------------------------------------------------------------------------------------------------

section
variable {s : State} {e : Elem} {f : Fields}

/-- The region that `snap` names. -/
def snapRegion (s : State) (e : Elem) (f : Fields) : Nat := ((readDes s e f.a).pay.lane 0).toNat

/-- The progress of a region's snapshot, as `snap.st` reads it. -/
def snapStatus (s : State) (r : Nat) : Payload :=
  Payload.ofList [BitVec.ofNat 32 (toRecord s r), BitVec.ofNat 32 (((s.region r).last.map Snap.mkn).getD 0)]

section
variable (hv : f.var = 1) (hl : Legal e f usesA (badReg e f))
include hv hl

theorem bodySnap_reads : bodySnap s f e = (needDes (regionNamed s (snapRegion s e f)) f.a >>= fun _ =>
    done s (putWhole e f.d (snapStatus s (snapRegion s e f)) (readDes s e f.a).pz true)) := by
  rw [bodySnap, hv]
  exact congrArg (· >>= _) (checkRaw_ok hl rfl)

theorem bodySnap_status (hn : regionNamed s (snapRegion s e f) = true) :
    bodySnap s f e = done s (putWhole e f.d (snapStatus s (snapRegion s e f)) (readDes s e f.a).pz true) := by
  rw [bodySnap_reads hv hl, needDes_ok hn, res_bind_ok]

theorem bodySnap_noRegion (hn : regionNamed s (snapRegion s e f) = false) : bodySnap s f e = .error (.trap (.operand f.a.toNat)) := by
  rw [bodySnap_reads hv hl, needDes_trap hn, res_bind_error]

end

section
variable (hv : f.var = 0) (hl : Legal e f onlyA none)
include hv hl

theorem bodySnap_starts : bodySnap s f e = (do
    needDes (regionNamed s (snapRegion s e f)) f.a
    needDes (s.region (snapRegion s e f)).snap.isNone f.a
    done (completeSnap (injectSnap s (snapRegion s e f) ((readDes s e f.a).pay.lane 1).toNat) (snapRegion s e f)) e) := by
  rw [bodySnap, hv]
  exact congrArg (· >>= _) (checkRaw_ok hl rfl)

theorem bodySnap_injects (hn : regionNamed s (snapRegion s e f) = true) (hs : (s.region (snapRegion s e f)).snap = none) : bodySnap s f e =
    done (completeSnap (injectSnap s (snapRegion s e f) ((readDes s e f.a).pay.lane 1).toNat) (snapRegion s e f)) e := by
  rw [bodySnap_starts hv hl, needDes_ok hn, res_bind_ok, needDes_ok (Option.isNone_iff_eq_none.2 hs), res_bind_ok]

theorem bodySnap_operand (h : regionNamed s (snapRegion s e f) = false ∨ (s.region (snapRegion s e f)).snap ≠ none) :
    bodySnap s f e = .error (.trap (.operand f.a.toNat)) := by
  rw [bodySnap_starts hv hl]
  cases hn : regionNamed s (snapRegion s e f) with
  | false => rfl
  | true =>
    have hs : (s.region (snapRegion s e f)).snap ≠ none := h.resolve_left (by rw [hn]; decide)
    rw [needDes_true, res_bind_ok, needDes_trap (Bool.eq_false_iff.2 (mt Option.isNone_iff_eq_none.1 hs)), res_bind_error]

end

-- conf and confr (R213) ---------------------------------------------------------------------------------------------------------------------

theorem bodyConf_eq (hv : f.var = 0) (hl : Legal e f onlyAB none) : bodyConf s f e = (match confTarget s e f with
    | none => trap (.operand f.a.toNat)
    | some (n, x, i) => needDes (confStopped s x) f.a >>= fun _ => match itemPut x (readDes s e f.b) i with
      | some y => done (s.setUnit (.el n) y) e
      | none => trap (.operand f.a.toNat)) := by
  rw [bodyConf, checkRaw_ok hl (beq_iff_eq.2 hv)]
  rfl

theorem bodyConfr_eq (hv : f.var = 0) (hl : Legal e f usesA (badReg e f)) : bodyConfr s f e = (match confTarget s e f with
    | none => trap (.operand f.a.toNat)
    | some (_, x, i) => done s (putWhole e f.d (itemGet x i).pay (itemGet x i).pz (itemGet x i).tn)) := by
  rw [bodyConfr, checkRaw_ok hl (beq_iff_eq.2 hv)]
  rfl

theorem bodyConf_operand (hv : f.var = 0) (hl : Legal e f onlyAB none) (h : confTarget s e f = none
    ∨ ∃ n x i, confTarget s e f = some (n, x, i) ∧ (confStopped s x = false ∨ itemPut x (readDes s e f.b) i = none)) :
    bodyConf s f e = .error (.trap (.operand f.a.toNat)) := by
  rw [bodyConf_eq hv hl]
  obtain h | ⟨n, x, i, h, hx⟩ := h
  · rw [h]; rfl
  · rw [h]
    dsimp only
    cases hs : confStopped s x with
    | false => rfl
    | true => rw [hx.resolve_left (by rw [hs]; decide)]; rfl

theorem configurationAccess : Claim.ConfigurationAccess := by
  intro s e f hr hc a b r whole
  have fc {op : BitVec 8} (h : (classesOf op).contains .fc = true) := mem_classesOf_fc (op := op) hc h
  refine ⟨fun hv hl hn => ?status, fun hv hl hn hs => ?starts, fun n x i hv hl ht => ?read, fun n x i y hv hl ht hs hy => ?write,
    fun hv hl h => ?confBad, fun hv hl ht => ?confrBad, fun hv hl h => ?noStart, fun hv hl hn => ?noRegion, fun hv => ?snapVariant,
    fun hv => ?confVariants⟩
  case status =>
    exact completes_of_body rfl hr (fc (by decide)) ((bodySnap_status hv hl hn).trans (congrArg (done s) (putWhole_core hc _ _ _)))
  case starts => exact completes_of_body rfl hr (fc (by decide)) (bodySnap_injects hv hl hn hs)
  case read =>
    refine completes_of_body rfl hr (fc (by decide)) ((bodyConfr_eq hv hl).trans ?_)
    rw [ht]
    exact congrArg (done s) (putWhole_core hc _ _ _)
  case write =>
    refine completes_of_body rfl hr (fc (by decide)) ((bodyConf_eq hv hl).trans ?_)
    rw [ht]
    dsimp only
    rw [needDes_ok hs, res_bind_ok, hy]
  case confBad => exact traps_of_body rfl hr (fc (by decide)) (bodyConf_operand hv hl h)
  case confrBad =>
    refine traps_of_body rfl hr (fc (by decide)) ((bodyConfr_eq hv hl).trans ?_)
    rw [ht]
    rfl
  case noStart => exact traps_of_body rfl hr (fc (by decide)) (bodySnap_operand hv hl h)
  case noRegion => exact traps_of_body rfl hr (fc (by decide)) (bodySnap_noRegion hv hl hn)
  case snapVariant =>
    refine traps_of_body rfl hr (fc (by decide)) ?_
    rw [bodySnap]
    dsimp only
    rw [checkRaw_unsound (decide_eq_false (Nat.not_le.2 hv)), res_bind_error]
  case confVariants =>
    refine ⟨traps_of_body rfl hr (fc (by decide)) ?_, traps_of_body rfl hr (fc (by decide)) ?_⟩
    · rw [bodyConf, checkRaw_unsound (beq_false_of_ne hv), res_bind_error]
    · rw [bodyConfr, checkRaw_unsound (beq_false_of_ne hv), res_bind_error]

end

/-- Settles O25 from its two parts. -/
theorem taintPoisonAndConfiguration : Obligations.TaintPoisonAndConfiguration := ⟨taintAndPoison, configurationAccess⟩

end Sys2Proof.Machine
end

section
/-! PROOFS. O26, its first parts: trap instructions of cores and elements (R214, R217, R221, R224), and traps while traps are inhibited (R215,
R407, R409; log 71). -/
namespace Sys2Proof.Machine
open Sys2Proof.Claim

-- The instructions (R214, R221, R224) -------------------------------------------------------------------------------------------------------

section
variable {s : State} {e : Elem} {f : Fields}

theorem bodyTrap_soft (hv : f.var = 0) : bodyTrap s f e = .error (.trap (.soft (f.imm.toNat % 65536))) := by
  rw [bodyTrap, hv]
  rfl

theorem bodyBkpt_element (hv : f.var = 0) (hc : e.cls ≠ .fc) :
    bodyBkpt s f e = if (s.region e.rgn).dbg then .error (.trap .brk) else done s e := by
  rw [bodyBkpt, hv, if_neg hc]
  rfl

theorem bodyBkpt_core (hv : f.var = 0) (hc : e.cls = .fc) : bodyBkpt s f e = if e.fc.dbg then .error (.trap .brk) else done s e := by
  rw [bodyBkpt, hv, if_pos hc]
  rfl

theorem mem_classesOf_xtrap (e : Elem) : (classesOf 0xFF).contains e.cls = true := by
  rw [show classesOf 0xFF = [.ve, .se, .ag, .ra, .fc] by decide]
  cases e.cls <;> decide

theorem elementTrapInstructions : Claim.ElementTrapInstructions := by
  intro s e f hrun hc
  refine ⟨fun hu hv => ?_, ?_, fun hu hv hd => ?_, fun hu hv hd => ?_⟩
  · exact traps_of_body rfl hrun (mem_classesOf_intUnit hu (by decide)) (bodyTrap_soft hv)
  · exact traps_of_body rfl hrun (mem_classesOf_xtrap e) rfl
  · exact traps_of_body rfl hrun (mem_classesOf_intUnit hu (by decide)) ((bodyBkpt_element hv hc).trans (if_pos hd))
  · exact completes_of_body rfl hrun (mem_classesOf_intUnit hu (by decide)) ((bodyBkpt_element hv hc).trans (if_neg (Bool.eq_false_iff.1 hd)))

-- A core enters its handler (R215, R217) ----------------------------------------------------------------------------------------------------

theorem coreTrap_enters (h : e.fc.inh = false) (n epc : Nat) (t : Trap) (w : BitVec 96) : coreTrap s n e epc t w =
    s.setUnit (.fc n) { e with
      fc := { e.fc with epc := BitVec.ofNat 32 epc, ecause := BitVec.ofNat 32 t.ecause, eval := BitVec.ofNat 64 (t.eval w),
                        estat := e.fc.cstat, cstat := e.fc.cstat ||| 1 },
      run := { e.run with pos := e.fc.tvec.toNat } } := by
  rw [coreTrap, if_neg (Bool.eq_false_iff.1 h)]

/-- The value of `xtrap` is the word's three fields (R217). -/
theorem eval_xtrap (f : Fields) (w : BitVec 96) :
    (Trap.xtrap f.var.toNat f.d.toNat f.imm.toNat).eval w = f.imm.toNat + f.var.toNat * 2 ^ 24 + f.d.toNat * 2 ^ 28 := by
  have himm := f.imm.isLt
  have hvar := f.var.isLt
  have hd := f.d.isLt
  show f.imm.toNat % 2 ^ 24 + f.var.toNat % 16 * 2 ^ 24 + f.d.toNat % 1024 * 2 ^ 28 = _
  rw [Nat.mod_eq_of_lt himm, Nat.mod_eq_of_lt (show f.var.toNat < 16 from hvar), Nat.mod_eq_of_lt (show f.d.toNat < 1024 from hd)]

section
variable {n : Nat} (hcur : s.cur = .fc n) (hr : Runs s e) (hc : e.cls = .fc)
include hcur hr hc

theorem trap_core (hv : f.var = 0) :
    exec (.trap f) s = .next (coreTrap s n e e.nextPos (.soft (f.imm.toNat % 65536)) (wordOf 0xE0 f)) := by
  have h : Traps (.trap f) s e (.soft (f.imm.toNat % 65536)) (wordOf 0xE0 f) :=
    traps_of_body rfl hr (mem_classesOf_fc hc (by decide)) (bodyTrap_soft hv)
  rwa [Traps, hcur] at h

theorem bkpt_core (hv : f.var = 0) (hd : e.fc.dbg = true) : exec (.bkpt f) s = .next (coreTrap s n e e.nextPos .brk (wordOf 0xE8 f)) := by
  have h : Traps (.bkpt f) s e .brk (wordOf 0xE8 f) :=
    traps_of_body rfl hr (mem_classesOf_fc hc (by decide)) ((bodyBkpt_core hv hc).trans (if_pos hd))
  rwa [Traps, hcur] at h

end

theorem xtrap_core {n : Nat} (hcur : s.cur = .fc n) (hr : Runs s e) :
    exec (.xtrap f) s = .next (coreTrap s n e e.run.pos (.xtrap f.var.toNat f.d.toNat f.imm.toNat) (wordOf 0xFF f)) := by
  have h : Traps (.xtrap f) s e (.xtrap f.var.toNat f.d.toNat f.imm.toNat) (wordOf 0xFF f) :=
    traps_of_body rfl hr (mem_classesOf_xtrap e) rfl
  rwa [Traps, hcur] at h

theorem coreTrapInstructions : Claim.CoreTrapInstructions := by
  intro s e f n hcur hr hc hinh
  refine ⟨fun hv => ?_, fun hv hd => ?_, fun hv hd => ?_, ?_⟩
  · exact (trap_core hcur hr hc hv).trans (congrArg _ (coreTrap_enters hinh ..))
  · exact (bkpt_core hcur hr hc hv hd).trans (congrArg _ (coreTrap_enters hinh ..))
  · exact completes_of_body rfl hr (mem_classesOf_fc hc (by decide)) ((bodyBkpt_core hv hc).trans (if_neg (Bool.eq_false_iff.1 hd)))
  · refine (xtrap_core hcur hr).trans (congrArg _ ((coreTrap_enters hinh ..).trans ?_))
    rw [eval_xtrap]
    rfl

end

-- What an event changes (R219, R394) --------------------------------------------------------------------------------------------------------

/-- A state that differs from another in its event queues alone. -/
def OnlyEvents (s t : State) : Prop := ∃ (cs : Vector Elem 16) (v : List (Nat × BitVec 256)) (q : Tab Nat),
  t = { s with cores := cs, evwait := v, evseq := q } ∧
  ∀ (k : Nat) (e : Elem), s.cores[k]? = some e → ∃ l, cs[k]? = some { e with fc := { e.fc with evq := l } }

theorem deliverEvent_onlyEvents (s : State) (core : Nat) (ev : BitVec 256) : OnlyEvents s (deliverEvent s core ev) := by
  have same (k : Nat) (e : Elem) (h : s.cores[k]? = some e) : ∃ l, s.cores[k]? = some { e with fc := { e.fc with evq := l } } := ⟨e.fc.evq, h⟩
  unfold deliverEvent
  split
  · exact ⟨s.cores, s.evwait, s.evseq, rfl, same⟩
  · next x hx =>
    split
    · refine ⟨_, s.evwait, s.evseq, rfl, fun k e h => ?_⟩
      by_cases hk : k = core
      · subst hk
        obtain rfl := Option.some.inj (hx.symm.trans h)
        have hn : k < 16 := (Vector.getElem?_eq_some_iff.1 h).1
        exact ⟨x.fc.evq ++ [ev], by simp [hn]⟩
      · obtain ⟨l, hl⟩ := same k e h
        exact ⟨l, (Vector.getElem?_setIfInBounds_ne (Ne.symm hk)).trans hl⟩
    · exact ⟨s.cores, _, s.evseq, rfl, same⟩

theorem postEvent_onlyEvents (s : State) (kind arg src : Nat) : OnlyEvents s (postEvent s kind arg src) := by
  obtain ⟨c, v, q, h, hc⟩ := deliverEvent_onlyEvents { s with evseq := _ } _ _
  exact ⟨c, v, q, h, hc⟩

-- A trap while traps are inhibited (R215, R407, R409) ---------------------------------------------------------------------------------------

section
variable {s : State} {e : Elem}

/-- A core that has trapped while traps were inhibited: it is stopped, and event 4 is posted. -/
def doubleTrap (s : State) (n : Nat) (e : Elem) : State :=
  postEvent (s.setUnit (.fc n) { e with fc := { e.fc with halted := true } }) 4 n (srcNum 32 8 n)

theorem coreTrap_inhibited (h : e.fc.inh = true) (n epc : Nat) (t : Trap) (w : BitVec 96) : coreTrap s n e epc t w =
    if n = 0 then nibRestart (doubleTrap s n e) else if n = 14 then revertCanary (doubleTrap s n e) else doubleTrap s n e := by
  rw [coreTrap, if_pos h]
  rfl

theorem doubleTrap_onlyEvents (s : State) (n : Nat) (e : Elem) :
    OnlyEvents (s.setUnit (.fc n) { e with fc := { e.fc with halted := true } }) (doubleTrap s n e) := postEvent_onlyEvents ..

theorem doubleTrap_core {n : Nat} (hn : n < 16) : ∃ x, (doubleTrap s n e).cores[n]? = some x := by
  obtain ⟨c, v, q, h, hc⟩ := doubleTrap_onlyEvents s n e
  obtain ⟨l, hl⟩ := hc n { e with fc := { e.fc with halted := true } } (by simp [hn])
  exact ⟨_, (congrArg (fun t : State => t.cores[n]?) h).trans hl⟩

theorem doubleTrap_fw (n : Nat) : (doubleTrap s n e).fw = s.fw := by
  obtain ⟨c, v, q, h, -⟩ := doubleTrap_onlyEvents s n e
  rw [h]
  rfl

-- An update is reverted (R409) --------------------------------------------------------------------------------------------------------------

theorem revertCanary_idle (h : s.fw.canary = none) : revertCanary s = s := by
  rw [revertCanary, if_pos (by rw [h]; rfl)]

theorem foldl_addWork (l : List Nat) (s : State) : ∃ w, l.foldl (fun s q => addWork s (2 + q % 12) q) s = { s with work := w } := by
  induction l generalizing s with
  | nil => exact ⟨s.work, rfl⟩
  | cons q l ih =>
    obtain ⟨w, hw⟩ := ih (addWork s (2 + q % 12) q)
    exact ⟨w, hw⟩

theorem revertCanary_reverts {x : List Byte} (h : s.fw.canary = some x) (hc : s.cores[14]? = some e) :
    ∃ w, revertCanary s = State.setUnit { s with fw := { s.fw with canary := none, moved := [] }, work := w } (.fc 14)
      { e with fc := { e.fc with halted := true } } := by
  obtain ⟨w, hw⟩ := foldl_addWork (Tab.get [] s.work 14) { s with fw := { s.fw with canary := none, moved := [] }, work := Tab.del s.work 14 }
  refine ⟨w, ?_⟩
  rw [revertCanary, if_neg (by rw [h]; exact Bool.false_ne_true)]
  dsimp only
  rw [hw]
  dsimp only
  rw [hc]

-- The nib pair restarts (R407) --------------------------------------------------------------------------------------------------------------

theorem leNat_drop (l : List Byte) (k : Nat) : leNat (l.drop k) = leNat l / 2 ^ (8 * k) := by
  induction k generalizing l with
  | zero => simp
  | succ k ih =>
    cases l with
    | nil => simp [leNat]
    | cons b r =>
      have hb : b.toNat < 256 := b.isLt
      rw [List.drop_succ_cons, ih, leNat, show 8 * (k + 1) = 8 + 8 * k by ring, pow_add, ← Nat.div_div_eq_div_mul,
        show (b.toNat + 256 * leNat r) / 2 ^ 8 = leNat r by omega]

theorem leNat_take (l : List Byte) (n : Nat) : leNat (l.take n) = leNat l % 2 ^ (8 * n) := by
  induction n generalizing l with
  | zero => simp [leNat, Nat.mod_one]
  | succ n ih =>
    cases l with
    | nil => simp [leNat]
    | cons b r =>
      have hb : b.toNat < 256 := b.isLt
      rw [List.take_succ_cons, leNat, ih, leNat, show 8 * (n + 1) = 8 + 8 * n by ring, pow_add, Nat.mod_mul,
        show (b.toNat + 256 * leNat r) / 2 ^ 8 = leNat r by omega, show (b.toNat + 256 * leNat r) % 2 ^ 8 = b.toNat by omega]
      rfl

/-- Where an image is entered (R409). -/
def entryOf (img : List Byte) : Nat := leNat ((img.drop 16).take 4)

theorem entryOf_eq (img : List Byte) : bitsAt (leNat (img.take 64)) 128 32 = entryOf img := by
  have h : ((img.take 64).drop 16).take 4 = (img.drop 16).take 4 := by rw [List.drop_take, List.take_take]; rfl
  rw [entryOf, ← h]
  generalize img.take 64 = x
  rw [leNat_take, leNat_drop]
  rfl

theorem startImage_core {n : Nat} (hn : n < 16) (img : List Byte) :
    ∃ x, (startImage s n img).cores[n]? = some x ∧ x.run.pos = entryOf img := by
  refine ⟨_, Vector.getElem?_setIfInBounds_self_of_lt hn, ?_⟩
  exact entryOf_eq img

theorem restartImage_core {n : Nat} (hc : s.cores[n]? = some e) (img : List Byte) :
    ∃ x, (restartImage s n img).cores[n]? = some x ∧ x.fc.halted = false ∧ x.run.pos = entryOf img := by
  have hn : n < 16 := (Vector.getElem?_eq_some_iff.1 hc).1
  obtain ⟨y, hy, hpos⟩ := startImage_core (s := s) hn img
  rw [restartImage]
  dsimp only
  rw [hc, hy]
  exact ⟨_, Vector.getElem?_setIfInBounds_self_of_lt hn, rfl, hpos⟩

/-- A restart leaves what the module counts of the nib pair. -/
theorem restartImage_counts (n : Nat) (img : List Byte) : (restartImage s n img).cmis = s.cmis ∧ (restartImage s n img).safe = s.safe := by
  unfold restartImage
  dsimp only
  split <;> exact ⟨rfl, rfl⟩

/-- The mismatches of the last second. -/
def recentMis (s : State) : List Nat := s.misAt.filter fun t => decide (s.now < t + 1000000000)

theorem recentMis_now (s : State) :
    (s.misAt ++ [s.now]).filter (fun t => decide (s.now < t + 1000000000)) = recentMis s ++ [s.now] := by
  rw [List.filter_append, List.filter_singleton, decide_eq_true (show s.now < s.now + 1000000000 by omega)]
  rfl

/-- The restart counted, before the module may become safe. -/
def nibCounted (s : State) : State :=
  { restartImage s 0 s.fw.image with cmis := (s.cmis + 1) % 65536, misAt := recentMis s ++ [s.now] }

theorem nibRestart_eq : nibRestart s = if 2 ≤ (recentMis s).length then
    { nibCounted s with safe := true, msix := (nibCounted s).msix ++ [(0, 0), (1, 0)] } else nibCounted s := by
  obtain ⟨hcmis, -⟩ := restartImage_counts (s := s) 0 s.fw.image
  rw [nibRestart]
  dsimp only
  rw [recentMis_now, hcmis, List.length_append]
  exact if_congr (by simp) rfl rfl

theorem nibRestart_core (hc : s.cores[0]? = some e) :
    ∃ x, (nibRestart s).cores[0]? = some x ∧ x.fc.halted = false ∧ x.run.pos = entryOf s.fw.image := by
  rw [nibRestart_eq]
  split <;> exact restartImage_core hc s.fw.image

theorem nibRestart_cmis : (nibRestart s).cmis = (s.cmis + 1) % 65536 := by
  rw [nibRestart_eq]
  split <;> rfl

theorem nibRestart_safe : (nibRestart s).safe = true ↔ s.safe = true ∨ 2 ≤ (recentMis s).length := by
  rw [nibRestart_eq]
  split
  · next h => exact ⟨fun _ => Or.inr h, fun _ => rfl⟩
  · next h =>
    obtain ⟨-, hsafe⟩ := restartImage_counts (s := s) 0 s.fw.image
    rw [or_iff_left h, ← hsafe]
    rfl

theorem trapWhileInhibited : Claim.TrapWhileInhibited := by
  intro s e f n hcur hr hc hinh hv recent
  have htrap := (trap_core hcur hr hc hv).trans (congrArg _ (coreTrap_inhibited hinh ..))
  refine ⟨fun h0 h14 => htrap.trans (congrArg _ ?plain), ?canary, ?nib⟩
  case plain =>
    rw [if_neg h0]
    refine ite_eq_right_iff.2 fun hn => revertCanary_idle ?_
    rw [doubleTrap_fw]
    exact h14.resolve_left fun h => h hn
  case canary =>
    intro hn x hx
    obtain ⟨y, hy⟩ := doubleTrap_core (s := s) (e := e) (n := n) (by omega)
    rw [hn] at htrap hy
    have hfw := doubleTrap_fw (s := s) (e := e) 14
    obtain ⟨w, hw⟩ := revertCanary_reverts ((congrArg Firmware.canary hfw).trans hx) hy
    refine ⟨_, { y with fc := { y.fc with halted := true } }, htrap, ?_⟩
    rw [if_neg (by decide), if_pos rfl, hw]
    refine ⟨rfl, ?_, ?_, rfl⟩
    · show (doubleTrap s 14 e).fw.image = s.fw.image
      rw [hfw]
    · exact Vector.getElem?_setIfInBounds_self_of_lt (by decide)
  case nib =>
    intro hn
    obtain ⟨c, v, q, h, -⟩ := doubleTrap_onlyEvents s n e
    obtain ⟨y, hy⟩ := doubleTrap_core (s := s) (e := e) (n := n) (by omega)
    rw [hn] at htrap hy h
    obtain ⟨x, hx, hhalt, hpos⟩ := nibRestart_core hy
    refine ⟨_, x, htrap, ?_⟩
    rw [if_pos rfl]
    refine ⟨nibRestart_cmis.trans ?_, nibRestart_safe.trans ?_, hx, hhalt, hpos.trans ?_⟩
    all_goals rw [h]
    all_goals rfl

end
end Sys2Proof.Machine
end

section
/-! PROOFS. O26, its last part: the fault of an element and its record (R76, R103, R380 to R383). -/
namespace Sys2Proof.Machine
open Sys2Proof.Claim

-- What leaves the dies ----------------------------------------------------------------------------------------------------------------------

section
variable (s : State)

@[simp] theorem postEvent_dies (kind arg src : Nat) : (postEvent s kind arg src).dies = s.dies := by
  obtain ⟨cs, v, q, h, -⟩ := postEvent_onlyEvents s kind arg src
  rw [h]

@[simp] theorem setStt_dies (r stt : Nat) : (setStt s r stt).dies = s.dies := by
  unfold setStt
  dsimp only
  split
  · rfl
  · exact postEvent_dies ..

@[simp] theorem haltRegion_dies (r : Nat) : (haltRegion s r).dies = s.dies := by
  unfold haltRegion
  dsimp only
  split
  · rfl
  · exact setStt_dies ..

@[simp] theorem noteFault_dies (r d : Nat) (u : FaultUnit) (t : Trap) : (noteFault s r d u t).dies = s.dies := by
  unfold noteFault
  split <;> rfl

@[simp] theorem recordEvents_dies (d addr : Nat) (r : BitVec 2048) : (recordEvents d addr r s).dies = s.dies := by
  unfold recordEvents
  dsimp only
  split <;> simp

theorem setStt_elems (r stt : Nat) : (setStt s r stt).elems = s.elems := by
  unfold setStt
  dsimp only
  split
  · rfl
  · exact postEvent_elems ..

/-- An element after its region may have halted. -/
def haltedIn (r : Nat) (e : Elem) : Elem := if e.rgn = r then { e with halted := true } else e

theorem haltRegion_elems (r : Nat) : (haltRegion s r).elems = s.elems.map (haltedIn r) := by
  unfold haltRegion
  dsimp only
  split
  · rfl
  · exact setStt_elems ..

theorem die_setDie (d : Nat) (x : Die) : (s.setDie d x).die d = x := (tab_get_set _ _ _ _ _).trans (if_pos rfl)

theorem die_of_dies {s t : State} (h : t.dies = s.dies) (d : Nat) : t.die d = s.die d := congrArg (Tab.get (Die.reset d) · d) h

end

-- A record enters the ring (R382) -----------------------------------------------------------------------------------------------------------

/-- The records that stand in a ring. -/
def Die.ringUsed (x : Die) : Nat := (x.ringTail + 2 ^ 32 - x.ringHead) % 2 ^ 32

/-- Where the next record of a ring is written. -/
def Die.ringAt (x : Die) : Nat := x.ringBase + 256 * (x.ringTail % 2 ^ (x.ringSize + 4))

/-- A ring whose tail has gone on, with the records that still wait. -/
def Die.pushed (x : Die) (rest : List (BitVec 2048)) : Die := { x with waiting := rest, ringTail := (x.ringTail + 1) % 2 ^ 32 }

section
variable {s : State} {d n : Nat} {r : BitVec 2048}

theorem flushRing_full (h : 2 ^ ((s.die d).ringSize + 4) ≤ (s.die d).ringUsed) : flushRing n d s = s := by
  cases n with
  | zero => rfl
  | succ n =>
    rw [flushRing]
    dsimp only
    split
    · rfl
    · exact if_neg (Nat.not_lt.2 h)

/-- The state with a record written at the tail of a ring. -/
def ringPut (s : State) (d : Nat) (r : BitVec 2048) (rest : List (BitVec 2048)) : State :=
  { s.setDie d ((s.die d).pushed rest) with mem := memWrite s.mem (s.die d).ringAt (littleBytes 256 r.toNat) }

theorem ringPut_mem (rest : List (BitVec 2048)) : (ringPut s d r rest).mem = memWrite s.mem (s.die d).ringAt (littleBytes 256 r.toNat) := by
  rw [ringPut]

theorem ringPut_die (rest : List (BitVec 2048)) : (ringPut s d r rest).die d = (s.die d).pushed rest := by
  have h : (ringPut s d r rest).dies = (s.setDie d ((s.die d).pushed rest)).dies := by rw [ringPut]
  exact (die_of_dies h d).trans (die_setDie ..)

theorem flushRing_enters {rest : List (BitVec 2048)} (hw : (s.die d).waiting = r :: rest)
    (h : (s.die d).ringUsed < 2 ^ ((s.die d).ringSize + 4)) :
    flushRing (n + 1) d s = flushRing n d (recordEvents d (s.die d).ringAt r (ringPut s d r rest)) := by
  rw [flushRing]
  dsimp only
  rw [hw]
  exact if_pos h

/-- A record for which the ring has no room waits there. -/
theorem putRecord_waits (h : 2 ^ ((s.die (ringDie d)).ringSize + 4) ≤ (s.die (ringDie d)).ringUsed) :
    putRecord s d r = s.setDie (ringDie d) { s.die (ringDie d) with waiting := (s.die (ringDie d)).waiting ++ [r] } := by
  rw [putRecord]
  refine flushRing_full ?_
  rw [die_setDie]
  exact h

/-- A record before which none waits is written at the tail of a ring that has room. -/
theorem putRecord_enters (hw : (s.die (ringDie d)).waiting = [])
    (h : (s.die (ringDie d)).ringUsed < 2 ^ ((s.die (ringDie d)).ringSize + 4)) :
    (putRecord s d r).mem = memWrite s.mem (s.die (ringDie d)).ringAt (littleBytes 256 r.toNat)
      ∧ (putRecord s d r).die (ringDie d) = (s.die (ringDie d)).pushed [] := by
  let x := s.die (ringDie d)
  let u := s.setDie (ringDie d) { x with waiting := x.waiting ++ [r] }
  have hx : u.die (ringDie d) = { x with waiting := [r] } := by
    refine (die_setDie ..).trans ?_
    rw [show x.waiting = [] from hw]
    rfl
  have hput : putRecord s d r = recordEvents (ringDie d) (u.die (ringDie d)).ringAt r (ringPut u (ringDie d) r []) := by
    rw [putRecord]
    refine (flushRing_enters (s := u) (r := r) (rest := []) ?_ ?_).trans ?_
    · rw [hx]
    · rw [hx]
      exact h
    · rw [hw]
      rfl
  have hat : (u.die (ringDie d)).ringAt = (s.die (ringDie d)).ringAt := by rw [hx]; rfl
  have hpushed : (u.die (ringDie d)).pushed [] = (s.die (ringDie d)).pushed [] := by rw [hx]; rfl
  rw [hput, recordEvents_mem, die_of_dies (recordEvents_dies ..), ringPut_mem, ringPut_die, hat, hpushed]
  exact ⟨rfl, rfl⟩

end

-- The state in which the record is put (R76, R380) ------------------------------------------------------------------------------------------

/-- What `disp` says of a fault: the element may resume, or its region has halted (R382). -/
def Trap.disp (t : Trap) : Nat := if t.restartable then 1 else 2

theorem Trap.disp_le (t : Trap) : t.disp ≤ 2 := by
  unfold Trap.disp
  split <;> decide

/-- An element that a restartable fault has stopped. -/
def stopped (s : State) (e : Elem) (t : Trap) (w : BitVec 96) : Elem :=
  { e with stop := some { cls := t.cls.1, sub := t.cls.2, pos := e.run.pos, frec := elemRecord s e t w 1, addr := nextRecordAddr s e.die,
                          tile := t.tile, since := s.now } }

/-- The module after a fault of an element, before the record is put into its ring. -/
def faulted (s : State) (n : Nat) (e : Elem) (t : Trap) (w : BitVec 96) : State :=
  if t.restartable then s.setUnit (.el n) (stopped s e t w)
  else noteFault (haltRegion (s.setUnit (.el n) e) e.rgn) e.rgn e.die (t.unitOf e) t

section
variable {s : State} {n : Nat} {e : Elem} {t : Trap} {w : BitVec 96}

theorem takeTrap_element : takeTrap s (.el n) e t w = putRecord (faulted s n e t w) e.die (elemRecord s e t w t.disp) := by
  rw [takeTrap, raiseFault, faulted, Trap.disp]
  cases t.restartable <;> rfl

theorem faulted_dies : (faulted s n e t w).dies = s.dies := by
  unfold faulted
  split <;> simp

theorem faulted_mem : (faulted s n e t w).mem = s.mem := by
  unfold faulted
  split <;> simp

theorem faulted_stops (h : t.restartable = true) : (faulted s n e t w).elems = s.elems.set n (stopped s e t w) := by
  rw [faulted, if_pos h]
  rfl

theorem faulted_halts (h : t.restartable = false) (hn : s.elems[n]? = some e) :
    (faulted s n e t w).elems = s.elems.map (haltedIn e.rgn) := by
  have hset : s.setUnit (.el n) e = s := setUnit_unit hn
  rw [faulted, if_neg (Bool.eq_false_iff.1 h), noteFault_elems, hset, haltRegion_elems]

end

-- The bytes of a record (R382) --------------------------------------------------------------------------------------------------------------

theorem memBytes_drop (m : List Host.Cell) (a n k : Nat) : (memBytes m a n).drop k = memBytes m (a + k) (n - k) := by
  induction k generalizing a n with
  | zero => rfl
  | succ k ih =>
    cases n with
    | zero => rw [Nat.zero_sub]; rfl
    | succ n => rw [memBytes, List.drop_succ_cons, ih, Nat.add_sub_add_right, Nat.add_right_comm, Nat.add_assoc]

theorem memBytes_take (m : List Host.Cell) {a n j : Nat} (h : j ≤ n) : (memBytes m a n).take j = memBytes m a j := by
  induction j generalizing a n with
  | zero => rfl
  | succ j ih =>
    cases n with
    | zero => exact absurd h (Nat.not_succ_le_zero j)
    | succ n => rw [memBytes, List.take_succ_cons, ih (Nat.le_of_succ_le_succ h), memBytes]

/-- A number read in a part of the bytes written. -/
theorem memNat_memWrite_part {m : List Host.Cell} (a n v : Nat) (h : memWf m = true) {k j : Nat} (hkj : k + j ≤ n) :
    memNat (memWrite m a (littleBytes n v)) (a + k) j = v % 2 ^ (8 * n) / 2 ^ (8 * k) % 2 ^ (8 * j) := by
  rw [memNat, ← memBytes_take _ (show j ≤ n - k by omega), ← memBytes_drop, leNat_take, leNat_drop]
  exact congrArg (· / 2 ^ (8 * k) % 2 ^ (8 * j)) (memNat_memWrite a n v h)

/-- A part of the low bits of a number. -/
theorem low_part {v c k j n : Nat} (hc : k + j ≤ c) (hn : c ≤ n) : v % 2 ^ n / 2 ^ k % 2 ^ j = v % 2 ^ c / 2 ^ k % 2 ^ j := by
  have hpart (x : Nat) : x / 2 ^ k % 2 ^ j = x % 2 ^ (k + j) / 2 ^ k := by rw [pow_add, Nat.mod_mul_right_div_self]
  rw [hpart, hpart, Nat.mod_mod_of_dvd _ (pow_dvd_pow 2 (hc.trans hn)), Nat.mod_mod_of_dvd _ (pow_dvd_pow 2 hc)]

/-- Fields that lie above a bit leave the bits below it. -/
theorem dvd_fieldsNat {k : Nat} (l : List (Nat × Nat)) (h : ∀ x ∈ l, k ≤ x.1) : 2 ^ k ∣ fieldsNat l := by
  have hfold (l : List (Nat × Nat)) (n : Nat) (hn : 2 ^ k ∣ n) (h : ∀ x ∈ l, k ≤ x.1) : 2 ^ k ∣ l.foldl (fun n f => n + f.2 * 2 ^ f.1) n := by
    induction l generalizing n with
    | nil => exact hn
    | cons x l ih =>
      obtain ⟨hx, hl⟩ := List.forall_mem_cons.1 h
      exact ih _ (Nat.dvd_add hn (Dvd.dvd.mul_left (pow_dvd_pow 2 hx) _)) hl
  exact hfold l 0 (Nat.dvd_zero _) h

theorem fieldsNat_append_three (l : List (Nat × Nat)) (a b c x y z : Nat) :
    fieldsNat (l ++ [(a, x), (b, y), (c, z)]) = fieldsNat l + x * 2 ^ a + y * 2 ^ b + z * 2 ^ c := List.foldl_append ..

theorem toNat_ofNat_mod {w k : Nat} (h : k ≤ w) (x : Nat) : (BitVec.ofNat w x).toNat % 2 ^ k = x % 2 ^ k := by
  rw [BitVec.toNat_ofNat, Nat.mod_mod_of_dvd _ (pow_dvd_pow 2 h)]

section
variable (s : State) (e : Elem) (t : Trap) (w : BitVec 96)

theorem mapIdx_high {k : Nat} {g : Nat → Nat → Nat × Nat} (h : ∀ i x, k ≤ (g i x).1) (l : List Nat) : ∀ y ∈ l.mapIdx g, k ≤ y.1 := by
  intro y hy
  obtain ⟨i, _, rfl⟩ := List.mem_mapIdx.1 hy
  exact h i _

theorem firingFields_high : ∀ y ∈ firingFields e, 896 ≤ y.1 := by
  unfold firingFields
  split
  · refine List.forall_mem_append.2 ⟨fun y hy => ?_, by simp⟩
    obtain ⟨i, _, rfl⟩ := List.mem_mapIdx.1 hy
    exact (show 896 ≤ 48 * i + 1200 by omega)
  · decide

/-- An element's record: its class, its subcause and `disp` below the fields that name the element, its firing and its launch. -/
theorem elemRecord_eq (disp : Nat) : ∃ l : List (Nat × Nat), (∀ x ∈ l, 896 ≤ x.1) ∧
    elemRecord s e t w disp = BitVec.ofNat 2048 (fieldsNat (l ++ [(32, disp), (24, t.cls.1), (16, t.cls.2)])) := by
  refine ⟨_, ?_, rfl⟩
  simp only [List.forall_mem_append]
  refine ⟨⟨⟨⟨mapIdx_high (fun i _ => show 896 ≤ 1536 + 32 * i by omega) _, ?_⟩, firingFields_high e⟩, ?_⟩, ?_⟩
  · split
    · exact mapIdx_high (fun i _ => show 896 ≤ 1392 + 24 * i by omega) _
    · exact fun _ h => absurd h List.not_mem_nil
  · simp
  · simp [launchFields]

/-- The low bits of a record: its class, its subcause and `disp`. -/
theorem elemRecord_low {disp : Nat} (h1 : t.cls.1 < 256) (h2 : t.cls.2 < 256) (hd : disp < 256) :
    (elemRecord s e t w disp).toNat % 2 ^ 40 = disp * 2 ^ 32 + t.cls.1 * 2 ^ 24 + t.cls.2 * 2 ^ 16 := by
  obtain ⟨l, hl, heq⟩ := elemRecord_eq s e t w disp
  obtain ⟨q, hq⟩ := (pow_dvd_pow 2 (show 40 ≤ 896 by decide)).trans (dvd_fieldsNat l hl)
  rw [heq, toNat_ofNat_mod (by decide), fieldsNat_append_three, hq]
  omega

end

theorem elementFaults : Claim.ElementFaults := by
  intro s n e t w hn s1 d ring used at'
  have hs1 : s1 = putRecord (faulted s n e t w) e.die (elemRecord s e t w t.disp) := takeTrap_element
  have helems : s1.elems = (faulted s n e t w).elems := by rw [hs1, putRecord_elems]
  have hring : (faulted s n e t w).die d = ring := die_of_dies faulted_dies d
  refine ⟨fun hr => ?stops, fun hr k x hk hx => ?halts, fun hm hw hu => ?enters, fun hu => ?waits⟩
  case stops =>
    have hlen : n < s.elems.length := (List.getElem?_eq_some_iff.1 hn).1
    refine ⟨stopped s e t w, ?_, rfl, rfl, rfl, _, rfl, rfl, rfl, rfl⟩
    rw [helems, faulted_stops hr, List.getElem?_set_self hlen]
  case halts =>
    refine ⟨{ x with halted := true }, ?_, rfl, fun hkn => ?_⟩
    · rw [helems, faulted_halts hr hn, List.getElem?_map, hk]
      exact congrArg some (if_pos hx)
    · rw [hkn] at hk
      rw [Option.some.inj (hk.symm.trans hn)]
  case enters =>
    obtain ⟨hmem, hdie⟩ := putRecord_enters (s := faulted s n e t w) (d := e.die) (r := elemRecord s e t w t.disp)
      ((congrArg Die.waiting hring).trans hw) (by rw [hring]; exact hu)
    rw [← hs1, hring] at hmem hdie
    rw [faulted_mem] at hmem
    have part {k j : Nat} (hkj : 8 * k + 8 * j ≤ 40) (h1 : t.cls.1 < 256) (h2 : t.cls.2 < 256) : memNat s1.mem (at' + k) j =
        (t.disp * 2 ^ 32 + t.cls.1 * 2 ^ 24 + t.cls.2 * 2 ^ 16) / 2 ^ (8 * k) % 2 ^ (8 * j) := by
      rw [hmem, ← elemRecord_low s e t w h1 h2 (t.disp_le.trans_lt (by decide)), ← low_part hkj (show 40 ≤ 8 * 256 by decide)]
      exact memNat_memWrite_part at' 256 _ hm (by omega)
    have hdisp := t.disp_le
    refine ⟨congrArg Die.ringTail hdie, congrArg Die.waiting hdie, fun a ha => ?_, fun h1 h2 => ?_, fun h1 h2 => ?_⟩
    · rw [hmem]
      exact memGet_memWrite_outside _ _ _ hm (by rw [littleBytes_length]; exact ha)
    · rw [part (by decide) h1 h2]
      omega
    · rw [part (by decide) h1 h2]
      change _ = t.disp
      omega
  case waits =>
    have h := putRecord_waits (s := faulted s n e t w) (d := e.die) (r := elemRecord s e t w t.disp) (by rw [hring]; exact hu)
    rw [← hs1, hring] at h
    rw [h, die_setDie, List.length_append]
    exact ⟨faulted_mem, rfl, rfl⟩

/-- Settles O26 from its four parts. -/
theorem trapsAndFaults : Obligations.TrapsAndFaults :=
  ⟨coreTrapInstructions, elementTrapInstructions, trapWhileInhibited, elementFaults⟩

end Sys2Proof.Machine
end

section
/-! PROOFS. O27: the system registers, and the events of a core (R53, R216, R219, R408). -/
namespace Sys2Proof.Machine
open Sys2Proof.Claim

section
variable {s : State} {e : Elem} {f : Fields}

-- System registers (R216) -------------------------------------------------------------------------------------------------------------------

/-- A register that reads has a row that may be read. -/
theorem readable_of_sysGet {n : Nat} {x : Nat × Bool} (h : sysGet e n = some x) : (n == 0x020 || n == 0x021) = false := by
  rw [Bool.or_eq_false_iff, beq_eq_false_iff_ne, beq_eq_false_iff_ne]
  constructor <;> rintro rfl <;> exact Option.some_ne_none x h.symm

/-- A register that can be written has a row that may be written. -/
theorem writable_of_sysPut {n : Nat} {p : Payload} {x : Elem} (h : sysPut e n p = some x) :
    (n == 0x010 || n == 0x011 || n == 0x030) = false := by
  simp only [Bool.or_eq_false_iff, beq_eq_false_iff_ne]
  refine ⟨⟨?_, ?_⟩, ?_⟩ <;> rintro rfl <;> exact Option.some_ne_none x h.symm

/-- A number that R216 does not list is none of its rows. -/
theorem not_row_of_unlisted {n : Nat} (h : sysListed n = false) : n ≠ 0x000 ∧ n ≠ 0x001 ∧ n ≠ 0x002 ∧ n ≠ 0x003 ∧ n ≠ 0x004 ∧ n ≠ 0x005
    ∧ n ≠ 0x010 ∧ n ≠ 0x011 ∧ n ≠ 0x020 ∧ n ≠ 0x021 ∧ n ≠ 0x030 := by
  simpa [sysListed] using h

theorem sysGet_unlisted {n : Nat} (h : sysListed n = false) : sysGet e n = none := by
  unfold sysGet
  split
  case h_10 => rfl
  all_goals exact absurd h (by decide)

theorem sysPut_unlisted {n : Nat} {p : Payload} (h : sysListed n = false) : sysPut e n p = none := by
  unfold sysPut
  dsimp only
  split
  case h_9 => rfl
  all_goals exact absurd h (by decide)

section
variable (hr : Runs s e) (hc : e.cls = .fc) (hv : f.var = 0)
include hr hc hv

theorem sysr_reads {x : Nat} {tn : Bool} (hl : Legal e f onlyD (badReg e f)) (h : sysGet e (sysNo f) = some (x, tn)) :
    Completes (.sysr f) s e s (writeDes e f.d { pay := pair64 x, pz := false, tn := tn }) := by
  refine completes_of_body rfl hr (mem_classesOf_fc hc (by decide)) ?_
  rw [bodySysr, checkRaw_ok hl (by rw [readable_of_sysGet h, hv]; rfl), res_bind_ok, h]
  exact congrArg (done s) (putWhole_core hc _ _ _)

theorem sysr_unreadable (h : sysNo f = 0x020 ∨ sysNo f = 0x021) : Traps (.sysr f) s e .instr (wordOf 0xE2 f) := by
  refine traps_of_body rfl hr (mem_classesOf_fc hc (by decide)) ?_
  have hu : (f.var == 0 && !(sysNo f == 0x020 || sysNo f == 0x021)) = false := by obtain h | h := h <;> rw [h, hv] <;> rfl
  rw [bodySysr, checkRaw_unsound hu, res_bind_error]

theorem sysr_unlisted (hl : Legal e f onlyD (badReg e f)) (h : sysListed (sysNo f) = false) :
    Traps (.sysr f) s e (.operand f.a.toNat) (wordOf 0xE2 f) := by
  refine traps_of_body rfl hr (mem_classesOf_fc hc (by decide)) ?_
  have hn := not_row_of_unlisted h
  rw [bodySysr, checkRaw_ok hl (by simp [hv, hn]), res_bind_ok, sysGet_unlisted h]
  rfl

theorem sysw_writes {x : Elem} (hl : Legal e f onlyA none) (h : sysPut e (sysNo f) (readDes s e f.a).pay = some x) :
    Completes (.sysw f) s e s x := by
  refine completes_of_body rfl hr (mem_classesOf_fc hc (by decide)) ?_
  rw [bodySysw, checkRaw_ok hl (by rw [writable_of_sysPut h, hv]; rfl), res_bind_ok, h]

theorem sysw_unwritable (h : sysNo f = 0x010 ∨ sysNo f = 0x011 ∨ sysNo f = 0x030) : Traps (.sysw f) s e .instr (wordOf 0xE3 f) := by
  refine traps_of_body rfl hr (mem_classesOf_fc hc (by decide)) ?_
  have hu : (f.var == 0 && !(sysNo f == 0x010 || sysNo f == 0x011 || sysNo f == 0x030)) = false := by
    obtain h | h | h := h <;> rw [h, hv] <;> rfl
  rw [bodySysw, checkRaw_unsound hu, res_bind_error]

theorem sysw_unlisted (hl : Legal e f onlyA none) (h : sysListed (sysNo f) = false) :
    Traps (.sysw f) s e (.operand f.a.toNat) (wordOf 0xE3 f) := by
  refine traps_of_body rfl hr (mem_classesOf_fc hc (by decide)) ?_
  have hn := not_row_of_unlisted h
  rw [bodySysw, checkRaw_ok hl (by simp [hv, hn]), res_bind_ok, sysPut_unlisted h]
  rfl

end

theorem systemRegisters : Claim.SystemRegisters := by
  intro s e f hr hc hv n p lo reads writes c
  have get (hl : Legal e f onlyD (badReg e f)) {k x : Nat} {tn : Bool} (hk : sysGet e k = some (x, tn)) (h : n = k) : reads x tn :=
    sysr_reads hr hc hv hl ((congrArg (sysGet e) h).trans hk)
  have put (hl : Legal e f onlyA none) {k : Nat} {x : FcPart} (hk : sysPut e k p = some { e with fc := x }) (h : n = k) : writes x :=
    sysw_writes hr hc hv hl ((congrArg (sysPut e · p) h).trans hk)
  have fc {op : BitVec 8} (h : (classesOf op).contains .fc = true) := mem_classesOf_fc (op := op) hc h
  refine ⟨fun hl => ⟨get hl rfl, get hl rfl, get hl rfl, get hl rfl, get hl rfl, get hl rfl, get hl rfl, get hl rfl, get hl rfl,
      sysr_unreadable hr hc hv, sysr_unlisted hr hc hv hl⟩,
    fun hl => ⟨put hl rfl, put hl rfl, put hl rfl, put hl rfl, put hl rfl, put hl rfl, sysw_unwritable hr hc hv, sysw_unlisted hr hc hv hl,
      ?flush, ?beat⟩⟩
  case flush =>
    refine completes_of_body rfl hr (fc (by decide)) ?_
    rw [bodyIcacheFlush, checkRaw_ok hl (beq_iff_eq.2 hv)]
    rfl
  case beat =>
    refine completes_of_body rfl hr (fc (by decide)) ?_
    rw [bodyHeartbeatWrite, checkRaw_ok hl (beq_iff_eq.2 hv)]
    rfl

-- Events (R219) ------------------------------------------------------------------------------------------------------------------------------

/-- Whether an `idle` that began has waited its time. -/
def idlePast (s : State) (e : Elem) (t : Nat) : Prop := ∃ at', e.fc.idleAt = some at' ∧ t ≠ 0 ∧ at' + 1000 * t ≤ s.now

theorem bodyIdle_goes (hv : f.var = 0) (h : e.fc.evq ≠ [] ∨ idlePast s e f.imm.toNat) :
    bodyIdle s f e = done s { e with fc := { e.fc with idleAt := none } } := by
  rw [bodyIdle, need_ok (beq_iff_eq.2 hv), res_bind_ok]
  refine if_pos ?_
  obtain h | ⟨at', hat, ht⟩ := h
  · rw [bne_iff_ne.2 h]; rfl
  · rw [hat]
    exact Bool.or_eq_true_iff.2 (Or.inr (decide_eq_true ht))

theorem bodyIdle_stays (hv : f.var = 0) (hq : e.fc.evq = []) (h : ¬ idlePast s e f.imm.toNat) :
    bodyIdle s f e = doneAt s { e with fc := { e.fc with idleAt := some (e.fc.idleAt.getD s.now) } } .stay := by
  rw [bodyIdle, need_ok (beq_iff_eq.2 hv), res_bind_ok]
  refine if_neg ?_
  rw [hq]
  cases hat : e.fc.idleAt with
  | none => exact Bool.false_ne_true
  | some at' =>
    have hf : decide (f.imm.toNat ≠ 0 ∧ at' + 1000 * f.imm.toNat ≤ s.now) = false := decide_eq_false fun ht => h ⟨at', hat, ht⟩
    dsimp only
    rw [hf]
    exact Bool.false_ne_true

theorem bodyEvrd_eq (hv : f.var = 0) (hl : Legal e f onlyD (badReg e f)) : bodyEvrd s f e = (match e.fc.evq with
    | [] => done s (putWhole e f.d 0 false true)
    | ev :: l => done (refill s { e with fc := { e.fc with evq := l } }).1
        (putWhole (refill s { e with fc := { e.fc with evq := l } }).2 f.d (ev.setWidth 512) false true)) := by
  rw [bodyEvrd, checkRaw_ok hl (beq_iff_eq.2 hv)]
  rfl

/-- A core whose oldest event is taken, while none waits for room. -/
theorem refill_none (h : ∀ w ∈ s.evwait, w.1 ≠ e.act) (l : List (BitVec 256)) :
    refill s { e with fc := { e.fc with evq := l } } = (s, { e with fc := { e.fc with evq := l } }) := by
  rw [refill, List.find?_eq_none.2 fun w hw => by simpa using h w hw]

/-- A core whose oldest event is taken, while others wait for room. -/
theorem refill_some {w : Nat × BitVec 256} (h : s.evwait.find? (fun w => w.1 == e.act) = some w) (l : List (BitVec 256)) :
    refill s { e with fc := { e.fc with evq := l } } =
      ({ s with evwait := s.evwait.erase w }, { e with fc := { e.fc with evq := l ++ [w.2] } }) := by
  rw [refill, h]

theorem eventInstructions : Claim.EventInstructions := by
  intro s e f hr hc hv t past waits
  have fc {op : BitVec 8} (h : (classesOf op).contains .fc = true) := mem_classesOf_fc (op := op) hc h
  refine ⟨fun h => completes_of_body rfl hr (fc (by decide)) (bodyIdle_goes hv h),
    fun hq h => endsBy_of_body rfl hr (fc (by decide)) (by simp) (bodyIdle_stays hv hq h), fun hl hq => ?empty, fun ev l w hl hq hw => ?waiting,
    fun ev l hl hq hw => ?alone⟩
  case empty =>
    refine completes_of_body rfl hr (fc (by decide)) ?_
    rw [bodyEvrd_eq hv hl, hq]
    exact congrArg (done s) (putWhole_core hc _ _ _)
  case waiting =>
    refine completes_of_body rfl hr (fc (by decide)) ?_
    rw [bodyEvrd_eq hv hl, hq]
    dsimp only
    rw [refill_some hw]
    exact congrArg (done _) (putWhole_core (by exact hc) _ _ _)
  case alone =>
    refine completes_of_body rfl hr (fc (by decide)) ?_
    rw [bodyEvrd_eq hv hl, hq]
    dsimp only
    rw [refill_none hw]
    exact congrArg (done _) (putWhole_core (by exact hc) _ _ _)

end

/-- Settles O27 from its two parts. -/
theorem systemRegistersAndEvents : Obligations.SystemRegistersAndEvents := ⟨systemRegisters, eventInstructions⟩

end Sys2Proof.Machine
end

section
/-! PROOFS. O28: a core's loads and stores at physical addresses (R161, R174, R220, R262, R379, R411; log 145). -/
namespace Sys2Proof.Machine
open Sys2Proof.Claim

section
variable {s : State} {e : Elem} {f : Fields} {a size : Nat}

-- What an address reaches (R220) ----------------------------------------------------------------------------------------------------------------

theorem placeOf_aligned (ha : a % size = 0) : placeOf s a size =
    if isOwn a then (if stampedFrame s a then none else some .memory) else if isHost a then some .memory
    else if isFlash a then some .flash else if isRegAddr a then (regAt a size).map .register else none :=
  if_neg (not_not.2 ha)

theorem placeOf_none (h : a % size ≠ 0 ∨ (isOwn a = true ∧ stampedFrame s a = true)
    ∨ (isOwn a = false ∧ isHost a = false ∧ isFlash a = false ∧ (isRegAddr a = true → regAt a size = none))) : placeOf s a size = none := by
  by_cases ha : a % size = 0
  · rw [placeOf_aligned ha]
    obtain h | ⟨ho, hs⟩ | ⟨ho, hh, hf, hr⟩ := h
    · exact absurd ha h
    · rw [if_pos ho, if_pos hs]
    · simp only [ho, hh, hf, Bool.false_eq_true, if_false]
      split
      · next h => rw [hr h]; rfl
      · rfl
  · exact if_pos ha

theorem placeOf_memory (ha : a % size = 0) (h : (isOwn a = true ∧ stampedFrame s a = false) ∨ (isOwn a = false ∧ isHost a = true)) :
    placeOf s a size = some .memory := by
  rw [placeOf_aligned ha]
  obtain ⟨ho, hs⟩ | ⟨ho, hh⟩ := h
  · rw [if_pos ho, hs]; rfl
  · rw [ho, hh]; rfl

/-- The address of an access of a core. -/
def physAddr (s : State) (e : Elem) (f : Fields) : Nat := physOf (readDes s e f.a).pay

/-- What a load of a core reads at its home. -/
def ldpRead (s : State) (e : Elem) (f : Fields) : State × Nat × Reg := homeRead (l2Fill s (physAddr s e f) 0) e (physAddr s e f) (physSize f)

-- ldp (R161, R220, R379) ------------------------------------------------------------------------------------------------------------------------

section
variable (hv : f.var.toNat ≤ 2) (hl : Legal e f usesA (badReg e f))
include hv hl

theorem bodyLdp_poisoned (hp : (readDes s e f.a).pz = true) : bodyLdp s f e =
    done s.spend (putWhole e f.d (Config.freePayload s.freeCtr) true (readDes s e f.a).tn) := by
  rw [bodyLdp, checkRaw_ok hl (decide_eq_true hv), res_bind_ok]
  exact if_pos hp

/-- A load at a sound address, by the place that it reaches. -/
theorem bodyLdp_eq (hp : (readDes s e f.a).pz = false) {o : Option Place} (ho : placeOf s (physAddr s e f) (physSize f) = o) :
    bodyLdp s f e = match (generalizing := false) o with
    | none => trap (.phys (physAddr s e f))
    | some (.register r) => done s (putWhole e f.d (BitVec.ofNat 512 (regRead s r)) false (readDes s e f.a).tn)
    | some _ => awaitFree (!homeHeld s 32 (physAddr s e f)) >>= fun _ => done (ldpRead s e f).1
        (putWhole e f.d (BitVec.ofNat 512 (ldpRead s e f).2.1) (ldpRead s e f).2.2.pz ((ldpRead s e f).2.2.tn || (readDes s e f.a).tn)) := by
  rw [bodyLdp, checkRaw_ok hl (decide_eq_true hv), res_bind_ok]
  refine (if_neg (Bool.eq_false_iff.1 hp)).trans ?_
  rw [show placeOf s (physOf (readDes s e f.a).pay) (physSize f) = o from ho]
  cases o with
  | none => rfl
  | some p => cases p <;> rfl

end

-- stp (R161, R220, R379) ------------------------------------------------------------------------------------------------------------------------

/-- The store that `stp` becomes. -/
def stpStore (s : State) (e : Elem) (f : Fields) (reg : Bool) : PStore :=
  coreStore e s.orders (physAddr s e f) (physSize f) ((readDes s e f.b).pay.toNat % 2 ^ (8 * physSize f))
    ((readDes s e f.a).tn || (readDes s e f.b).tn) reg

/-- A core after its `stp`. -/
def stpElem (e : Elem) (y : PStore) : Elem := { e with ag := { e.ag with sb := e.ag.sb ++ [y], seq := e.ag.seq + 1 } }

section
variable (hv : f.var.toNat ≤ 2) (hl : Legal e f onlyAB none)
include hv hl

theorem bodyStp_poisoned (hp : ((readDes s e f.a).pz || (readDes s e f.b).pz) = true) : bodyStp s f e =
    .error (.trap (.poison 0 f.d.toNat (physAddr s e f))) := by
  rw [bodyStp, checkRaw_ok hl (decide_eq_true hv), res_bind_ok]
  exact congrArg (· >>= _) (need_trap (by rw [hp]; rfl) _)

/-- A store of sound operands, by the place that it reaches. -/
theorem bodyStp_eq (ha : (readDes s e f.a).pz = false) (hb : (readDes s e f.b).pz = false) {o : Option Place}
    (ho : placeOf s (physAddr s e f) (physSize f) = o) : bodyStp s f e = match (generalizing := false) o with
    | none => trap (.phys (physAddr s e f))
    | some .flash => trap (.phys (physAddr s e f))
    | some .memory => done { s with orders := s.orders + 1 } (stpElem e (stpStore s e f false))
    | some (.register _) => done { s with orders := s.orders + 1 } (stpElem e (stpStore s e f true)) := by
  rw [bodyStp, checkRaw_ok hl (decide_eq_true hv), res_bind_ok]
  refine (congrArg (· >>= _) (need_ok (by rw [ha, hb]; rfl) _)).trans ?_
  rw [res_bind_ok, show placeOf s (physOf (readDes s e f.a).pay) (physSize f) = o from ho]
  cases o with
  | none => rfl
  | some p => cases p <;> rfl

end

theorem stpStore_data (reg : Bool) : (stpStore s e f reg).data = BitVec.ofNat 512
    ((readDes s e f.b).pay.toNat % 2 ^ (8 * physSize f) * 2 ^ (8 * (physAddr s e f % 64))) := by
  rw [stpStore, coreStore, smallStore, Nat.mod_mod]

theorem stpStore_reg (reg : Bool) : (stpStore s e f reg).reg = none ↔ reg = false := by
  cases reg <;> simp [stpStore, coreStore]

end

/-- Settles O28: each access by its poison and by the place that its address reaches. -/
theorem physicalMemory : Obligations.PhysicalMemory := by
  unfold Obligations.PhysicalMemory
  intro s e f hr hc hv a b addr size home whole
  have fc {op : BitVec 8} (h : (classesOf op).contains .fc = true) := mem_classesOf_fc (op := op) hc h
  refine ⟨fun hl hp hpl => ?memory, fun r hl hp hpl => ?register, fun hl hp hpl => ?nowhere, fun hl hp => ⟨Config.freePayload s.freeCtr, ?poisoned⟩,
    placeOf_none, placeOf_memory, fun p hl ha hb hpl hne => ?store, fun hl ha hb hpl => ?bounds, fun hl hp => ?poison⟩
  case memory =>
    have hbody : bodyLdp s f e = (awaitFree (!homeHeld s 32 addr) >>= fun _ =>
        done home.1 (putWhole e f.d (BitVec.ofNat 512 home.2.1) home.2.2.pz (home.2.2.tn || a.tn))) := by
      obtain hpl | hpl := hpl <;> exact bodyLdp_eq hv hl hp hpl
    split
    · next hh => exact holds_of_body rfl hr (fc (by decide)) (by rw [hbody, hh]; rfl)
    · next hh =>
      refine completes_of_body rfl hr (fc (by decide)) ?_
      rw [hbody, Bool.eq_false_iff.2 hh]
      exact congrArg (done _) (putWhole_core hc _ _ _)
  case register =>
    exact completes_of_body rfl hr (fc (by decide)) ((bodyLdp_eq hv hl hp hpl).trans (congrArg (done s) (putWhole_core hc _ _ _)))
  case nowhere => exact traps_of_body rfl hr (fc (by decide)) (bodyLdp_eq hv hl hp hpl)
  case poisoned =>
    exact completes_of_body rfl hr (fc (by decide)) ((bodyLdp_poisoned hv hl hp).trans (congrArg (done _) (putWhole_core hc _ _ _)))
  case store =>
    have hbody := bodyStp_eq hv hl ha hb hpl
    cases p with
    | flash => exact absurd rfl hne
    | memory =>
      exact ⟨stpStore s e f false, completes_of_body rfl hr (fc (by decide)) hbody, rfl, rfl, rfl, rfl, rfl, stpStore_data false,
        by simp [stpStore_reg]⟩
    | register r =>
      exact ⟨stpStore s e f true, completes_of_body rfl hr (fc (by decide)) hbody, rfl, rfl, rfl, rfl, rfl, stpStore_data true,
        by simp [stpStore_reg]⟩
  case bounds =>
    refine traps_of_body rfl hr (fc (by decide)) ?_
    obtain hpl | hpl := hpl <;> exact bodyStp_eq hv hl ha hb hpl
  case poison => exact traps_of_body rfl hr (fc (by decide)) (bodyStp_poisoned hv hl hp)

end Sys2Proof.Machine
end

section
/-! PROOFS. O29 fails: an element on a die without a place. The statement asks that the event of a `halt` names its source in 32 bits (R219), while
the number of a die is not bounded in the model: the places of R392 end at 63, and on die 2048 a source number needs the bit 32, which no event
carries. No configuration of the spec has such a die, and the statement has no hypothesis that says so. -/
namespace Sys2Proof.Machine
open Sys2Proof.Claim

/-- An element in a firing, on die 2048. -/
def farElem : Elem := { Elem.blank .ve with die := 2048, busy := true }

/-- A module after reset that holds this element, whose turn it is. -/
def farHalt : State := { State.reset with elems := [farElem], cur := .el 0 }

theorem farElem_src : farElem.src = 2 ^ 32 := by decide +kernel

/-- `halt` with code 0. -/
def haltFields : Fields := fieldsOf 0

theorem not_haltOnElement : ¬ Claim.HaltOnElement := by
  intro h
  obtain ⟨_, _, _, _, _, _, _, hevent⟩ := h farHalt farElem haltFields rfl (show farElem.cls ≠ .ra by decide) (by decide) rfl
  obtain ⟨_, ev, _, _, _, _, hsrc, _⟩ := hevent 0 (coreReset 0) (by decide +kernel) (by decide) rfl (by decide) (fun _ hw => absurd hw List.not_mem_nil)
  rw [farElem_src] at hsrc
  exact absurd hsrc (Nat.mod_lt _ (by decide)).ne

/-- Refutes O29: the event of a `halt` on die 2048 does not carry the number of its source. -/
theorem not_coreFlowAndHalt : ¬ Obligations.CoreFlowAndHalt := fun h => not_haltOnElement h.2

end Sys2Proof.Machine
end

section
/-! PROOFS. O35 fails: a stream actor whose firing at work has consumed a `halt`. The end of that firing retires the actor (R237), so on what it
leaves no clause is enabled, and the model starts none behind it. The statement asks for one, since it takes the clauses as they stand while
that firing is still at work. -/
namespace Sys2Proof.Machine
open Sys2Proof.Claim

/-- Where no clause is chosen on what the firings at work leave, none starts behind them. -/
theorem firingStart_none_follows {s : State} {u : Nat} {e : Elem} (he : s.elems[u]? = some e) (hb : e.busy = true)
    (hc : chosen (e.ahead s) = none) : Steps (.firingStart u) s s := by
  change execFiringStart u s = _
  rw [execFiringStart, onElem_some he, if_pos hb, followFiring, hc]
  simp

/-- A clause that takes a data word or a `halt` from input 0. -/
def takingClause : Clause := { Clause.unused with used := true, en := true, acc := 0x41, ins := [⟨0, 1⟩] }

/-- A stream actor of `take` and `end` whose firing has taken a `halt`, with a data word behind it on input 0. -/
def retiring : Elem :=
  { Elem.blank .ve with
    strm := true, busy := true, run := { Run.idle with pos := 1, halt := true },
    body := [wordOf 0x02 { Fields.initial with a := 0x200 }, wordOf 0x01 Fields.initial],
    ins := (Vector.replicate 32 InChan.unbound).set 0 { InChan.unbound with ent := 0x800C0000, q := [CWord.zero], src := .el 9 0 },
    cls4 := (Vector.replicate 4 Clause.unused).set 0 takingClause }

/-- A module that holds this actor. -/
def retiringHere : State := { State.reset with elems := [retiring], cur := .el 0 }

/-- The words that the firing leaves let another start: nothing waits, no action and no fault is due, and the clause has its word. -/
theorem retiring_free : (retiring.strm = true ∧ (∀ r ∈ retiring.run :: retiring.pipe, r.wait = none) ∧ retiring.parked = false
      ∧ headFault (retiring.ahead retiringHere) = none ∧ armDue (retiring.ahead retiringHere) = false
      ∧ allHeads (retiring.ahead retiringHere) 4 = false ∧ allHeads (retiring.ahead retiringHere) 6 = false)
    ∧ runnable (retiring.ahead retiringHere) takingClause = true := by
  decide +kernel

/-- The end of the firing disables every clause (R237). -/
theorem retiring_chosen : chosen (retiring.ahead retiringHere) = none := by decide +kernel

theorem not_streamFollows : ¬ Claim.StreamFollows := by
  intro h
  obtain ⟨hfree, hrun⟩ := retiring_free
  obtain ⟨-, hstart⟩ := h retiringHere 0 retiring rfl (by decide) rfl rfl
  obtain ⟨i, y, ⟨hi, -⟩, -, -, -, -, hnew⟩ := hstart hfree ⟨0, by decide, hrun⟩
  have hentry : ∀ i < 4, (retiring.cls4.toList.getD i Clause.unused).entry < 1 := by decide
  have hstays : Steps (.firingStart 0) retiringHere retiringHere := firingStart_none_follows rfl rfl retiring_chosen
  have hsame := Host.Outcome.next.inj (hstays.symm.trans (hnew (hentry i hi)))
  have hpipe := congrArg (fun t : State => t.elems.map (fun x => x.pipe.length)) hsame
  exact absurd hpipe (by simp [retiringHere, retiring, State.setUnit, Elem.blank])

/-- Refutes O35: behind a firing that has consumed a `halt` none starts. -/
theorem not_firingsAndHeads : ¬ Obligations.FiringsAndHeads := fun h => not_streamFollows h.2.1

end Sys2Proof.Machine
end

section
/-! PROOFS. O43: the flits of a bridge, by their kind (R20, R249, R250; logs 103, 133, 145, 153). -/
namespace Sys2Proof.Machine
open Sys2Proof.Claim

-- Tables ------------------------------------------------------------------------------------------------------------------------------------

/-- What a table with one value more holds. -/
theorem mem_tab_set {α : Type} {t : Tab α} {k : Nat} {v : α} {p : Nat × α} (h : p ∈ Tab.set t k v) : p = (k, v) ∨ p ∈ t := by
  induction t with
  | nil => exact Or.inl (List.mem_singleton.1 h)
  | cons q t ih =>
    obtain ⟨i, w⟩ := q
    unfold Tab.set at h
    split at h
    · exact (List.mem_cons.1 h).imp_right (List.mem_cons_of_mem _)
    · split at h
      · exact List.mem_cons.1 h
      · obtain rfl | h := List.mem_cons.1 h
        · exact Or.inr List.mem_cons_self
        · exact (ih h).imp_right (List.mem_cons_of_mem _)

/-- The value that a table gives is listed there, or it is the default. -/
theorem tab_get_mem {α : Type} (d : α) (t : Tab α) (k : Nat) : Tab.get d t k = d ∨ (k, Tab.get d t k) ∈ t := by
  induction t with
  | nil => exact Or.inl rfl
  | cons q t ih =>
    obtain ⟨i, w⟩ := q
    unfold Tab.get
    split
    · next h => exact Or.inr (by rw [h]; exact List.mem_cons_self)
    · exact ih.imp_right (List.mem_cons_of_mem _)

section
variable {s : State}

theorem region_stt_ne (h : NoReset s) (r : Nat) : (s.region r).stt ≠ 5 := by
  obtain hd | hm := tab_get_mem Region.blank s.regions r
  · rw [State.region, hd]
    decide
  · exact h _ hm

/-- An output at a producing end replaced begins no reset of a region. -/
theorem noReset_setOutAt (h : NoReset s) (x : ChanEnd) (o : OutChan) : NoReset (s.setOutAt x o) := by
  cases x with
  | el n c => exact h
  | gate r g =>
    intro p hp
    obtain rfl | hp := mem_tab_set hp
    · exact region_stt_ne h r
    · exact h p hp

end

-- The fields of a flit (R250) -----------------------------------------------------------------------------------------------------------------

section
variable (f : BitVec 640)

theorem bitsAt_toNat {w : Nat} (v : BitVec w) (lo n : Nat) : bitsAt v.toNat lo n = (v.extractLsb' lo n).toNat := by
  rw [bitsAt, BitVec.extractLsb'_toNat, Nat.shiftRight_eq_div_pow]

theorem flKind_eq_iff (k : BitVec 2) : flKind f = k.toNat ↔ f.extractLsb' 96 2 = k := by
  rw [flKind, bitsAt_toNat, BitVec.toNat_inj]

theorem bcDmin_flPay : bcDmin (flPay f) = (f.extractLsb' 256 32).toNat := by
  rw [bcDmin, bitsAt_toNat, flPay]
  refine congrArg BitVec.toNat (BitVec.eq_of_getLsbD_eq fun i hi => ?_)
  rw [BitVec.getLsbD_extractLsb', BitVec.getLsbD_extractLsb', BitVec.getLsbD_extractLsb', decide_eq_true (show 128 + i < 512 by omega),
    Bool.true_and, ← Nat.add_assoc]

theorem flMeta_testBit {i : Nat} (hi : i < 4) : (flMeta f).testBit i = f.getLsbD (124 + i) := by
  rw [flMeta, bitsAt, Nat.testBit_mod_two_pow, Nat.testBit_div_two_pow, decide_eq_true hi, Bool.true_and, Nat.add_comm]
  rfl

/-- The word of a flit: PZ is set beside only on a data word (R20). -/
theorem flWord_eq (pz : Bool) : flWord f pz =
    { pay := f.extractLsb' 128 512, lr := f.getLsbD 127, ls := f.getLsbD 126,
      pz := f.getLsbD 125 || (decide (f.getLsbD 127 = true ∨ f.getLsbD 126 = false) && pz), tn := f.getLsbD 124 } := by
  have h3 := flMeta_testBit f (i := 3) (by decide)
  have h2 := flMeta_testBit f (i := 2) (by decide)
  have h1 := flMeta_testBit f (i := 1) (by decide)
  have h0 := flMeta_testBit f (i := 0) (by decide)
  have hdata : (!(!f.getLsbD 127 && f.getLsbD 126)) = decide (f.getLsbD 127 = true ∨ f.getLsbD 126 = false) := by
    cases f.getLsbD 127 <;> cases f.getLsbD 126 <;> rfl
  simp only [flWord, CWord.isData, CWord.isCtl, h3, h2, h1, h0, hdata]
  rfl

end

-- What a word flit does to the channel of its stream (R249, R250) -----------------------------------------------------------------------------

/-- The first word that has crossed a number of bridges crosses the next one. -/
theorem crossFirst_first {i : Nat} {x w : CWord} {pre post : List Flight} (h : ∀ y k, Flight.word y k ∈ pre → k ≠ i) :
    crossFirst i w (pre ++ .word x i :: post) = some (pre ++ .word w (i + 1) :: post) := by
  induction pre with
  | nil => exact if_pos rfl
  | cons z pre ih =>
    have hpre := ih fun y k hy => h y k (List.mem_cons_of_mem _ hy)
    cases z with
    | word y k =>
      rw [List.cons_append, crossFirst, if_neg (h y k List.mem_cons_self), hpre]
      rfl
    | mark n =>
      rw [List.cons_append, crossFirst, hpre]
      rfl

section
variable {s : State} {die br m c i : Nat} {f : BitVec 640} {x : ChanEnd}

/-- A word flit that is not the next of its stream is the fault of its link (log 103). -/
theorem flitWord_late (hp : peerBridge die br = some (m, c)) (hx : streamAt s m c (flStrm f) = some (x, i))
    (hseq : flSeq f ≠ Tab.get 0 (s.bridge die br).seqIn (flStrm f)) :
    flitWord s die br f = raiseUnitFault s die 10 (bridgeNo die br) (endRegion s x) (.link die br) (.flits (flStrm f) die br) := by
  rw [flitWord, hp]
  dsimp only
  rw [hx]
  exact if_pos hseq

/-- The module when a word has crossed the bridge, and the next of its stream is expected. -/
def crossed (s : State) (die br : Nat) (f : BitVec 640) (x : ChanEnd) (o : OutChan) : State :=
  (s.setOutAt x o).setBridge die br { s.bridge die br with
    seqIn := Tab.set (s.bridge die br).seqIn (flStrm f) ((Tab.get 0 (s.bridge die br).seqIn (flStrm f) + 1) % 65536) }

/-- The next word flit of a stream takes its word over the bridge; where its `crc` is wrong, the error is recorded. -/
theorem flitWord_next {o : OutChan} {w : CWord} {pre post : List Flight} (hp : peerBridge die br = some (m, c))
    (hx : streamAt s m c (flStrm f) = some (x, i)) (hseq : flSeq f = Tab.get 0 (s.bridge die br).seqIn (flStrm f))
    (ho : s.outAt x = some o) (hf : o.flight = pre ++ .word w i :: post) (hpre : ∀ y k, Flight.word y k ∈ pre → k ≠ i) :
    flitWord s die br f =
      (let s1 := crossed s die br f x { o with flight := pre ++ .word (flWord f (!flSound f)) (i + 1) :: post }
       if flSound f then s1 else raiseUnitFault s1 die 10 (bridgeNo die br) (endRegion s x) (.link die br) (.ecc 5 0 none)) := by
  rw [flitWord, hp]
  dsimp only
  rw [hx]
  dsimp only
  rw [if_neg (not_not_intro hseq), ho, Option.bind_some, hf, crossFirst_first hpre]
  rfl

end

-- A flit by its kind (R250) -------------------------------------------------------------------------------------------------------------------

section
variable {s : State} {die br : Nat} {f : BitVec 640}

/-- The credits of a sound flit reach the free count of the producer whose channel leaves its die here (R249; log 103). -/
def creditedBy (s : State) (die br : Nat) (f : BitVec 640) : State := if flSound f then flitCredits s die br f else s

theorem creditedBy_none (h : flCcnt f = 0 ∨ flSound f = false) : creditedBy s die br f = s := by
  unfold creditedBy flitCredits
  obtain h | h := h
  · rw [if_pos h, ite_self]
  · rw [h]
    rfl

theorem creditedBy_some (h : ¬ (flCcnt f = 0 ∨ flSound f = false)) : creditedBy s die br f = flitCredits s die br f :=
  if_pos (by simpa using (not_or.1 h).2)

/-- The channel that leaves its producer's die by the bridge receives its credits. -/
theorem flitCredits_first {x : ChanEnd} {o : OutChan} (hc : flCcnt f ≠ 0) (hx : streamAt s die br (flCstr f) = some (x, 0))
    (ho : s.outAt x = some o) : flitCredits s die br f =
      s.setOutAt x { o with free := o.free + min (flCcnt f) o.cred, cred := o.cred - min (flCcnt f) o.cred } := by
  simp only [flitCredits, if_neg hc, hx, ho]

theorem bridgeFlit_held (h : unitHeld s die 10 (bridgeNo die br) = true) : Steps (.bridgeFlitReceive die br f) s s := by
  change execBridgeFlitReceive die br f s = _
  rw [execBridgeFlitReceive, if_pos h]

section
variable (h : unitHeld s die 10 (bridgeNo die br) = false)
include h

theorem bridgeFlit_dropped (hk : flKind f = 3) :
    Steps (.bridgeFlitReceive die br f) s (s.setBridge die br { s.bridge die br with dropped := (s.bridge die br).dropped + 1 }) := by
  change execBridgeFlitReceive die br f s = _
  simp only [execBridgeFlitReceive, h, hk, Bool.false_eq_true, if_false, if_true]

theorem bridgeFlit_beacon (hk : flKind f = 2) : Steps (.bridgeFlitReceive die br f) s
    (if flSound f then s.setBridge die br { s.bridge die br with
      beacons := (s.bridge die br).beacons ++ [(s.now - bcDmin (flPay f), flPay f)] } else s) := by
  change execBridgeFlitReceive die br f s = _
  simp only [execBridgeFlitReceive, h, hk, Bool.false_eq_true, if_false, if_true, Nat.reduceEqDiff]

theorem bridgeFlit_word (hk : flKind f = 0) :
    Steps (.bridgeFlitReceive die br f) s (resetAll (creditedBy (flitWord s die br f) die br f)) := by
  change execBridgeFlitReceive die br f s = _
  simp only [execBridgeFlitReceive, h, hk, Bool.false_eq_true, if_false, if_true, Nat.reduceEqDiff, creditedBy]

theorem bridgeFlit_credit (hk : flKind f = 1) : Steps (.bridgeFlitReceive die br f) s (resetAll (creditedBy s die br f)) := by
  change execBridgeFlitReceive die br f s = _
  simp only [execBridgeFlitReceive, h, hk, Bool.false_eq_true, if_false, Nat.reduceEqDiff, creditedBy]

end
end

/-- Settles O43: a flit by its kind, a word flit by its place in its stream. -/
theorem bridgeFlits : Obligations.BridgeFlits := by
  unfold Obligations.BridgeFlits
  intro s die br f hn kind strm seq ccnt b want data word credited go goes
  have hkind (k : BitVec 2) (hk : kind = k) : flKind f = k.toNat := (flKind_eq_iff f k).2 hk
  have hstrm : flStrm f = strm := bitsAt_toNat f 114 10
  have hseq : flSeq f = seq := bitsAt_toNat f 98 16
  have hccnt : flCcnt f = ccnt := bitsAt_toNat f 84 12
  have hcstr : flCstr f = (f.extractLsb' 74 10).toNat := bitsAt_toNat f 74 10
  have hword : flWord f (!flSound f) = word := flWord_eq f _
  have hcred (t : State) : creditedBy t die br f = credited t := by
    by_cases h : flCcnt f = 0 ∨ flSound f = false
    · refine (creditedBy_none h).trans (if_pos ?_).symm
      rwa [← hccnt]
    · have hif : ¬ (ccnt = 0 ∨ flSound f = false) := by rwa [← hccnt]
      rw [creditedBy_some h, flitCredits, if_neg fun hz => h (Or.inl hz), hcstr, hccnt]
      exact (if_neg hif).symm
  refine ⟨bridgeFlit_held, fun hk h => bridgeFlit_dropped h (hkind 3 hk), fun hk hs h => ?beacon, fun hk hs h => ?lost, ?late, ?next,
    fun hk h => ?credit, ?first⟩
  case beacon =>
    have hstep := bridgeFlit_beacon h (hkind 2 hk)
    rwa [if_pos hs, bcDmin_flPay] at hstep
  case lost =>
    have hstep := bridgeFlit_beacon h (hkind 2 hk)
    rwa [hs] at hstep
  case late =>
    intro m c x i hk hp hx hne h
    have hstep := bridgeFlit_word h (hkind 0 hk)
    rwa [hcred, flitWord_late hp (by rwa [hstrm]) (by rwa [hstrm, hseq]), hstrm] at hstep
  case next =>
    intro m c x i o pre w post hk hp hx heq ho hf hpre s1
    have hstep (h : unitHeld s die 10 (bridgeNo die br) = false) := bridgeFlit_word h (hkind 0 hk)
    rw [hcred, flitWord_next hp (by rwa [hstrm]) (by rwa [hstrm, hseq]) ho hf hpre, hword, crossed, hstrm] at hstep
    split
    · next hs => rwa [if_pos hs] at hstep
    · next hs => rwa [if_neg hs] at hstep
  case credit =>
    rw [← hcred]
    exact bridgeFlit_credit h (hkind 1 hk)
  case first =>
    intro x o hk hs hx ho hc h
    have hstep := bridgeFlit_credit h (hkind 1 hk)
    have hne : flCcnt f ≠ 0 := by rw [hccnt]; exact Nat.ne_of_gt hc
    rwa [creditedBy_some (by simp [hne, hs]), flitCredits_first hne (by rwa [hcstr]) ho, hccnt, resetAll_none (noReset_setOutAt hn _ _)] at hstep

end Sys2Proof.Machine
end

section
/-! PROOFS. What the landing of an agent's stores leaves of the elements of the module: a store to a register may command a region, and no
command adds an element or takes one away (R373, R379, R387 to R390). -/
namespace Sys2Proof.Machine
open Sys2Proof.Claim

/-- What each step of a fold leaves, the fold leaves. -/
theorem foldl_leaves {α β : Type} (v : State → β) {g : State → α → State} (h : ∀ s x, v (g s x) = v s) (l : List α) (s : State) :
    v (l.foldl g s) = v s := by
  induction l generalizing s with
  | nil => rfl
  | cons x l ih => exact (ih _).trans (h s x)

section
variable (s : State)

-- Operations that leave every element as it is ------------------------------------------------------------------------------------------------

@[simp] theorem setSupply_elems (die folio : Nat) (x : Supply) : (setSupply s die folio x).elems = s.elems := by
  unfold setSupply
  dsimp only
  split <;> simp

@[simp] theorem unboost_elems (r : Nat) : (unboost s r).elems = s.elems := by
  refine foldl_leaves State.elems (fun t f => ?_) _ s
  dsimp only
  split <;> simp

@[simp] theorem setCtx_elems (c : Nat) (v : BitVec 512) : (s.setCtx c v).elems = s.elems := by rw [State.setCtx]

@[simp] theorem endLease_elems (ctx : Nat) : (endLease s ctx).elems = s.elems := by
  unfold endLease
  dsimp only
  split <;> simp

@[simp] theorem returnLease_elems (r : Nat) : (returnLease s r).elems = s.elems := by
  unfold returnLease
  dsimp only
  split <;> simp

@[simp] theorem settleMigr_elems : (settleMigr s).elems = s.elems := by
  refine foldl_leaves State.elems (fun t m => ?_) _ s
  unfold mgStatus
  split <;> rfl

@[simp] theorem acquire_elems (e : Elem) (scp : Nat) : (acquire s e scp).elems = s.elems := by
  unfold acquire
  split
  · split <;> rfl
  · rfl

@[simp] theorem setDisp_elems (rgn addr v : Nat) : (setDisp s rgn addr v).elems = s.elems := by
  unfold setDisp
  split
  · rfl
  · split <;> rfl

@[simp] theorem markUnsound_elems (die kind a b : Nat) : (markUnsound s die kind a b).elems = s.elems := by
  unfold markUnsound
  split <;> rfl

@[simp] theorem markUnit_elems (unit : FaultUnit) : (markUnit s unit).elems = s.elems := by
  unfold markUnit
  split <;> simp

@[simp] theorem patternTested_elems (unit : FaultUnit) (blamed : Bool) : (patternTested s unit blamed).elems = s.elems := by
  unfold patternTested
  dsimp only
  split
  · rfl
  · split <;> simp

@[simp] theorem dropLaunch_elems (r : Nat) (g : Region) : (dropLaunch s r g).elems = s.elems := by simp [dropLaunch]

@[simp] theorem holdLaunch_elems (r : Nat) (g : Region) (same once : Bool) : (holdLaunch s r g same once).elems = s.elems := rfl

@[simp] theorem removeLaunch_elems (r : Nat) : (removeLaunch s r).elems = s.elems := by
  unfold removeLaunch
  dsimp only
  repeat' split
  all_goals simp

@[simp] theorem acceptCmd_elems (r : Nat) : (acceptCmd s r).elems = s.elems := rfl

@[simp] theorem refuseCmd_elems (r : Nat) : (refuseCmd s r).elems = s.elems := by
  unfold refuseCmd
  split <;> rfl

-- Operations that change elements in their places ---------------------------------------------------------------------------------------------

@[simp] theorem mapRegion_length (r : Nat) (g : Elem → Elem) : (s.mapRegion r g).elems.length = s.elems.length := List.length_map _

@[simp] theorem haltRegion_length (r : Nat) : (haltRegion s r).elems.length = s.elems.length := by simp [haltRegion_elems]

@[simp] theorem unfreeze_length (r : Nat) : (unfreeze s r).elems.length = s.elems.length := by
  unfold unfreeze
  dsimp only
  rw [setStt_elems, setRegion_elems]
  split <;> simp

@[simp] theorem supersede_length (p : PStore) : (supersede s p).elems.length = s.elems.length := by
  obtain ⟨l, hl⟩ := supersede_frame s p
  rw [hl]
  exact List.length_map _

@[simp] theorem landStore_length (die : Option Nat) (p : PStore) : (landStore s die p).elems.length = s.elems.length := by
  obtain ⟨_, _, _, _, _, _, _, h⟩ := landStore_lands s die p
  rw [h]
  exact supersede_length s p

@[simp] theorem landRegion_length (r : Nat) (pick : Elem → List PStore) : (landRegion s r pick).elems.length = s.elems.length :=
  foldl_leaves (fun t => t.elems.length) (fun t (x : Nat × PStore) => landStore_length t (some x.1) x.2) _ s

@[simp] theorem resetUnits_length (r step : Nat) : (resetUnits s r step).elems.length = s.elems.length := by
  unfold resetUnits
  dsimp only
  repeat' split
  all_goals simp [State.joined]

theorem resetPass_length (n r : Nat) : (resetPass n s r).elems.length = s.elems.length := by
  induction n generalizing s with
  | zero => rfl
  | succ n ih =>
    rw [resetPass]
    split
    · rw [ih]
      simp
    · rfl

@[simp] theorem clearElems_length (r : Nat) : (clearElems s r).elems.length = s.elems.length := mapRegion_length s r _

@[simp] theorem freeRegion_length (r : Nat) : (freeRegion s r).elems.length = s.elems.length := by
  simp [freeRegion, setStt_elems, rdcRegion, rdcDrop]

theorem regionCmd_length (r cmd : Nat) : (regionCmd s r cmd).elems.length = s.elems.length := by
  unfold regionCmd cmdResume cmdHalt cmdReset cmdBlot cmdRelease
  dsimp only
  repeat' split
  all_goals simp [setStt_elems, resetPass_length]

-- Stores that land (R262, R379) ---------------------------------------------------------------------------------------------------------------

theorem regWrite_length (r : RegName) (v : Nat) : (regWrite s r v).elems.length = s.elems.length := by
  cases r with
  | region r h =>
    unfold regWrite
    dsimp only
    split
    · rfl
    · exact regionCmd_length s r _
  | ringHead d => exact congrArg List.length (flushRing_elems _ _ _)
  | supply d f => exact congrArg List.length (setSupply_elems _ _ _ _)
  | tileInv d h => cases h <;> rfl
  | route k =>
    unfold regWrite
    dsimp only
    split <;> rfl
  | tenant | interval | ringBase | ringTail | health | queue => rfl

theorem landAny_length (die : Option Nat) (p : PStore) : (landAny s die p).elems.length = s.elems.length := by
  unfold landAny
  split
  · exact landStore_length s die p
  · split
    · exact regWrite_length s _ _
    · rfl

theorem release_length (e : Elem) : (release s e).1.elems.length = s.elems.length := by
  unfold release
  dsimp only
  rw [settleMigr_elems]
  exact foldl_leaves (fun t => t.elems.length) (fun t p => landAny_length t (agentDie e) p) _ s

end
end Sys2Proof.Machine
end

section
/-! PROOFS. What an element holds after the words at its heads were consumed and words were published, by the element itself (R32, R69). -/
namespace Sys2Proof.Machine
open Sys2Proof.Claim

-- Channels of an element, whatever their number (R66, R67) ------------------------------------------------------------------------------------

section
variable {e : Elem} {c : Nat}

theorem vector_getD_set_any {α : Type} {m : Nat} (v : Vector α m) (i k : Nat) (x d : α) :
    (v.setIfInBounds i x).toList.getD k d = if k = i ∧ i < m then x else v.toList.getD k d := by
  by_cases hi : i < m
  · rw [vector_getD_set v hi]
    simp [hi]
  · rw [if_neg fun h => hi h.2, Vector.toList_setIfInBounds, List.set_eq_of_length_le (by simpa using hi)]

theorem outch_setOut_any (c k : Nat) (x : OutChan) : (e.setOut c x).outch k = if k = c ∧ c < 16 then x else e.outch k :=
  vector_getD_set_any e.outs c k x _

theorem inch_setIn_any (c k : Nat) (x : InChan) : (e.setIn c x).inch k = if k = c ∧ c < 32 then x else e.inch k :=
  vector_getD_set_any e.ins c k x _

theorem inch_unbound (h : 32 ≤ c) : e.inch c = InChan.unbound := by
  rw [Elem.inch, List.getD_eq_getElem?_getD, List.getElem?_eq_none (by rwa [Vector.length_toList])]
  rfl

theorem outch_unbound (h : 16 ≤ c) : e.outch c = OutChan.unbound := by
  rw [Elem.outch, List.getD_eq_getElem?_getD, List.getElem?_eq_none (by rwa [Vector.length_toList])]
  rfl

/-- An output that is bound is one of the sixteen. -/
theorem lt_of_bound (h : entEn (e.outch c).ent = true) : c < 16 := by
  refine Nat.not_le.1 fun hc => ?_
  rw [outch_unbound hc] at h
  exact absurd h (by decide)

theorem mem_boundIns : c ∈ e.boundIns ↔ c < 32 ∧ entEn (e.inch c).ent = true := by simp [Elem.boundIns]

theorem mem_boundOuts : c ∈ e.boundOuts ↔ c < 16 ∧ entEn (e.outch c).ent = true := by simp [Elem.boundOuts]

end

-- Words consumed (R32, R69) -------------------------------------------------------------------------------------------------------------------

/-- What the consumption of words leaves of an element: all but the words of its inputs and the credits of its outputs. -/
structure Eaten (e e1 : Elem) : Prop where
  same : e1 = { e with ins := e1.ins, outs := e1.outs }
  ent : ∀ c, (e1.inch c).ent = (e.inch c).ent
  out : ∀ c, (e1.outch c).flight = (e.outch c).flight ∧ (e1.outch c).free = (e.outch c).free

/-- Words of input `d` go with those of its weight channel `c` (R32). -/
def Companion (e : Elem) (c d : Nat) : Prop := e.hasCmp c = true ∧ entCmp (e.inch c).ent = d

namespace Eaten
variable {e e1 e2 : Elem}

theorem refl (e : Elem) : Eaten e e := ⟨rfl, fun _ => rfl, fun _ => ⟨rfl, rfl⟩⟩

theorem trans (h : Eaten e e1) (h' : Eaten e1 e2) : Eaten e e2 where
  same := h'.same.trans (by rw [h.same])
  ent c := (h'.ent c).trans (h.ent c)
  out c := ⟨(h'.out c).1.trans (h.out c).1, (h'.out c).2.trans (h.out c).2⟩

theorem companion (h : Eaten e e1) (c d : Nat) : Companion e1 c d ↔ Companion e c d := by
  rw [Companion, Companion, Elem.hasCmp, Elem.hasCmp, h.ent]

end Eaten

section
variable {s : State} {u c k : Nat} {e : Elem}

/-- A producer that gets credits keeps its words and its free slots (R69). -/
theorem giveCredit_at (he : s.elems[u]? = some e) (src : ChanEnd) (n : Nat) :
    ∃ e1, (giveCredit s src n).elems[u]? = some e1 ∧ Eaten e e1 ∧ e1.ins = e.ins := by
  cases src with
  | gate r g => exact ⟨e, he, .refl e, rfl⟩
  | el v ch =>
    by_cases hv : v = u
    · subst hv
      refine ⟨_, updElem_at he rfl _, ⟨rfl, fun _ => rfl, fun d => ?_⟩, rfl⟩
      rw [outch_setOut_any]
      split
      · next h => rw [h.1]; exact ⟨rfl, rfl⟩
      · exact ⟨rfl, rfl⟩
    · refine ⟨e, ?_, .refl e, rfl⟩
      rw [giveCredit, updElem_elems, List.getElem?_modify, he]
      exact congrArg some (if_neg hv)

/-- Words consumed at one input are gone from there, and no word is gone from another. -/
theorem eatAt_at (he : s.elems[u]? = some e) (c k : Nat) : ∃ e1, (eatAt s u c k).elems[u]? = some e1 ∧ Eaten e e1
    ∧ ∀ d, (e1.inch d).q = if d = c then (e.inch d).q.drop k else (e.inch d).q := by
  let x : InChan := { e.inch c with q := (e.inch c).q.drop k, wpos := ((e.inch c).q.take k).foldl wposAfter (e.inch c).wpos }
  have hset : (s.updElem u fun e => e.setIn c x).elems[u]? = some (e.setIn c x) := updElem_at he rfl _
  obtain ⟨e1, he1, heat, hins⟩ := giveCredit_at hset (e.inch c).src ((e.inch c).q.take k).length
  have hinch (d : Nat) : e1.inch d = if d = c ∧ c < 32 then x else e.inch d := by
    rw [← inch_setIn_any, Elem.inch, Elem.inch, hins]
  refine ⟨e1, ?_, ⟨heat.same, fun d => ?_, heat.out⟩, fun d => ?_⟩
  · rw [eatAt, he]
    exact he1
  · rw [hinch]
    split
    · next h => rw [h.1]
    · rfl
  · rw [hinch]
    by_cases hd : d = c
    · subst hd
      by_cases hc : d < 32
      · simp [hc, x]
      · simp [hc, inch_unbound (Nat.not_lt.1 hc), InChan.unbound]
    · simp [hd]

/-- The head word of an input consumed with its companion words: another input loses words only as the companion. -/
theorem eatPair_at (he : s.elems[u]? = some e) (c : Nat) : ∃ e1, (eatPair s u c).elems[u]? = some e1 ∧ Eaten e e1
    ∧ ∀ d, ¬ Companion e c d → (e1.inch d).q = if d = c then (e.inch d).q.drop 1 else (e.inch d).q := by
  obtain ⟨e1, he1, heat, hq⟩ := eatAt_at he c 1
  have hpair : eatPair s u c = if e.cmpCount c 1 = 0 then eatAt s u c 1
      else eatAt (eatAt s u c 1) u (entCmp (e.inch c).ent) (e.cmpCount c 1) := by
    rw [eatPair, he]
  rw [hpair]
  split
  · exact ⟨e1, he1, heat, fun d _ => hq d⟩
  · next hk =>
    obtain ⟨e2, he2, heat2, hq2⟩ := eatAt_at he1 (entCmp (e.inch c).ent) (e.cmpCount c 1)
    refine ⟨e2, he2, heat.trans heat2, fun d hd => ?_⟩
    have hcmp : e.hasCmp c = true := by
      by_contra hno
      exact hk (if_neg hno)
    rw [hq2, if_neg fun h => hd ⟨hcmp, h.symm⟩, hq]

/-- The head words of some inputs consumed, none of which is a companion of another. -/
theorem eatPairs_at {l : List Nat} (hl : l.Nodup) (he : s.elems[u]? = some e) :
    ∃ e1, (l.foldl (fun s c => eatPair s u c) s).elems[u]? = some e1 ∧ Eaten e e1
      ∧ ∀ d, (∀ c ∈ l, ¬ Companion e c d) → (e1.inch d).q = if d ∈ l then (e.inch d).q.drop 1 else (e.inch d).q := by
  induction l generalizing s e with
  | nil => exact ⟨e, he, .refl e, fun d _ => rfl⟩
  | cons c l ih =>
    obtain ⟨hc, hl⟩ := List.nodup_cons.1 hl
    obtain ⟨e1, he1, heat, hq⟩ := eatPair_at he c
    obtain ⟨e2, he2, heat2, hq2⟩ := ih hl he1
    refine ⟨e2, he2, heat.trans heat2, fun d hd => ?_⟩
    rw [hq2 d fun b hb => mt (heat.companion b d).1 (hd b (List.mem_cons_of_mem _ hb)), hq d (hd c List.mem_cons_self)]
    by_cases hdc : d = c
    · subst hdc
      simp [hc]
    · simp [hdc]

/-- The inputs that pass control words by themselves, each once. -/
theorem nodup_mainIns : e.mainIns.Nodup := (List.nodup_range.filter _).filter _

theorem not_companion_of_mainIns {d : Nat} (hc : c ∈ e.mainIns) (hd : d ∈ e.mainIns) : ¬ Companion e c d := by
  rintro ⟨hcmp, heq⟩
  have hno := (List.mem_filter.1 hd).2
  rw [Bool.not_eq_true', List.any_eq_false] at hno
  exact hno c (List.mem_filter.1 hc).1 (by simp [hcmp, heq])

end

-- Words published (R69, R235, R251) -----------------------------------------------------------------------------------------------------------

section
variable {e : Elem} {w : CWord}

theorem outch_push {c : Nat} (hc : c < 16) (k : Nat) : (e.push c w).outch k =
    if k = c then { e.outch c with flight := (e.outch c).flight ++ [.word w 0], free := (e.outch c).free - 1 } else e.outch k :=
  outch_setOut hc k _

/-- A word published on an output that has room is in flight there, and takes a slot. -/
theorem sent_push {c : Nat} (hc : c < 16) (hfree : 1 ≤ (e.outch c).free) : Sent w (e.outch c) ((e.push c w).outch c) := by
  rw [outch_push hc, if_pos rfl]
  exact ⟨rfl, Nat.sub_add_cancel hfree⟩

/-- A word published on some outputs. -/
def Elem.publish (e : Elem) (l : List Nat) (w : CWord) : Elem := l.foldl (fun e c => e.push c w) e

theorem publish_same (l : List Nat) (e : Elem) : e.publish l w = { e with outs := (e.publish l w).outs } := by
  induction l generalizing e with
  | nil => rfl
  | cons c l ih => exact (ih (e.push c w)).trans rfl

/-- Where every output has room, the word is published on each. -/
theorem sent_publish {l : List Nat} (hl : l.Nodup) (h16 : ∀ c ∈ l, c < 16) (hfree : ∀ c ∈ l, 1 ≤ (e.outch c).free) :
    (∀ c ∈ l, Sent w (e.outch c) ((e.publish l w).outch c)) ∧ ∀ c, c ∉ l → (e.publish l w).outch c = e.outch c := by
  induction l generalizing e with
  | nil => exact ⟨fun c hc => absurd hc List.not_mem_nil, fun c _ => rfl⟩
  | cons b l ih =>
    obtain ⟨hb, hl⟩ := List.nodup_cons.1 hl
    have hb16 := h16 b List.mem_cons_self
    have hother (c : Nat) (hc : c ≠ b) : (e.push b w).outch c = e.outch c := by rw [outch_push hb16, if_neg hc]
    have hne (c : Nat) (hc : c ∈ l) : c ≠ b := fun h => hb (h ▸ hc)
    obtain ⟨hsent, hkept⟩ := ih (e := e.push b w) hl (fun c hc => h16 c (List.mem_cons_of_mem _ hc))
      fun c hc => by rw [hother c (hne c hc)]; exact hfree c (List.mem_cons_of_mem _ hc)
    refine ⟨fun c hc => ?_, fun c hc => ?_⟩
    · obtain rfl | hc := List.mem_cons.1 hc
      · rw [Elem.publish, List.foldl_cons, ← Elem.publish, hkept c hb]
        exact sent_push hb16 (hfree c List.mem_cons_self)
      · rw [← hother c (hne c hc)]
        exact hsent c hc
    · obtain ⟨hcb, hcl⟩ := not_or.1 (mt List.mem_cons.2 hc)
      exact (hkept c hcl).trans (hother c hcb)

/-- What is eaten after a word was published leaves it in flight. -/
theorem Eaten.sent {e1 : Elem} (h : Eaten e e1) {x : OutChan} {c : Nat} (hs : Sent w x (e.outch c)) : Sent w x (e1.outch c) := by
  obtain ⟨hflight, hfree⟩ := h.out c
  rwa [Sent, hflight, hfree]

end
end Sys2Proof.Machine
end

section
/-! PROOFS. O36: arms, drains and switches at an element (R32, R179, R235, R236, R251; log 20). -/
namespace Sys2Proof.Machine
open Sys2Proof.Claim

section
variable {s : State} {u : Nat} {e : Elem}

-- Arms (R251) ---------------------------------------------------------------------------------------------------------------------------------

/-- The arm output, where it is bound. -/
def BoundArm (e : Elem) (o : Nat) : Prop := e.armOut = some o ∧ entEn (e.outch o).ent = true

/-- The arm action of an element that may act on its heads. -/
theorem armAction_due (hi : Idle s u e) (hd : armDue e = true) (hp : e.parked = false) :
    Steps (.armAction u) s (judgeHeads (armElem s u e) u) := by
  obtain ⟨he, ha, hb, hr, hf⟩ := hi
  change execArmAction u s = _
  simp [execArmAction, onElem_some he, ha, hb, hr, hp, hf, hd]

/-- The word that is due at the arm input: an `arm` (R251). -/
theorem armDue_head (hd : armDue e = true) : (e.slot e.armIn 0).isCtl = true ∧ (e.slot e.armIn 0).kind = 7 := by
  simp only [armDue, Bool.and_eq_true, beq_iff_eq] at hd
  obtain ⟨⟨-, hhead⟩, -⟩ := hd
  obtain ⟨w, hw, hk⟩ := Option.map_eq_some_iff.1 hhead
  obtain ⟨q, hq⟩ := List.head?_eq_some_iff.1 hw
  have hslot : e.slot e.armIn 0 = w := by rw [Elem.slot, hq]; rfl
  rw [hslot]
  unfold kindOf at hk
  split at hk
  · next hc => exact ⟨hc, BitVec.eq_of_toNat_eq hk⟩
  · cases hk

/-- No head of a sound element is a malformed `arm` (R21). -/
theorem arm_counts (hf : headFault e = none) (hr : e.role = .actor) (hd : armDue e = true) (hin : e.armIn < 32)
    (hen : entEn (e.inch e.armIn).ent = true) : (e.slot e.armIn 0).arg ≠ 0 := by
  intro harg
  obtain ⟨hctl, hkind⟩ := armDue_head hd
  have hmal : malformed (e.slot e.armIn 0) = true := by simp [malformed, hctl, hkind, harg]
  have hstray : strayHead e = none := by
    rw [headFault, hr] at hf
    dsimp only at hf
    unfold actorFault at hf
    split at hf
    · cases hf
    · assumption
  rw [strayHead_eq, List.findSome?_eq_none_iff] at hstray
  have hnone := hstray e.armIn (mem_boundIns.2 ⟨hin, hen⟩)
  have hq : (e.inch e.armIn).q = e.slot e.armIn 0 :: (e.inch e.armIn).q.tail := by
    cases hq : (e.inch e.armIn).q with
    | nil => simp [Elem.slot, hq, CWord.zero, CWord.isCtl] at hctl
    | cons w q => simp [Elem.slot, hq]
  rw [headStray_some hq hctl (Or.inl hmal)] at hnone
  cases hnone

/-- An element with its count, after the `arm` was published where its output is bound. -/
def armed (e : Elem) : Elem :=
  let e' := { e with armc := (e.slot e.armIn 0).arg.toNat }
  match e.armOut with
  | some o => if entEn (e.outch o).ent then e'.push o (CWord.ctl 7 (e.slot e.armIn 0).arg) else e'
  | none => e'

theorem armElem_room (h : ∀ o, BoundArm e o → 1 ≤ (e.outch o).free) :
    armElem s u e = eatPair (s.setUnit (.el u) (armed e)) u e.armIn := by
  unfold armElem armed
  dsimp only
  cases ho : e.armOut with
  | none => rfl
  | some o =>
    dsimp only
    cases hen : entEn (e.outch o).ent with
    | false => rfl
    | true => exact if_neg (Nat.ne_of_gt (h o ⟨ho, hen⟩))

theorem armElem_full {o : Nat} (ho : BoundArm e o) (hfree : (e.outch o).free = 0) : armElem s u e = s := by
  obtain ⟨ho, hen⟩ := ho
  simp [armElem, ho, hen, hfree]

/-- What the count and the publication leave of an element: all but an output. -/
theorem armed_same (e : Elem) : armed e = { e with armc := (e.slot e.armIn 0).arg.toNat, outs := (armed e).outs } := by
  unfold armed
  dsimp only
  split
  · split <;> rfl
  · rfl

theorem armed_sent {o : Nat} (ho : BoundArm e o) (hfree : 1 ≤ (e.outch o).free) :
    Sent (CWord.ctl 7 (e.slot e.armIn 0).arg) (e.outch o) ((armed e).outch o) := by
  obtain ⟨ho, hen⟩ := ho
  have h : armed e = Elem.push { e with armc := (e.slot e.armIn 0).arg.toNat } o (CWord.ctl 7 (e.slot e.armIn 0).arg) := by
    simp only [armed, ho, hen, if_true]
  rw [h]
  exact sent_push (lt_of_bound hen) hfree

theorem armsSection : Claim.ArmsSection := by
  intro s u e hi hd hp w bound
  have hstep := armAction_due hi hd hp
  obtain ⟨he, ha, hb, hr, hf⟩ := hi
  refine ⟨arm_counts hf hr hd, fun hroom => ?taken, fun ⟨o, ho, hfree⟩ => ?waits⟩
  case taken =>
    have hset : (s.setUnit (.el u) (armed e)).elems[u]? = some (armed e) := unit_setUnit (u := .el u) he _
    obtain ⟨e1, he1, heat, hq⟩ := eatPair_at hset e.armIn
    have hsame := heat.same.trans (by rw [armed_same])
    refine ⟨_, e1, by rwa [armElem_room hroom] at hstep, he1, by rw [hsame], fun hno => ?_,
      fun o ho => heat.sent (armed_sent ho (hroom o ho)), by rw [hsame], by rw [hsame], by rw [hsame]; exact hb,
      by rw [eatPair_mem, setUnit_mem]⟩
    have hcmp : ¬ Companion (armed e) e.armIn e.armIn := by rwa [armed_same]
    rw [hq _ hcmp, if_pos rfl, armed_same]
    rfl
  case waits => rwa [armElem_full ho hfree, judgeHeads_quiet he (Or.inr hf)] at hstep

-- Drains and switches (R179, R235, R236) ------------------------------------------------------------------------------------------------------

/-- The action for a kind of an element that may act on its heads. -/
theorem passAction_eq (hi : Idle s u e) (hp : e.parked = false) (k : Nat) :
    passAction s u k = if allHeads e k then passWord s u e k else s := by
  obtain ⟨he, ha, hb, hr, hf⟩ := hi
  simp [passAction, onElem_some he, ha, hb, hr, hp, hf]

/-- An element whose passing waits for nothing but free slots: an AG has no store and no load under way, and no refusal to report. -/
def Quiet (e : Elem) : Prop := phaseHolds e = false ∧ (e.cls = .ag → refusal e = none)

/-- Every bound output has a free slot. -/
def Room (e : Elem) : Prop := ∀ c ∈ e.boundOuts, 1 ≤ (e.outch c).free

/-- The argument of the word that passes: that of the lowest-numbered input (log 20). -/
def passArg (e : Elem) : Lane := (e.slot (e.mainIns.headD 0) 0).arg

/-- The module when a word of a kind has been published and consumed. -/
def passedOn (s : State) (u : Nat) (e : Elem) (k : Nat) : State :=
  e.mainIns.foldl (fun s c => eatPair s u c)
    ((phaseEffect s u e).updElem u fun x => x.publish x.boundOuts (CWord.ctl (BitVec.ofNat 32 k) (passArg e)))

theorem refusal_check (h : e.cls = .ag → refusal e = none) : (if e.cls = .ag then needNoRefusal e else .ok ()) = .ok () := by
  split
  · next hc => rw [needNoRefusal, h hc]
  · rfl

theorem not_room (h : ¬ Room e) : e.boundOuts.any (fun c => (e.outch c).free == 0) = true := by
  simpa [Room] using h

theorem room_any (h : Room e) : e.boundOuts.any (fun c => (e.outch c).free == 0) = false := by
  rw [List.any_eq_false]
  exact fun c hc => by simpa using Nat.ne_of_gt (h c hc)

theorem passWord_holds (h : phaseHolds e = true) (k : Nat) : passWord s u e k = s := by
  rw [passWord, if_pos h]

theorem passWord_full (hq : Quiet e) (h : ¬ Room e) (k : Nat) : passWord s u e k = phaseEffect s u e := by
  unfold passWord
  dsimp only
  rw [hq.1, if_neg Bool.false_ne_true, refusal_check hq.2]
  exact if_pos (not_room h)

theorem passWord_ready (hq : Quiet e) (h : Room e) (k : Nat) : passWord s u e k =
    judgeHeads (if k = 6 then installSwitch (passedOn s u e k) u (passArg e).toNat else passedOn s u e k) u := by
  unfold passWord
  dsimp only
  rw [hq.1, if_neg Bool.false_ne_true, refusal_check hq.2]
  exact if_neg (Bool.eq_false_iff.1 (room_any h))

theorem passWord_refused (hh : phaseHolds e = false) (hc : e.cls = .ag) {p st : Nat} {c : List Nat} (hr : refusal e = some (p, st, c))
    (k : Nat) : passWord s u e k = raiseFault s u e (.tooOld st p (some c)) 0 := by
  unfold passWord
  dsimp only
  rw [hh, if_neg Bool.false_ne_true, if_pos hc, needNoRefusal, hr]
  rfl

theorem phaseEffect_other (h : e.cls ≠ .ag) : phaseEffect s u e = s := if_neg h

/-- The effect of `phase.rgn` leaves of its AG all but its stores, all of which have landed (R179). -/
theorem phaseEffect_at (he : s.elems[u]? = some e) (hh : phaseHolds e = false) :
    ∃ a, (phaseEffect s u e).elems[u]? = some { e with ag := a } ∧ (e.cls = .ag → a.sb = []) := by
  by_cases hc : e.cls = .ag
  · refine ⟨(release s e).2.ag, ?_, fun _ => ?_⟩
    · have hu : u < (release s e).1.elems.length := by
        rw [release_length]
        exact (List.getElem?_eq_some_iff.1 he).1
      rw [phaseEffect, if_pos hc]
      dsimp only
      rw [acquire_elems, setUnit_el_elems, List.getElem?_set_self hu]
      rfl
    · have hacc : ∀ p ∈ e.ag.sb, p.acc = true := by
        simp only [phaseHolds, hc, beq_self_eq_true, Bool.true_and, Bool.not_eq_false', Bool.and_eq_true] at hh
        obtain ⟨⟨hall, -⟩, -⟩ := hh
        exact List.all_eq_true.1 hall
      have hnone : e.ag.sb.filter (fun p => !p.acc) = [] := List.filter_eq_nil_iff.2 fun p hp => by simp [hacc p hp]
      simp [release, hnone, underAll]
  · exact ⟨e.ag, by rw [phaseEffect_other hc]; exact he, fun h => absurd h hc⟩

/-- What a word that passes leaves: it is published on every bound output, and the heads of the inputs are consumed. -/
theorem passedOn_at (he : s.elems[u]? = some e) (hh : phaseHolds e = false) (h : Room e) (k : Nat) :
    ∃ e1, (passedOn s u e k).elems[u]? = some e1 ∧ (∀ c ∈ e.mainIns, (e1.inch c).q = (e.inch c).q.drop 1)
      ∧ (∀ c ∈ e.boundOuts, Sent (CWord.ctl (BitVec.ofNat 32 k) (passArg e)) (e.outch c) (e1.outch c))
      ∧ e1.s = e.s ∧ e1.cls4 = e.cls4 ∧ (e.cls = .ag → e1.ag.sb = []) := by
  obtain ⟨a, hphase, hsb⟩ := phaseEffect_at he hh
  let y := Elem.publish { e with ag := a } e.boundOuts (CWord.ctl (BitVec.ofNat 32 k) (passArg e))
  have hy : y = { e with ag := a, outs := y.outs } := publish_same _ _
  have hsent := (sent_publish (e := { e with ag := a }) (w := CWord.ctl (BitVec.ofNat 32 k) (passArg e)) (List.nodup_range.filter _)
    (fun c hc => (mem_boundOuts.1 hc).1) h).1
  obtain ⟨e1, he1, heat, hq⟩ := eatPairs_at (e := y) nodup_mainIns (updElem_at hphase rfl fun x => x.publish x.boundOuts _)
  have hsame := heat.same.trans (by rw [hy])
  refine ⟨e1, he1, fun c hc => ?_, fun c hc => heat.sent (hsent c hc), ?_, ?_, fun hag => ?_⟩
  · rw [hq c fun b hb hcmp => not_companion_of_mainIns hb hc (by rwa [hy] at hcmp), if_pos hc, hy]
    rfl
  · rw [hsame]
  · rw [hsame]
  · rw [hsame]
    exact hsb hag

theorem passedOn_mem (h : e.cls ≠ .ag) (k : Nat) : (passedOn s u e k).mem = s.mem := by
  rw [passedOn, foldl_mem _ (fun s c => eatPair_mem s u c), updElem_mem, phaseEffect_other h]

/-- Without companions every bound input passes by itself (R32). -/
theorem mainIns_eq (h : ∀ c ∈ e.boundIns, e.hasCmp c = false) : e.mainIns = e.boundIns := by
  refine List.filter_eq_self.2 fun c _ => ?_
  rw [Bool.not_eq_true', List.any_eq_false]
  exact fun w hw => by simp [h w hw]

theorem allHeads_kind {k c : Nat} (h : allHeads e k = true) (hc : c ∈ e.mainIns) : ∃ w, (e.inch c).q.head? = some w ∧ kindOf w = k := by
  rw [allHeads, Bool.and_eq_true, List.all_eq_true] at h
  have hhead := h.2 c hc
  rw [Bool.and_eq_true, beq_iff_eq] at hhead
  exact Option.map_eq_some_iff.1 hhead.1

end

theorem drainAndSwitch : Claim.DrainAndSwitch := by
  intro s u e hi hp arg passed room quiet
  have hpassed (k : Nat) (hq : Quiet e) (hr : Room e) : passed (BitVec.ofNat 32 k) (passedOn s u e k) := by
    obtain ⟨e1, he1, hin, hout, hs, hcls, hsb⟩ := passedOn_at hi.1 hq.1 hr k
    exact ⟨e1, he1, hin, hout, hs, hcls, hsb, fun hc => passedOn_mem hc k⟩
  have hdrain : Steps (.drainAction u) s (if allHeads e 4 then passWord s u e 4 else s) := by
    rw [← passAction_eq hi hp]
    rfl
  have hswitch : Steps (.switchAction u) s (if allHeads e 6 then passWord s u e 6 else s) := by
    rw [← passAction_eq hi hp]
    rfl
  refine ⟨fun hk hq hr => ⟨passedOn s u e 4, ?drained, hpassed 4 hq hr⟩, fun hk hq hr => ⟨passedOn s u e 6, hpassed 6 hq hr, ?installs, ?unnamed⟩,
    fun i k hik hk => ?waits, phaseEffect_other, fun hk => ?noDrain, fun hk => ?noSwitch, fun k hk hcmp => ⟨mainIns_eq hcmp, fun c hc => ?kinds⟩⟩
  case drained => rwa [hk, if_pos rfl, passWord_ready hq hr] at hdrain
  case installs =>
    intro c (hc : Tab.find _ (passArg e).toNat = some c) hlive
    rw [hk, if_pos rfl, passWord_ready hq hr, if_pos rfl, installSwitch, hc] at hswitch
    dsimp only at hswitch
    rwa [if_pos hlive] at hswitch
  case unnamed =>
    intro (hc : Tab.find _ (passArg e).toNat = none)
    rwa [hk, if_pos rfl, passWord_ready hq hr, if_pos rfl, installSwitch, hc] at hswitch
  case waits =>
    have hstep : Steps i s (passWord s u e k) := by
      obtain ⟨rfl, rfl⟩ | ⟨rfl, rfl⟩ := hik
      · rwa [hk, if_pos rfl] at hdrain
      · rwa [hk, if_pos rfl] at hswitch
    refine ⟨fun hh => ?_, fun hq hr => ?_, fun p st c hc hh hr => ?_⟩
    · rwa [passWord_holds hh] at hstep
    · rwa [passWord_full hq hr] at hstep
    · rwa [passWord_refused hh hc hr] at hstep
  case noDrain => rwa [hk] at hdrain
  case noSwitch => rwa [hk] at hswitch
  case kinds => exact allHeads_kind hk (by rwa [mainIns_eq hcmp])

/-- Settles O36: each action by what it publishes and what it consumes. -/
theorem armsDrainAndSwitch : Obligations.ArmsDrainAndSwitch := ⟨armsSection, drainAndSwitch⟩

end Sys2Proof.Machine
end
